-- ==== Sys2Proof/Word.lean ====
section
/-!
DEFINITION. The word types of the GX3 and the sparse table that every numbered collection of the machine uses
(02_execution.md, 03_numbers.md).
-/

namespace Sys2Proof

/-- A 32-bit register or instruction word (R47, R72). -/
abbrev Word := BitVec 32

/-- A 64-bit value: a work identifier, a generator state, a global address (R28, R55, R158). -/
abbrev DWord := BitVec 64

/-- The smallest addressable unit of every store (R47). -/
abbrev Byte := BitVec 8

/-- A numbered collection that lists only the entries in use, in rising order of their numbers. -/
structure Tab (β : Type) where
  entries : List (Nat × β)
  deriving DecidableEq, Repr

namespace Tab

/-- The table with no entry. -/
def empty {β : Type} : Tab β := ⟨[]⟩

/-- The entry of number `k` in a list of numbered entries. -/
def find {β : Type} : List (Nat × β) → Nat → Option β
  | [], _ => none
  | (j, x) :: r, k => if j = k then some x else find r k

/-- Entry `k`, if it is listed. -/
def get? {β : Type} (t : Tab β) (k : Nat) : Option β := find t.entries k

/-- Entry `k`, or `d` where it is not listed. -/
def get {β : Type} (t : Tab β) (k : Nat) (d : β) : β := (t.get? k).getD d

/-- Lists `x` under number `k`, in rising order. -/
def put {β : Type} : List (Nat × β) → Nat → β → List (Nat × β)
  | [], k, x => [(k, x)]
  | (j, y) :: r, k, x =>
    if k < j then (k, x) :: (j, y) :: r
    else if j = k then (k, x) :: r
    else (j, y) :: put r k x

/-- The table with entry `k` set to `x`. -/
def set {β : Type} (t : Tab β) (k : Nat) (x : β) : Tab β := ⟨put t.entries k x⟩

/-- The table without entry `k`. -/
def erase {β : Type} (t : Tab β) (k : Nat) : Tab β := ⟨t.entries.filter (fun e => e.1 != k)⟩

/-- Applies `f` to every listed entry, with its number. -/
def map {β γ : Type} (t : Tab β) (f : Nat → β → γ) : Tab γ := ⟨t.entries.map (fun e => (e.1, f e.1 e.2))⟩

/-- The numbers in use, in rising order. -/
def keys {β : Type} (t : Tab β) : List Nat := t.entries.map (·.1)

/-- The listed entries, in rising order of their numbers. -/
def vals {β : Type} (t : Tab β) : List β := t.entries.map (·.2)

/-- Keeps the entries that satisfy `f`. -/
def filter {β : Type} (t : Tab β) (f : Nat → β → Bool) : Tab β := ⟨t.entries.filter (fun e => f e.1 e.2)⟩

/-- A table from its entries, given in rising order. -/
def ofList {β : Type} (l : List (Nat × β)) : Tab β := ⟨l⟩

end Tab

end Sys2Proof
end

