-- ==== Sys2Proof/Syntax.lean ====
section
/-!
DEFINITION. The instructions of the GX3 and the acts of its other agents, as syntax (05_encoding.md R72 to R103, and the
instruction entries of 06_lane_ops.md to 09_engines.md). One constructor of `Instr` for each row of opcode_table.json:
first the instructions, whose operand structures hold their fields by name, then the events of the engines, the
distributor, the firmware, the host and the management controller.
-/

namespace Sys2Proof

/-- A lane or uniform register number, v0 to v63 or s0 to s63 (R73, R74). -/
abbrev Reg := BitVec 6
/-- A predicate number, p0 to p7 or q0 to q7 (R78). -/
abbrev PReg := BitVec 3
/-- A tile operand a0 to a15 (R78, R194). -/
abbrev TileN := BitVec 4
/-- A channel operand ch0 to ch15 (R78, R169). -/
abbrev ChanN := BitVec 4

/-- The guard: predicate number and inversion (R80). -/
structure Guard where
  g : PReg
  n : Bool
  deriving DecidableEq, Repr

/-- Scope codes 0 to 6 (R3). -/
inductive Scope where
  | lane | cord | blk | clu | die | dev | sys
  deriving DecidableEq, Repr

/-- Rounding modes, rnd codes 0 to 4 (R51). -/
inductive Rnd where
  | rn | rz | rd | ru | sr
  deriving DecidableEq, Repr

/-- Element types, type codes 0 to 14 (R89). -/
inductive Ty where
  | none | s8 | n8 | s16 | n16 | s32 | n32 | s64 | n64 | f32 | bf16 | f16 | e4m3 | e5m2 | q4
  deriving DecidableEq, Repr

/-- Conditions of `icmp`, `scmp` and `fcmp` (R91). -/
inductive Cond where
  | eq | ne | lt | le | gt | ge | un
  deriving DecidableEq, Repr

/-- Operations of `plog` and `splog` (R91). -/
inductive LogOp where
  | and | or | xor | andn
  deriving DecidableEq, Repr

/-- Forms of `vote` (R91, R133). -/
inductive VoteMode where
  | any | all | ballot | eq
  deriving DecidableEq, Repr

/-- Forms of `shfl` (R91, R132). -/
inductive ShflMode where
  | idx | up | down | xor
  deriving DecidableEq, Repr

/-- Operations of `lred` and `lscan` (R91). -/
inductive RedOp where
  | add | min | max | and | or | xor
  deriving DecidableEq, Repr

/-- Branch hints (R75). -/
inductive Hint where
  | none | likely | unlikely | same
  deriving DecidableEq, Repr

/-- Memory spaces of lane accesses (R92). -/
inductive Space where
  | lin | skw | loc | arm
  deriving DecidableEq, Repr

/-- How `ld8` and `ld16` write their destination (R92, R151). -/
inductive LdMode where
  | zx | sx | el
  deriving DecidableEq, Repr

/-- Operations of `atom` and `gatom` (R92, R155). -/
inductive AtomOp where
  | add | mins | minn | maxs | maxn | and | or | xor | xchg | cas | fadd
  deriving DecidableEq, Repr

/-- Operand modes of `ctr` (R173, R196). -/
inductive OpMode where
  | row | skw | col
  deriving DecidableEq, Repr

/-- Element kinds of `mred` and `coll` (R91). -/
inductive RedTy where
  | f32 | s32
  deriving DecidableEq, Repr

/-- The ordering modifiers of an access or operation (R94, R156). -/
structure Ordr where
  acq : Bool
  rel : Bool
  scope : Scope
  deriving DecidableEq, Repr

/-! ### Operand structures of the lane and uniform arithmetic. `u` is the uniform-assertion bit (R60, R81); it is false in
every uniform-set instruction (R74). `wide` says that an S-class instruction carries an X word (R72, R79). -/

/-- Only a guard: `nop`, `snop`. -/
structure ONop where
  gd : Guard
  u : Bool
  wide : Bool
  deriving DecidableEq, Repr

/-- A destination alone: `rng`. -/
structure O1 where
  gd : Guard
  d : Reg
  wide : Bool
  deriving DecidableEq, Repr

/-- Destination and one source. -/
structure O2 where
  gd : Guard
  u : Bool
  d : Reg
  a : Reg
  wide : Bool
  deriving DecidableEq, Repr

/-- Destination and two sources. -/
structure O3 where
  gd : Guard
  u : Bool
  d : Reg
  a : Reg
  b : Reg
  wide : Bool
  deriving DecidableEq, Repr

/-- Destination, one source, a type and saturation: `iabs`, `ineg`. -/
structure O2T where
  gd : Guard
  u : Bool
  d : Reg
  a : Reg
  ty : Ty
  sat : Bool
  wide : Bool
  deriving DecidableEq, Repr

/-- Destination, two sources, a type and saturation: `iadd`, `isub`, `vadd2`, `vsub2`. -/
structure O3T where
  gd : Guard
  u : Bool
  d : Reg
  a : Reg
  b : Reg
  ty : Ty
  sat : Bool
  wide : Bool
  deriving DecidableEq, Repr

/-- Destination, three sources, a type and saturation: `imad`. -/
structure O4T where
  gd : Guard
  u : Bool
  d : Reg
  a : Reg
  b : Reg
  c : Reg
  ty : Ty
  sat : Bool
  deriving DecidableEq, Repr

/-- Destination, three sources: `perm`. -/
structure O4 where
  gd : Guard
  u : Bool
  d : Reg
  a : Reg
  b : Reg
  c : Reg
  deriving DecidableEq, Repr

/-- Destination and a 32-bit immediate: `movi`. -/
structure OI1 where
  gd : Guard
  u : Bool
  d : Reg
  imm : Word
  deriving DecidableEq, Repr

/-- Destination, source and a 32-bit immediate. -/
structure OI2 where
  gd : Guard
  u : Bool
  d : Reg
  a : Reg
  imm : Word
  deriving DecidableEq, Repr

/-- Destination, source and a 5-bit shift amount (R109). -/
structure OSh where
  gd : Guard
  u : Bool
  d : Reg
  a : Reg
  amt : BitVec 5
  deriving DecidableEq, Repr

/-- `bfx` and `bfi` (R110); `wm1` is width - 1. -/
structure OBf where
  gd : Guard
  u : Bool
  d : Reg
  a : Reg
  sx : Bool
  pos : BitVec 5
  wm1 : BitVec 5
  deriving DecidableEq, Repr

/-- `sel` and `ssel` (R116, R137): `sel` names the selector in place of a guard. -/
structure OSel where
  sel : Guard
  u : Bool
  d : Reg
  a : Reg
  b : Reg
  wide : Bool
  deriving DecidableEq, Repr

/-- `lea` (R117). -/
structure OLea where
  gd : Guard
  u : Bool
  d : Reg
  a : Reg
  b : Reg
  sx : Bool
  shift : BitVec 3
  deriving DecidableEq, Repr

/-- `vacs2` (R112). -/
structure OAcs where
  gd : Guard
  u : Bool
  d : Reg
  a : Reg
  b : Reg
  c : Reg
  ty : Ty
  pd : PReg
  deriving DecidableEq, Repr

/-- Compares into a predicate (R113, R122). -/
structure OCmp where
  gd : Guard
  u : Bool
  pd : PReg
  a : Reg
  b : Reg
  ty : Ty
  cond : Cond
  deriving DecidableEq, Repr

/-- Predicate logic (R114). -/
structure OPlog where
  gd : Guard
  u : Bool
  pd : PReg
  pa : PReg
  pb : PReg
  op : LogOp
  deriving DecidableEq, Repr

/-- `pmov`: the register that receives (`.tov`) or supplies (`.frv`) the predicates (R115). -/
structure OPmov where
  gd : Guard
  u : Bool
  r : Reg
  deriving DecidableEq, Repr

/-- `srd` and `ssrd` (R103, R119). -/
structure OSrd where
  gd : Guard
  u : Bool
  d : Reg
  idx : BitVec 8
  deriving DecidableEq, Repr

/-- `sswr` and `swr` (R103, R119, R239). -/
structure OSwr where
  gd : Guard
  idx : BitVec 8
  a : Reg
  deriving DecidableEq, Repr

/-- Floating point on two sources (R120). -/
structure OF3 where
  gd : Guard
  u : Bool
  d : Reg
  a : Reg
  b : Reg
  ty : Ty
  rnd : Rnd
  sat : Bool
  wide : Bool
  deriving DecidableEq, Repr

/-- Floating point on three sources: `ffma`, `hfma2` (R120, R123). -/
structure OF4 where
  gd : Guard
  u : Bool
  d : Reg
  a : Reg
  b : Reg
  c : Reg
  ty : Ty
  rnd : Rnd
  sat : Bool
  deriving DecidableEq, Repr

/-- `fabs`, `fneg` (R120, R121). -/
structure OF2 where
  gd : Guard
  u : Bool
  d : Reg
  a : Reg
  ty : Ty
  wide : Bool
  deriving DecidableEq, Repr

/-- The five functions that approximate (R124). -/
structure OFn where
  gd : Guard
  u : Bool
  d : Reg
  a : Reg
  ty : Ty
  rnd : Rnd
  la : BitVec 4
  deriving DecidableEq, Repr

/-- `hadd2` (R123). -/
structure OHadd where
  gd : Guard
  u : Bool
  d : Reg
  a : Reg
  b : Reg
  ty : Ty
  rnd : Rnd
  sat : Bool
  deriving DecidableEq, Repr

/-- `cvt` (R126). -/
structure OCvt where
  gd : Guard
  u : Bool
  d : Reg
  a : Reg
  t1 : Ty
  t2 : Ty
  el : BitVec 2
  rnd : Rnd
  sat : Bool
  deriving DecidableEq, Repr

/-- `pk4` (R127). -/
structure OPk where
  gd : Guard
  u : Bool
  d : Reg
  a : Reg
  b : Reg
  c : Reg
  ty : Ty
  j : BitVec 2
  rnd : Rnd
  sat : Bool
  deriving DecidableEq, Repr

/-- `upk` (R128). -/
structure OUpk where
  gd : Guard
  u : Bool
  d : Reg
  a : Reg
  b : Reg
  t1 : Ty
  t2 : Ty
  el : BitVec 3
  deriving DecidableEq, Repr

/-- `fpclass` (R129). -/
structure OCls where
  gd : Guard
  u : Bool
  d : Reg
  a : Reg
  ty : Ty
  deriving DecidableEq, Repr

/-- `shfl` (R132). -/
structure OShfl where
  gd : Guard
  d : Reg
  a : Reg
  b : Reg
  mode : ShflMode
  deriving DecidableEq, Repr

/-- `vote` (R133): `d` is a predicate except in `.ballot`, `a` a predicate except in `.eq`. -/
structure OVote where
  gd : Guard
  d : Reg
  a : Reg
  mode : VoteMode
  deriving DecidableEq, Repr

/-- `lred` and `lscan` (R134, R135). -/
structure ORed where
  gd : Guard
  d : Reg
  a : Reg
  op : RedOp
  ty : Ty
  rnd : Rnd
  deriving DecidableEq, Repr

/-! ### Control flow -/

/-- A one-word B-format branch (R75). -/
structure OBr where
  hint : Hint
  gd : Guard
  off : BitVec 17
  deriving DecidableEq, Repr

/-- A two-word B-format branch (R75, R79). -/
structure OBrL where
  hint : Hint
  gd : Guard
  off : BitVec 28
  deriving DecidableEq, Repr

/-- A branch or call through a register (R139, R142). -/
structure OBrx where
  gd : Guard
  a : Reg
  deriving DecidableEq, Repr

/-- `callo` and `acrst`: a 28-bit word offset in the register fields and the X word (R143, R206). -/
structure OLbl where
  gd : Guard
  off : BitVec 28
  deriving DecidableEq, Repr

/-- Only a guard, no uniform assertion: `ret`, `exit`, `brk`, `yield`, `sbrk`. -/
structure OG where
  gd : Guard
  wide : Bool
  deriving DecidableEq, Repr

/-- `frame` (R141). -/
structure OFrame where
  vf : BitVec 6
  sf : BitVec 6
  wide : Bool
  deriving DecidableEq, Repr

/-- `trap` and `strap` (R147, R241). -/
structure OTrap where
  gd : Guard
  code : BitVec 11
  deriving DecidableEq, Repr

/-! ### Memory -/

/-- Lane loads (R151). -/
structure OLd where
  gd : Guard
  u : Bool
  d : Reg
  a : Reg
  imm : BitVec 11
  space : Space
  mode : LdMode
  el : BitVec 2
  acq : Bool
  scope : Scope
  la : BitVec 4
  deriving DecidableEq, Repr

/-- Lane stores (R152). -/
structure OSt where
  gd : Guard
  u : Bool
  a : Reg
  b : Reg
  imm : BitVec 11
  space : Space
  el : BitVec 2
  rel : Bool
  scope : Scope
  la : BitVec 4
  deriving DecidableEq, Repr

/-- `atom` and `gatom` (R155, R161); `gatom` has space `lin`. -/
structure OAtom where
  gd : Guard
  u : Bool
  d : Reg
  a : Reg
  b : Reg
  imm : BitVec 11
  space : Space
  op : AtomOp
  ord : Ordr
  la : BitVec 4
  deriving DecidableEq, Repr

/-- `gld32`, `gld64` (R159). -/
structure OGld where
  gd : Guard
  u : Bool
  d : Reg
  a : Reg
  imm : BitVec 11
  acq : Bool
  scope : Scope
  la : BitVec 4
  deriving DecidableEq, Repr

/-- `gst32`, `gst64` (R160). -/
structure OGst where
  gd : Guard
  u : Bool
  a : Reg
  b : Reg
  imm : BitVec 11
  rel : Bool
  scope : Scope
  la : BitVec 4
  deriving DecidableEq, Repr

/-- `gprf` (R162). -/
structure OGprf where
  gd : Guard
  a : Reg
  b : Reg
  imm : BitVec 11
  la : BitVec 4
  deriving DecidableEq, Repr

/-- `sld32`, `sld64` (R154). -/
structure OSld where
  gd : Guard
  d : Reg
  a : Reg
  imm : BitVec 11
  skw : Bool
  acq : Bool
  scope : Scope
  deriving DecidableEq, Repr

/-- `sst32`, `sst64` (R154). -/
structure OSst where
  gd : Guard
  a : Reg
  b : Reg
  imm : BitVec 11
  skw : Bool
  rel : Bool
  scope : Scope
  deriving DecidableEq, Repr

/-! ### Contraction -/

/-- `ctr` (R196): `map` is the form bit, `shV` says the shape register is a lane register, `j` the scale descriptor. -/
structure OCtr where
  gd : Guard
  tile : TileN
  a : Reg
  b : Reg
  c : Reg
  scope : Scope
  map : Bool
  shV : Bool
  amode : OpMode
  bmode : OpMode
  j : BitVec 4
  prio : BitVec 2
  la : BitVec 4
  deriving DecidableEq, Repr

/-- `ctrskip` (R200). -/
structure OSkip where
  tile : TileN
  a : Reg
  all : Bool
  deriving DecidableEq, Repr

/-- `acz` (R201). -/
structure OAcz where
  gd : Guard
  tile : TileN
  la : BitVec 4
  deriving DecidableEq, Repr

/-- `acrd` (R202): `d` destination, `b` index register. -/
structure OAcrd where
  gd : Guard
  d : Reg
  tile : TileN
  b : Reg
  la : BitVec 4
  deriving DecidableEq, Repr

/-- `acwr` (R202): `a` index register, `b` value register. -/
structure OAcwr where
  gd : Guard
  tile : TileN
  a : Reg
  b : Reg
  la : BitVec 4
  deriving DecidableEq, Repr

/-- `acdrain` (R203). -/
structure ODrain where
  gd : Guard
  tile : TileN
  a : Reg
  b : Reg
  skw : Bool
  ty : Ty
  rnd : Rnd
  sat : Bool
  imm : BitVec 11
  la : BitVec 4
  deriving DecidableEq, Repr

/-- `acaxpy` (R204). -/
structure OAxpy where
  gd : Guard
  tile : TileN
  a : Reg
  b : Reg
  c : Reg
  ty : Ty
  sat : Bool
  la : BitVec 4
  deriving DecidableEq, Repr

/-! ### Synchronisation, queues, channels -/

/-- `bar` (R163): predicate, count register, barrier. -/
structure OBar where
  gd : Guard
  qd : PReg
  a : Reg
  bn : BitVec 4
  deriving DecidableEq, Repr

/-- `barar` (R163). -/
structure OBarar where
  gd : Guard
  a : Reg
  bn : BitVec 4
  deriving DecidableEq, Repr

/-- `barwt` (R163). -/
structure OBarwt where
  gd : Guard
  qd : PReg
  bn : BitVec 4
  deriving DecidableEq, Repr

/-- `fence` (R165). -/
structure OFence where
  gd : Guard
  acq : Bool
  rel : Bool
  scope : Scope
  deriving DecidableEq, Repr

/-- `tktwait` (R166). -/
structure OTkt where
  gd : Guard
  level : BitVec 3
  deriving DecidableEq, Repr

/-- Only a guard, X class: `tktpass`. -/
structure OGX where
  gd : Guard
  deriving DecidableEq, Repr

/-- `evset`, `evclr`, `evwait`, `idle.ev` (R167, R243). -/
structure OEv where
  gd : Guard
  a : Reg
  slice : BitVec 4
  deriving DecidableEq, Repr

/-- `qpop` (R168). -/
structure OQpop where
  gd : Guard
  qd : PReg
  a : Reg
  b : Reg
  imm : BitVec 11
  la : BitVec 4
  deriving DecidableEq, Repr

/-- `qpush` (R168). -/
structure OQpush where
  gd : Guard
  qd : PReg
  a : Reg
  b : Reg
  imm : BitVec 11
  deriving DecidableEq, Repr

/-- `chput` (R169). -/
structure OChput where
  gd : Guard
  ch : ChanN
  a : Reg
  deriving DecidableEq, Repr

/-- `chget` (R169). -/
structure OChget where
  gd : Guard
  ch : ChanN
  a : Reg
  qb : PReg
  la : BitVec 4
  deriving DecidableEq, Repr

/-- `cheos` (R169). -/
structure OCheos where
  gd : Guard
  ch : ChanN
  deriving DecidableEq, Repr

/-! ### Child operations -/

/-- What every issuing instruction of uniform base 0x30 shares: after-token register, `.ord`, priority, lookahead (R93, R213). -/
structure OpMods where
  after : Option Reg
  ordf : Bool
  prio : BitVec 2
  la : BitVec 4
  deriving DecidableEq, Repr

/-- `cpy`, `cpygat`, `wnw` (R213). -/
structure OCpy where
  gd : Guard
  d : Reg
  a : Reg
  b : Reg
  c : Reg
  ord : Ordr
  mods : OpMods
  deriving DecidableEq, Repr

/-- `mred`, `coll` (R222, R224). -/
structure OMred where
  gd : Guard
  d : Reg
  a : Reg
  b : Reg
  c : Reg
  fn : RedTy
  ord : Ordr
  mods : OpMods
  deriving DecidableEq, Repr

/-- `ovlld` (R228). -/
structure OOvl where
  gd : Guard
  d : Reg
  idx : BitVec 8
  mods : OpMods
  deriving DecidableEq, Repr

/-- `ovlevict` (R229). -/
structure OEvict where
  gd : Guard
  idx : BitVec 8
  la : BitVec 4
  deriving DecidableEq, Repr

/-- A token operand: `opwait`, `ovlrel`, `opcancel` (R230). -/
structure OTok where
  gd : Guard
  a : Reg
  la : BitVec 4
  deriving DecidableEq, Repr

/-- `optest` (R231). -/
structure OTest where
  gd : Guard
  qd : PReg
  a : Reg
  la : BitVec 4
  deriving DecidableEq, Repr

/-- `opseal` (R216). -/
structure OSeal where
  gd : Guard
  la : BitVec 4
  deriving DecidableEq, Repr

/-- `opwaitb` (R232). -/
structure OWaitb where
  gd : Guard
  n : BitVec 6
  la : BitVec 4
  deriving DecidableEq, Repr

/-- `opdetach` (R235). -/
structure ODet where
  gd : Guard
  a : Reg
  b : Reg
  la : BitVec 4
  deriving DecidableEq, Repr

/-- `opstat` (R234). -/
structure OStat where
  gd : Guard
  d : Reg
  a : Reg
  b : Reg
  la : BitVec 4
  deriving DecidableEq, Repr

/-- `opprio` (R234). -/
structure OPrio where
  gd : Guard
  a : Reg
  p : BitVec 2
  la : BitVec 4
  deriving DecidableEq, Repr

/-- `opadopt` (R236): destination and even pair. -/
structure OAdopt where
  gd : Guard
  d : Reg
  a : Reg
  deriving DecidableEq, Repr

/-- `spawn` (R238). -/
structure OSpawn where
  gd : Guard
  a : Reg
  b : Reg
  c : Reg
  slice : BitVec 4
  cls : BitVec 4
  la : BitVec 4
  deriving DecidableEq, Repr

/-! ### Arguments of the events -/

/-- A resident cord: core (die * 64 + core in the die), block slot, cord index (R298, R251). -/
structure CordRef where
  core : Nat
  slot : Nat
  cord : Nat
  deriving DecidableEq, Repr

/-- A write of one tree: a router byte, or the time-out (R305). -/
inductive TreeWrite where
  | byte (router : Nat) (b : Byte)
  | timeout (w : Word)
  deriving DecidableEq, Repr

/-- Whose tree is written: a die's combine tree or a system tree (R305, R224). -/
inductive TreeOwner where
  | die (d : Nat)
  | system
  deriving DecidableEq, Repr

/-- A Reed link between two devices of the system, by their numbers in the system trees, and the number of the link at each. -/
structure Wire where
  dev : Nat
  link : Nat
  dev' : Nat
  link' : Nat
  deriving DecidableEq, Repr

/-- The firmware writes with no row of their own (R303, R307, R324, R296, R338, R341, R265, R316). -/
inductive FwWrite where
  | queueDescriptor (q : Nat) (w : BitVec 128)
  | contextRoot (ctx : Nat) (addr : Nat)
  | contextPart (ctx : Nat) (part : Nat)
  | faultRing (ctx : Nat) (addr : Nat) (size : Nat)
  | overflowRing (ctx : Nat) (size : Nat)
  | peerLinks (peer : Nat) (links : BitVec 24)
  /-- The number of this device in the system trees, and how Reed links join the devices (log entry 28, DESIGN CHOICE). -/
  | fabric (self : Nat) (wires : List Wire)
  | clearLineError (die : Nat) (line : Nat)
  | linkMask (w : BitVec 24)
  | powerCeiling (watts : Nat)
  | dmaWindow (i : Nat) (base : Nat) (len : Nat) (r w : Bool)
  | perfSelect (core : Nat) (i : Nat) (ev : Nat)
  deriving DecidableEq, Repr

/-- A host or peer access to device memory (R335, R277). -/
inductive OutsideAccess where
  | read (addr : Nat) (len : Nat)
  | write (addr : Nat) (bytes : List Byte)
  | add (addr : Nat) (x : Word)
  deriving DecidableEq, Repr

/-- What the context rung serves: a cord, or an operation of a core (R324, R237). -/
inductive RungSource where
  | cord (c : CordRef)
  | op (core : Nat) (entry : Nat)
  deriving DecidableEq, Repr

/-- The packet of another device in a system-tree reduction (R224). A failed reduction sends its cause and address in place of
elements. -/
structure CollPacket where
  link : Nat
  fn : RedTy
  elems : List Word
  fail : Option (Byte × Nat)
  deriving DecidableEq, Repr

/-- A firmware image with its signature, as the mailbox or the boot medium holds it (R342). -/
structure Image where
  body : List Byte
  sig : List Byte
  deriving DecidableEq, Repr

/-- The configuration record of R342: partitions (clusters and stacks of each), power ceiling, DMA windows, spare-core remaps. -/
structure ConfigRecord where
  partitions : List (List Nat × List Nat)
  ceiling : Nat
  windows : List (Nat × Nat × Bool × Bool)
  remaps : List (Nat × Nat)
  deriving DecidableEq, Repr

/-- Which counter the host reads (R340, R311). -/
inductive ErrCounter where
  | correctable (core : Nat) (array : Nat)
  | stack (n : Nat)
  | queue (q : Nat)
  | suppressed (plinth : Nat)
  | midLevel (die : Nat)
  | queueArray (die : Nat)
  deriving DecidableEq, Repr

/-- What the sensors read (R340) besides temperatures: currents, and the power that the device draws. -/
structure PowerSample where
  currents : List Nat
  watts : Nat
  deriving DecidableEq, Repr

/-- What an SPDM request asks for (R343): measurements, signed, or bytes of the certificate chain. -/
inductive AttestRequest where
  | measurements (idx : List Nat) (context : List Byte)
  | certificate (offset len : Nat)
  deriving DecidableEq, Repr

/-- The instructions of the opcode maps (R87, R88), then the events of the table's rows 191 to 250. -/
inductive Instr where
  | nop (o : ONop) | mov (o : O2) | movi (o : OI1) | iadd (o : O3T) | isub (o : O3T) | iaddi (o : OI2)
  | imul (o : O3) | imulhs (o : O3) | imulhn (o : O3) | imad (o : O4T)
  | imins (o : O3) | iminn (o : O3) | imaxs (o : O3) | imaxn (o : O3) | iabs (o : O2T) | ineg (o : O2T)
  | and (o : O3) | or (o : O3) | xor (o : O3) | andn (o : O3) | andi (o : OI2) | ori (o : OI2) | xori (o : OI2)
  | shl (o : O3) | shrl (o : O3) | shra (o : O3) | shli (o : OSh) | shrli (o : OSh) | shrai (o : OSh)
  | bfx (o : OBf) | bfi (o : OBf) | popc (o : O2) | clz (o : O2) | brev (o : O2) | sel (o : OSel) | lea (o : OLea)
  | vadd2 (o : O3T) | vsub2 (o : O3T) | vmax2s (o : O3) | vmax2n (o : O3) | vmin2s (o : O3) | vmin2n (o : O3)
  | vacs2 (o : OAcs) | icmp (o : OCmp) | plog (o : OPlog) | pmovTov (o : OPmov) | pmovFrv (o : OPmov)
  | rng (o : O1) | srd (o : OSrd)
  | fadd (o : OF3) | fsub (o : OF3) | fmul (o : OF3) | ffma (o : OF4) | fmin (o : OF3) | fmax (o : OF3)
  | fabs (o : OF2) | fneg (o : OF2) | fcmp (o : OCmp)
  | frcp (o : OFn) | frsq (o : OFn) | fsqrt (o : OFn) | fexp2 (o : OFn) | flog2 (o : OFn)
  | hfma2 (o : OF4) | hadd2 (o : OHadd) | cvt (o : OCvt) | pk4 (o : OPk) | upk (o : OUpk) | fpclass (o : OCls)
  | perm (o : O4) | shfl (o : OShfl) | vote (o : OVote) | lred (o : ORed) | lscan (o : ORed)
  | bra (o : OBr) | braLong (o : OBrL) | brx (o : OBrx) | call (o : OBr) | callLong (o : OBrL) | callx (o : OBrx)
  | callo (o : OLbl) | ret (o : OG) | exit (o : OG) | rjoin | frame (o : OFrame) | trap (o : OTrap) | brk (o : OG)
  | ld8 (o : OLd) | ld16 (o : OLd) | ld32 (o : OLd) | ld64 (o : OLd) | ld128 (o : OLd)
  | st8 (o : OSt) | st16 (o : OSt) | st32 (o : OSt) | st64 (o : OSt) | st128 (o : OSt)
  | atom (o : OAtom) | gld32 (o : OGld) | gld64 (o : OGld) | gst32 (o : OGst) | gst64 (o : OGst) | gatom (o : OAtom)
  | gprf (o : OGprf)
  | ctr (o : OCtr) | ctrskip (o : OSkip) | acz (o : OAcz) | acrd (o : OAcrd) | acwr (o : OAcwr)
  | acdrain (o : ODrain) | acaxpy (o : OAxpy) | acrst (o : OLbl) | spawn (o : OSpawn) | swr (o : OSwr)
  | snop (o : ONop) | smov (o : O2) | smovi (o : OI1) | sadd (o : O3T) | ssub (o : O3T) | saddi (o : OI2)
  | smul (o : O3) | smad (o : O4T) | smins (o : O3) | smaxs (o : O3) | sminn (o : O3) | smaxn (o : O3)
  | sand (o : O3) | sor (o : O3) | sxor (o : O3) | sandi (o : OI2) | sori (o : OI2)
  | sshl (o : O3) | sshrl (o : O3) | sshra (o : O3) | sshli (o : OSh) | sshrli (o : OSh)
  | scmp (o : OCmp) | splog (o : OPlog) | ssel (o : OSel) | spopc (o : O2)
  | sld32 (o : OSld) | sst32 (o : OSst) | sld64 (o : OSld) | sst64 (o : OSst) | ssrd (o : OSrd) | sswr (o : OSwr)
  | sbra (o : OBr) | sbraLong (o : OBrL) | sbrx (o : OBrx)
  | bar (o : OBar) | barar (o : OBarar) | barwt (o : OBarwt) | fence (o : OFence)
  | tktwait (o : OTkt) | tktpass (o : OGX) | evset (o : OEv) | evclr (o : OEv) | evwait (o : OEv)
  | qpop (o : OQpop) | qpush (o : OQpush) | chput (o : OChput) | chget (o : OChget) | cheos (o : OCheos)
  | cpyIn (o : OCpy) | cpyOut (o : OCpy) | cpyCk (o : OCpy) | cpyCkc (o : OCpy) | cpyIna (o : OCpy) | cpyOuta (o : OCpy)
  | cpygat (o : OCpy) | mred (o : OMred) | coll (o : OMred) | wnw (o : OCpy) | ovlld (o : OOvl) | ovlrel (o : OTok)
  | ovlevict (o : OEvict) | opwait (o : OTok) | optest (o : OTest) | opseal (o : OSeal) | opwaitb (o : OWaitb)
  | opcancel (o : OTok) | opdetach (o : ODet) | opstat (o : OStat) | opprio (o : OPrio) | opadopt (o : OAdopt)
  | hret (o : OBrx) | yield (o : OG) | strap (o : OTrap) | sbrk (o : OG) | idleQ (o : OBrx) | idleEv (o : OEv)
  /-- A host doorbell of a launch-mode queue (R283). -/
  | doorbell (q : Nat) (v : DWord)
  /-- A host doorbell of a device-mode queue (R295). -/
  | deviceQueueDoorbell (q : Nat) (v : DWord)
  /-- The distributor takes the packet at the head of a queue (R284). -/
  | launchPacket (q : Nat)
  /-- The distributor takes a header registration at the head of a queue (R285). -/
  | registerHeader (q : Nat)
  | bindRecordWrite (die i : Nat) (w : BitVec 256)
  | combineTreeWrite (owner : TreeOwner) (tree : Nat) (w : TreeWrite)
  | firmwareRegisterWrite (w : FwWrite)
  | tlbInvalidate (ctx lo hi : Nat)
  | blockReservation (die : Nat)
  | coResidentPlacement (launch : Nat)
  | blockStart (core slot : Nat)
  | blockExit (core slot : Nat)
  | launchCompletion (launch : Nat)
  /-- The `i`-th long-latency instruction in flight of the cord completes (R61). -/
  | longLatencyCompletion (c : CordRef) (i : Nat)
  /-- The `i`-th gather access in flight of the cord receives its data (R159). -/
  | gatherDataArrival (c : CordRef) (i : Nat)
  | handlerEntry (c : CordRef)
  | handlerTimeout (src : RungSource)
  | contextRung (src : RungSource)
  | opStart (core entry : Nat)
  | opFinish (core entry : Nat)
  | opSuspend (core entry : Nat)
  | opReplay (core entry : Nat)
  | opEndFailed (core entry : Nat)
  /-- The array adds the next group of the instance in slot `i` of a physical tile (R183, R184). -/
  | contractionGroup (core tile i : Nat)
  /-- The router of a core combines the packets of one reduction (R222). -/
  | mredPacketArrival (die tree id router : Nat)
  | mredTimeout (die tree id router : Nat)
  /-- A packet of a system-tree reduction arrives, or the device combines what it holds (R224). -/
  | collPacketArrival (tree id : Nat) (pkt : Option CollPacket)
  | collTimeout (tree id missing : Nat)
  | overlayDigestCheck (core rec : Nat)
  | codePageReload (core page : Nat) (ok : Bool)
  | ticketFrontierUpdate (launch : Nat)
  | taskCordFormation (die cluster : Nat)
  | taskReadyTimeout (die cluster : Nat)
  | preemptRequest (core slot : Nat)
  | drainTimeout (core slot : Nat)
  | contextSave (core slot : Nat)
  | contextRestore (die : Nat)
  | deviceReset
  | powerAlarm
  | powerAlarmClear
  | sensorSample (temps : List Nat) (p : PowerSample)
  | patrolScrub (stack : Nat)
  | meshFlitRetry (core entry : Nat) (ok : Bool)
  | linkFlitReplay (link : Nat) (ok : Bool)
  | linkRetrain (link : Nat) (ok : Bool)
  | cxlLinkTraining (width rate : Nat) (ide : Bool)
  | hostMemAccess (a : OutsideAccess)
  | peerAccess (peer : Nat) (a : OutsideAccess)
  | localLineWriteback (core i : Nat)
  /-- Fetch issues a word that is no instruction (R83, R85). -/
  | notAnInstruction (w : Word)
  | unitBoundary (core entry : Nat)
  /-- The `i`-th access in flight of the cord, a gst or gatom, is performed at its home (R160, R161). -/
  | gatherPerformed (c : CordRef) (i : Nat)
  | partitionReset (p : Nat)
  | partitionUpdate (p : Nat)
  | partitionRepair (p core : Nat)
  /-- Boot finds two firmware images, and a configuration record with its signature (R342). -/
  | deviceBoot (mgmt harts : Image) (record sig : List Byte)
  | firmwareUpdateStage (img : Image)
  /-- A request, with the requester's nonce, which measurements carry (R343). -/
  | getMeasurements (q : AttestRequest) (nonce : List Byte)
  | perfCounterRead (core i : Nat)
  | errorCounterRead (c : ErrCounter)
  deriving DecidableEq, Repr

end Sys2Proof
end

