-- ==== Sys2Proof/WellFormed.lean ====
section
/-!
DEFINITION. Which instruction terms the encoding allows: the conditions of R83 (05_encoding.md) that the operand
structures do not already rule out, each under the name of its row. A term that breaks one raises ILLEGAL when its
words are fetched, so the decoder refuses it under that name.
-/

namespace Sys2Proof

/-- Why a word is no instruction (R83), one name for each row of its table. -/
inductive Illegal where
  | reservedOpcode      -- R87, R88
  | noExtension         -- R72: [30] = 0 on an X-class or I-class opcode
  | reservedField       -- R74, R78, R79
  | register            -- R78: odd pair or unaligned quad
  | lookahead           -- R61
  | scope               -- R3, R156, R275
  | rounding            -- R51
  | saturation          -- R53, R108, R111
  | uniform             -- R56, R81
  | code                -- R89 to R92
  | frame               -- R62, R141
  | level               -- R31
  | specialRegister     -- R103
  | guardForm           -- R146, R195
  deriving DecidableEq, Repr

/-- The first condition of a list that fails gives the reason. -/
def firstBad : List (Bool × Illegal) → Option Illegal
  | [] => none
  | (ok, e) :: r => if ok then firstBad r else some e

/-- An even register number (R78). -/
def evenReg (r : Reg) : Bool := r.toNat % 2 == 0

/-- A register number that is a multiple of 4 (R78). -/
def quadReg (r : Reg) : Bool := r.toNat % 4 == 0

namespace Ty

/-- The 64-bit integer types. -/
def is64 : Ty → Bool
  | .s64 | .n64 => true
  | _ => false

/-- Width in bits of a value of the type (R41, R46, R48). -/
def width : Ty → Nat
  | .none => 32
  | .s8 | .n8 | .e4m3 | .e5m2 => 8
  | .s16 | .n16 | .bf16 | .f16 => 16
  | .s32 | .n32 | .f32 => 32
  | .s64 | .n64 => 64
  | .q4 => 4

/-- The floating-point formats of R41. -/
def isFloat : Ty → Bool
  | .f32 | .bf16 | .f16 | .e4m3 | .e5m2 => true
  | _ => false

/-- The integer types of R46. -/
def isInt : Ty → Bool
  | .s8 | .n8 | .s16 | .n16 | .s32 | .n32 | .s64 | .n64 => true
  | _ => false

/-- The signed integer types. -/
def isSigned : Ty → Bool
  | .s8 | .s16 | .s32 | .s64 => true
  | _ => false

end Ty

/-- The pair rule for a type: with a 64-bit type the register is even (R78, R108). -/
def pairOk (ty : Ty) (r : Reg) : Bool := !ty.is64 || evenReg r

/-- A one-word S-class instruction carries no modifier (R72, R79). -/
def bareOk (wide bare : Bool) : Bool := wide || bare

/-- In the uniform set the u bit is 0 (R74). -/
def uOk (uniformSet u : Bool) : Bool := !uniformSet || !u

def ONop.check (us : Bool) (o : ONop) : Option Illegal := firstBad [(uOk us o.u, .reservedField)]
def O2.check (us : Bool) (o : O2) : Option Illegal := firstBad [(uOk us o.u, .reservedField)]
def O3.check (us : Bool) (o : O3) : Option Illegal := firstBad [(uOk us o.u, .reservedField)]
def OI1.check (us : Bool) (o : OI1) : Option Illegal := firstBad [(uOk us o.u, .reservedField)]
def OI2.check (us : Bool) (o : OI2) : Option Illegal := firstBad [(uOk us o.u, .reservedField)]
def OSh.check (us : Bool) (o : OSh) : Option Illegal := firstBad [(uOk us o.u, .reservedField)]
def OSel.check (us : Bool) (o : OSel) : Option Illegal := firstBad [(uOk us o.u, .reservedField)]
def OPlog.check (us : Bool) (o : OPlog) : Option Illegal := firstBad [(uOk us o.u, .reservedField)]

/-- `iadd`, `isub` and their uniform forms (R108). -/
def O3T.checkAdd (us : Bool) (o : O3T) : Option Illegal :=
  firstBad [(uOk us o.u, .reservedField),
    (o.ty == .none || o.ty == .s32 || o.ty == .n32 || o.ty.is64, .code),
    (!o.sat || o.ty != .none, .saturation),
    (pairOk o.ty o.d && pairOk o.ty o.a && pairOk o.ty o.b, .register),
    (bareOk o.wide (o.ty == .none && !o.sat), .noExtension)]

/-- `vadd2`, `vsub2`: a type exactly with `.sat` (R111). -/
def O3T.checkPacked (o : O3T) : Option Illegal :=
  firstBad [(o.ty == .none || o.ty == .s16 || o.ty == .n16, .code),
    ((o.ty != .none) == o.sat, .saturation),
    (bareOk o.wide (o.ty == .none && !o.sat), .noExtension)]

/-- `imad`, `smad` (R108). -/
def O4T.check (us : Bool) (o : O4T) : Option Illegal :=
  firstBad [(uOk us o.u, .reservedField),
    (o.ty == .none || o.ty == .s32 || o.ty == .n32, .code),
    (!o.sat || o.ty != .none, .saturation)]

/-- `iabs`, `ineg` (R108). -/
def O2T.check (o : O2T) : Option Illegal :=
  firstBad [(o.ty == .none || o.ty == .s32, .code), (!o.sat || o.ty == .s32, .saturation),
    (bareOk o.wide (o.ty == .none && !o.sat), .noExtension)]

/-- `bfx`: the field lies inside the register; `bfi` also has s = 0 (R110). -/
def OBf.check (ins : Bool) (o : OBf) : Option Illegal :=
  firstBad [(decide (o.pos.toNat + o.wm1.toNat + 1 ≤ 32), .code), (!ins || !o.sx, .code)]

/-- `lea` (R117). -/
def OLea.check (o : OLea) : Option Illegal := firstBad [(evenReg o.d && evenReg o.a, .register)]

/-- `vacs2` (R112). -/
def OAcs.check (o : OAcs) : Option Illegal :=
  firstBad [(o.ty == .s16 || o.ty == .n16, .code), (o.pd.toNat % 2 == 0, .code)]

/-- `icmp`, `scmp` (R113). -/
def OCmp.checkInt (us : Bool) (o : OCmp) : Option Illegal :=
  firstBad [(uOk us o.u, .reservedField), (o.ty == .s32 || o.ty == .n32 || o.ty.is64, .code),
    (o.cond != .un, .code), (pairOk o.ty o.a && pairOk o.ty o.b, .register)]

/-- `fcmp` (R122). -/
def OCmp.checkFloat (o : OCmp) : Option Illegal := firstBad [(o.ty == .none || o.ty == .f32, .code)]

/-- The special registers held per lane (R102). -/
def perLaneSr : List Nat := [0x00, 0x04, 0x05, 0x06, 0x10, 0x11, 0x17, 0x18, 0x25]

/-- `srd` reads every listed index, `ssrd` those not held per lane (R103). -/
def OSrd.check (us : Bool) (o : OSrd) : Option Illegal :=
  firstBad [(uOk us o.u, .reservedField), (decide (o.idx.toNat ≤ 0x26), .specialRegister),
    (!us || !perLaneSr.contains o.idx.toNat, .specialRegister)]

/-- `sswr` writes the indices marked `sswr` in R102. -/
def OSwr.checkS (o : OSwr) : Option Illegal :=
  firstBad [([0x15, 0x16, 0x19, 0x1C, 0x1D, 0x1E].contains o.idx.toNat, .specialRegister)]

/-- `swr` writes sr.pc, sr.state and sr.joinm (R103). -/
def OSwr.checkL (o : OSwr) : Option Illegal :=
  firstBad [([0x10, 0x11, 0x14].contains o.idx.toNat, .specialRegister)]

/-- The uniform assertion and stochastic rounding exclude each other (R56). -/
def srOk (u : Bool) (r : Rnd) : Bool := !(u && r == .sr)

/-- `fadd`, `fsub`, `fmul` (R120). -/
def OF3.check (o : OF3) : Option Illegal :=
  firstBad [(o.ty == .none || o.ty == .f32, .code), (srOk o.u o.rnd, .uniform),
    (bareOk o.wide (o.ty == .none && o.rnd == .rn && !o.sat), .noExtension)]

/-- `fmin`, `fmax`: neither rounding nor saturation (R120). -/
def OF3.checkMin (o : OF3) : Option Illegal :=
  firstBad [(o.ty == .none || o.ty == .f32, .code), (o.rnd == .rn, .rounding), (!o.sat, .saturation),
    (bareOk o.wide (o.ty == .none), .noExtension)]

/-- `ffma` (R120). -/
def OF4.checkFma (o : OF4) : Option Illegal :=
  firstBad [(o.ty == .none || o.ty == .f32, .code), (srOk o.u o.rnd, .uniform)]

/-- `hfma2` (R123). -/
def OF4.checkHalf (o : OF4) : Option Illegal :=
  firstBad [(o.ty == .bf16 || o.ty == .f16, .code), (srOk o.u o.rnd, .uniform)]

/-- `hadd2` (R123). -/
def OHadd.check (o : OHadd) : Option Illegal :=
  firstBad [(o.ty == .bf16 || o.ty == .f16, .code), (srOk o.u o.rnd, .uniform)]

/-- `fabs`, `fneg` (R120). -/
def OF2.check (o : OF2) : Option Illegal :=
  firstBad [(o.ty == .none || o.ty == .f32, .code), (bareOk o.wide (o.ty == .none), .noExtension)]

/-- The functions that approximate: `fsqrt` takes every rounding, the others only rnd 0 (R124). -/
def OFn.check (sqrt : Bool) (o : OFn) : Option Illegal :=
  firstBad [(o.ty == .none || o.ty == .f32, .code), (sqrt || o.rnd == .rn, .rounding), (srOk o.u o.rnd, .uniform)]

/-- `cvt` (R126). -/
def OCvt.check (o : OCvt) : Option Illegal :=
  firstBad [((o.t1.isFloat || o.t1.isInt) && (o.t2.isFloat || o.t2.isInt) && o.t1 != o.t2, .code),
    (if o.t1.width == 8 then true else if o.t1.width == 16 then decide (o.el.toNat < 2) else o.el.toNat == 0, .code),
    (!(o.t1.isInt && o.t2.isInt) || o.rnd == .rn, .rounding),
    (srOk o.u o.rnd, .uniform), (pairOk o.t1 o.d && pairOk o.t2 o.a, .register)]

/-- `pk4` (R127). -/
def OPk.check (o : OPk) : Option Illegal :=
  firstBad [(o.ty == .e4m3 || o.ty == .e5m2 || o.ty == .s8 || o.ty == .n8 || o.ty == .q4, .code),
    (o.ty == .q4 || decide (o.j.toNat < 2), .code), (o.ty == .q4 || o.c == 0, .reservedField), (srOk o.u o.rnd, .uniform)]

/-- `upk` (R128). -/
def OUpk.check (o : OUpk) : Option Illegal :=
  firstBad [((o.t1 == .f32 && (o.t2 == .e4m3 || o.t2 == .e5m2 || o.t2 == .bf16 || o.t2 == .f16 || o.t2 == .q4)) ||
      (o.t1 == .s32 && (o.t2 == .s8 || o.t2 == .s16)) || (o.t1 == .n32 && (o.t2 == .n8 || o.t2 == .n16)), .code),
    (decide (o.el.toNat * o.t2.width < 32), .code), (o.t2 == .q4 || o.b == 0, .reservedField)]

/-- `fpclass` (R129). -/
def OCls.check (o : OCls) : Option Illegal := firstBad [(o.ty.isFloat, .code)]

/-- `vote`: predicate operands use three bits (R78, R133). -/
def OVote.check (o : OVote) : Option Illegal :=
  firstBad [(o.mode == .ballot || decide (o.d.toNat < 8), .reservedField),
    (o.mode == .eq || decide (o.a.toNat < 8), .reservedField)]

/-- The type and rounding of a reduction or scan (R134, R135). -/
def ORed.typeOk (o : ORed) : Bool :=
  match o.op with
  | .add | .min | .max => o.ty == .s32 || o.ty == .n32 || o.ty == .f32
  | .and | .or | .xor => o.ty == .none

/-- `lred` (R134): rounding only for `.add.f32`, and never stochastic; a rounding on what does not round is ILLEGAL (log entry 96, DESIGN
CHOICE). -/
def ORed.check (o : ORed) : Option Illegal :=
  firstBad [(o.typeOk, .code), (o.rnd == .rn || (o.op == .add && o.ty == .f32 && o.rnd != .sr), .rounding)]

/-- `lscan` (R135), its rounding like that of `lred` (log entry 96, DESIGN CHOICE). -/
def ORed.checkScan (o : ORed) : Option Illegal :=
  firstBad [(o.op == .add || o.op == .min || o.op == .max, .code), (o.typeOk, .code),
    (o.rnd == .rn || (o.op == .add && o.ty == .f32 && o.rnd != .sr), .rounding)]

/-- `frame` (R62, R141). -/
def OFrame.check (o : OFrame) : Option Illegal := firstBad [(decide (o.vf.toNat ≤ 48 ∧ o.sf.toNat ≤ 48), .frame)]

/-- An access modifier has a scope from 1 to 6, and a scope has a modifier (R156). -/
def ordOk (m : Bool) (s : Scope) : Bool := m == (s != .lane)

/-- The scopes at least as wide as the die (R275). -/
def Scope.wideAsDie : Scope → Bool
  | .die | .dev | .sys => true
  | _ => false

/-- An armature access with a modifier names die scope or wider (R275). -/
def armOk (sp : Space) (m : Bool) (s : Scope) : Bool := !(sp == .arm && m) || s.wideAsDie

/-- `ld8` to `ld128`, of `z` bytes (R92, R151, R156). -/
def OLd.check (z : Nat) (o : OLd) : Option Illegal :=
  firstBad [(ordOk o.acq o.scope && armOk o.space o.acq o.scope, .scope),
    (o.mode == .zx || decide (z ≤ 2), .code),
    (if o.mode == .el then decide (o.el.toNat * z < 4) else o.el.toNat == 0, .code),
    (if z == 16 then quadReg o.d else if z == 8 then evenReg o.d else true, .register)]

/-- `st8` to `st128`, of `z` bytes (R92, R152, R156). -/
def OSt.check (z : Nat) (o : OSt) : Option Illegal :=
  firstBad [(ordOk o.rel o.scope && armOk o.space o.rel o.scope, .scope),
    (if z ≤ 2 then decide (o.el.toNat * z < 4) else o.el.toNat == 0, .code),
    (if z == 16 then quadReg o.b else if z == 8 then evenReg o.b else true, .register)]

/-- `atom` (R155, R156, R275). -/
def OAtom.check (o : OAtom) : Option Illegal :=
  firstBad [(ordOk (o.ord.acq || o.ord.rel) o.ord.scope && armOk o.space (o.ord.acq || o.ord.rel) o.ord.scope, .scope)]

/-- `gatom`: space 0 and an even address register (R92, R158). -/
def OAtom.checkG (o : OAtom) : Option Illegal :=
  firstBad [(ordOk (o.ord.acq || o.ord.rel) o.ord.scope, .scope), (o.space == .lin, .code), (evenReg o.a, .register)]

/-- `gld32`, `gld64` (R158, R159). -/
def OGld.check (z : Nat) (o : OGld) : Option Illegal :=
  firstBad [(ordOk o.acq o.scope, .scope), (evenReg o.a && (z == 4 || evenReg o.d), .register)]

/-- `gst32`, `gst64` (R158, R160). -/
def OGst.check (z : Nat) (o : OGst) : Option Illegal :=
  firstBad [(ordOk o.rel o.scope, .scope), (evenReg o.a && (z == 4 || evenReg o.b), .register)]

/-- `gprf` (R162). -/
def OGprf.check (o : OGprf) : Option Illegal := firstBad [(evenReg o.a, .register)]

/-- `sld32`, `sld64` (R154). -/
def OSld.check (z : Nat) (o : OSld) : Option Illegal :=
  firstBad [(ordOk o.acq o.scope, .scope), (z == 4 || evenReg o.d, .register)]

/-- `sst32`, `sst64` (R154). -/
def OSst.check (z : Nat) (o : OSst) : Option Illegal :=
  firstBad [(ordOk o.rel o.scope, .scope), (z == 4 || evenReg o.b, .register)]

/-- `ctr`: scope cord or block (R196). -/
def OCtr.check (o : OCtr) : Option Illegal := firstBad [(o.scope == .cord || o.scope == .blk, .scope)]

/-- `ctrskip`: the `.all` form has no count register, so its field a holds 0 (R200, R83; log entry 26, DEDUCED). -/
def OSkip.check (o : OSkip) : Option Illegal := firstBad [(!o.all || o.a == 0, .reservedField)]

/-- `acdrain` (R203). -/
def ODrain.check (o : ODrain) : Option Illegal :=
  firstBad [(o.ty.isFloat || o.ty == .s32 || o.ty == .s8, .code), (o.rnd == .rn || o.rnd == .sr, .rounding),
    (o.ty.isFloat || o.rnd == .rn, .rounding)]

/-- `acaxpy` (R204). -/
def OAxpy.check (o : OAxpy) : Option Illegal := firstBad [(o.ty.isFloat, .code)]

/-- `fence`: a bit and a scope from 1 to 6 (R165). -/
def OFence.check (o : OFence) : Option Illegal :=
  firstBad [((o.acq || o.rel) && o.scope != .lane, .scope)]

/-- `tktwait`: level 2 to 5 (R31, R166). -/
def OTkt.check (o : OTkt) : Option Illegal := firstBad [(decide (2 ≤ o.level.toNat ∧ o.level.toNat ≤ 5), .level)]

/-- Ordering modifiers of a child operation (R213). -/
def OCpy.ordOk (o : OCpy) : Bool := Sys2Proof.ordOk (o.ord.acq || o.ord.rel) o.ord.scope

/-- Which fields of a copy are pairs, quads or tiles (R217, R220, R225; log entry 27, DEDUCED for tiles): a, b, c tests. -/
def OCpy.check (fa fb fc : Reg → Bool) (tileA tileB : Bool) (o : OCpy) : Option Illegal :=
  firstBad [(o.ordOk, .scope), (fa o.a && fb o.b && fc o.c, .register),
    (!tileA || decide (o.a.toNat < 16), .reservedField), (!tileB || decide (o.b.toNat < 16), .reservedField)]

/-- `mred`, `coll` (R213). -/
def OMred.check (o : OMred) : Option Illegal :=
  firstBad [(Sys2Proof.ordOk (o.ord.acq || o.ord.rel) o.ord.scope, .scope)]

/-- `opwaitb`: n from 0 to 16 (R230). -/
def OWaitb.check (o : OWaitb) : Option Illegal := firstBad [(decide (o.n.toNat ≤ 16), .code)]

/-- `opdetach` (R235). -/
def ODet.check (o : ODet) : Option Illegal := firstBad [(evenReg o.b, .register)]

/-- `opadopt` (R236). -/
def OAdopt.check (o : OAdopt) : Option Illegal := firstBad [(evenReg o.a, .register)]

/-- `spawn`: the argument is a pair (R238). -/
def OSpawn.check (o : OSpawn) : Option Illegal := firstBad [(evenReg o.a, .register)]

/-- Any register. -/
def anyReg (_ : Reg) : Bool := true

/-- Why the encoding does not allow the instruction; none where it does (R83). Events have no encoding. -/
def Instr.check : Instr → Option Illegal
  | .nop o => o.check false
  | .mov o | .popc o | .clz o | .brev o => o.check false
  | .movi o => o.check false
  | .iadd o | .isub o => o.checkAdd false
  | .iaddi o | .andi o | .ori o | .xori o => o.check false
  | .imul o | .imulhs o | .imulhn o | .imins o | .iminn o | .imaxs o | .imaxn o | .and o | .or o | .xor o | .andn o
  | .shl o | .shrl o | .shra o | .vmax2s o | .vmax2n o | .vmin2s o | .vmin2n o => o.check false
  | .imad o => o.check false
  | .iabs o | .ineg o => o.check
  | .shli o | .shrli o | .shrai o => o.check false
  | .bfx o => o.check false
  | .bfi o => o.check true
  | .sel o => o.check false
  | .lea o => o.check
  | .vadd2 o | .vsub2 o => o.checkPacked
  | .vacs2 o => o.check
  | .icmp o => o.checkInt false
  | .plog o => o.check false
  | .srd o => o.check false
  | .fadd o | .fsub o | .fmul o => o.check
  | .ffma o => o.checkFma
  | .fmin o | .fmax o => o.checkMin
  | .fabs o | .fneg o => o.check
  | .fcmp o => o.checkFloat
  | .frcp o | .frsq o | .fexp2 o | .flog2 o => o.check false
  | .fsqrt o => o.check true
  | .hfma2 o => o.checkHalf
  | .hadd2 o => o.check
  | .cvt o => o.check
  | .pk4 o => o.check
  | .upk o => o.check
  | .fpclass o => o.check
  | .vote o => o.check
  | .lred o => o.check
  | .lscan o => o.checkScan
  | .frame o => o.check
  | .ld8 o => o.check 1
  | .ld16 o => o.check 2
  | .ld32 o => o.check 4
  | .ld64 o => o.check 8
  | .ld128 o => o.check 16
  | .st8 o => o.check 1
  | .st16 o => o.check 2
  | .st32 o => o.check 4
  | .st64 o => o.check 8
  | .st128 o => o.check 16
  | .atom o => o.check
  | .gld32 o => o.check 4
  | .gld64 o => o.check 8
  | .gst32 o => o.check 4
  | .gst64 o => o.check 8
  | .gatom o => o.checkG
  | .gprf o => o.check
  | .ctr o => o.check
  | .ctrskip o => o.check
  | .acdrain o => o.check
  | .acaxpy o => o.check
  | .spawn o => o.check
  | .swr o => o.checkL
  | .snop o => o.check true
  | .smov o | .spopc o => o.check true
  | .smovi o => o.check true
  | .sadd o | .ssub o => o.checkAdd true
  | .saddi o | .sandi o | .sori o => o.check true
  | .smul o | .smins o | .smaxs o | .sminn o | .smaxn o | .sand o | .sor o | .sxor o | .sshl o | .sshrl o
  | .sshra o => o.check true
  | .smad o => o.check true
  | .sshli o | .sshrli o => o.check true
  | .scmp o => o.checkInt true
  | .splog o => o.check true
  | .ssel o => o.check true
  | .sld32 o => o.check 4
  | .sld64 o => o.check 8
  | .sst32 o => o.check 4
  | .sst64 o => o.check 8
  | .ssrd o => o.check true
  | .sswr o => o.checkS
  | .fence o => o.check
  | .tktwait o => o.check
  | .cpyIn o => o.check anyReg evenReg anyReg false false
  | .cpyOut o => o.check evenReg anyReg anyReg false false
  | .cpyCk o => o.check anyReg evenReg evenReg false false
  | .cpyCkc o => o.check evenReg evenReg evenReg false false
  | .cpyIna o => o.check anyReg evenReg anyReg true false
  | .cpyOuta o => o.check evenReg anyReg anyReg false true
  | .cpygat o => o.check anyReg evenReg quadReg false false
  | .wnw o => o.check anyReg evenReg anyReg false false
  | .mred o | .coll o => o.check
  | .opwaitb o => o.check
  | .opdetach o => o.check
  | .opadopt o => o.check
  | .pmovTov _ | .pmovFrv _ | .rng _ | .perm _ | .shfl _ | .bra _ | .braLong _ | .brx _ | .call _ | .callLong _
  | .callx _ | .callo _ | .ret _ | .exit _ | .rjoin | .trap _ | .brk _ | .acz _ | .acrd _ | .acwr _
  | .acrst _ | .sbra _ | .sbraLong _ | .sbrx _ | .bar _ | .barar _ | .barwt _ | .tktpass _ | .evset _ | .evclr _
  | .evwait _ | .qpop _ | .qpush _ | .chput _ | .chget _ | .cheos _ | .ovlld _ | .ovlrel _ | .ovlevict _ | .opwait _
  | .optest _ | .opseal _ | .opcancel _ | .opstat _ | .opprio _ | .hret _ | .yield _ | .strap _ | .sbrk _ | .idleQ _
  | .idleEv _ => none
  | .doorbell .. | .deviceQueueDoorbell .. | .launchPacket _ | .registerHeader _ | .bindRecordWrite .. 
  | .combineTreeWrite .. | .firmwareRegisterWrite _ | .tlbInvalidate .. | .blockReservation _ | .coResidentPlacement _
  | .blockStart .. | .blockExit .. | .launchCompletion _ | .longLatencyCompletion .. | .gatherDataArrival ..
  | .handlerEntry _ | .handlerTimeout _ | .contextRung _ | .opStart .. | .opFinish .. | .opSuspend .. | .opReplay ..
  | .opEndFailed .. | .contractionGroup .. | .mredPacketArrival .. | .mredTimeout .. | .collPacketArrival ..
  | .collTimeout .. | .overlayDigestCheck .. | .codePageReload .. | .ticketFrontierUpdate _ | .taskCordFormation ..
  | .taskReadyTimeout .. | .preemptRequest .. | .drainTimeout .. | .contextSave .. | .contextRestore _ | .powerAlarm
  | .powerAlarmClear | .sensorSample .. | .patrolScrub _ | .meshFlitRetry .. | .linkFlitReplay .. | .linkRetrain ..
  | .cxlLinkTraining .. | .hostMemAccess _ | .peerAccess .. | .localLineWriteback .. | .partitionReset _
  | .partitionUpdate _ | .partitionRepair .. | .deviceReset | .deviceBoot .. | .firmwareUpdateStage _
  | .getMeasurements .. | .perfCounterRead .. | .errorCounterRead _ | .notAnInstruction _ | .unitBoundary ..
  | .gatherPerformed .. => none

/-- The encoding allows the instruction. -/
def Instr.wf (i : Instr) : Bool := i.check == none

end Sys2Proof
end

