-- ==== Sys2Proof/Decode.lean ====
section
/-!
DEFINITION. The decoder and the encoder (05_encoding.md R72 to R93, and the encoding tables of the instruction entries).
`decode` reads a first word and the word after it and answers an instruction, or the condition of R83 that fails.
A word is accepted only when the instruction read from it encodes back to it, so no reserved bit is dropped.
-/

namespace Sys2Proof

/-- The fields of an L or U first word below the opcode (R73, R74). -/
structure Fld where
  d : Reg
  a : Reg
  b : Reg
  g : PReg
  n : Bool
  u : Bool
  deriving DecidableEq, Repr

/-- The fields of an X word (R76). -/
structure Ext where
  la : BitVec 4
  rnd : BitVec 3
  sat : Bool
  c : BitVec 6
  prio : BitVec 2
  acq : Bool
  rel : Bool
  scope : BitVec 3
  imm : BitVec 11
  deriving DecidableEq, Repr

/-- An instruction's words: the first, and the second where it has one (R72). -/
structure Words where
  first : Word
  second : Option Word
  deriving DecidableEq, Repr

/-- One bit of a word. -/
def bitOf {w : Nat} (x : BitVec w) (i : Nat) : Bool := x.getLsbD i

/-- The first word of an L or U instruction (R72 to R74). -/
def Fld.pack (uniformSet ext : Bool) (op : BitVec 7) (f : Fld) : Word :=
  BitVec.ofBool uniformSet ++ BitVec.ofBool ext ++ op ++ f.d ++ f.a ++ f.b ++ f.g ++ BitVec.ofBool f.n ++ BitVec.ofBool f.u

/-- The fields of a first word (R73, R74). -/
def Fld.parse (w : Word) : Fld where
  d := w.extractLsb' 17 6
  a := w.extractLsb' 11 6
  b := w.extractLsb' 5 6
  g := w.extractLsb' 2 3
  n := bitOf w 1
  u := bitOf w 0

/-- The X word (R76). -/
def Ext.pack (x : Ext) : Word :=
  x.la ++ x.rnd ++ BitVec.ofBool x.sat ++ x.c ++ x.prio ++ BitVec.ofBool x.acq ++ BitVec.ofBool x.rel ++ x.scope ++ x.imm

/-- The fields of an X word (R76). -/
def Ext.parse (w : Word) : Ext where
  la := w.extractLsb' 28 4
  rnd := w.extractLsb' 25 3
  sat := bitOf w 24
  c := w.extractLsb' 18 6
  prio := w.extractLsb' 16 2
  acq := bitOf w 15
  rel := bitOf w 14
  scope := w.extractLsb' 11 3
  imm := w.extractLsb' 0 11

/-- The all-zero X word, which is also what a one-word S-class instruction carries (R79). -/
def Ext.zero : Ext := ⟨0, 0, false, 0, 0, false, false, 0, 0⟩

/-- The fields of a first word, all zero but for an always-true guard. -/
def Fld.zero : Fld := ⟨0, 0, 0, 7, false, false⟩

/-- The default imm11 layout: t1, t2, f (R90). -/
def imm3 (t1 t2 : BitVec 4) (f : BitVec 3) : BitVec 11 := t1 ++ t2 ++ f
/-- imm11 [10:7]. -/
def Ext.t1 (x : Ext) : BitVec 4 := x.imm.extractLsb' 7 4
/-- imm11 [6:3]. -/
def Ext.t2 (x : Ext) : BitVec 4 := x.imm.extractLsb' 3 4
/-- imm11 [2:0]. -/
def Ext.f (x : Ext) : BitVec 3 := x.imm.extractLsb' 0 3
/-- The space code, X word [23:22] (R92). -/
def Ext.space (x : Ext) : BitVec 2 := x.c.extractLsb' 4 2
/-- The sub code, X word [21:18] (R92). -/
def Ext.sub (x : Ext) : BitVec 4 := x.c.extractLsb' 0 4

/-! ### Codes -/

/-- Codes of R89. -/
def Ty.code : Ty → BitVec 4
  | .none => 0
  | .s8 => 1
  | .n8 => 2
  | .s16 => 3
  | .n16 => 4
  | .s32 => 5
  | .n32 => 6
  | .s64 => 7
  | .n64 => 8
  | .f32 => 9
  | .bf16 => 10
  | .f16 => 11
  | .e4m3 => 12
  | .e5m2 => 13
  | .q4 => 14

/-- The Ty a code names; any other code raises ILLEGAL. -/
def Ty.ofCode (x : BitVec 4) : Except Illegal Ty :=
  match x.toNat with
  | 0 => .ok .none
  | 1 => .ok .s8
  | 2 => .ok .n8
  | 3 => .ok .s16
  | 4 => .ok .n16
  | 5 => .ok .s32
  | 6 => .ok .n32
  | 7 => .ok .s64
  | 8 => .ok .n64
  | 9 => .ok .f32
  | 10 => .ok .bf16
  | 11 => .ok .f16
  | 12 => .ok .e4m3
  | 13 => .ok .e5m2
  | 14 => .ok .q4
  | _ => .error .code

/-- Codes of R51. -/
def Rnd.code : Rnd → BitVec 3
  | .rn => 0
  | .rz => 1
  | .rd => 2
  | .ru => 3
  | .sr => 4

/-- The Rnd a code names; any other code raises ILLEGAL. -/
def Rnd.ofCode (x : BitVec 3) : Except Illegal Rnd :=
  match x.toNat with
  | 0 => .ok .rn
  | 1 => .ok .rz
  | 2 => .ok .rd
  | 3 => .ok .ru
  | 4 => .ok .sr
  | _ => .error .rounding

/-- Codes of R3. -/
def Scope.code : Scope → BitVec 3
  | .lane => 0
  | .cord => 1
  | .blk => 2
  | .clu => 3
  | .die => 4
  | .dev => 5
  | .sys => 6

/-- The Scope a code names; any other code raises ILLEGAL. -/
def Scope.ofCode (x : BitVec 3) : Except Illegal Scope :=
  match x.toNat with
  | 0 => .ok .lane
  | 1 => .ok .cord
  | 2 => .ok .blk
  | 3 => .ok .clu
  | 4 => .ok .die
  | 5 => .ok .dev
  | 6 => .ok .sys
  | _ => .error .scope

/-- Codes of R91 for compares. -/
def Cond.code : Cond → BitVec 3
  | .eq => 0
  | .ne => 1
  | .lt => 2
  | .le => 3
  | .gt => 4
  | .ge => 5
  | .un => 6

/-- The Cond a code names; any other code raises ILLEGAL. -/
def Cond.ofCode (x : BitVec 3) : Except Illegal Cond :=
  match x.toNat with
  | 0 => .ok .eq
  | 1 => .ok .ne
  | 2 => .ok .lt
  | 3 => .ok .le
  | 4 => .ok .gt
  | 5 => .ok .ge
  | 6 => .ok .un
  | _ => .error .code

/-- Codes of R91 for predicate logic. -/
def LogOp.code : LogOp → BitVec 3
  | .and => 0
  | .or => 1
  | .xor => 2
  | .andn => 3

/-- The LogOp a code names; any other code raises ILLEGAL. -/
def LogOp.ofCode (x : BitVec 3) : Except Illegal LogOp :=
  match x.toNat with
  | 0 => .ok .and
  | 1 => .ok .or
  | 2 => .ok .xor
  | 3 => .ok .andn
  | _ => .error .code

/-- Codes of R91 for `vote`. -/
def VoteMode.code : VoteMode → BitVec 3
  | .any => 0
  | .all => 1
  | .ballot => 2
  | .eq => 3

/-- The VoteMode a code names; any other code raises ILLEGAL. -/
def VoteMode.ofCode (x : BitVec 3) : Except Illegal VoteMode :=
  match x.toNat with
  | 0 => .ok .any
  | 1 => .ok .all
  | 2 => .ok .ballot
  | 3 => .ok .eq
  | _ => .error .code

/-- Codes of R91 for `shfl`. -/
def ShflMode.code : ShflMode → BitVec 3
  | .idx => 0
  | .up => 1
  | .down => 2
  | .xor => 3

/-- The ShflMode a code names; any other code raises ILLEGAL. -/
def ShflMode.ofCode (x : BitVec 3) : Except Illegal ShflMode :=
  match x.toNat with
  | 0 => .ok .idx
  | 1 => .ok .up
  | 2 => .ok .down
  | 3 => .ok .xor
  | _ => .error .code

/-- Codes of R91 for `lred` and `lscan`. -/
def RedOp.code : RedOp → BitVec 3
  | .add => 0
  | .min => 1
  | .max => 2
  | .and => 3
  | .or => 4
  | .xor => 5

/-- The RedOp a code names; any other code raises ILLEGAL. -/
def RedOp.ofCode (x : BitVec 3) : Except Illegal RedOp :=
  match x.toNat with
  | 0 => .ok .add
  | 1 => .ok .min
  | 2 => .ok .max
  | 3 => .ok .and
  | 4 => .ok .or
  | 5 => .ok .xor
  | _ => .error .code

/-- Codes of R75. -/
def Hint.code : Hint → BitVec 2
  | .none => 0
  | .likely => 1
  | .unlikely => 2
  | .same => 3

/-- The Hint a code names; any other code raises ILLEGAL. -/
def Hint.ofCode (x : BitVec 2) : Except Illegal Hint :=
  match x.toNat with
  | 0 => .ok .none
  | 1 => .ok .likely
  | 2 => .ok .unlikely
  | _ => .ok .same

/-- Codes of R92. -/
def Space.code : Space → BitVec 2
  | .lin => 0
  | .skw => 1
  | .loc => 2
  | .arm => 3

/-- The Space a code names; any other code raises ILLEGAL. -/
def Space.ofCode (x : BitVec 2) : Except Illegal Space :=
  match x.toNat with
  | 0 => .ok .lin
  | 1 => .ok .skw
  | 2 => .ok .loc
  | _ => .ok .arm

/-- Codes of R92, sub [3:2]. -/
def LdMode.code : LdMode → BitVec 2
  | .zx => 0
  | .sx => 1
  | .el => 2

/-- The LdMode a code names; any other code raises ILLEGAL. -/
def LdMode.ofCode (x : BitVec 2) : Except Illegal LdMode :=
  match x.toNat with
  | 0 => .ok .zx
  | 1 => .ok .sx
  | 2 => .ok .el
  | _ => .error .code

/-- Codes of R92. -/
def AtomOp.code : AtomOp → BitVec 4
  | .add => 0
  | .mins => 1
  | .minn => 2
  | .maxs => 3
  | .maxn => 4
  | .and => 5
  | .or => 6
  | .xor => 7
  | .xchg => 8
  | .cas => 9
  | .fadd => 10

/-- The AtomOp a code names; any other code raises ILLEGAL. -/
def AtomOp.ofCode (x : BitVec 4) : Except Illegal AtomOp :=
  match x.toNat with
  | 0 => .ok .add
  | 1 => .ok .mins
  | 2 => .ok .minn
  | 3 => .ok .maxs
  | 4 => .ok .maxn
  | 5 => .ok .and
  | 6 => .ok .or
  | 7 => .ok .xor
  | 8 => .ok .xchg
  | 9 => .ok .cas
  | 10 => .ok .fadd
  | _ => .error .code

/-- Codes of R173, R196. -/
def OpMode.code : OpMode → BitVec 2
  | .row => 0
  | .skw => 1
  | .col => 2

/-- The OpMode a code names; any other code raises ILLEGAL. -/
def OpMode.ofCode (x : BitVec 2) : Except Illegal OpMode :=
  match x.toNat with
  | 0 => .ok .row
  | 1 => .ok .skw
  | 2 => .ok .col
  | _ => .error .code

/-- Codes of R91 for `mred` and `coll`. -/
def RedTy.code : RedTy → BitVec 3
  | .f32 => 0
  | .s32 => 1

/-- The RedTy a code names; any other code raises ILLEGAL. -/
def RedTy.ofCode (x : BitVec 3) : Except Illegal RedTy :=
  match x.toNat with
  | 0 => .ok .f32
  | 1 => .ok .s32
  | _ => .error .code

/-! ### Operand structures to fields and back. `toF` gives the first word's fields and the X word, `ofF` reads them. -/

/-- The guard of a first word. -/
def Fld.guard (f : Fld) : Guard := ⟨f.g, f.n⟩

/-- A first word's fields from a guard and registers. -/
def mkF (gd : Guard) (d a b : Reg) (u : Bool) : Fld := ⟨d, a, b, gd.g, gd.n, u⟩

/-- An X word that holds only imm11. -/
def immX (imm : BitVec 11) : Ext := { Ext.zero with imm := imm }

/-- The ordering modifiers of an X word. -/
def Ext.ordr (x : Ext) (s : Scope) : Ordr := ⟨x.acq, x.rel, s⟩

def ONop.toF (o : ONop) : Fld × Ext := (mkF o.gd 0 0 0 o.u, Ext.zero)
def ONop.ofF (f : Fld) (_ : Ext) (wide : Bool) : Except Illegal ONop := do
  .ok { gd := f.guard, u := f.u, wide := wide }

def O1.toF (o : O1) : Fld × Ext := (mkF o.gd o.d 0 0 false, Ext.zero)
def O1.ofF (f : Fld) (_ : Ext) (wide : Bool) : Except Illegal O1 := do
  .ok { gd := f.guard, d := f.d, wide := wide }

def O2.toF (o : O2) : Fld × Ext := (mkF o.gd o.d o.a 0 o.u, Ext.zero)
def O2.ofF (f : Fld) (_ : Ext) (wide : Bool) : Except Illegal O2 := do
  .ok { gd := f.guard, u := f.u, d := f.d, a := f.a, wide := wide }

def O3.toF (o : O3) : Fld × Ext := (mkF o.gd o.d o.a o.b o.u, Ext.zero)
def O3.ofF (f : Fld) (_ : Ext) (wide : Bool) : Except Illegal O3 := do
  .ok { gd := f.guard, u := f.u, d := f.d, a := f.a, b := f.b, wide := wide }

def O2T.toF (o : O2T) : Fld × Ext := (mkF o.gd o.d o.a 0 o.u, { Ext.zero with imm := imm3 o.ty.code 0 0, sat := o.sat })
def O2T.ofF (f : Fld) (x : Ext) (wide : Bool) : Except Illegal O2T := do
  let ty ← Ty.ofCode x.t1
  .ok { gd := f.guard, u := f.u, d := f.d, a := f.a, ty := ty, sat := x.sat, wide := wide }

def O3T.toF (o : O3T) : Fld × Ext := (mkF o.gd o.d o.a o.b o.u, { Ext.zero with imm := imm3 o.ty.code 0 0, sat := o.sat })
def O3T.ofF (f : Fld) (x : Ext) (wide : Bool) : Except Illegal O3T := do
  let ty ← Ty.ofCode x.t1
  .ok { gd := f.guard, u := f.u, d := f.d, a := f.a, b := f.b, ty := ty, sat := x.sat, wide := wide }

def O4T.toF (o : O4T) : Fld × Ext := (mkF o.gd o.d o.a o.b o.u, { Ext.zero with imm := imm3 o.ty.code 0 0, sat := o.sat, c := o.c })
def O4T.ofF (f : Fld) (x : Ext) : Except Illegal O4T := do
  let ty ← Ty.ofCode x.t1
  .ok { gd := f.guard, u := f.u, d := f.d, a := f.a, b := f.b, c := x.c, ty := ty, sat := x.sat }

def O4.toF (o : O4) : Fld × Ext := (mkF o.gd o.d o.a o.b o.u, { Ext.zero with c := o.c })
def O4.ofF (f : Fld) (x : Ext) : Except Illegal O4 := do
  .ok { gd := f.guard, u := f.u, d := f.d, a := f.a, b := f.b, c := x.c }

def OBf.toF (o : OBf) : Fld × Ext := (mkF o.gd o.d o.a 0 o.u, immX (BitVec.ofBool o.sx ++ o.pos ++ o.wm1))
def OBf.ofF (f : Fld) (x : Ext) : Except Illegal OBf := do
  .ok { gd := f.guard, u := f.u, d := f.d, a := f.a, sx := bitOf x.imm 10, pos := x.imm.extractLsb' 5 5, wm1 := x.imm.extractLsb' 0 5 }

def OSel.toF (o : OSel) : Fld × Ext := (mkF o.sel o.d o.a o.b o.u, Ext.zero)
def OSel.ofF (f : Fld) (_ : Ext) (wide : Bool) : Except Illegal OSel := do
  .ok { sel := f.guard, u := f.u, d := f.d, a := f.a, b := f.b, wide := wide }

def OLea.toF (o : OLea) : Fld × Ext := (mkF o.gd o.d o.a o.b o.u, immX (BitVec.ofBool o.sx ++ o.shift ++ (0 : BitVec 7)))
def OLea.ofF (f : Fld) (x : Ext) : Except Illegal OLea := do
  .ok { gd := f.guard, u := f.u, d := f.d, a := f.a, b := f.b, sx := bitOf x.imm 10, shift := x.imm.extractLsb' 7 3 }

def OAcs.toF (o : OAcs) : Fld × Ext := (mkF o.gd o.d o.a o.b o.u, { Ext.zero with imm := imm3 o.ty.code 0 o.pd, c := o.c })
def OAcs.ofF (f : Fld) (x : Ext) : Except Illegal OAcs := do
  let ty ← Ty.ofCode x.t1
  .ok { gd := f.guard, u := f.u, d := f.d, a := f.a, b := f.b, c := x.c, ty := ty, pd := x.f }

/-- A predicate number in a register field (R78). -/
def pr (p : PReg) : Reg := p.setWidth 6

/-- The low three bits of a field (R78). -/
def lo3 (r : Reg) : PReg := r.setWidth 3

/-- The low four bits of a field (R78). -/
def lo4 (r : Reg) : BitVec 4 := r.setWidth 4

/-- A tile or channel number in a register field (R78). -/
def r4 (t : BitVec 4) : Reg := t.setWidth 6

def OCmp.toF (o : OCmp) : Fld × Ext := (mkF o.gd (pr o.pd) o.a o.b o.u, immX (imm3 o.ty.code 0 o.cond.code))
def OCmp.ofF (f : Fld) (x : Ext) : Except Illegal OCmp := do
  let ty ← Ty.ofCode x.t1
  let cond ← Cond.ofCode x.f
  .ok { gd := f.guard, u := f.u, pd := lo3 f.d, a := f.a, b := f.b, ty := ty, cond := cond }

def OPlog.toF (o : OPlog) : Fld × Ext := (mkF o.gd (pr o.pd) (pr o.pa) (pr o.pb) o.u, immX (imm3 0 0 o.op.code))
def OPlog.ofF (f : Fld) (x : Ext) : Except Illegal OPlog := do
  let op ← LogOp.ofCode x.f
  .ok { gd := f.guard, u := f.u, pd := lo3 f.d, pa := lo3 f.a, pb := lo3 f.b, op := op }

def OPmov.toTov (o : OPmov) : Fld × Ext := (mkF o.gd o.r 0 0 o.u, immX 0)
def OPmov.toFrv (o : OPmov) : Fld × Ext := (mkF o.gd 0 o.r 0 o.u, immX 1)
/-- `pmov`: f chooses the direction (R91, R115). -/
def decPmov (f : Fld) (x : Ext) : Except Illegal Instr :=
  if x.f = 0 then .ok (.pmovTov ⟨f.guard, f.u, f.d⟩)
  else if x.f = 1 then .ok (.pmovFrv ⟨f.guard, f.u, f.a⟩)
  else .error .code

def OSrd.toF (o : OSrd) : Fld × Ext := (mkF o.gd o.d 0 0 o.u, immX (o.idx.setWidth 11))
def OSrd.ofF (f : Fld) (x : Ext) : Except Illegal OSrd := do
  .ok { gd := f.guard, u := f.u, d := f.d, idx := x.imm.extractLsb' 0 8 }

def OSwr.toF (o : OSwr) : Fld × Ext := (mkF o.gd 0 o.a 0 false, immX (o.idx.setWidth 11))
def OSwr.ofF (f : Fld) (x : Ext) : Except Illegal OSwr := do
  .ok { gd := f.guard, idx := x.imm.extractLsb' 0 8, a := f.a }

def OF3.toF (o : OF3) : Fld × Ext := (mkF o.gd o.d o.a o.b o.u, { Ext.zero with imm := imm3 o.ty.code 0 0, rnd := o.rnd.code, sat := o.sat })
def OF3.ofF (f : Fld) (x : Ext) (wide : Bool) : Except Illegal OF3 := do
  let ty ← Ty.ofCode x.t1
  let rnd ← Rnd.ofCode x.rnd
  .ok { gd := f.guard, u := f.u, d := f.d, a := f.a, b := f.b, ty := ty, rnd := rnd, sat := x.sat, wide := wide }

def OF4.toF (o : OF4) : Fld × Ext := (mkF o.gd o.d o.a o.b o.u, { Ext.zero with imm := imm3 o.ty.code 0 0, rnd := o.rnd.code, sat := o.sat, c := o.c })
def OF4.ofF (f : Fld) (x : Ext) : Except Illegal OF4 := do
  let ty ← Ty.ofCode x.t1
  let rnd ← Rnd.ofCode x.rnd
  .ok { gd := f.guard, u := f.u, d := f.d, a := f.a, b := f.b, c := x.c, ty := ty, rnd := rnd, sat := x.sat }

def OF2.toF (o : OF2) : Fld × Ext := (mkF o.gd o.d o.a 0 o.u, immX (imm3 o.ty.code 0 0))
def OF2.ofF (f : Fld) (x : Ext) (wide : Bool) : Except Illegal OF2 := do
  let ty ← Ty.ofCode x.t1
  .ok { gd := f.guard, u := f.u, d := f.d, a := f.a, ty := ty, wide := wide }

def OFn.toF (o : OFn) : Fld × Ext := (mkF o.gd o.d o.a 0 o.u, { Ext.zero with imm := imm3 o.ty.code 0 0, rnd := o.rnd.code, la := o.la })
def OFn.ofF (f : Fld) (x : Ext) : Except Illegal OFn := do
  let ty ← Ty.ofCode x.t1
  let rnd ← Rnd.ofCode x.rnd
  .ok { gd := f.guard, u := f.u, d := f.d, a := f.a, ty := ty, rnd := rnd, la := x.la }

def OHadd.toF (o : OHadd) : Fld × Ext := (mkF o.gd o.d o.a o.b o.u, { Ext.zero with imm := imm3 o.ty.code 0 0, rnd := o.rnd.code, sat := o.sat })
def OHadd.ofF (f : Fld) (x : Ext) : Except Illegal OHadd := do
  let ty ← Ty.ofCode x.t1
  let rnd ← Rnd.ofCode x.rnd
  .ok { gd := f.guard, u := f.u, d := f.d, a := f.a, b := f.b, ty := ty, rnd := rnd, sat := x.sat }

def OCvt.toF (o : OCvt) : Fld × Ext := (mkF o.gd o.d o.a 0 o.u, { Ext.zero with imm := imm3 o.t1.code o.t2.code (o.el.setWidth 3), rnd := o.rnd.code, sat := o.sat })
def OCvt.ofF (f : Fld) (x : Ext) : Except Illegal OCvt := do
  let t1 ← Ty.ofCode x.t1
  let t2 ← Ty.ofCode x.t2
  let rnd ← Rnd.ofCode x.rnd
  .ok { gd := f.guard, u := f.u, d := f.d, a := f.a, t1 := t1, t2 := t2, el := x.imm.extractLsb' 0 2, rnd := rnd, sat := x.sat }

def OPk.toF (o : OPk) : Fld × Ext := (mkF o.gd o.d o.a o.b o.u, { Ext.zero with imm := imm3 o.ty.code 0 (o.j.setWidth 3), rnd := o.rnd.code, sat := o.sat, c := o.c })
def OPk.ofF (f : Fld) (x : Ext) : Except Illegal OPk := do
  let ty ← Ty.ofCode x.t1
  let rnd ← Rnd.ofCode x.rnd
  .ok { gd := f.guard, u := f.u, d := f.d, a := f.a, b := f.b, c := x.c, ty := ty, j := x.imm.extractLsb' 0 2, rnd := rnd, sat := x.sat }

def OUpk.toF (o : OUpk) : Fld × Ext := (mkF o.gd o.d o.a o.b o.u, immX (imm3 o.t1.code o.t2.code o.el))
def OUpk.ofF (f : Fld) (x : Ext) : Except Illegal OUpk := do
  let t1 ← Ty.ofCode x.t1
  let t2 ← Ty.ofCode x.t2
  .ok { gd := f.guard, u := f.u, d := f.d, a := f.a, b := f.b, t1 := t1, t2 := t2, el := x.f }

def OCls.toF (o : OCls) : Fld × Ext := (mkF o.gd o.d o.a 0 o.u, immX (imm3 o.ty.code 0 0))
def OCls.ofF (f : Fld) (x : Ext) : Except Illegal OCls := do
  let ty ← Ty.ofCode x.t1
  .ok { gd := f.guard, u := f.u, d := f.d, a := f.a, ty := ty }

def OShfl.toF (o : OShfl) : Fld × Ext := (mkF o.gd o.d o.a o.b false, immX (imm3 0 0 o.mode.code))
def OShfl.ofF (f : Fld) (x : Ext) : Except Illegal OShfl := do
  let mode ← ShflMode.ofCode x.f
  .ok { gd := f.guard, d := f.d, a := f.a, b := f.b, mode := mode }

def OVote.toF (o : OVote) : Fld × Ext := (mkF o.gd o.d o.a 0 false, immX (imm3 0 0 o.mode.code))
def OVote.ofF (f : Fld) (x : Ext) : Except Illegal OVote := do
  let mode ← VoteMode.ofCode x.f
  .ok { gd := f.guard, d := f.d, a := f.a, mode := mode }

def ORed.toF (o : ORed) : Fld × Ext := (mkF o.gd o.d o.a 0 false, { Ext.zero with imm := imm3 o.ty.code 0 o.op.code, rnd := o.rnd.code })
def ORed.ofF (f : Fld) (x : Ext) : Except Illegal ORed := do
  let ty ← Ty.ofCode x.t1
  let rnd ← Rnd.ofCode x.rnd
  let op ← RedOp.ofCode x.f
  .ok { gd := f.guard, d := f.d, a := f.a, op := op, ty := ty, rnd := rnd }

def OBrx.toF (o : OBrx) : Fld × Ext := (mkF o.gd 0 o.a 0 false, Ext.zero)
def OBrx.ofF (f : Fld) (_ : Ext) : Except Illegal OBrx := do
  .ok { gd := f.guard, a := f.a }

def OLbl.toF (o : OLbl) : Fld × Ext := (mkF o.gd (o.off.extractLsb' 12 6) (o.off.extractLsb' 6 6) (o.off.extractLsb' 0 6) false, immX ((o.off.extractLsb' 18 10).setWidth 11))
def OLbl.ofF (f : Fld) (x : Ext) : Except Illegal OLbl := do
  .ok { gd := f.guard, off := x.imm.extractLsb' 0 10 ++ (f.d ++ f.a ++ f.b) }

def OG.toF (o : OG) : Fld × Ext := (mkF o.gd 0 0 0 false, Ext.zero)
def OG.ofF (f : Fld) (_ : Ext) (wide : Bool) : Except Illegal OG := do
  .ok { gd := f.guard, wide := wide }

def OFrame.toF (o : OFrame) : Fld × Ext := (mkF ⟨7, false⟩ o.vf o.sf 0 false, Ext.zero)
def OFrame.ofF (f : Fld) (_ : Ext) (wide : Bool) : Except Illegal OFrame := do
  .ok { vf := f.d, sf := f.a, wide := wide }

def OTrap.toF (o : OTrap) : Fld × Ext := (mkF o.gd 0 0 0 false, immX o.code)
def OTrap.ofF (f : Fld) (x : Ext) : Except Illegal OTrap := do
  .ok { gd := f.guard, code := x.imm }

def OLd.toF (o : OLd) : Fld × Ext := (mkF o.gd o.d o.a 0 o.u, { Ext.zero with la := o.la, c := o.space.code ++ (o.mode.code ++ o.el), acq := o.acq, scope := o.scope.code, imm := o.imm })
def OLd.ofF (f : Fld) (x : Ext) : Except Illegal OLd := do
  let space ← Space.ofCode x.space
  let mode ← LdMode.ofCode (x.sub.extractLsb' 2 2)
  let scope ← Scope.ofCode x.scope
  .ok { gd := f.guard, u := f.u, d := f.d, a := f.a, imm := x.imm, space := space, mode := mode, el := x.sub.extractLsb' 0 2, acq := x.acq, scope := scope, la := x.la }

def OSt.toF (o : OSt) : Fld × Ext := (mkF o.gd 0 o.a o.b o.u, { Ext.zero with la := o.la, c := o.space.code ++ ((0 : BitVec 2) ++ o.el), rel := o.rel, scope := o.scope.code, imm := o.imm })
def OSt.ofF (f : Fld) (x : Ext) : Except Illegal OSt := do
  let space ← Space.ofCode x.space
  let scope ← Scope.ofCode x.scope
  .ok { gd := f.guard, u := f.u, a := f.a, b := f.b, imm := x.imm, space := space, el := x.sub.extractLsb' 0 2, rel := x.rel, scope := scope, la := x.la }

def OAtom.toF (o : OAtom) : Fld × Ext := (mkF o.gd o.d o.a o.b o.u, { Ext.zero with la := o.la, c := o.space.code ++ o.op.code, acq := o.ord.acq, rel := o.ord.rel, scope := o.ord.scope.code, imm := o.imm })
def OAtom.ofF (f : Fld) (x : Ext) : Except Illegal OAtom := do
  let space ← Space.ofCode x.space
  let op ← AtomOp.ofCode x.sub
  let scope ← Scope.ofCode x.scope
  .ok { gd := f.guard, u := f.u, d := f.d, a := f.a, b := f.b, imm := x.imm, space := space, op := op, ord := x.ordr scope, la := x.la }

def OGld.toF (o : OGld) : Fld × Ext := (mkF o.gd o.d o.a 0 o.u, { Ext.zero with la := o.la, acq := o.acq, scope := o.scope.code, imm := o.imm })
def OGld.ofF (f : Fld) (x : Ext) : Except Illegal OGld := do
  let scope ← Scope.ofCode x.scope
  .ok { gd := f.guard, u := f.u, d := f.d, a := f.a, imm := x.imm, acq := x.acq, scope := scope, la := x.la }

def OGst.toF (o : OGst) : Fld × Ext := (mkF o.gd 0 o.a o.b o.u, { Ext.zero with la := o.la, rel := o.rel, scope := o.scope.code, imm := o.imm })
def OGst.ofF (f : Fld) (x : Ext) : Except Illegal OGst := do
  let scope ← Scope.ofCode x.scope
  .ok { gd := f.guard, u := f.u, a := f.a, b := f.b, imm := x.imm, rel := x.rel, scope := scope, la := x.la }

def OGprf.toF (o : OGprf) : Fld × Ext := (mkF o.gd 0 o.a o.b false, { Ext.zero with la := o.la, imm := o.imm })
def OGprf.ofF (f : Fld) (x : Ext) : Except Illegal OGprf := do
  .ok { gd := f.guard, a := f.a, b := f.b, imm := x.imm, la := x.la }

def OSld.toF (o : OSld) : Fld × Ext := (mkF o.gd o.d o.a 0 false, { Ext.zero with c := BitVec.ofBool false ++ BitVec.ofBool o.skw ++ (0 : BitVec 4), acq := o.acq, scope := o.scope.code, imm := o.imm })
def OSld.ofF (f : Fld) (x : Ext) : Except Illegal OSld := do
  let scope ← Scope.ofCode x.scope
  .ok { gd := f.guard, d := f.d, a := f.a, imm := x.imm, skw := bitOf x.c 4, acq := x.acq, scope := scope }

def OSst.toF (o : OSst) : Fld × Ext := (mkF o.gd 0 o.a o.b false, { Ext.zero with c := BitVec.ofBool false ++ BitVec.ofBool o.skw ++ (0 : BitVec 4), rel := o.rel, scope := o.scope.code, imm := o.imm })
def OSst.ofF (f : Fld) (x : Ext) : Except Illegal OSst := do
  let scope ← Scope.ofCode x.scope
  .ok { gd := f.guard, a := f.a, b := f.b, imm := x.imm, skw := bitOf x.c 4, rel := x.rel, scope := scope }

def OCtr.toF (o : OCtr) : Fld × Ext := (mkF o.gd (r4 o.tile) o.a o.b false, { Ext.zero with la := o.la, c := o.c, prio := o.prio, scope := o.scope.code, imm := BitVec.ofBool o.map ++ BitVec.ofBool o.shV ++ o.amode.code ++ o.bmode.code ++ BitVec.ofBool false ++ o.j })
def OCtr.ofF (f : Fld) (x : Ext) : Except Illegal OCtr := do
  let scope ← Scope.ofCode x.scope
  let amode ← OpMode.ofCode (x.imm.extractLsb' 7 2)
  let bmode ← OpMode.ofCode (x.imm.extractLsb' 5 2)
  .ok { gd := f.guard, tile := lo4 f.d, a := f.a, b := f.b, c := x.c, scope := scope, map := bitOf x.imm 10, shV := bitOf x.imm 9, amode := amode, bmode := bmode, j := x.imm.extractLsb' 0 4, prio := x.prio, la := x.la }

def OSkip.toF (o : OSkip) : Fld × Ext := (mkF ⟨7, false⟩ (r4 o.tile) o.a 0 false, immX (BitVec.ofBool o.all ++ (0 : BitVec 10)))
def OSkip.ofF (f : Fld) (x : Ext) : Except Illegal OSkip := do
  .ok { tile := lo4 f.d, a := f.a, all := bitOf x.imm 10 }

def OAcz.toF (o : OAcz) : Fld × Ext := (mkF o.gd (r4 o.tile) 0 0 false, { Ext.zero with la := o.la })
def OAcz.ofF (f : Fld) (x : Ext) : Except Illegal OAcz := do
  .ok { gd := f.guard, tile := lo4 f.d, la := x.la }

def OAcrd.toF (o : OAcrd) : Fld × Ext := (mkF o.gd o.d (r4 o.tile) o.b false, { Ext.zero with la := o.la })
def OAcrd.ofF (f : Fld) (x : Ext) : Except Illegal OAcrd := do
  .ok { gd := f.guard, d := f.d, tile := lo4 f.a, b := f.b, la := x.la }

def OAcwr.toF (o : OAcwr) : Fld × Ext := (mkF o.gd (r4 o.tile) o.a o.b false, { Ext.zero with la := o.la })
def OAcwr.ofF (f : Fld) (x : Ext) : Except Illegal OAcwr := do
  .ok { gd := f.guard, tile := lo4 f.d, a := f.a, b := f.b, la := x.la }

def ODrain.toF (o : ODrain) : Fld × Ext := (mkF o.gd (r4 o.tile) o.a o.b false, { Ext.zero with la := o.la, rnd := o.rnd.code, sat := o.sat, c := BitVec.ofBool false ++ BitVec.ofBool o.skw ++ o.ty.code, imm := o.imm })
def ODrain.ofF (f : Fld) (x : Ext) : Except Illegal ODrain := do
  let ty ← Ty.ofCode x.sub
  let rnd ← Rnd.ofCode x.rnd
  .ok { gd := f.guard, tile := lo4 f.d, a := f.a, b := f.b, skw := bitOf x.c 4, ty := ty, rnd := rnd, sat := x.sat, imm := x.imm, la := x.la }

def OAxpy.toF (o : OAxpy) : Fld × Ext := (mkF o.gd (r4 o.tile) o.a o.b false, { Ext.zero with la := o.la, sat := o.sat, c := o.c, imm := imm3 o.ty.code 0 0 })
def OAxpy.ofF (f : Fld) (x : Ext) : Except Illegal OAxpy := do
  let ty ← Ty.ofCode x.t1
  .ok { gd := f.guard, tile := lo4 f.d, a := f.a, b := f.b, c := x.c, ty := ty, sat := x.sat, la := x.la }

def OBar.toF (o : OBar) : Fld × Ext := (mkF o.gd (pr o.qd) o.a 0 false, immX (o.bn.setWidth 11))
def OBar.ofF (f : Fld) (x : Ext) : Except Illegal OBar := do
  .ok { gd := f.guard, qd := lo3 f.d, a := f.a, bn := x.imm.extractLsb' 0 4 }

def OBarar.toF (o : OBarar) : Fld × Ext := (mkF o.gd 0 o.a 0 false, immX (o.bn.setWidth 11))
def OBarar.ofF (f : Fld) (x : Ext) : Except Illegal OBarar := do
  .ok { gd := f.guard, a := f.a, bn := x.imm.extractLsb' 0 4 }

def OBarwt.toF (o : OBarwt) : Fld × Ext := (mkF o.gd (pr o.qd) 0 0 false, immX (o.bn.setWidth 11))
def OBarwt.ofF (f : Fld) (x : Ext) : Except Illegal OBarwt := do
  .ok { gd := f.guard, qd := lo3 f.d, bn := x.imm.extractLsb' 0 4 }

def OFence.toF (o : OFence) : Fld × Ext := (mkF o.gd 0 0 0 false, { Ext.zero with acq := o.acq, rel := o.rel, scope := o.scope.code })
def OFence.ofF (f : Fld) (x : Ext) : Except Illegal OFence := do
  let scope ← Scope.ofCode x.scope
  .ok { gd := f.guard, acq := x.acq, rel := x.rel, scope := scope }

def OTkt.toF (o : OTkt) : Fld × Ext := (mkF o.gd 0 0 0 false, immX (o.level.setWidth 11))
def OTkt.ofF (f : Fld) (x : Ext) : Except Illegal OTkt := do
  .ok { gd := f.guard, level := x.f }

def OGX.toF (o : OGX) : Fld × Ext := (mkF o.gd 0 0 0 false, Ext.zero)
def OGX.ofF (f : Fld) (_ : Ext) : Except Illegal OGX := do
  .ok { gd := f.guard }

def OEv.toF (o : OEv) : Fld × Ext := (mkF o.gd 0 o.a 0 false, immX (o.slice.setWidth 11))
def OEv.ofF (f : Fld) (x : Ext) : Except Illegal OEv := do
  .ok { gd := f.guard, a := f.a, slice := x.imm.extractLsb' 0 4 }

def OEv.toIdle (o : OEv) : Fld × Ext := (mkF o.gd 0 o.a 0 false, immX (0x400 ||| o.slice.setWidth 11))
/-- `idle`: imm11 [10] chooses the form (R243). -/
def decIdle (f : Fld) (x : Ext) : Except Illegal Instr :=
  if bitOf x.imm 10 then .ok (.idleEv ⟨f.guard, f.a, x.imm.extractLsb' 0 4⟩) else .ok (.idleQ ⟨f.guard, f.a⟩)

def OQpop.toF (o : OQpop) : Fld × Ext := (mkF o.gd (pr o.qd) o.a o.b false, { Ext.zero with la := o.la, imm := o.imm })
def OQpop.ofF (f : Fld) (x : Ext) : Except Illegal OQpop := do
  .ok { gd := f.guard, qd := lo3 f.d, a := f.a, b := f.b, imm := x.imm, la := x.la }

def OQpush.toF (o : OQpush) : Fld × Ext := (mkF o.gd (pr o.qd) o.a o.b false, immX o.imm)
def OQpush.ofF (f : Fld) (x : Ext) : Except Illegal OQpush := do
  .ok { gd := f.guard, qd := lo3 f.d, a := f.a, b := f.b, imm := x.imm }

def OChput.toF (o : OChput) : Fld × Ext := (mkF o.gd (r4 o.ch) o.a 0 false, Ext.zero)
def OChput.ofF (f : Fld) (_ : Ext) : Except Illegal OChput := do
  .ok { gd := f.guard, ch := lo4 f.d, a := f.a }

def OChget.toF (o : OChget) : Fld × Ext := (mkF o.gd (r4 o.ch) o.a (pr o.qb) false, { Ext.zero with la := o.la })
def OChget.ofF (f : Fld) (x : Ext) : Except Illegal OChget := do
  .ok { gd := f.guard, ch := lo4 f.d, a := f.a, qb := lo3 f.b, la := x.la }

def OCheos.toF (o : OCheos) : Fld × Ext := (mkF o.gd (r4 o.ch) 0 0 false, Ext.zero)
def OCheos.ofF (f : Fld) (_ : Ext) : Except Illegal OCheos := do
  .ok { gd := f.guard, ch := lo4 f.d }

/-- imm11 of an issuing instruction: after flag, `.ord`, function code, after-token register (R93). -/
def OpMods.imm (m : OpMods) (fn : BitVec 3) : BitVec 11 :=
  BitVec.ofBool m.after.isSome ++ BitVec.ofBool m.ordf ++ fn ++ m.after.getD 0
/-- Reads the modifiers of an issuing instruction (R93). -/
def Ext.mods (x : Ext) : OpMods where
  after := if bitOf x.imm 10 then some (x.imm.extractLsb' 0 6) else none
  ordf := bitOf x.imm 9
  prio := x.prio
  la := x.la
/-- The function code, imm11 [8:6] (R91, R93). -/
def Ext.fn (x : Ext) : BitVec 3 := x.imm.extractLsb' 6 3
def OCpy.toF (fn : BitVec 3) (o : OCpy) : Fld × Ext :=
  (mkF o.gd o.d o.a o.b false,
   { Ext.zero with la := o.mods.la, prio := o.mods.prio, c := o.c, acq := o.ord.acq, rel := o.ord.rel,
                   scope := o.ord.scope.code, imm := o.mods.imm fn })
def OCpy.ofF (f : Fld) (x : Ext) : Except Illegal OCpy := do
  let scope ← Scope.ofCode x.scope
  .ok { gd := f.guard, d := f.d, a := f.a, b := f.b, c := x.c, ord := x.ordr scope, mods := x.mods }
/-- `cpy`: the function code chooses the operands (R217). -/
def decCpy (f : Fld) (x : Ext) : Except Illegal Instr := do
  let o ← OCpy.ofF f x
  match x.fn.toNat with
  | 0 => .ok (.cpyIn o)
  | 1 => .ok (.cpyOut o)
  | 2 => .ok (.cpyCk o)
  | 3 => .ok (.cpyCkc o)
  | 4 => .ok (.cpyIna o)
  | 5 => .ok (.cpyOuta o)
  | _ => .error .code
def OMred.toF (o : OMred) : Fld × Ext :=
  (mkF o.gd o.d o.a o.b false,
   { Ext.zero with la := o.mods.la, prio := o.mods.prio, c := o.c, acq := o.ord.acq, rel := o.ord.rel,
                   scope := o.ord.scope.code, imm := o.mods.imm o.fn.code })
def OMred.ofF (f : Fld) (x : Ext) : Except Illegal OMred := do
  let scope ← Scope.ofCode x.scope
  let fn ← RedTy.ofCode x.fn
  .ok { gd := f.guard, d := f.d, a := f.a, b := f.b, c := x.c, fn := fn, ord := x.ordr scope, mods := x.mods }
/-- The overlay index lies in first-word bits [12:5] (R228). -/
def ovlA (idx : BitVec 8) : Reg := (idx.extractLsb' 6 2).setWidth 6
def ovlIdx (f : Fld) : BitVec 8 := f.a.extractLsb' 0 2 ++ f.b
def OOvl.toF (o : OOvl) : Fld × Ext :=
  (mkF o.gd o.d (ovlA o.idx) (o.idx.extractLsb' 0 6) false,
   { Ext.zero with la := o.mods.la, prio := o.mods.prio, imm := o.mods.imm 0 })
def OOvl.ofF (f : Fld) (x : Ext) : Except Illegal OOvl :=
  .ok { gd := f.guard, d := f.d, idx := ovlIdx f, mods := x.mods }
def OEvict.toF (o : OEvict) : Fld × Ext :=
  (mkF o.gd 0 (ovlA o.idx) (o.idx.extractLsb' 0 6) false, { Ext.zero with la := o.la })
def OEvict.ofF (f : Fld) (x : Ext) : Except Illegal OEvict := .ok { gd := f.guard, idx := ovlIdx f, la := x.la }

def OTok.toF (o : OTok) : Fld × Ext := (mkF o.gd 0 o.a 0 false, { Ext.zero with la := o.la })
def OTok.ofF (f : Fld) (x : Ext) : Except Illegal OTok := do
  .ok { gd := f.guard, a := f.a, la := x.la }

def OTest.toF (o : OTest) : Fld × Ext := (mkF o.gd (pr o.qd) o.a 0 false, { Ext.zero with la := o.la })
def OTest.ofF (f : Fld) (x : Ext) : Except Illegal OTest := do
  .ok { gd := f.guard, qd := lo3 f.d, a := f.a, la := x.la }

def OSeal.toF (o : OSeal) : Fld × Ext := (mkF o.gd 0 0 0 false, { Ext.zero with la := o.la })
def OSeal.ofF (f : Fld) (x : Ext) : Except Illegal OSeal := do
  .ok { gd := f.guard, la := x.la }

def OWaitb.toF (o : OWaitb) : Fld × Ext := (mkF o.gd 0 o.n 0 false, { Ext.zero with la := o.la })
def OWaitb.ofF (f : Fld) (x : Ext) : Except Illegal OWaitb := do
  .ok { gd := f.guard, n := f.a, la := x.la }

def ODet.toF (o : ODet) : Fld × Ext := (mkF o.gd 0 o.a o.b false, { Ext.zero with la := o.la })
def ODet.ofF (f : Fld) (x : Ext) : Except Illegal ODet := do
  .ok { gd := f.guard, a := f.a, b := f.b, la := x.la }

def OStat.toF (o : OStat) : Fld × Ext := (mkF o.gd o.d o.a o.b false, { Ext.zero with la := o.la })
def OStat.ofF (f : Fld) (x : Ext) : Except Illegal OStat := do
  .ok { gd := f.guard, d := f.d, a := f.a, b := f.b, la := x.la }

def OPrio.toF (o : OPrio) : Fld × Ext := (mkF o.gd 0 o.a 0 false, { Ext.zero with la := o.la, imm := o.p.setWidth 11 })
def OPrio.ofF (f : Fld) (x : Ext) : Except Illegal OPrio := do
  .ok { gd := f.guard, a := f.a, p := x.imm.extractLsb' 0 2, la := x.la }

def OAdopt.toF (o : OAdopt) : Fld × Ext := (mkF o.gd o.d o.a 0 false, Ext.zero)
def OAdopt.ofF (f : Fld) (_ : Ext) : Except Illegal OAdopt := do
  .ok { gd := f.guard, d := f.d, a := f.a }

def OSpawn.toF (o : OSpawn) : Fld × Ext := (mkF o.gd 0 o.a o.b false, { Ext.zero with la := o.la, c := o.c, imm := (0 : BitVec 3) ++ o.cls ++ o.slice })
def OSpawn.ofF (f : Fld) (x : Ext) : Except Illegal OSpawn := do
  .ok { gd := f.guard, a := f.a, b := f.b, c := x.c, slice := x.imm.extractLsb' 0 4, cls := x.imm.extractLsb' 4 4, la := x.la }

/-! ### I and B words -/

/-- `movi` (R77, R108). -/
def OI1.toF (o : OI1) : Fld × Word := (mkF o.gd o.d 0 0 o.u, o.imm)
def OI1.ofF (f : Fld) (w : Word) : Except Illegal OI1 := .ok { gd := f.guard, u := f.u, d := f.d, imm := w }
/-- The other I-class forms with 32 immediate bits (R77). -/
def OI2.toF (o : OI2) : Fld × Word := (mkF o.gd o.d o.a 0 o.u, o.imm)
def OI2.ofF (f : Fld) (w : Word) : Except Illegal OI2 := .ok { gd := f.guard, u := f.u, d := f.d, a := f.a, imm := w }
/-- The shifts: the amount lies in [4:0], the rest is reserved (R109). -/
def OSh.toF (o : OSh) : Fld × Word := (mkF o.gd o.d o.a 0 o.u, o.amt.setWidth 32)
def OSh.ofF (f : Fld) (w : Word) : Except Illegal OSh :=
  .ok { gd := f.guard, u := f.u, d := f.d, a := f.a, amt := w.extractLsb' 0 5 }

/-- The first word of a B instruction (R75). -/
def packB (uniformSet ext : Bool) (op : BitVec 7) (hint : BitVec 2) (gd : Guard) (off : BitVec 17) : Word :=
  BitVec.ofBool uniformSet ++ BitVec.ofBool ext ++ op ++ hint ++ gd.g ++ BitVec.ofBool gd.n ++ off

/-- The guard of a B word (R75). -/
def guardB (w : Word) : Guard := ⟨w.extractLsb' 18 3, bitOf w 17⟩

/-- The one-word and the two-word form of a B-class opcode (R72, R75). -/
def decB (short : OBr → Instr) (long : OBrL → Instr) (w0 w1 : Word) : Except Illegal Instr := do
  let hint ← Hint.ofCode (w0.extractLsb' 21 2)
  if bitOf w0 30 then
    .ok (long { hint := hint, gd := guardB w0, off := w1.extractLsb' 0 11 ++ w0.extractLsb' 0 17 })
  else .ok (short { hint := hint, gd := guardB w0, off := w0.extractLsb' 0 17 })

def OBr.words (uniformSet : Bool) (op : BitVec 7) (o : OBr) : Words :=
  ⟨packB uniformSet false op o.hint.code o.gd o.off, none⟩
def OBrL.words (uniformSet : Bool) (op : BitVec 7) (o : OBrL) : Words :=
  ⟨packB uniformSet true op o.hint.code o.gd (o.off.extractLsb' 0 17),
   some ((o.off.extractLsb' 17 11).setWidth 32)⟩

/-! ### Classes (R72) -/

/-- S class: the X word when [30] is 1, otherwise as an all-zero one (R79). -/
def clsS {α : Type} (k : Fld → Ext → Bool → Except Illegal α) (w0 w1 : Word) : Except Illegal α :=
  if bitOf w0 30 then k (Fld.parse w0) (Ext.parse w1) true else k (Fld.parse w0) Ext.zero false

/-- X class: two words. -/
def clsX {α : Type} (k : Fld → Ext → Except Illegal α) (w0 w1 : Word) : Except Illegal α :=
  if bitOf w0 30 then k (Fld.parse w0) (Ext.parse w1) else .error .noExtension

/-- I class: two words. -/
def clsI {α : Type} (k : Fld → Word → Except Illegal α) (w0 w1 : Word) : Except Illegal α :=
  if bitOf w0 30 then k (Fld.parse w0) w1 else .error .noExtension

/-- The words of an S-class instruction. -/
def wordsS (us : Bool) (op : BitVec 7) (wide : Bool) (fx : Fld × Ext) : Words :=
  ⟨fx.1.pack us wide op, if wide then some fx.2.pack else none⟩

/-- The words of an X-class instruction. -/
def wordsX (us : Bool) (op : BitVec 7) (fx : Fld × Ext) : Words := ⟨fx.1.pack us true op, some fx.2.pack⟩

/-- The words of an I-class instruction. -/
def wordsI (us : Bool) (op : BitVec 7) (fx : Fld × Word) : Words := ⟨fx.1.pack us true op, some fx.2⟩

/-- Builds an instruction from its operands. -/
def mk {α : Type} (c : α → Instr) (r : Except Illegal α) : Except Illegal Instr := r.map c

/-- `rjoin` carries the always-true guard (R146). -/
def decRjoin (f : Fld) (_ : Ext) : Except Illegal Instr :=
  if f.guard = ⟨7, false⟩ then .ok .rjoin else .error .guardForm

/-- `frame` and `ctrskip` carry the always-true guard (R141, R195). -/
def guard7 {α : Type} (f : Fld) (r : Except Illegal α) : Except Illegal α :=
  if f.guard = ⟨7, false⟩ then r else .error .guardForm

/-! ### The opcode maps (R87, R88) -/

/-- The lane-set opcodes. -/
def decLane (op : Nat) (w0 w1 : Word) : Except Illegal Instr :=
  match op with
  | 0x0 => mk .nop (clsS ONop.ofF w0 w1)
  | 0x1 => mk .mov (clsS O2.ofF w0 w1)
  | 0x2 => mk .movi (clsI OI1.ofF w0 w1)
  | 0x3 => mk .iadd (clsS O3T.ofF w0 w1)
  | 0x4 => mk .isub (clsS O3T.ofF w0 w1)
  | 0x5 => mk .iaddi (clsI OI2.ofF w0 w1)
  | 0x6 => mk .imul (clsS O3.ofF w0 w1)
  | 0x7 => mk .imulhs (clsS O3.ofF w0 w1)
  | 0x8 => mk .imulhn (clsS O3.ofF w0 w1)
  | 0x9 => mk .imad (clsX O4T.ofF w0 w1)
  | 0xa => mk .imins (clsS O3.ofF w0 w1)
  | 0xb => mk .iminn (clsS O3.ofF w0 w1)
  | 0xc => mk .imaxs (clsS O3.ofF w0 w1)
  | 0xd => mk .imaxn (clsS O3.ofF w0 w1)
  | 0xe => mk .iabs (clsS O2T.ofF w0 w1)
  | 0xf => mk .ineg (clsS O2T.ofF w0 w1)
  | 0x10 => mk .and (clsS O3.ofF w0 w1)
  | 0x11 => mk .or (clsS O3.ofF w0 w1)
  | 0x12 => mk .xor (clsS O3.ofF w0 w1)
  | 0x13 => mk .andn (clsS O3.ofF w0 w1)
  | 0x14 => mk .andi (clsI OI2.ofF w0 w1)
  | 0x15 => mk .ori (clsI OI2.ofF w0 w1)
  | 0x16 => mk .xori (clsI OI2.ofF w0 w1)
  | 0x17 => mk .shl (clsS O3.ofF w0 w1)
  | 0x18 => mk .shrl (clsS O3.ofF w0 w1)
  | 0x19 => mk .shra (clsS O3.ofF w0 w1)
  | 0x1a => mk .shli (clsI OSh.ofF w0 w1)
  | 0x1b => mk .shrli (clsI OSh.ofF w0 w1)
  | 0x1c => mk .shrai (clsI OSh.ofF w0 w1)
  | 0x1d => mk .bfx (clsX OBf.ofF w0 w1)
  | 0x1e => mk .bfi (clsX OBf.ofF w0 w1)
  | 0x1f => mk .popc (clsS O2.ofF w0 w1)
  | 0x20 => mk .clz (clsS O2.ofF w0 w1)
  | 0x21 => mk .brev (clsS O2.ofF w0 w1)
  | 0x22 => mk .sel (clsS OSel.ofF w0 w1)
  | 0x23 => mk .lea (clsX OLea.ofF w0 w1)
  | 0x24 => mk .vadd2 (clsS O3T.ofF w0 w1)
  | 0x25 => mk .vsub2 (clsS O3T.ofF w0 w1)
  | 0x26 => mk .vmax2s (clsS O3.ofF w0 w1)
  | 0x27 => mk .vmax2n (clsS O3.ofF w0 w1)
  | 0x28 => mk .vmin2s (clsS O3.ofF w0 w1)
  | 0x29 => mk .vmin2n (clsS O3.ofF w0 w1)
  | 0x2a => mk .vacs2 (clsX OAcs.ofF w0 w1)
  | 0x2b => mk .icmp (clsX OCmp.ofF w0 w1)
  | 0x2c => mk .plog (clsX OPlog.ofF w0 w1)
  | 0x2d => clsX decPmov w0 w1
  | 0x2e => mk .rng (clsS O1.ofF w0 w1)
  | 0x2f => mk .srd (clsX OSrd.ofF w0 w1)
  | 0x30 => mk .fadd (clsS OF3.ofF w0 w1)
  | 0x31 => mk .fsub (clsS OF3.ofF w0 w1)
  | 0x32 => mk .fmul (clsS OF3.ofF w0 w1)
  | 0x33 => mk .ffma (clsX OF4.ofF w0 w1)
  | 0x34 => mk .fmin (clsS OF3.ofF w0 w1)
  | 0x35 => mk .fmax (clsS OF3.ofF w0 w1)
  | 0x36 => mk .fabs (clsS OF2.ofF w0 w1)
  | 0x37 => mk .fneg (clsS OF2.ofF w0 w1)
  | 0x38 => mk .fcmp (clsX OCmp.ofF w0 w1)
  | 0x39 => mk .frcp (clsX OFn.ofF w0 w1)
  | 0x3a => mk .frsq (clsX OFn.ofF w0 w1)
  | 0x3b => mk .fsqrt (clsX OFn.ofF w0 w1)
  | 0x3c => mk .fexp2 (clsX OFn.ofF w0 w1)
  | 0x3d => mk .flog2 (clsX OFn.ofF w0 w1)
  | 0x3e => mk .hfma2 (clsX OF4.ofF w0 w1)
  | 0x3f => mk .hadd2 (clsX OHadd.ofF w0 w1)
  | 0x40 => mk .cvt (clsX OCvt.ofF w0 w1)
  | 0x41 => mk .pk4 (clsX OPk.ofF w0 w1)
  | 0x42 => mk .upk (clsX OUpk.ofF w0 w1)
  | 0x43 => mk .shfl (clsX OShfl.ofF w0 w1)
  | 0x44 => mk .vote (clsX OVote.ofF w0 w1)
  | 0x45 => mk .lred (clsX ORed.ofF w0 w1)
  | 0x46 => mk .lscan (clsX ORed.ofF w0 w1)
  | 0x47 => mk .fpclass (clsX OCls.ofF w0 w1)
  | 0x48 => mk .perm (clsX O4.ofF w0 w1)
  | 0x50 => decB .bra .braLong w0 w1
  | 0x51 => mk .brx (clsX OBrx.ofF w0 w1)
  | 0x52 => decB .call .callLong w0 w1
  | 0x53 => mk .callx (clsX OBrx.ofF w0 w1)
  | 0x54 => mk .callo (clsX OLbl.ofF w0 w1)
  | 0x55 => mk .ret (clsS OG.ofF w0 w1)
  | 0x56 => mk .exit (clsS OG.ofF w0 w1)
  | 0x57 => clsX decRjoin w0 w1
  | 0x58 => mk .frame (clsS (fun f x wide => guard7 f (OFrame.ofF f x wide)) w0 w1)
  | 0x59 => mk .trap (clsX OTrap.ofF w0 w1)
  | 0x5a => mk .brk (clsS OG.ofF w0 w1)
  | 0x60 => mk .ld8 (clsX OLd.ofF w0 w1)
  | 0x61 => mk .ld16 (clsX OLd.ofF w0 w1)
  | 0x62 => mk .ld32 (clsX OLd.ofF w0 w1)
  | 0x63 => mk .ld64 (clsX OLd.ofF w0 w1)
  | 0x64 => mk .ld128 (clsX OLd.ofF w0 w1)
  | 0x65 => mk .st8 (clsX OSt.ofF w0 w1)
  | 0x66 => mk .st16 (clsX OSt.ofF w0 w1)
  | 0x67 => mk .st32 (clsX OSt.ofF w0 w1)
  | 0x68 => mk .st64 (clsX OSt.ofF w0 w1)
  | 0x69 => mk .st128 (clsX OSt.ofF w0 w1)
  | 0x6a => mk .atom (clsX OAtom.ofF w0 w1)
  | 0x6b => mk .gld32 (clsX OGld.ofF w0 w1)
  | 0x6c => mk .gld64 (clsX OGld.ofF w0 w1)
  | 0x6d => mk .gst32 (clsX OGst.ofF w0 w1)
  | 0x6e => mk .gst64 (clsX OGst.ofF w0 w1)
  | 0x6f => mk .gatom (clsX OAtom.ofF w0 w1)
  | 0x70 => mk .ctr (clsX OCtr.ofF w0 w1)
  | 0x71 => mk .ctrskip (clsX (fun f x => guard7 f (OSkip.ofF f x)) w0 w1)
  | 0x72 => mk .acz (clsX OAcz.ofF w0 w1)
  | 0x73 => mk .acrd (clsX OAcrd.ofF w0 w1)
  | 0x74 => mk .acwr (clsX OAcwr.ofF w0 w1)
  | 0x75 => mk .acdrain (clsX ODrain.ofF w0 w1)
  | 0x76 => mk .acaxpy (clsX OAxpy.ofF w0 w1)
  | 0x77 => mk .acrst (clsX OLbl.ofF w0 w1)
  | 0x78 => mk .spawn (clsX OSpawn.ofF w0 w1)
  | 0x79 => mk .swr (clsX OSwr.ofF w0 w1)
  | 0x7a => mk .gprf (clsX OGprf.ofF w0 w1)
  | _ => .error .reservedOpcode

/-- The uniform-set opcodes. -/
def decUniform (op : Nat) (w0 w1 : Word) : Except Illegal Instr :=
  match op with
  | 0x0 => mk .snop (clsS ONop.ofF w0 w1)
  | 0x1 => mk .smov (clsS O2.ofF w0 w1)
  | 0x2 => mk .smovi (clsI OI1.ofF w0 w1)
  | 0x3 => mk .sadd (clsS O3T.ofF w0 w1)
  | 0x4 => mk .ssub (clsS O3T.ofF w0 w1)
  | 0x5 => mk .saddi (clsI OI2.ofF w0 w1)
  | 0x6 => mk .smul (clsS O3.ofF w0 w1)
  | 0x7 => mk .smad (clsX O4T.ofF w0 w1)
  | 0x8 => mk .smins (clsS O3.ofF w0 w1)
  | 0x9 => mk .smaxs (clsS O3.ofF w0 w1)
  | 0xa => mk .sminn (clsS O3.ofF w0 w1)
  | 0xb => mk .smaxn (clsS O3.ofF w0 w1)
  | 0xc => mk .sand (clsS O3.ofF w0 w1)
  | 0xd => mk .sor (clsS O3.ofF w0 w1)
  | 0xe => mk .sxor (clsS O3.ofF w0 w1)
  | 0xf => mk .sandi (clsI OI2.ofF w0 w1)
  | 0x10 => mk .sori (clsI OI2.ofF w0 w1)
  | 0x11 => mk .sshl (clsS O3.ofF w0 w1)
  | 0x12 => mk .sshrl (clsS O3.ofF w0 w1)
  | 0x13 => mk .sshra (clsS O3.ofF w0 w1)
  | 0x14 => mk .sshli (clsI OSh.ofF w0 w1)
  | 0x15 => mk .sshrli (clsI OSh.ofF w0 w1)
  | 0x16 => mk .scmp (clsX OCmp.ofF w0 w1)
  | 0x17 => mk .splog (clsX OPlog.ofF w0 w1)
  | 0x18 => mk .ssel (clsS OSel.ofF w0 w1)
  | 0x19 => mk .sld32 (clsX OSld.ofF w0 w1)
  | 0x1a => mk .sst32 (clsX OSst.ofF w0 w1)
  | 0x1b => mk .sld64 (clsX OSld.ofF w0 w1)
  | 0x1c => mk .sst64 (clsX OSst.ofF w0 w1)
  | 0x1d => mk .ssrd (clsX OSrd.ofF w0 w1)
  | 0x1e => mk .sswr (clsX OSwr.ofF w0 w1)
  | 0x1f => mk .spopc (clsS O2.ofF w0 w1)
  | 0x20 => decB .sbra .sbraLong w0 w1
  | 0x21 => mk .sbrx (clsX OBrx.ofF w0 w1)
  | 0x22 => mk .bar (clsX OBar.ofF w0 w1)
  | 0x23 => mk .barar (clsX OBarar.ofF w0 w1)
  | 0x24 => mk .barwt (clsX OBarwt.ofF w0 w1)
  | 0x25 => mk .fence (clsX OFence.ofF w0 w1)
  | 0x26 => mk .tktwait (clsX OTkt.ofF w0 w1)
  | 0x27 => mk .tktpass (clsX OGX.ofF w0 w1)
  | 0x28 => mk .evset (clsX OEv.ofF w0 w1)
  | 0x29 => mk .evclr (clsX OEv.ofF w0 w1)
  | 0x2a => mk .evwait (clsX OEv.ofF w0 w1)
  | 0x2b => mk .qpop (clsX OQpop.ofF w0 w1)
  | 0x2c => mk .qpush (clsX OQpush.ofF w0 w1)
  | 0x2d => mk .chput (clsX OChput.ofF w0 w1)
  | 0x2e => mk .chget (clsX OChget.ofF w0 w1)
  | 0x2f => mk .cheos (clsX OCheos.ofF w0 w1)
  | 0x30 => clsX decCpy w0 w1
  | 0x31 => mk .cpygat (clsX OCpy.ofF w0 w1)
  | 0x32 => mk .mred (clsX OMred.ofF w0 w1)
  | 0x33 => mk .coll (clsX OMred.ofF w0 w1)
  | 0x34 => mk .wnw (clsX OCpy.ofF w0 w1)
  | 0x35 => mk .ovlld (clsX OOvl.ofF w0 w1)
  | 0x36 => mk .ovlrel (clsX OTok.ofF w0 w1)
  | 0x37 => mk .ovlevict (clsX OEvict.ofF w0 w1)
  | 0x38 => mk .opwait (clsX OTok.ofF w0 w1)
  | 0x39 => mk .optest (clsX OTest.ofF w0 w1)
  | 0x3a => mk .opseal (clsX OSeal.ofF w0 w1)
  | 0x3b => mk .opwaitb (clsX OWaitb.ofF w0 w1)
  | 0x3c => mk .opcancel (clsX OTok.ofF w0 w1)
  | 0x3d => mk .opdetach (clsX ODet.ofF w0 w1)
  | 0x3e => mk .opstat (clsX OStat.ofF w0 w1)
  | 0x3f => mk .opprio (clsX OPrio.ofF w0 w1)
  | 0x40 => mk .hret (clsX OBrx.ofF w0 w1)
  | 0x41 => mk .yield (clsS OG.ofF w0 w1)
  | 0x42 => mk .strap (clsX OTrap.ofF w0 w1)
  | 0x43 => mk .sbrk (clsS OG.ofF w0 w1)
  | 0x44 => clsX decIdle w0 w1
  | 0x45 => mk .opadopt (clsX OAdopt.ofF w0 w1)
  | _ => .error .reservedOpcode

/-- The words of an instruction, from the same tables; an event has none. -/
def encode : Instr → Option Words
  | .nop o => some (wordsS false 0x0 o.wide o.toF)
  | .mov o => some (wordsS false 0x1 o.wide o.toF)
  | .movi o => some (wordsI false 0x2 o.toF)
  | .iadd o => some (wordsS false 0x3 o.wide o.toF)
  | .isub o => some (wordsS false 0x4 o.wide o.toF)
  | .iaddi o => some (wordsI false 0x5 o.toF)
  | .imul o => some (wordsS false 0x6 o.wide o.toF)
  | .imulhs o => some (wordsS false 0x7 o.wide o.toF)
  | .imulhn o => some (wordsS false 0x8 o.wide o.toF)
  | .imad o => some (wordsX false 0x9 o.toF)
  | .imins o => some (wordsS false 0xa o.wide o.toF)
  | .iminn o => some (wordsS false 0xb o.wide o.toF)
  | .imaxs o => some (wordsS false 0xc o.wide o.toF)
  | .imaxn o => some (wordsS false 0xd o.wide o.toF)
  | .iabs o => some (wordsS false 0xe o.wide o.toF)
  | .ineg o => some (wordsS false 0xf o.wide o.toF)
  | .and o => some (wordsS false 0x10 o.wide o.toF)
  | .or o => some (wordsS false 0x11 o.wide o.toF)
  | .xor o => some (wordsS false 0x12 o.wide o.toF)
  | .andn o => some (wordsS false 0x13 o.wide o.toF)
  | .andi o => some (wordsI false 0x14 o.toF)
  | .ori o => some (wordsI false 0x15 o.toF)
  | .xori o => some (wordsI false 0x16 o.toF)
  | .shl o => some (wordsS false 0x17 o.wide o.toF)
  | .shrl o => some (wordsS false 0x18 o.wide o.toF)
  | .shra o => some (wordsS false 0x19 o.wide o.toF)
  | .shli o => some (wordsI false 0x1a o.toF)
  | .shrli o => some (wordsI false 0x1b o.toF)
  | .shrai o => some (wordsI false 0x1c o.toF)
  | .bfx o => some (wordsX false 0x1d o.toF)
  | .bfi o => some (wordsX false 0x1e o.toF)
  | .popc o => some (wordsS false 0x1f o.wide o.toF)
  | .clz o => some (wordsS false 0x20 o.wide o.toF)
  | .brev o => some (wordsS false 0x21 o.wide o.toF)
  | .sel o => some (wordsS false 0x22 o.wide o.toF)
  | .lea o => some (wordsX false 0x23 o.toF)
  | .vadd2 o => some (wordsS false 0x24 o.wide o.toF)
  | .vsub2 o => some (wordsS false 0x25 o.wide o.toF)
  | .vmax2s o => some (wordsS false 0x26 o.wide o.toF)
  | .vmax2n o => some (wordsS false 0x27 o.wide o.toF)
  | .vmin2s o => some (wordsS false 0x28 o.wide o.toF)
  | .vmin2n o => some (wordsS false 0x29 o.wide o.toF)
  | .vacs2 o => some (wordsX false 0x2a o.toF)
  | .icmp o => some (wordsX false 0x2b o.toF)
  | .plog o => some (wordsX false 0x2c o.toF)
  | .pmovTov o => some (wordsX false 0x2d o.toTov)
  | .pmovFrv o => some (wordsX false 0x2d o.toFrv)
  | .rng o => some (wordsS false 0x2e o.wide o.toF)
  | .srd o => some (wordsX false 0x2f o.toF)
  | .fadd o => some (wordsS false 0x30 o.wide o.toF)
  | .fsub o => some (wordsS false 0x31 o.wide o.toF)
  | .fmul o => some (wordsS false 0x32 o.wide o.toF)
  | .ffma o => some (wordsX false 0x33 o.toF)
  | .fmin o => some (wordsS false 0x34 o.wide o.toF)
  | .fmax o => some (wordsS false 0x35 o.wide o.toF)
  | .fabs o => some (wordsS false 0x36 o.wide o.toF)
  | .fneg o => some (wordsS false 0x37 o.wide o.toF)
  | .fcmp o => some (wordsX false 0x38 o.toF)
  | .frcp o => some (wordsX false 0x39 o.toF)
  | .frsq o => some (wordsX false 0x3a o.toF)
  | .fsqrt o => some (wordsX false 0x3b o.toF)
  | .fexp2 o => some (wordsX false 0x3c o.toF)
  | .flog2 o => some (wordsX false 0x3d o.toF)
  | .hfma2 o => some (wordsX false 0x3e o.toF)
  | .hadd2 o => some (wordsX false 0x3f o.toF)
  | .cvt o => some (wordsX false 0x40 o.toF)
  | .pk4 o => some (wordsX false 0x41 o.toF)
  | .upk o => some (wordsX false 0x42 o.toF)
  | .shfl o => some (wordsX false 0x43 o.toF)
  | .vote o => some (wordsX false 0x44 o.toF)
  | .lred o => some (wordsX false 0x45 o.toF)
  | .lscan o => some (wordsX false 0x46 o.toF)
  | .fpclass o => some (wordsX false 0x47 o.toF)
  | .perm o => some (wordsX false 0x48 o.toF)
  | .bra o => some (o.words false 0x50)
  | .braLong o => some (o.words false 0x50)
  | .brx o => some (wordsX false 0x51 o.toF)
  | .call o => some (o.words false 0x52)
  | .callLong o => some (o.words false 0x52)
  | .callx o => some (wordsX false 0x53 o.toF)
  | .callo o => some (wordsX false 0x54 o.toF)
  | .ret o => some (wordsS false 0x55 o.wide o.toF)
  | .exit o => some (wordsS false 0x56 o.wide o.toF)
  | .rjoin => some (wordsX false 0x57 (Fld.zero, Ext.zero))
  | .frame o => some (wordsS false 0x58 o.wide o.toF)
  | .trap o => some (wordsX false 0x59 o.toF)
  | .brk o => some (wordsS false 0x5a o.wide o.toF)
  | .ld8 o => some (wordsX false 0x60 o.toF)
  | .ld16 o => some (wordsX false 0x61 o.toF)
  | .ld32 o => some (wordsX false 0x62 o.toF)
  | .ld64 o => some (wordsX false 0x63 o.toF)
  | .ld128 o => some (wordsX false 0x64 o.toF)
  | .st8 o => some (wordsX false 0x65 o.toF)
  | .st16 o => some (wordsX false 0x66 o.toF)
  | .st32 o => some (wordsX false 0x67 o.toF)
  | .st64 o => some (wordsX false 0x68 o.toF)
  | .st128 o => some (wordsX false 0x69 o.toF)
  | .atom o => some (wordsX false 0x6a o.toF)
  | .gld32 o => some (wordsX false 0x6b o.toF)
  | .gld64 o => some (wordsX false 0x6c o.toF)
  | .gst32 o => some (wordsX false 0x6d o.toF)
  | .gst64 o => some (wordsX false 0x6e o.toF)
  | .gatom o => some (wordsX false 0x6f o.toF)
  | .ctr o => some (wordsX false 0x70 o.toF)
  | .ctrskip o => some (wordsX false 0x71 o.toF)
  | .acz o => some (wordsX false 0x72 o.toF)
  | .acrd o => some (wordsX false 0x73 o.toF)
  | .acwr o => some (wordsX false 0x74 o.toF)
  | .acdrain o => some (wordsX false 0x75 o.toF)
  | .acaxpy o => some (wordsX false 0x76 o.toF)
  | .acrst o => some (wordsX false 0x77 o.toF)
  | .spawn o => some (wordsX false 0x78 o.toF)
  | .swr o => some (wordsX false 0x79 o.toF)
  | .gprf o => some (wordsX false 0x7a o.toF)
  | .snop o => some (wordsS true 0x0 o.wide o.toF)
  | .smov o => some (wordsS true 0x1 o.wide o.toF)
  | .smovi o => some (wordsI true 0x2 o.toF)
  | .sadd o => some (wordsS true 0x3 o.wide o.toF)
  | .ssub o => some (wordsS true 0x4 o.wide o.toF)
  | .saddi o => some (wordsI true 0x5 o.toF)
  | .smul o => some (wordsS true 0x6 o.wide o.toF)
  | .smad o => some (wordsX true 0x7 o.toF)
  | .smins o => some (wordsS true 0x8 o.wide o.toF)
  | .smaxs o => some (wordsS true 0x9 o.wide o.toF)
  | .sminn o => some (wordsS true 0xa o.wide o.toF)
  | .smaxn o => some (wordsS true 0xb o.wide o.toF)
  | .sand o => some (wordsS true 0xc o.wide o.toF)
  | .sor o => some (wordsS true 0xd o.wide o.toF)
  | .sxor o => some (wordsS true 0xe o.wide o.toF)
  | .sandi o => some (wordsI true 0xf o.toF)
  | .sori o => some (wordsI true 0x10 o.toF)
  | .sshl o => some (wordsS true 0x11 o.wide o.toF)
  | .sshrl o => some (wordsS true 0x12 o.wide o.toF)
  | .sshra o => some (wordsS true 0x13 o.wide o.toF)
  | .sshli o => some (wordsI true 0x14 o.toF)
  | .sshrli o => some (wordsI true 0x15 o.toF)
  | .scmp o => some (wordsX true 0x16 o.toF)
  | .splog o => some (wordsX true 0x17 o.toF)
  | .ssel o => some (wordsS true 0x18 o.wide o.toF)
  | .sld32 o => some (wordsX true 0x19 o.toF)
  | .sst32 o => some (wordsX true 0x1a o.toF)
  | .sld64 o => some (wordsX true 0x1b o.toF)
  | .sst64 o => some (wordsX true 0x1c o.toF)
  | .ssrd o => some (wordsX true 0x1d o.toF)
  | .sswr o => some (wordsX true 0x1e o.toF)
  | .spopc o => some (wordsS true 0x1f o.wide o.toF)
  | .sbra o => some (o.words true 0x20)
  | .sbraLong o => some (o.words true 0x20)
  | .sbrx o => some (wordsX true 0x21 o.toF)
  | .bar o => some (wordsX true 0x22 o.toF)
  | .barar o => some (wordsX true 0x23 o.toF)
  | .barwt o => some (wordsX true 0x24 o.toF)
  | .fence o => some (wordsX true 0x25 o.toF)
  | .tktwait o => some (wordsX true 0x26 o.toF)
  | .tktpass o => some (wordsX true 0x27 o.toF)
  | .evset o => some (wordsX true 0x28 o.toF)
  | .evclr o => some (wordsX true 0x29 o.toF)
  | .evwait o => some (wordsX true 0x2a o.toF)
  | .qpop o => some (wordsX true 0x2b o.toF)
  | .qpush o => some (wordsX true 0x2c o.toF)
  | .chput o => some (wordsX true 0x2d o.toF)
  | .chget o => some (wordsX true 0x2e o.toF)
  | .cheos o => some (wordsX true 0x2f o.toF)
  | .cpyIn o => some (wordsX true 0x30 (o.toF 0))
  | .cpyOut o => some (wordsX true 0x30 (o.toF 1))
  | .cpyCk o => some (wordsX true 0x30 (o.toF 2))
  | .cpyCkc o => some (wordsX true 0x30 (o.toF 3))
  | .cpyIna o => some (wordsX true 0x30 (o.toF 4))
  | .cpyOuta o => some (wordsX true 0x30 (o.toF 5))
  | .cpygat o => some (wordsX true 0x31 (o.toF 0))
  | .mred o => some (wordsX true 0x32 o.toF)
  | .coll o => some (wordsX true 0x33 o.toF)
  | .wnw o => some (wordsX true 0x34 (o.toF 0))
  | .ovlld o => some (wordsX true 0x35 o.toF)
  | .ovlrel o => some (wordsX true 0x36 o.toF)
  | .ovlevict o => some (wordsX true 0x37 o.toF)
  | .opwait o => some (wordsX true 0x38 o.toF)
  | .optest o => some (wordsX true 0x39 o.toF)
  | .opseal o => some (wordsX true 0x3a o.toF)
  | .opwaitb o => some (wordsX true 0x3b o.toF)
  | .opcancel o => some (wordsX true 0x3c o.toF)
  | .opdetach o => some (wordsX true 0x3d o.toF)
  | .opstat o => some (wordsX true 0x3e o.toF)
  | .opprio o => some (wordsX true 0x3f o.toF)
  | .hret o => some (wordsX true 0x40 o.toF)
  | .yield o => some (wordsS true 0x41 o.wide o.toF)
  | .strap o => some (wordsX true 0x42 o.toF)
  | .sbrk o => some (wordsS true 0x43 o.wide o.toF)
  | .idleQ o => some (wordsX true 0x44 o.toF)
  | .idleEv o => some (wordsX true 0x44 o.toIdle)
  | .opadopt o => some (wordsX true 0x45 o.toF)
  | .doorbell .. | .deviceQueueDoorbell .. | .launchPacket _ | .registerHeader _ | .bindRecordWrite ..
  | .combineTreeWrite .. | .firmwareRegisterWrite _ | .tlbInvalidate .. | .blockReservation _ | .coResidentPlacement _
  | .blockStart .. | .blockExit .. | .launchCompletion _ | .longLatencyCompletion .. | .gatherDataArrival ..
  | .handlerEntry _ | .handlerTimeout _ | .contextRung _ | .opStart .. | .opFinish .. | .opSuspend .. | .opReplay ..
  | .opEndFailed .. | .contractionGroup .. | .mredPacketArrival .. | .mredTimeout .. | .collPacketArrival ..
  | .collTimeout .. | .overlayDigestCheck .. | .codePageReload .. | .ticketFrontierUpdate _ | .taskCordFormation ..
  | .taskReadyTimeout .. | .preemptRequest .. | .drainTimeout .. | .contextSave .. | .contextRestore _ | .powerAlarm
  | .powerAlarmClear | .sensorSample .. | .patrolScrub _ | .meshFlitRetry .. | .linkFlitReplay .. | .linkRetrain ..
  | .cxlLinkTraining .. | .hostMemAccess _ | .peerAccess .. | .localLineWriteback .. | .partitionReset _
  | .partitionUpdate _ | .partitionRepair .. | .deviceReset | .deviceBoot .. | .firmwareUpdateStage _
  | .getMeasurements .. | .perfCounterRead .. | .errorCounterRead _ | .notAnInstruction _ | .unitBoundary ..
  | .gatherPerformed .. => none

/-! ### Fetching a word pair -/

/-- The words that a decoder reads: the second only when bit [30] is set (R72). -/
def wordsOf (w0 w1 : Word) : Words := ⟨w0, if bitOf w0 30 then some w1 else none⟩

/-- Which row of R83 a nonzero field breaks when the words are not those of the instruction read from them. -/
def fieldFault (w0 w1 : Word) (e : Words) : Illegal :=
  match e.second with
  | none => .reservedField
  | some v =>
    let x := Ext.parse w1
    let y := Ext.parse v
    if x.la ≠ y.la then .lookahead
    else if x.rnd ≠ y.rnd then .rounding
    else if x.sat ≠ y.sat then .saturation
    else if x.scope ≠ y.scope || x.acq ≠ y.acq || x.rel ≠ y.rel then .scope
    else if !bitOf w0 31 && bitOf w0 0 ≠ bitOf e.first 0 then .uniform
    else .reservedField

/-- The instruction that a first word and its extension encode, or the condition of R83 that fails. -/
def decode (w0 w1 : Word) : Except Illegal Instr :=
  let op := (w0.extractLsb' 23 7).toNat
  match (if bitOf w0 31 then decUniform op w0 w1 else decLane op w0 w1) with
  | .error e => .error e
  | .ok i =>
    match i.check with
    | some e => .error e
    | none =>
      match encode i with
      | none => .error .reservedOpcode
      | some e => if e = wordsOf w0 w1 then .ok i else .error (fieldFault w0 w1 e)

/-- How many bytes a first word's instruction takes (R72). -/
def lengthOf (w0 : Word) : Nat := if bitOf w0 30 then 8 else 4

/-- A word in its little-endian bytes (R47). -/
def wordBytes (w : Word) : List Byte :=
  [w.extractLsb' 0 8, w.extractLsb' 8 8, w.extractLsb' 16 8, w.extractLsb' 24 8]

/-- The little-endian value of bytes (R47). -/
def bytesToNat : List Byte → Nat
  | [] => 0
  | b :: r => b.toNat + 256 * bytesToNat r

/-- The instruction at the head of a list of bytes and the bytes after it; an error where a word is missing. -/
def decodeBytes (l : List Byte) : Except Illegal (Instr × List Byte) :=
  if l.length < 4 then .error .reservedOpcode
  else
    let w0 : Word := BitVec.ofNat 32 (bytesToNat (l.take 4))
    if l.length < lengthOf w0 then .error .noExtension
    else
      let w1 : Word := BitVec.ofNat 32 (bytesToNat ((l.drop 4).take 4))
      (decode w0 w1).map (fun i => (i, l.drop (lengthOf w0)))

/-- The bytes of an instruction. -/
def Words.bytes (w : Words) : List Byte :=
  wordBytes w.first ++ (match w.second with | none => [] | some v => wordBytes v)

/-- The longest instruction in bytes (R72). -/
def maxLength : Nat := 8

/-- The bytes of an instruction whose bits are `w` numbered as opcode_table.json numbers them, bits from `nbits` up being 0:
each 32-bit word little-endian, the first at the lowest address (R72). -/
def tableBytes (nbits w : Nat) : List Byte :=
  let v := w % 2 ^ nbits
  wordBytes (BitVec.ofNat 32 v) ++ wordBytes (BitVec.ofNat 32 (v / 2 ^ 32))

/-- What the decoder reads from an instruction given by its bits. -/
def decodeTableWord (nbits w : Nat) : Option Instr :=
  match decodeBytes (tableBytes nbits w) with
  | .ok (i, _) => some i
  | .error _ => none

end Sys2Proof
end

