-- ==== Sys2Proof/Config.lean ====
section
/-!
DEFINITION. What an implementation of the GX3 fixes, and the values the spec leaves free. A free value is an opaque
constant without a body: a statement about it holds for every value it may take.
-/

namespace Sys2Proof.Config

/-! ### Sizes of the device (00_scope.md R1, 01_machine.md R5) -/

/-- Cores of one die. -/
def coresPerDie : Nat := 64
/-- Dies of the device. -/
def dies : Nat := 2
/-- Queues homed on one die (R282). -/
def queuesPerDie : Nat := 4096
/-- Bytes of scratchpad of one core (R254). -/
def scratchBytes : Nat := 1048576
/-- Tiles of one core, and bytes of one tile (R258). -/
def tiles : Nat := 16
def tileBytes : Nat := 16384
/-- Pages of the code store of one core, and bytes of one page (R259). -/
def codePages : Nat := 96
def pageBytes : Nat := 4096
/-- Entries of the op table, the range scoreboard and the code map of one core (R298, R257, R300). -/
def opEntries : Nat := 512
def scoreboardEntries : Nat := 64
def codeMapEntries : Nat := 256
/-- Resident cords of a core, and of one quarter (R35). -/
def cordsPerCore : Nat := 32
def cordsPerQuarter : Nat := 8
/-- Lane registers and uniform registers of a core (R35). -/
def laneRegs : Nat := 131072
def uniformRegs : Nat := 4096
/-- Channels of a core (R35). -/
def channels : Nat := 16
/-- Lines of the local-memory path of a core (R260). -/
def localLines : Nat := 256
/-- Gather accesses in flight of a cord (R313). -/
def gatherLimit : Nat := 1024
/-- Items of a cluster's task queue (R296). -/
def taskItems : Nat := 4096
/-- Unfinished sealed batches of a cord (R216). -/
def sealLimit : Nat := 16
/-- Entries of the micro-TLBs and of the last-level TLB (R309). -/
def engineTlb : Nat := 64
def gatherTlb : Nat := 128
def lastTlb : Nat := 16384
/-- Lines of a die's error list (R265), entries of the error log (R340). -/
def errorList : Nat := 64
def errorLog : Nat := 4096
/-- Device memory in bytes: twelve stacks of 48 GiB (R1). -/
def hbmBytes : Nat := 618475290624
/-- Call depth (R247). -/
def depthLimit : Nat := 4095
/-- Link slots a window ring keeps (R247). -/
def linkSlots : Nat := 8
/-- Module power in watts at most (R1, R341). -/
def powerMax : Nat := 2300

/-! ### Free values (log entries 2, 14, 15, DESIGN CHOICE) -/

/-- The IEEE 1588 time of a stamp, and the count of a performance counter that counts clocks (R17, R324, R316):
the spec gives them no value. The argument is the state's counter of free values. -/
opaque freeValue : Nat → BitVec 64

/-- The Berusk public key in ROM and the private device identity key, for SLH-DSA-SHAKE-256s, and the device's certificate chain
(R342, R343; log entry 15, DESIGN CHOICE): the spec gives the bytes of none of them. -/
opaque romKey : List Byte
opaque deviceKey : List Byte
opaque deviceCerts : List Byte

/-- What the body of a configuration record says (R342; log entry 15, DESIGN CHOICE): the spec gives the record's parts and not
their places. Clusters and stacks of each partition, the power ceiling, the DMA windows, the spare-core remaps. -/
opaque recordPartitions : List Byte → List (List Nat × List Nat)
opaque recordCeiling : List Byte → Nat
opaque recordWindows : List Byte → List (Nat × Nat × Bool × Bool)
opaque recordRemaps : List Byte → List (Nat × Nat)

/-- The bytes of the boot ROM, measured at index 1 (R343; log entry 14, DESIGN CHOICE). -/
opaque bootRom : List Byte

end Sys2Proof.Config
end

