-- ==== Sys2Proof/Machine/State.lean ====
section
/-!
DEFINITION. The state of the GX3 as plain data: the whole device, from the lanes of a cord (10_registers.md R244) up to
the management controller (17_outside.md R340), and the state after reset. A collection lists only what is in use.
Where a field is the model's own and not the spec's, its docstring says so.
-/

namespace Sys2Proof.Machine

/-- A store: (address, byte) pairs in rising order of address, none with the byte 0, which an unlisted address reads
as (log entry 3, DESIGN CHOICE, unsafe). -/
abbrev Mem := List Host.Cell

/-! ### Lanes -/

/-- The four lane states (R18). -/
inductive LaneState where
  | run | wait | park | exit
  deriving DecidableEq, Repr

/-- One frame of a lane: the link slot that created it, its frame sizes and its window bases (R140, R141, R246, R247). -/
structure Frame where
  /-- Return address; none in the frame at depth 0 and in a handler's frame (R318). -/
  ret : Option Word
  /-- The frame's own sizes (R141). The link slot of the frame above holds them too (R140). -/
  vf : Nat
  sf : Nat
  /-- Ring slots of the lane window and of the uniform window. -/
  vb : Nat
  sb : Nat
  /-- The link slot is marked: it holds the overlay at this code address (R301). -/
  hold : Option Nat
  /-- Offset in the lane's local area where the frame's lane registers and link slot are spilled (R247). -/
  spill : Option Nat
  deriving DecidableEq, Repr

/-- What a lane holds (R244, R318). -/
structure Lane where
  /-- v1 to v15 under their numbers, the window ring from 16 up, as R263 numbers them. -/
  regs : Tab Word
  /-- p0 to p6. -/
  p : BitVec 7
  pc : Word
  st : LaneState
  /-- In WAIT for gather data (R26), not at a holding point. -/
  data : Bool
  /-- Left in PARK by a handler: absent at holding points (R27, R240). -/
  served : Bool
  /-- Frames, the current one first. -/
  frames : List Frame
  /-- Generator state (R55). -/
  rng : DWord
  /-- Work identifier (R28). -/
  wid : DWord
  /-- sr.locbase, 52 bits (R287). -/
  locbase : Nat
  /-- Earlier spawns of the lane (R297). -/
  spawns : Byte
  /-- Saved PC, state and predicates of a handler (R318). -/
  savedPc : Word
  savedSt : LaneState
  savedData : Bool
  savedP : BitVec 7
  deriving DecidableEq, Repr

/-! ### Cords -/

/-- A range of the range scoreboard: physical scratchpad bytes from `lo` up to `hi` (R257). -/
structure SpRange where
  write : Bool
  lo : Nat
  hi : Nat
  deriving DecidableEq, Repr

/-- One register write that a long-latency instruction still owes (R61). Registers are numbered as in `Lane.regs`. -/
inductive Owed where
  | v (lane key : Nat) (x : Word)
  | s (key : Nat) (x : Word)
  | q (i : Nat) (x : Bool)
  /-- A q predicate of the code that a handler has interrupted (R318). -/
  | savedQ (i : Nat) (x : Bool)
  | fpf (f : BitVec 5)
  /-- The instruction completes when no access of this gather is in flight (R161). -/
  | gather (id : Nat)
  deriving DecidableEq, Repr

/-- What an instruction reads and writes, by name (R61, R246): lane registers, uniform registers, lane predicates, uniform
predicates, tiles. -/
structure Uses where
  vr : List Nat
  vw : List Nat
  sr : List Nat
  sw : List Nat
  pr : List Nat
  pw : List Nat
  qr : List Nat
  qw : List Nat
  tr : List Nat
  tw : List Nat
  deriving DecidableEq, Repr

/-- A long-latency instruction in flight (R61). -/
structure InFlight where
  /-- Issues still allowed. -/
  left : Nat
  uses : Uses
  owed : List Owed
  /-- The scratchpad range that a `qpop` holds until its packet is written (R168, R257). -/
  range : Option SpRange := none
  deriving DecidableEq, Repr

/-- What a gather access does (R159 to R161). -/
inductive AccessOp where
  | load
  | store (bytes : List Byte)
  | atom (op : AtomOp) (x cmp : Word)
  deriving DecidableEq, Repr

/-- A gather access in flight (R158, R311). -/
structure Access where
  /-- Which gather instruction of the cord made it. -/
  id : Nat
  /-- The lanes that receive its result; one, but with `.uni`. -/
  lanes : List Nat
  op : AccessOp
  addr : Nat
  size : Nat
  /-- Destination registers, low word first, as numbered in `Lane.regs`; 0 discards. One list for each lane of `lanes`. -/
  dst : List (List Nat)
  /-- Where the instruction stands: the lane parks there when the access faults (R27). -/
  pc : Word
  /-- The lookahead window closed before the data came (R26). -/
  late : Bool
  /-- The instruction is an acquire, for which later accesses of the cord wait, or a release, at a scope (R269). -/
  acq : Bool
  rel : Bool
  scope : Scope
  /-- The clock of the issue, for the order of accesses of several cords (R272). -/
  stamp : Nat
  /-- The instruction issued before the handler in progress was entered (R318). -/
  outer : Bool
  deriving DecidableEq, Repr

/-- An open lookahead window of a gather (R26). -/
structure GatherWindow where
  id : Nat
  left : Nat
  /-- Lane registers named as destination. -/
  dst : List Nat
  deriving DecidableEq, Repr

/-- The restart record (R206). -/
structure Restart where
  label : Word
  regs : List Word
  counts : Tab Word
  /-- The tiles that the cord has skipped for good (R200). -/
  skips : List Nat
  lanes : Word
  deriving DecidableEq, Repr

/-- A handler in progress (R318, R321, R322). -/
structure Handler where
  rung : Nat
  savedQ : BitVec 7
  /-- The cause it serves. -/
  cause : Byte
  deriving DecidableEq, Repr

/-- A `bar` that has arrived and waits: the lanes that execute it, barrier, phase, and the flag once the phase is complete (R23, R163,
R170). -/
structure BarWait where
  lanes : List Nat
  bar : Nat
  phase : Nat
  flag : Option Bool
  deriving DecidableEq, Repr

/-- What an instruction that waits at issue for a child operation keeps (R213, R231). -/
structure Kept where
  addr : Nat
  token : Word
  core : Nat
  done : Option Bool
  deriving DecidableEq, Repr

/-- What a cord holds (R244) and how far its unfinished work has come. -/
structure Cord where
  lanes : Tab Lane
  /-- s1 to s15, then the uniform ring from 16 up. -/
  sregs : Tab Word
  /-- The s registers whose hidden token bit is set (R329). -/
  stok : List Nat
  /-- q0 to q6. -/
  q : BitVec 7
  joinm : Word
  fpf : BitVec 5
  lkdis : Bool
  hvec : Word
  cause : Byte
  tval : Word
  tile : Word
  tile2 : Word
  prog : BitVec 16
  icount : Word
  restart : Restart
  /-- sr.mode [8] and the saved q predicates: a handler runs (R248, R318). -/
  handler : Option Handler
  /-- A fault of rung 0 or 1 has escalated to this rung, and is not served yet (R321, R323). -/
  escalated : Option Nat
  /-- The present lanes (R19). -/
  present : Word
  role : Nat
  entry : Word
  /-- Quarter and position in it (R35, R263). -/
  quarter : Nat
  pos : Nat
  /-- Register budgets B and U (R246). -/
  vbud : Nat
  ubud : Nat
  /-- Uniform frames spilled: depth, ring base, frame size and offset (R247). -/
  uspill : List (Nat × Nat × Nat × Nat)
  /-- The open batch's number, and whether it holds an operation (R216). -/
  batch : Word
  batchOpen : Bool
  /-- Effective seals so far, counted without end: batches keep their order when the number wraps (R312). -/
  seals : Nat
  /-- Arrivals at each tile of the block, and the tiles skipped for good (R176, R200). -/
  tcount : Tab Word
  skipAll : List Nat
  /-- The phase of the most recent `barar` on each barrier, and the flag its phase gave (R163). -/
  barars : Tab Nat
  bflags : Tab Bool
  /-- The `bar` instructions that have arrived and wait, by code address (R163, R170). -/
  barWait : Tab BarWait
  /-- A `callo` that waits for a load: the overlay's code address, and the lanes whose holds it has counted (R143, R301). -/
  calloWait : Option (Nat × List Nat)
  /-- An instruction that waits at issue for a child operation or for an entry, its checks made (R213, R231): its address, the
  token that it names or 0, the core whose op table the token names (R315), and once that operation's entry has been collected, whether it
  finished DONE (log entry 29, DEDUCED). -/
  kept : Option Kept
  /-- The tree of a collective that waits so: whether a system tree, its number, and whether firmware has written the tree since (R222,
  R305). -/
  keptRed : Option (Bool × Nat × Bool)
  /-- Arrivals that a waiting `ctrskip` still owes, by its code address (R179, R200). -/
  skipLeft : Tab Nat
  inflight : List InFlight
  gathers : List Access
  windows : List GatherWindow
  /-- The number the next gather instruction takes. -/
  gseq : Nat
  /-- The model's own: the gather instruction and lane whose fault sr.cause and sr.tval hold (R158: a gather's lanes fault at
  different times, and the lowest-numbered gives the cause; log entry 30, DEDUCED). -/
  gfault : Option (Nat × Nat)
  /-- The address that follows the previous issue in code order; none where that issue sent a lane elsewhere (R61). -/
  next : Option Word
  /-- The lanes that the previous issue executed in (R26, R61). -/
  prev : List Nat
  /-- The clock of the last issue (R38), and whether the cord has issued at all (R333). -/
  last : Nat
  issued : Bool
  /-- The clock on which a `yield` makes the cord ineligible (R242). -/
  rest : Option Nat
  /-- The cord waits in an instruction (R38, R170): its address and the lanes that execute it. -/
  waits : Option (Nat × List Nat)
  /-- The words of an instruction that the cord has fetched and not issued yet, with its address (R302). -/
  fetched : Option (Nat × Word × Word)
  deriving DecidableEq, Repr

/-! ### Child operations -/

/-- States of an operation (R209). -/
inductive OpState where
  | queued | running | suspended | done | failed | cancelled
  deriving DecidableEq, Repr

/-- What an operation does (R212, R217). -/
inductive OpKind where
  | cpy (fn : Nat) | cpygat | mred (fn : RedTy) | coll (fn : RedTy) | wnw | replay | ovlld
  deriving DecidableEq, Repr

/-- An op-table entry in use: the control word and fault record (R298, R212), and what the engine needs. -/
structure OpEntry where
  ctx : Nat
  slot : Nat
  cord : Nat
  /-- Launch and block index of the issuing block, and its allocation (R235, R237). -/
  launch : Nat
  blk : Nat
  /-- The issuing block, by `Block.id`. -/
  owner : Nat
  base : Nat
  len : Nat
  kind : OpKind
  prio : Nat
  state : OpState
  cause : Byte
  addr : Nat
  cursor : Nat
  /-- The after-token, and the core whose op table it names (R210, R315). -/
  after : Word
  afterCore : Nat
  batch : Word
  /-- The cord's seals when it joined its batch (R216, R312). -/
  bseq : Nat
  token : Word
  /-- Detached (R235), and then the completion record address; adopted again (R236). -/
  det : Option Nat
  adopted : Bool
  rep : Bool
  /-- The token was discarded at issue (R211). -/
  auto : Bool
  ordf : Bool
  acq : Bool
  rel : Bool
  scope : Scope
  /-- Operand values: offset or address a, offset or address b, and the words of c. A started pass holds its descriptor
  in c (R225). -/
  a : Nat
  b : Nat
  c : List Word
  /-- The issue order on the core. -/
  seq : Nat
  started : Bool
  ranges : List SpRange
  /-- `opcancel` came while RUNNING (R233); the entry is kept for a saved block (R315). -/
  cancel : Bool
  pause : Bool
  /-- `wnw` and its replay: the other operation's token, the lists, and the certificate (R226). `sel` is also the index
  list of a `cpygat` (R220), and `cert` the values that a `cpy.ckc` has written (R218). -/
  pair : Option Word
  sel : List Nat
  repl : List Nat
  cert : Word
  listed : Bool
  /-- The physical tile a tile copy names (R219). -/
  tile : Option Nat
  /-- An overlay load: the overlay's index and code address, whether its residency token still holds the overlay (R229,
  R233), and whether its table entry counts as absent (R299). -/
  ovl : Nat
  caddr : Nat
  holds : Bool
  absent : Bool
  /-- The suspension or failure has been written to the fault queue (R324, R237), and the rung that it has escalated to since (R326). -/
  told : Bool
  escalated : Option Nat
  deriving DecidableEq, Repr

/-! ### Blocks -/

/-- One phase of a barrier (R163): the count its first arrival gave, and who arrived, in order of arrival. -/
structure Phase where
  count : Nat
  arrivals : List Nat
  deriving DecidableEq, Repr

/-- A barrier: the number of its current phase, and the current and three later phases (R163, R311). -/
structure Barrier where
  number : Nat
  phases : List Phase
  deriving DecidableEq, Repr

/-- How far a block has come (R14, R325, R327, R328, R332). -/
inductive BlockStatus where
  /-- Placed, not initialised; a tentative reservation of a co-resident launch is one too (R293). -/
  | reserved
  | running
  /-- Runs to exit, saved if it has not exited in time (R327 row 2). -/
  | draining
  /-- Is being saved (R328), to be restored or, with `flush`, started anew (R332). -/
  | saving (flush : Bool)
  /-- Restored, and waits for overlays that must be loaded first (R301, R329). -/
  | restoring
  /-- Ended by a fault (R325). -/
  | ended
  deriving DecidableEq, Repr

/-- What a task block keeps of the items of its lanes (R296, R297): the depth of its cord (log entry 69, DEDUCED), and by lane the event
slice and set mask that its exit sets. -/
structure TaskInfo where
  depth : Nat
  sets : Tab (Nat × BitVec 16)
  deriving DecidableEq, Repr

/-- A resident block (R32 to R38, R163, R244, R286). -/
structure Block where
  launch : Nat
  index : Nat
  /-- The rank of the index among the launch's blocks (R29). -/
  rank : Nat
  ctx : Nat
  prio : Nat
  status : BlockStatus
  cords : Tab Cord
  /-- sr.spbase and sr.splen in bytes (R251). -/
  spbase : Nat
  splen : Nat
  /-- Physical tiles owned, ascending (sr.accm). -/
  tiles : List Nat
  /-- Physical channels owned, ascending. -/
  chans : List Nat
  /-- Op-table entries reserved (R35). -/
  ops : Nat
  barriers : Tab Barrier
  /-- Barrier epoch (R164). -/
  epoch : Word
  /-- Race-check records of scratchpad lines, by line offset in the allocation (R273). -/
  lines : Tab (Nat × Word)
  /-- Local area per lane in bytes (R286). -/
  lsize : Nat
  /-- Device queues bound (R286). -/
  dq : List (Option Nat)
  bhand : Word
  ovtab : Nat
  det : Bool
  race : Bool
  idem : Bool
  recomp : Bool
  /-- sr.arg and sr.arghi (R251). -/
  arg : Nat
  /-- sr.fw (R30). -/
  fw : Word
  task : Option TaskInfo
  /-- The code address of the base overlay, which must be resident before the block starts (R15). -/
  base : Option Nat
  /-- The residency tokens the block holds, by code address of the overlay (R301). -/
  resid : List Nat
  /-- The order of placement (R294), and the number that the block keeps through saves and restores. -/
  placed : Nat
  id : Nat
  /-- It is to drain once it has started (R294, R327 row 2). -/
  drain : Bool
  /-- FAILED operations whose tokens were discarded at issue, and that no cord has been told of (R211, R232, R237). -/
  failed : List OpEntry
  deriving DecidableEq, Repr

/-! ### The core -/

/-- A code map entry (R300). -/
structure CodeMap where
  ctx : Nat
  cpage : Nat
  ovl : Nat
  spage : Nat
  deriving DecidableEq, Repr

/-- A residency record (R301). `sharers` are the contexts that use its pages (R302), with the overlay's index and code
address in each; `ctx` is the one that loads. Frames, blocks and operations name an overlay of their context by its code
address, since the overlays resident in one context never share a code page (R300). -/
structure Residency where
  ctx : Nat
  pages : List Nat
  npages : Nat
  digest : BitVec 256
  image : Nat
  /-- Pages loaded so far; the load is done when all are and the digest is checked. -/
  done : Nat
  resident : Bool
  tokens : Nat
  holds : Nat
  evict : Bool
  shared : Bool
  sharers : List (Nat × Nat × Nat)
  /-- The order of loading, for reclaim (R302). -/
  order : Nat
  /-- A load that no operation drives and that is suspended: cause and address (R301, R308). -/
  susp : Option (Byte × Nat)
  deriving DecidableEq, Repr

/-- A channel table entry (R306). -/
structure Channel where
  base : Nat
  lsize : Nat
  eos : Bool
  slot : Nat
  head : BitVec 16
  tail : BitVec 16
  deriving DecidableEq, Repr

/-- What one participating lane gave at an arrival (R179). -/
structure Part where
  lane : Nat
  aoff : Word
  boff : Word
  deriving DecidableEq, Repr

/-- One cord's arrival at an instance (R179). -/
structure Arrival where
  cord : Nat
  /-- The cord's arrivals and cord writes are numbered in its program order by this stamp (R180). -/
  stamp : Nat
  parts : List Part
  shape : Word
  amode : OpMode
  bmode : OpMode
  /-- The declared tile when it was issued (R173). -/
  tile : Word
  tile2 : Word
  /-- Rank of lane 0 (R173). -/
  rank0 : Nat
  /-- Scale descriptor values (R174). -/
  scale : List Word
  /-- Generator states reserved for the two groups (R187). -/
  draw0 : DWord
  draw1 : DWord
  ranges : List SpRange
  /-- Op entries of tile copies that the instance waits for (R219), by token. -/
  after : List Word
  deriving DecidableEq, Repr

/-- A contraction instance in its slot (R176, R179). -/
structure Instance where
  /-- Sequence number of a block-scope instance; none at cord scope. -/
  seq : Option Word
  prio : Nat
  arrivals : List Arrival
  /-- The next group to process. -/
  next : Nat
  deriving DecidableEq, Repr

/-- What a physical tile keeps beside its elements (R179, R182, R192). -/
structure Tile where
  slots : List Instance
  /-- The instance found a soft error at this offset: the cords that arrived at it. -/
  fault : Option (Nat × List Nat)
  /-- The cord that made the last cord write, and the epoch (R182). -/
  writer : Option (Nat × Word)
  deriving DecidableEq, Repr

/-- A line of the local-memory path: the bytes written to it and not yet written back, by offset (R260). A line that only loads
or fills brought in has none. -/
structure LocalLine where
  slot : Nat
  ctx : Nat
  addr : Nat
  bytes : Tab Byte
  deriving DecidableEq, Repr

/-- A TLB entry: context, virtual page, log2 of the page size, and the leaf (R307, R309). -/
structure TlbEntry where
  ctx : Nat
  page : Nat
  bits : Nat
  leaf : DWord
  deriving DecidableEq, Repr

/-- Storage arrays of a core that a soft error may be found in (R265). -/
inductive ErrArray where
  | scratchpad | accumulator | codeStore | laneRegs | uniformRegs | opTable | localPath | scoreboard | chanTable
  deriving DecidableEq, Repr

/-- A core (R8). -/
structure Core where
  blocks : Tab Block
  /-- Scratchpad, accumulator store and code store, by physical byte (R254, R258, R259). -/
  spad : Mem
  acc : Mem
  code : Mem
  map : List CodeMap
  res : List Residency
  ops : Tab OpEntry
  /-- Generations of the entries; an entry not listed holds 1 (R207, R311). -/
  gens : Tab Nat
  chans : Tab Channel
  tiles : Tab Tile
  lines : List LocalLine
  etlb : List TlbEntry
  gtlb : List TlbEntry
  /-- Performance counters: event chosen and count (R316). -/
  perf : Tab (Nat × BitVec 48)
  /-- Correctable-error counters by array (R311). -/
  ce : Tab Word
  /-- Words with an uncorrectable soft error: the array and the aligned 8-byte address in it (R265). -/
  bad : List (ErrArray × Nat)
  /-- Words with an error that the code corrects, named likewise: a read of one counts it (R265, R311; log entry 82,
  DESIGN CHOICE). -/
  soft : List (ErrArray × Nat)
  /-- The context whose bytes each KiB of scratchpad last belonged to (R254). -/
  owner : Tab Nat
  /-- Removed by a second failure in its cluster (R339). -/
  removed : Bool
  /-- The entry that each engine last served (R214). -/
  served : Tab Nat
  deriving DecidableEq, Repr

/-! ### Clusters and dies -/

/-- An item of a task queue (R238). -/
structure TaskItem where
  ctx : Nat
  launch : Nat
  /-- The block that spawned it, by `Block.id`, and its rank in the launch where it is no task (R297). -/
  by_ : Nat
  rank : Option Nat
  entry : Word
  arg : DWord
  waitM : BitVec 16
  setM : BitVec 16
  slice : Nat
  cls : Nat
  depth : Nat
  wid : DWord
  prio : Nat
  deriving DecidableEq, Repr

/-- A task cord formed and not placed: its items by lane; no core fitted it, so the choice passes over it; it was so and may be tried
again (R292, R297). -/
structure TaskCord where
  items : List TaskItem
  blocked : Bool
  woken : Bool
  deriving DecidableEq, Repr

/-- A cluster (R167, R296, R339). -/
structure Cluster where
  /-- The event bits by slice. -/
  events : Tab (BitVec 16)
  tasks : List TaskItem
  /-- Task cords formed and not placed. -/
  formed : List TaskCord
  /-- The core of the cluster whose place the spare took. -/
  spare : Option Nat
  deriving DecidableEq, Repr

/-- A queue descriptor with its counters (R303, R311). -/
structure Queue where
  desc : BitVec 128
  head : Word
  tail : Word
  errors : BitVec 16
  /-- The packet at the head waits for a bind record (R15). -/
  waiting : Bool
  /-- The queue's entry holds an uncorrectable error, and the words of it, by number, with one that the code corrects (R265, R313). -/
  bad : Bool
  soft : List Nat
  deriving DecidableEq, Repr

/-- A combine tree (R305). -/
structure Tree where
  timeout : Word
  routers : Tab Byte
  deriving DecidableEq, Repr

/-- A reduction in the mesh (R222, R223). -/
structure Reduction where
  tree : Nat
  id : Nat
  /-- Own packets by router: type and elements. -/
  own : Tab (RedTy × List Word)
  /-- Combined results by router, sent to the parent. -/
  sent : Tab (RedTy × List Word)
  /-- The member operations, as core and entry. -/
  members : List (Nat × Nat)
  /-- It has failed, with this cause and missing member: late packets fail at once (R222, R223). -/
  failed : Option (Byte × Nat)
  deriving DecidableEq, Repr

/-- What the distributor tells the sequencing harts of a queue: a packet that waits for a bind record (R15), and one dropped
(R288). -/
inductive Notice where
  | unbound (queue : Nat)
  | dropped (queue : Nat)
  deriving DecidableEq, Repr

/-- A die (R5, R6, R282, R284, R303 to R305, R309, R265). -/
structure Die where
  queues : Tab Queue
  binds : Tab (BitVec 256)
  headers : Tab (BitVec 1024)
  trees : Tab Tree
  reds : List Reduction
  tlb : List TlbEntry
  /-- Lines of the mid-level store that lost a dirty word (R265); it holds no other data of its own (log entry 51, DEDUCED). -/
  lost : List Nat
  /-- Words of 8 bytes of the mid-level store with an error that the code corrects, by number (R265, R313). -/
  soft : List Nat
  /-- The queue last served (R292). -/
  lastQ : Nat
  /-- What the sequencing harts have been told, the newest first (R15, R288). -/
  notices : List Notice
  /-- Correctable-error counters of the arrays outside the cores: 0 the mid-level store, 1 the queues (R265, R311). -/
  ce : Tab Word
  deriving DecidableEq, Repr

/-! ### Launches, contexts and the device -/

/-- How a launch stands. -/
inductive LaunchStatus where
  | placing
  /-- No core fits its next block; wakes at an exit, a save or a bind record write (R292). -/
  | blocked
  /-- A fault ended it: unplaced blocks are never placed (R325). -/
  | failed
  deriving DecidableEq, Repr

/-- A launch that the distributor has taken (R284 to R292, R311, R314, R325). -/
structure Launch where
  die : Nat
  queue : Nat
  ctx : Nat
  prio : Nat
  header : BitVec 1024
  packet : BitVec 512
  status : LaunchStatus
  /-- It was blocked and may be tried again, before every launch of equal or lower priority (R292). -/
  woken : Bool
  /-- Rank of the next block never placed, and ranks given back by a flush (R332). -/
  next : Nat
  back : List Nat
  /-- Ranks that have passed their tickets, as `tktwait` sees them, and passes of this clock (R313). -/
  passed : List Nat
  passing : List Nat
  /-- Ranks whose blocks have exited or been ended, and those a fault ended. -/
  gone : List Nat
  endedBlocks : List Nat
  /-- Ranks whose blocks have issued their first instruction (R333). -/
  begun : List Nat
  /-- Cause of the fault that ended it, and the lowest failing block index (R325). -/
  cause : Byte
  fblk : Option Nat
  /-- The cores of each cluster that task cords may use (R297). -/
  taskCores : Tab (List Nat)
  /-- Cores that hold a residency token of the base overlay for the launch, with its code address (R301). -/
  bases : List (Nat × Nat)
  deriving DecidableEq, Repr

/-- A context (R307, R324, R296). -/
structure Ctx where
  root : Nat
  /-- The partition that the context belongs to (R339). -/
  part : Nat
  /-- Fault queue ring: base in host memory, entries, entries written. -/
  faultBase : Nat
  faultSize : Nat
  faultHead : Nat
  /-- Overflow ring of tasks, by cluster. -/
  overflowSize : Nat
  overflow : Tab (List TaskItem)
  deriving DecidableEq, Repr

/-- The saved context of a block (R328). -/
structure Saved where
  block : Block
  core : Nat
  spad : Mem
  tiles : List (Mem × Tile)
  ops : Tab OpEntry
  chans : List Channel
  /-- The overlays that its tokens and marked frames name: code address, index and digest (R301). -/
  ovls : List (Nat × Nat × BitVec 256)
  deriving DecidableEq, Repr

/-- A partition (R339): its clusters, as die * 8 + cluster, and its stacks, as die * 6 + stack. -/
structure Partition where
  clusters : List Nat
  hbms : List Nat
  deriving DecidableEq, Repr

/-- A reduction over Reed links (R224). -/
structure SysReduction where
  tree : Nat
  id : Nat
  own : Option (RedTy × List Word)
  children : Tab (RedTy × List Word)
  /-- The device has sent its combination to the parent. -/
  sent : Bool
  members : List (Nat × Nat)
  failed : Option (Byte × Nat)
  deriving DecidableEq, Repr

/-- Where the device stands in its start (R342). -/
inductive Boot where
  | reset
  | recovery
  | up
  deriving DecidableEq, Repr

/-- A host DMA window (R341). -/
structure Window where
  base : Nat
  len : Nat
  r : Bool
  w : Bool
  deriving DecidableEq, Repr

/-- The management controller (R340 to R343). -/
structure Mgmt where
  boot : Boot
  ceiling : Nat
  windows : Tab Window
  linkMask : BitVec 24
  /-- The registers of R341 are locked. -/
  locked : Bool
  alarm : Bool
  /-- The measured power in watts. -/
  power : Nat
  temps : List Nat
  currents : List Nat
  /-- Error log entries of 32 bytes, the newest first. -/
  log : List (BitVec 256)
  mgmtFw : Image
  hartFw : Image
  record : ConfigRecord
  recordImg : Image
  staged : Option Image
  /-- The answer in the DOE mailbox, and what left the CXL port for the host or a peer. -/
  mailbox : List Byte
  answer : List Byte
  cxlWidth : Nat
  cxlRate : Nat
  cxlIde : Bool
  deriving DecidableEq, Repr

/-! ### Racing accesses (12_ordering.md R266 to R272) -/

/-- Where a physical access goes (R307). -/
inductive Target where
  | hbm (a : Nat)
  | host (a : Nat)
  | peer (n a : Nat)
  deriving DecidableEq, Repr

/-- A place that several agents reach: physical scratchpad of a core, or a global one. -/
inductive Place where
  | sp (core a : Nat)
  | glob (t : Target)
  deriving DecidableEq, Repr

/-- The agents of R266: a cord, by its core, block (`Block.id`) and number; a child operation, by its core, issuing block and token; a
contraction instance as a reader, by its core and tile and the arrival whose operands it reads; the distributor and the sequencing harts
of a die; the host; a peer. -/
inductive Agent where
  | cord (core block cord : Nat)
  | op (core block : Nat) (token : Word)
  | inst (core tile stamp : Nat)
  | die (d : Nat)
  | host
  | peer (n : Nat)
  deriving DecidableEq, Repr

/-- What carries a release to an acquire (R270): an aligned word, with the number of the write that it shows, a barrier's phase, a ticket,
an event bit, an item of a channel of a block, a queue's packet, a doorbell, a child operation, a batch of a cord's operations, a task, the
completion of a launch (R17). `past` is a word whose writes are not told apart and that has been written since: no read finds it, and an
atomic on the word carries its releases on. -/
inductive Carrier where
  | word (p : Place) (n : Nat)
  | past (p : Place)
  | phase (core block bar n : Nat)
  | ticket (launch rank : Nat)
  | event (cluster slice bit : Nat)
  | item (block chan n : Nat)
  | packet (queue n : Nat)
  | bell (queue : Nat)
  | op (core : Nat) (token : Word)
  | batch (core block cord n : Nat)
  | task (launch : Nat) (wid : DWord)
  | launch (n : Nat)
  deriving DecidableEq, Repr

/-- A release: who made it, at which scope, and what carries it. One that is a fence before a write is carried by that write alone, and no
atomic that follows it carries it on (R270). -/
structure Released where
  by_ : Agent
  scope : Scope
  on : Carrier
  fence : Bool
  deriving DecidableEq, Repr

/-- An agent whose next access a write happens before, the scopes of its release fences since (R269, R271), and whether an access of its
own through the armature map comes after the write too (R275). -/
structure Knows where
  who : Agent
  since : List Scope
  arm : Bool
  deriving DecidableEq, Repr

/-- A write to a tracked word, in the word's coherence order (R268). -/
structure Wrote where
  by_ : Agent
  /-- Neither an atomic nor with `.rel` (R272). -/
  plain : Bool
  /-- The clock of the write. -/
  clock : Nat
  /-- What the word held before it. -/
  before : List Byte
  /-- Whose next access it happens before (R271). -/
  known : List Knows
  /-- Releases that it happens before. -/
  rels : List Released
  /-- Who has read the carrier of such a release, for a later acquire fence (R270). -/
  reads : List (Agent × Released)
  /-- Who has read it, or a later write of the word (R268). -/
  seen : List Agent
  /-- Of a global word: it has been performed at its home, or for the agents of which scopes before (R274). -/
  home : Bool
  shown : List (Agent × Scope)
  deriving DecidableEq, Repr

/-- The write up to which an agent sees a word, or some bytes of it: the number of writes that it sees (R272). -/
structure Pick where
  who : Agent
  off : Nat
  len : Nat
  ver : Nat
  deriving DecidableEq, Repr

/-- An aligned word whose writes are told apart (R266 to R272; log entry 10, DESIGN CHOICE). -/
structure Track where
  place : Place
  /-- The bytes that the last write left. -/
  last : List Byte
  /-- The writes, in coherence order. -/
  writes : List Wrote
  picks : List Pick
  /-- The access of a cord that a child operation's range holds, by the cord and the operation: it sees what the operation leaves (R280). -/
  held : List (Agent × Agent)
  deriving DecidableEq, Repr

/-- Which move the machine makes: the quarter of a cord issues, another agent acts, the writes of a word are told apart from now on, or an
agent sees a word as its first `n` writes left it (log entries 1 and 10, DESIGN CHOICE). -/
inductive Move where
  | issue (c : CordRef)
  | event (e : Instr)
  | track (p : Place)
  | pick (a : Agent) (p : Place) (n : Nat)
  deriving DecidableEq, Repr

/-- The device. -/
structure State where
  /-- Cores by die * 64 + core. -/
  cores : Tab Core
  /-- Clusters by die * 8 + cluster. -/
  clusters : Tab Cluster
  dies : Tab Die
  ctxs : Tab Ctx
  launches : Tab Launch
  nextLaunch : Nat
  saved : List Saved
  hbm : Mem
  /-- 32-byte words of device memory with an error, by number; the mark says that the code corrects it (R265). -/
  hbmErr : List (Nat × Bool)
  host : Mem
  peers : Tab Mem
  /-- Links of each peer (R338). -/
  peerLinks : Tab (BitVec 24)
  /-- The number of this device in the system trees, and the Reed links between devices (R224, R305; log entry 28, DESIGN CHOICE). -/
  selfDev : Nat
  wires : List Wire
  sysTrees : Tab Tree
  sysReds : List SysReduction
  /-- Reduction packets sent over Reed links, the newest first, with tree and identifier. -/
  linkOut : List (Nat × Nat × CollPacket)
  partitions : Tab Partition
  /-- Suppressed DATA_ERR and corrected errors by Plinth (R158, R265, R311). -/
  suppressed : Tab Word
  corrected : Tab Word
  /-- Tries of the mesh flit of an operation, by core * 512 + entry, and of the flit of a link (R265, R337). -/
  flitRetries : Tab Nat
  linkReplays : Tab Nat
  /-- The words whose writes are told apart (R266, R272), and whether two accesses to such a word have been a data race (R272). -/
  tracks : List Track
  raced : Bool
  mgmt : Mgmt
  /-- The model's own: the moves still to come (log entry 1, DESIGN CHOICE). -/
  agenda : List Move
  /-- The model's own: moves made, for the longest wait of R38 and for orders of issue (log entry 1, DESIGN CHOICE). -/
  clock : Nat
  /-- The model's own: the cord whose instruction `exec` runs (log entry 1, DESIGN CHOICE). -/
  cur : CordRef
  /-- The model's own: cords that found their wait unfinished since the state last changed (log entry 1, DESIGN CHOICE). -/
  stalled : List CordRef
  /-- The model's own: the number that the next placement, restore or load takes (R294, R302; log entry 1, DESIGN CHOICE). -/
  serial : Nat
  /-- The model's own: the counter of free values (log entry 2, DESIGN CHOICE). -/
  freeCtr : Nat
  deriving DecidableEq, Repr

/-- Why a step can stop. -/
inductive Fault where
  /-- `exec` was asked for an instruction and no resident, initialised cord stands at `State.cur`: nothing can execute
  it. Raised by every instruction's meaning through `Machine.issue`; no state that the spec gives the machine asks for
  it. Safe. -/
  | noCord
  deriving DecidableEq, Repr

/-- Why an instruction has no meaning. -/
inductive Refusal where
  /-- The instruction of this mnemonic is not modelled. Raised by `exec` only. Safe. -/
  | notModelled (mnemonic : String)
  deriving DecidableEq, Repr

/-- The outcome of a step. -/
abbrev Out := Host.Outcome State Fault Refusal

/-! ### Reset values of the records -/

/-- The frame at depth 0 (R244). -/
def Frame.base : Frame := { ret := none, vf := 0, sf := 0, vb := 0, sb := 0, hold := none, spill := none }

/-- A lane that is not present: EXIT, every register 0 (R19, R244). -/
def Lane.absent : Lane :=
  { regs := .empty, p := 0, pc := 0, st := .exit, data := false, served := false, frames := [Frame.base], rng := 0,
    wid := 0, locbase := 0, spawns := 0, savedPc := 0, savedSt := .run, savedData := false, savedP := 0 }

/-- A cord before its lanes are given (R244). Its wait for an issue counts from the first clock, so that it goes before every cord of its
priority that has issued (log entry 67, DESIGN CHOICE). -/
def Cord.fresh : Cord :=
  { lanes := .empty, sregs := .empty, stok := [], q := 0, joinm := 0, fpf := 0, lkdis := false, hvec := 0, cause := 0,
    tval := 0, tile := 0, tile2 := 0, prog := 0, icount := 0,
    restart := { label := 0, regs := [], counts := .empty, skips := [], lanes := 0 }, handler := none, escalated := none,
    present := 0, role := 0, entry := 0, quarter := 0, pos := 0, vbud := 0, ubud := 0, uspill := [], batch := 1,
    batchOpen := false, seals := 0, tcount := .empty, skipAll := [], barars := .empty, bflags := .empty, barWait := .empty,
    calloWait := none, kept := none, keptRed := none,
    skipLeft := .empty, inflight := [], gathers := [], windows := [], gseq := 0, gfault := none, next := none, prev := [], last := 0,
    issued := false, rest := none, waits := none, fetched := none }

/-- A block slot with no cord, before placement fills it (R35, R311). -/
def Block.fresh : Block :=
  { launch := 0, index := 0, rank := 0, ctx := 0, prio := 0, status := .reserved, cords := .empty, spbase := 0,
    splen := 0, tiles := [], chans := [], ops := 0, barriers := .empty, epoch := 0, lines := .empty, lsize := 0, dq := [],
    bhand := 0, ovtab := 0, det := false, race := false, idem := false, recomp := false, arg := 0, fw := 0, task := none,
    base := none, resid := [], placed := 0, id := 0, drain := false, failed := [] }

/-- A tile with no open instance, a clear fault record and no writer (R201). -/
def Tile.fresh : Tile := { slots := [], fault := none, writer := none }

/-- A core at power-up (R254, R258, R298, R300, R311). -/
def Core.fresh : Core :=
  { blocks := .empty, spad := [], acc := [], code := [], map := [], res := [], ops := .empty, gens := .empty,
    chans := .empty, tiles := .empty, lines := [], etlb := [], gtlb := [], perf := .empty, ce := .empty,
    bad := [], soft := [], owner := .empty, removed := false, served := .empty }

/-- A cluster at power-up (R297, R311). -/
def Cluster.fresh : Cluster := { events := .empty, tasks := [], formed := [], spare := none }

/-- A die at power-up (R303 to R305, R311). -/
def Die.fresh : Die :=
  { queues := .empty, binds := .empty, headers := .empty, trees := .empty, reds := [], tlb := [], lost := [], soft := [], lastQ := 0, notices := [],
    ce := .empty }

/-- A queue at power-up (R303, R311). -/
def Queue.fresh : Queue := { desc := 0, head := 0, tail := 0, errors := 0, waiting := false, bad := false, soft := [] }

/-- A tree at power-up (R305). -/
def Tree.fresh : Tree := { timeout := 0, routers := .empty }

/-- A context that firmware has given nothing yet. -/
def Ctx.fresh : Ctx :=
  { root := 0, part := 0, faultBase := 0, faultSize := 0, faultHead := 0, overflowSize := 0, overflow := .empty }

/-- An empty configuration record. -/
def noRecord : ConfigRecord := { partitions := [], ceiling := 0, windows := [], remaps := [] }

/-- The management controller before the device has booted (R342; log entry 4, DESIGN CHOICE for the values the spec does not give). -/
def Mgmt.fresh : Mgmt :=
  { boot := .reset, ceiling := 0, windows := .empty, linkMask := 0xFFFFFF, locked := false, alarm := false, power := 0,
    temps := [], currents := [], log := [], mgmtFw := ⟨[], []⟩, hartFw := ⟨[], []⟩, record := noRecord,
    recordImg := ⟨[], []⟩, staged := none, mailbox := [], answer := [], cxlWidth := 16, cxlRate := 128, cxlIde := false }

/-- The machine right after reset: no launch, no block, every table empty (R244, R298, R303, R311). -/
def State.reset : State :=
  { cores := .empty, clusters := .empty, dies := .empty, ctxs := .empty, launches := .empty, nextLaunch := 0, saved := [],
    hbm := [], hbmErr := [], host := [], peers := .empty, peerLinks := .empty, selfDev := 0, wires := [], sysTrees := .empty, sysReds := [], linkOut := [],
    partitions := .empty, suppressed := .empty, corrected := .empty, flitRetries := .empty, linkReplays := .empty, tracks := [], raced := false, mgmt := Mgmt.fresh,
    agenda := [], clock := 0, cur := ⟨0, 0, 0⟩, stalled := [], serial := 0, freeCtr := 0 }

end Sys2Proof.Machine
end

