-- ==== Sys2Proof/Machine/Memory.lean ====
section
/-!
DEFINITION. Reading and writing a store: bytes, little-endian runs of bytes, words (03_numbers.md R47), and the canonical
form of a store (log entry 3, DESIGN CHOICE).
-/

namespace Sys2Proof.Machine

namespace Mem

/-- The addresses rise strictly from above `lo`, and no entry holds the byte an unlisted address reads as. -/
def sortedFrom : Nat → Mem → Bool
  | _, [] => true
  | lo, (a, b) :: r => decide (lo ≤ a) && b != 0 && sortedFrom (a + 1) r

/-- The canonical form of a store. -/
def wf (m : Mem) : Bool := sortedFrom 0 m

/-- The byte at an address: an unlisted address reads 0 (log entry 3, DESIGN CHOICE). -/
def get : Mem → Nat → Byte
  | [], _ => 0
  | (k, b) :: r, a => if k = a then b else if a < k then 0 else get r a

/-- The store without the entry of an address. -/
def drop : Mem → Nat → Mem
  | [], _ => []
  | (k, b) :: r, a => if k = a then r else if a < k then (k, b) :: r else (k, b) :: drop r a

/-- The store with a byte other than 0 at an address. -/
def ins : Mem → Nat → Byte → Mem
  | [], a, x => [(a, x)]
  | (k, b) :: r, a, x => if k = a then (a, x) :: r else if a < k then (a, x) :: (k, b) :: r else (k, b) :: ins r a x

/-- The store with a byte at an address, in canonical form. -/
def set (m : Mem) (a : Nat) (x : Byte) : Mem := if x = 0 then drop m a else ins m a x

/-- `n` bytes from an address. -/
def read (m : Mem) (a : Nat) : Nat → List Byte
  | 0 => []
  | n + 1 => get m a :: read m (a + 1) n

/-- Writes a run of bytes from an address, in ascending order. -/
def write (m : Mem) (a : Nat) : List Byte → Mem
  | [] => m
  | b :: r => write (set m a b) (a + 1) r

/-- The store with every byte from `lo` up to `hi` at 0. -/
def clear (m : Mem) (lo hi : Nat) : Mem := m.filter (fun c => decide (c.1 < lo) || decide (hi ≤ c.1))

/-- The part of a store from `lo` up to `hi`, with addresses counted from `lo`. -/
def slice (m : Mem) (lo hi : Nat) : Mem :=
  (m.filter (fun c => decide (lo ≤ c.1) && decide (c.1 < hi))).map (fun c => (c.1 - lo, c.2))

/-- Writes the listed bytes of one store into another, displaced by `off`. -/
def paste (m : Mem) (off : Nat) : Mem → Mem
  | [] => m
  | (a, b) :: r => paste (set m (off + a) b) off r

end Mem

/-- The value of bytes, the first the least significant (R47). -/
def leNat : List Byte → Nat
  | [] => 0
  | b :: r => b.toNat + 256 * leNat r

/-- The `n` low bytes of a value, the least significant first (R47). -/
def natLe : Nat → Nat → List Byte
  | 0, _ => []
  | n + 1, x => BitVec.ofNat 8 x :: natLe n (x / 256)

/-- The 32-bit word at an address. -/
def Mem.word (m : Mem) (a : Nat) : Word := BitVec.ofNat 32 (leNat (m.read a 4))

/-- The store with a 32-bit word at an address. -/
def Mem.setWord (m : Mem) (a : Nat) (w : Word) : Mem := m.write a (natLe 4 w.toNat)

/-- A field of a value: `len` bits from bit `lo`. -/
def field (x : Nat) (lo len : Nat) : Nat := x / 2 ^ lo % 2 ^ len

/-- One bit of a value. -/
def bit (x : Nat) (i : Nat) : Bool := x / 2 ^ i % 2 == 1

/-- The numbers of the bits set in a value, from `i` up, among `n` bits. -/
def bitsFrom (x : Nat) : Nat → Nat → List Nat
  | _, 0 => []
  | i, n + 1 => if bit x i then i :: bitsFrom x (i + 1) n else bitsFrom x (i + 1) n

/-- The value whose set bits are listed. -/
def maskOf (l : List Nat) : Nat := l.foldl (fun m i => if bit m i then m else m + 2 ^ i) 0

/-- Rounds up to a multiple. -/
def ceilTo (x n : Nat) : Nat := (x + n - 1) / n * n

/-- `n` bits of a value, read as two's complement. -/
def sxInt (x n : Nat) : Int := if x % 2 ^ n < 2 ^ (n - 1) then (x % 2 ^ n : Nat) else (x % 2 ^ n : Nat) - 2 ^ n

/-- The 32 bits of an integer, wrapping. -/
def wrap32 (x : Int) : Word := BitVec.ofInt 32 x

end Sys2Proof.Machine
end

