-- ==== Sys2Proof/Machine/Numbers.lean ====
section
/-!
DEFINITION. Number formats, the rounding of an exact value, and the generator (03_numbers.md R41 to R58). A value that is
not exact is given by twice its truncated significand plus one, far below every rounding point of a format.
-/

namespace Sys2Proof.Machine

/-- The value of a number: NaN, an infinity, or plus or minus m * 2^e, zeros keeping their sign. -/
inductive Num where
  | nan
  | inf (neg : Bool)
  | fin (neg : Bool) (m : Nat) (e : Int)
  deriving DecidableEq, Repr

/-- A floating-point format: exponent bits, fraction bits, and whether it has infinities (R41). -/
structure Fmt where
  eb : Nat
  mb : Nat
  hasInf : Bool
  deriving DecidableEq, Repr

/-- The sticky flags of R58. -/
abbrev Flags := BitVec 5
def fInexact : Flags := 1
def fUnder : Flags := 2
def fOver : Flags := 4
def fDivide : Flags := 8
def fInvalid : Flags := 16

namespace Fmt

def f32 : Fmt := ⟨8, 23, true⟩
def bf16 : Fmt := ⟨8, 7, true⟩
def f16 : Fmt := ⟨5, 10, true⟩
def e5m2 : Fmt := ⟨5, 2, true⟩
def e4m3 : Fmt := ⟨4, 3, false⟩

def bias (f : Fmt) : Nat := 2 ^ (f.eb - 1) - 1
/-- The exponent of the least binade of normal values. -/
def emin (f : Fmt) : Int := 1 - (f.bias : Int)
/-- The exponent field of the top binade of finite values: E4M3 uses field 15 too (R42). -/
def topField (f : Fmt) : Nat := if f.hasInf then 2 ^ f.eb - 2 else 2 ^ f.eb - 1
/-- The exponent of the top binade. -/
def etop (f : Fmt) : Int := (f.topField : Int) - f.bias
/-- The largest finite significand, in units of the spacing of the top binade. -/
def maxSig (f : Fmt) : Nat := if f.hasInf then 2 ^ (f.mb + 1) - 1 else 2 ^ (f.mb + 1) - 2
def signBit (f : Fmt) : Nat := 2 ^ (f.eb + f.mb)
/-- The bits of the canonical NaN (R41, R43). -/
def nanBits (f : Fmt) : Nat := if f.hasInf then (2 ^ f.eb - 1) * 2 ^ f.mb + 2 ^ (f.mb - 1) else 2 ^ (f.eb + f.mb) - 1
def infBits (f : Fmt) : Nat := (2 ^ f.eb - 1) * 2 ^ f.mb
def maxBits (f : Fmt) : Nat := (f.topField - 1) * 2 ^ f.mb + f.maxSig

/-- The value of an encoding (R42). -/
def decode (f : Fmt) (w : Nat) : Num :=
  let s := bit w (f.eb + f.mb)
  let e := field w f.mb f.eb
  let x := field w 0 f.mb
  if f.hasInf && e == 2 ^ f.eb - 1 then (if x == 0 then .inf s else .nan)
  else if !f.hasInf && e == 2 ^ f.eb - 1 && x == 2 ^ f.mb - 1 then .nan
  else if e == 0 then .fin s x (f.emin - f.mb)
  else .fin s (2 ^ f.mb + x) ((e : Int) - f.bias - f.mb)

/-- The bits of sign and magnitude. -/
def signed (f : Fmt) (neg : Bool) (x : Nat) : Nat := if neg then f.signBit + x else x

end Fmt

/-- The format of a type code (R89). -/
def Fmt.ofTy : Ty → Fmt
  | .bf16 => .bf16
  | .f16 => .f16
  | .e4m3 => .e4m3
  | .e5m2 => .e5m2
  | _ => .f32

namespace Num

/-- Exponent of the leading bit of a nonzero magnitude. -/
def lead (m : Nat) (e : Int) : Int := (m.log2 : Int) + e

/-- The value at a smaller exponent. -/
def scaleTo (m : Nat) (e lo : Int) : Nat := m * 2 ^ (e - lo).toNat

def isNan : Num → Bool
  | .nan => true
  | _ => false

def isInf : Num → Bool
  | .inf _ => true
  | _ => false

def isZero : Num → Bool
  | .fin _ 0 _ => true
  | _ => false

def neg : Num → Num
  | .nan => .nan
  | .inf s => .inf (!s)
  | .fin s m e => .fin (!s) m e

/-- The exact product (R43, R44): the flag says that a NaN was made of operands that are not NaN. -/
def mul : Num → Num → Num × Bool
  | .nan, _ => (.nan, false)
  | _, .nan => (.nan, false)
  | .inf s, .inf t => (.inf (s != t), false)
  | .inf s, .fin t m _ => if m = 0 then (.nan, true) else (.inf (s != t), false)
  | .fin s m _, .inf t => if m = 0 then (.nan, true) else (.inf (s != t), false)
  | .fin s m e, .fin t n f => (.fin (s != t) (m * n) (e + f), false)

/-- The exact sum (R43, R44): an exact zero of opposite values is +0, or −0 where `rd`. -/
def add (rd : Bool) : Num → Num → Num × Bool
  | .nan, _ => (.nan, false)
  | _, .nan => (.nan, false)
  | .inf s, .inf t => if s == t then (.inf s, false) else (.nan, true)
  | .inf s, .fin _ _ _ => (.inf s, false)
  | .fin _ _ _, .inf t => (.inf t, false)
  | .fin s m e, .fin t n f =>
    let lo := if e ≤ f then e else f
    let x := scaleTo m e lo
    let y := scaleTo n f lo
    if s == t then (.fin s (x + y) lo, false)
    else if x == y then (.fin rd 0 lo, false)
    else if x > y then (.fin s (x - y) lo, false)
    else (.fin t (y - x) lo, false)

/-- Order of two values that are not NaN: less, equal (R122: +0 and −0 are equal). -/
def lt : Num → Num → Bool
  | .inf s, .inf t => s && !t
  | .inf s, _ => s
  | _, .inf t => !t
  | .fin s m e, .fin t n f =>
    let lo := if e ≤ f then e else f
    let x : Int := if s then -(scaleTo m e lo : Int) else scaleTo m e lo
    let y : Int := if t then -(scaleTo n f lo : Int) else scaleTo n f lo
    decide (x < y)
  | _, _ => false

def eq : Num → Num → Bool
  | .inf s, .inf t => s == t
  | .fin s m e, .fin t n f =>
    (m == 0 && n == 0) ||
      (s == t && (let lo := if e ≤ f then e else f; scaleTo m e lo == scaleTo n f lo))
  | _, _ => false

end Num

/-- Which neighbour a mode chooses (R52): `half` compares twice the discarded part with the spacing, `f` is its 32-bit
fraction, `r` the draw. -/
def chooseHi (mode : Rnd) (neg : Bool) (half : Ordering) (odd : Bool) (f : Nat) (r : Word) : Bool :=
  match mode with
  | .rn => half == .gt || (half == .eq && odd)
  | .rz => false
  | .ru => !neg
  | .rd => neg
  | .sr => decide (2 ^ 32 ≤ f + r.toNat)

/-- Rounds m * 2^e to a multiple of 2^q: the multiple, and whether it is inexact, and whether hi was chosen (R52). -/
def roundAt (mode : Rnd) (r : Word) (neg : Bool) (m : Nat) (e q : Int) : Nat × Bool × Bool :=
  if q ≤ e then (Num.scaleTo m e q, false, false)
  else
    let d := 2 ^ (q - e).toNat
    let lo := m / d
    let rem := m % d
    if rem = 0 then (lo, false, false)
    else
      let hi := chooseHi mode neg (compare (2 * rem) d) (lo % 2 == 1) (rem * 2 ^ 32 / d) r
      (if hi then lo + 1 else lo, true, hi)

/-- Rounds a nonzero magnitude to a floating-point format (R52, R53, R58): bits and flags. With `acc` the branch that
keeps the largest finite value does not apply (R185). -/
def roundFin (f : Fmt) (mode : Rnd) (r : Word) (sat acc neg : Bool) (m : Nat) (e : Int) : Nat × Flags :=
  let top := f.etop - f.mb
  let free := Num.lead m e - f.mb
  let q1 := if free < f.emin - f.mb then f.emin - f.mb else free
  let q := if top < q1 then top else q1
  let (n, inex, hi) := roundAt mode r neg m e q
  if q == top && decide (f.maxSig < n) then
    let zero := mode == .rz || (mode == .ru && neg) || (mode == .rd && !neg) || (mode == .sr && !hi)
    let fl := fOver ||| fInexact
    if sat then (f.signed neg f.maxBits, fl)
    else if zero && !acc then (f.signed neg f.maxBits, fl)
    else if f.hasInf then (f.signed neg f.infBits, fl)
    else (f.nanBits, fl)
  else
    let un := inex &&
      (let (k, _, _) := roundAt mode r neg m e free
       decide (Num.lead k free < f.emin) || k == 0)
    let bits := (q - (f.emin - f.mb)).toNat * 2 ^ f.mb + n
    (f.signed neg bits, (if inex then fInexact else 0) ||| (if un then fUnder else 0))

/-- Rounds any value to a floating-point format (R52, R53). -/
def roundNum (f : Fmt) (mode : Rnd) (r : Word) (sat acc : Bool) : Num → Nat × Flags
  | .nan => (f.nanBits, 0)
  | .inf s =>
    if sat then (f.signed s f.maxBits, fInexact)
    else if f.hasInf then (f.signed s f.infBits, 0)
    else (f.nanBits, fInvalid)
  | .fin s m e => if m = 0 then (f.signed s 0, 0) else roundFin f mode r sat acc s m e

/-- The range of an integer type: least and greatest value (R46). -/
def intRange (ty : Ty) : Int × Int :=
  if ty.isSigned then (-(2 ^ (ty.width - 1)), 2 ^ (ty.width - 1) - 1) else (0, 2 ^ ty.width - 1)

/-- Clamps to the range of an integer type (R53). -/
def clampTo (ty : Ty) (x : Int) : Int :=
  let (lo, hi) := intRange ty
  if x < lo then lo else if hi < x then hi else x

/-- The low bits of an integer, as a type's width holds them. -/
def intBits (ty : Ty) (x : Int) : Nat := (x % 2 ^ ty.width).toNat

/-- The integer that a type's bits stand for (R46). -/
def bitsInt (ty : Ty) (x : Nat) : Int := if ty.isSigned then sxInt x ty.width else ((x % 2 ^ ty.width : Nat) : Int)

/-- Rounds a value to an integer type (R52, R53): bits and flags. -/
def roundInt (ty : Ty) (mode : Rnd) (r : Word) : Num → Nat × Flags
  | .nan => (0, fInvalid)
  | .inf s => (intBits ty (if s then (intRange ty).1 else (intRange ty).2), fInvalid ||| fInexact)
  | .fin s m e =>
    if m = 0 then (0, 0)
    else
      let (n, inex, _) := roundAt mode r s m e 0
      let x : Int := if s then -(n : Int) else n
      let y := clampTo ty x
      if x == y then (intBits ty x, if inex then fInexact else 0)
      else (intBits ty y, fInvalid ||| fInexact)

/-! ### q4 -/

/-- The magnitudes of a q4 type in eighths, by index (R48). Type int has a ninth, for negative values. -/
def q4Grid : Nat → List Nat
  | 0 => [0, 8, 16, 24, 32, 40, 48, 56, 64]
  | 1 => [0, 4, 8, 12, 16, 24, 32, 48]
  | 2 => [0, 1, 2, 4, 8, 16, 32, 64]
  | _ => [0, 8, 16, 24, 32, 48, 64, 128]

/-- The value of a code under a scale byte (R48). -/
def q4Decode (scale code : Nat) : Num :=
  let ty := field scale 6 2
  let e := field scale 0 6
  if e == 63 then .nan
  else if ty == 0 then
    let v := sxInt code 4
    .fin (decide (v < 0)) v.natAbs ((e : Int) - 32)
  else .fin (bit code 3) ((q4Grid ty).getD (field code 0 3) 0) ((e : Int) - 35)

/-- The largest index whose grid point does not exceed `x`, the points given in rising order. -/
def gridBelow (x : Nat) : Nat → List Nat → Nat → Nat
  | _, [], best => best
  | i, g :: r, best => if g ≤ x then gridBelow x (i + 1) r i else best

/-- The code of sign and index (R48). -/
def q4Code (ty : Nat) (neg : Bool) (k : Nat) : Nat :=
  if ty == 0 then (if neg then (16 - k) % 16 else k) else (if neg then 8 + k else k)

/-- Converts to q4 under a scale byte (R52, R53, R127): code and flags. -/
def q4Round (scale : Nat) (mode : Rnd) (r : Word) (x : Num) : Nat × Flags :=
  let ty := field scale 6 2
  let se := field scale 0 6
  let top (s : Bool) : Nat := if ty == 0 then (if s then 8 else 7) else 7
  if se == 63 then (0, 0)
  else match x with
  | .nan => (0, fInvalid)
  | .inf s => (q4Code ty s (top s), fInvalid ||| fInexact)
  | .fin s m e =>
    if m = 0 then (q4Code ty s 0, 0)
    else
      let lo := if e ≤ (se : Int) - 35 then e else (se : Int) - 35
      let v := Num.scaleTo m e lo
      let grid := ((q4Grid ty).take (top s + 1)).map (fun g => Num.scaleTo g ((se : Int) - 35) lo)
      let k := gridBelow v 0 grid 0
      let g := grid.getD k 0
      if v == g then (q4Code ty s k, 0)
      else if k == top s then (q4Code ty s k, fInvalid ||| fInexact)
      else
        let d := grid.getD (k + 1) 0 - g
        let hi := chooseHi mode s (compare (2 * (v - g)) d) (k % 2 == 1) ((v - g) * 2 ^ 32 / d) r
        (q4Code ty s (if hi then k + 1 else k), fInexact)

/-! ### Functions that approximate (06_lane_ops.md R124, R125) -/

/-- The integer square root by digits: `b` is the power of four below the digit tried. -/
def isqrtGo : Nat → Nat → Nat → Nat
  | 0, _, r => r
  | n + 1, x, r =>
    let t := r + 2 ^ n
    isqrtGo n x (if t * t ≤ x then t else r)

/-- The integer square root. -/
def isqrt (x : Nat) : Nat := isqrtGo (x.log2 / 2 + 1) x 0

/-- A truncated significand with its remainder folded in below it. -/
def sticky (neg : Bool) (m : Nat) (e : Int) (exact : Bool) : Num :=
  if exact then .fin neg m e else .fin neg (2 * m + 1) (e - 1)

/-- 1 / (m * 2^e). -/
def recip (neg : Bool) (m : Nat) (e : Int) : Num :=
  let k := m.log2 + 80
  sticky neg (2 ^ k / m) (-(k : Int) - e) (2 ^ k % m == 0)

/-- m * 2^e with an even exponent: the significand and half the exponent. -/
def evenExp (m : Nat) (e : Int) : Nat × Int := if e % 2 == 0 then (m, e / 2) else (2 * m, (e - 1) / 2)

/-- The square root. -/
def rootOf (m : Nat) (e : Int) : Num :=
  let (m, h) := evenExp m e
  let x := m * 2 ^ 120
  let s := isqrt x
  sticky false s (h - 60) (s * s == x)

/-- The reciprocal of the square root. -/
def recipRoot (m : Nat) (e : Int) : Num :=
  let (m, h) := evenExp m e
  let s := isqrt (2 ^ 240 / m)
  sticky false s (-h - 120) (s * s * m == 2 ^ 240)

/-- The natural logarithm of 2 in units of 2^-140. -/
def ln2 : Nat := 966106166171702452789019208761976768099343

/-- Terms x^k / k! of the exponential, from term `t` of index `k` on, in units of 2^-140. -/
def expSum (x : Nat) : Nat → Nat → Nat → Nat → Nat
  | 0, _, _, acc => acc
  | n + 1, k, t, acc =>
    let t' := t * x / 2 ^ 140 / k
    expSum x n (k + 1) t' (acc + t')

/-- 2 to a fraction given in units of 2^-140, in the same units. -/
def exp2Frac (f : Nat) : Nat := expSum (f * ln2 / 2 ^ 140) 48 1 (2 ^ 140) (2 ^ 140)

/-- 2^x for a finite x with absolute value below 256. -/
def exp2 (neg : Bool) (m : Nat) (e : Int) : Num :=
  -- the value in units of 2^-140, rounded down, and whether it is an integer
  let mag := if -140 ≤ e then m * 2 ^ (e + 140).toNat else m / 2 ^ (-140 - e).toNat
  let cut := decide (e < -140) && m % 2 ^ (-140 - e).toNat != 0
  let v : Int := if neg then -(mag : Int) - (if cut then 1 else 0) else mag
  let n := v / 2 ^ 140
  let f := (v % 2 ^ 140).toNat
  if f == 0 && !cut then .fin false 1 n
  else sticky false (exp2Frac f) (n - 140) false

/-- Digits of the binary logarithm of x / 2^160, from 1 up to 2, by squaring: the fraction in units of 2^-n. -/
def log2Digits : Nat → Nat → Nat → Nat
  | 0, _, acc => acc
  | n + 1, x, acc =>
    let y := x * x / 2 ^ 160
    if 2 ^ 161 ≤ y then log2Digits n (y / 2) (2 * acc + 1) else log2Digits n y (2 * acc)

/-- log2 (m * 2^e) for a nonzero m. -/
def log2Of (m : Nat) (e : Int) : Num :=
  let n := Num.lead m e
  if m == 2 ^ m.log2 then .fin (decide (n < 0)) n.natAbs 0
  else
    let d := log2Digits 128 (m * 2 ^ 160 / 2 ^ m.log2) 0
    -- the exact value lies strictly between n + d / 2^128 and n + (d + 1) / 2^128
    if 0 ≤ n then sticky false (n.toNat * 2 ^ 128 + d) (-128) false
    else sticky true ((-n).toNat * 2 ^ 128 - d - 1) (-128) false

/-! ### The generator -/

/-- One draw: the new state and the value returned (R55). -/
def draw (s : DWord) : DWord × Word :=
  let t := s * 0x5851F42D4C957F2D + 0x14057B7EF767814F
  (t, (t >>> 32).setWidth 32)

/-- `n` draws: the new state and the values in order. -/
def draws : Nat → DWord → DWord × List Word
  | 0, s => (s, [])
  | n + 1, s =>
    let (t, r) := draw s
    let (u, l) := draws n t
    (u, r :: l)

/-- The seed of a lane's generator (R57). -/
def seedOf (seed wid : DWord) : DWord := seed ^^^ (wid * 0x9E3779B97F4A7C15)

end Sys2Proof.Machine
end

