-- ==== Sys2Proof/Machine/Operands.lean ====
section
/-!
DEFINITION. The registers of a cord and how instructions name them: where a register of the current frame stands
(10_registers.md R246, 07_control_memory.md R140), reads and writes (R104), guards (05_encoding.md R80), and for every
instruction the registers, predicates and tiles it reads and writes (R61), its lookahead field and whether it is a
holding point (R27).
-/

namespace Sys2Proof.Machine

/-! ### Windows -/

/-- Width of the visible range of a frame: min(48, budget - 16) (R246). -/
def winSize (bud : Nat) : Nat := min 48 (bud - 16)

/-- Slots of a window ring (R246). -/
def ringSize (bud : Nat) : Nat := bud - 16

/-- A register number in the globals or in the visible range of the frame (R246). -/
def inRange (bud r : Nat) : Bool := if r < 16 then decide (r < min bud 16) else decide (r < 16 + winSize bud)

/-- Where register `r` of a frame with window base `base` stands (R246, R247), as R263 numbers registers. -/
def place (bud base r : Nat) : Nat := if r < 16 then r else 16 + (base + (r - 16)) % ringSize bud

/-- The current frame of a lane. -/
def Lane.frame (l : Lane) : Frame := l.frames.headD Frame.base

/-- Call depth of a lane (R140). -/
def Lane.depth (l : Lane) : Nat := l.frames.length - 1

/-! ### Lane registers and predicates -/

/-- Register `key`, as R263 numbers it: number 0 reads 0 (R104). -/
def Lane.at (l : Lane) (key : Nat) : Word := if key = 0 then 0 else l.regs.get key 0

/-- Writes register `key`; a write of number 0 is discarded (R104). -/
def Lane.put (l : Lane) (key : Nat) (x : Word) : Lane := if key = 0 then l else { l with regs := l.regs.set key x }

/-- v register `r` of the current frame. -/
def Lane.v (bud : Nat) (l : Lane) (r : Nat) : Word := l.at (place bud l.frame.vb r)

/-- The lane with v register `r` of the current frame written. -/
def Lane.setV (bud : Nat) (l : Lane) (r : Nat) (x : Word) : Lane := l.put (place bud l.frame.vb r) x

/-- The 64-bit value of a pair, low word in the even register (R47). -/
def Lane.v64 (bud : Nat) (l : Lane) (r : Nat) : DWord := (l.v bud (r + 1)) ++ (l.v bud r)

/-- Writes consecutive registers, the least significant word first (R47). -/
def Lane.setVs (bud : Nat) (l : Lane) (r : Nat) : List Word → Lane
  | [] => l
  | x :: xs => Lane.setVs bud (l.setV bud r x) (r + 1) xs

/-- Predicate `i` of a lane: p7 reads true (R104, R244). -/
def Lane.pred (l : Lane) (i : Nat) : Bool := if i < 7 then l.p.getLsbD i else true

/-- Writes predicate `i`; a write of p7 is discarded (R104). -/
def Lane.setP (l : Lane) (i : Nat) (x : Bool) : Lane :=
  if i < 7 then { l with p := if x then l.p ||| ((1 : BitVec 7) <<< i) else l.p &&& ~~~((1 : BitVec 7) <<< i) } else l

/-- guard(k) of a lane-set instruction (R80). -/
def Lane.guard (l : Lane) (g : Guard) : Bool := l.pred g.g.toNat != g.n

/-! ### Uniform registers and predicates -/

/-- Uniform register `key`, as R263 numbers it: number 0 reads 0 (R104). -/
def Cord.sat (c : Cord) (key : Nat) : Word := if key = 0 then 0 else c.sregs.get key 0

/-- Writes uniform register `key` and its hidden token bit (R104, R329). -/
def Cord.sput (c : Cord) (key : Nat) (x : Word) (tok : Bool) : Cord :=
  if key = 0 then c
  else { c with sregs := c.sregs.set key x, stok := if tok then key :: c.stok.filter (· != key) else c.stok.filter (· != key) }

/-- s register `r` through window base `base` (R140). -/
def Cord.s (c : Cord) (base r : Nat) : Word := c.sat (place c.ubud base r)

/-- The cord with s register `r` written through window base `base`. -/
def Cord.setS (c : Cord) (base r : Nat) (x : Word) : Cord := c.sput (place c.ubud base r) x false

/-- The cord with a token written to s register `r` (R213, R329). -/
def Cord.setTok (c : Cord) (base r : Nat) (x : Word) : Cord := c.sput (place c.ubud base r) x true

/-- The 64-bit value of an s pair (R47). -/
def Cord.s64 (c : Cord) (base r : Nat) : DWord := (c.s base (r + 1)) ++ (c.s base r)

/-- Predicate q `i`: q7 reads true (R104, R244). -/
def Cord.qat (c : Cord) (i : Nat) : Bool := if i < 7 then c.q.getLsbD i else true

/-- The q predicates with one replaced. -/
def putQ (q : BitVec 7) (i : Nat) (x : Bool) : BitVec 7 :=
  if x then q ||| ((1 : BitVec 7) <<< i) else q &&& ~~~((1 : BitVec 7) <<< i)

/-- Writes q `i`; a write of q7 is discarded (R104). -/
def Cord.setQ (c : Cord) (i : Nat) (x : Bool) : Cord :=
  if i < 7 then { c with q := putQ c.q i x } else c

/-- The guard of a uniform-set instruction (R80). -/
def Cord.guard (c : Cord) (g : Guard) : Bool := c.qat g.g.toNat != g.n

/-! ### Lanes of a cord -/

/-- Lane `k`. -/
def Cord.lane (c : Cord) (k : Nat) : Lane := c.lanes.get k Lane.absent

/-- The cord with lane `k` replaced. -/
def Cord.setLane (c : Cord) (k : Nat) (l : Lane) : Cord := { c with lanes := c.lanes.set k l }

/-- Applies `f` to the lanes listed. -/
def Cord.onLanes (c : Cord) (ks : List Nat) (f : Nat → Lane → Lane) : Cord :=
  ks.foldl (fun c k => c.setLane k (f k (c.lane k))) c

/-- The numbers of the lanes that satisfy `f`, ascending. -/
def Cord.lanesWith (c : Cord) (f : Lane → Bool) : List Nat := (List.range 32).filter (fun k => (c.lanes.get? k).any f)

/-- The lanes in a state (R18). -/
def Cord.inState (c : Cord) (st : LaneState) : List Nat := c.lanesWith (fun l => l.st == st)

/-- The least of a list of numbers. -/
def leastOf : List Nat → Option Nat
  | [] => none
  | x :: r => match leastOf r with
    | none => some x
    | some y => some (if x ≤ y then x else y)

/-- The lanes in RUN that stand at an address. -/
def Cord.lanesAt (c : Cord) (a : Nat) : List Nat := c.lanesWith (fun l => l.st == .run && l.pc.toNat == a)

/-- The lanes that wait in an instruction: until they go on, the cord issues nothing else (R38, R39, R170; log entry 37, DEDUCED). -/
def Cord.waiting (c : Cord) : List Nat :=
  match c.waits with
  | none => []
  | some (a, ks) => (c.lanesAt a).filter ks.contains

/-- The issue address: the minimum PC over the lanes in RUN (R20), or that of the instruction in which the cord waits. -/
def Cord.issueAddr (c : Cord) : Option Nat :=
  if c.waiting.isEmpty then leastOf ((c.inState .run).map (fun k => (c.lane k).pc.toNat)) else c.waits.map (·.1)

/-- The lanes at an address that execute there together: those whose `bar` has arrived there wait for its phase without others, which
arrive for themselves (R23, R163). -/
def Cord.setAt (c : Cord) (a : Nat) : List Nat :=
  match c.barWait.get? a with
  | none => c.lanesAt a
  | some w => if (c.lanesAt a).any w.lanes.contains then (c.lanesAt a).filter w.lanes.contains else c.lanesAt a

/-- The executing set: lanes in RUN at the issue address, ascending (R20). -/
def Cord.execSet (c : Cord) : List Nat :=
  if !c.waiting.isEmpty then c.waiting
  else match c.issueAddr with
  | none => []
  | some a => c.setAt a

/-! ### What instructions read and write -/

/-- Reads and writes nothing. -/
def Uses.none : Uses := { vr := [], vw := [], sr := [], sw := [], pr := [], pw := [], qr := [], qw := [], tr := [], tw := [] }

/-- Registers `r` up to `r + n - 1`. -/
def regs (r : Reg) (n : Nat) : List Nat := (List.range n).map (r.toNat + ·)

/-- Registers of a value of a type: a pair with a 64-bit type (R78). -/
def regsTy (r : Reg) (ty : Ty) : List Nat := regs r (if ty.is64 then 2 else 1)

/-- Registers that lane reads, writes and a guard name. -/
def useV (g : Guard) (w r : List Nat) : Uses := { Uses.none with vw := w, vr := r, pr := [g.g.toNat] }

/-- Uniform registers that reads, writes and a guard name. -/
def useS (g : Guard) (w r : List Nat) : Uses := { Uses.none with sw := w, sr := r, qr := [g.g.toNat] }

/-- Only a lane guard. -/
def useP (g : Guard) : Uses := useV g [] []
/-- Only a uniform guard. -/
def useQ (g : Guard) : Uses := useS g [] []

/-- Lane registers of three operands. -/
def u3 (g : Guard) (d a b : Reg) : Uses := useV g (regs d 1) (regs a 1 ++ regs b 1)
/-- Uniform registers of three operands. -/
def us3 (g : Guard) (d a b : Reg) : Uses := useS g (regs d 1) (regs a 1 ++ regs b 1)

/-- What a load, store or atomic of the lane set names. -/
def useLd (o : OLd) (n : Nat) : Uses :=
  { useV o.gd (regs o.d n) (regs o.a 1 ++ (if o.mode == .el then regs o.d 1 else [])) with }
def useSt (o : OSt) (n : Nat) : Uses := useV o.gd [] (regs o.a 1 ++ regs o.b n)
def useAtom (o : OAtom) (n : Nat) : Uses :=
  useV o.gd (regs o.d 1) (regs o.a n ++ regs o.b 1 ++ (if o.op == .cas then regs o.d 1 else []))

/-- Registers of an after-token suffix (R93). -/
def useAfter (m : OpMods) : List Nat := match m.after with
  | some r => regs r 1
  | Option.none => []

/-- What `cpy` and its kin name. -/
def useCpy (o : OCpy) (na nb nc : Nat) : Uses :=
  useS o.gd (regs o.d 1) (regs o.a na ++ regs o.b nb ++ regs o.c nc ++ useAfter o.mods)
def useMred (o : OMred) : Uses :=
  useS o.gd (regs o.d 1) (regs o.a 1 ++ regs o.b 1 ++ regs o.c 1 ++ useAfter o.mods)

/-- The registers, predicates and tiles an instruction names (R61, R246), the destination first. An event names none. -/
def uses : Instr → Uses
  | .nop o => useP o.gd
  | .mov o => useV o.gd (regs o.d 1) (regs o.a 1)
  | .movi o => useV o.gd (regs o.d 1) []
  | .iadd o => useV o.gd (regsTy o.d o.ty) (regsTy o.a o.ty ++ regsTy o.b o.ty)
  | .isub o => useV o.gd (regsTy o.d o.ty) (regsTy o.a o.ty ++ regsTy o.b o.ty)
  | .iaddi o => useV o.gd (regs o.d 1) (regs o.a 1)
  | .imul o => u3 o.gd o.d o.a o.b
  | .imulhs o => u3 o.gd o.d o.a o.b
  | .imulhn o => u3 o.gd o.d o.a o.b
  | .imad o => useV o.gd (regs o.d 1) (regs o.a 1 ++ regs o.b 1 ++ regs o.c 1)
  | .imins o => u3 o.gd o.d o.a o.b
  | .iminn o => u3 o.gd o.d o.a o.b
  | .imaxs o => u3 o.gd o.d o.a o.b
  | .imaxn o => u3 o.gd o.d o.a o.b
  | .iabs o => useV o.gd (regs o.d 1) (regs o.a 1)
  | .ineg o => useV o.gd (regs o.d 1) (regs o.a 1)
  | .and o => u3 o.gd o.d o.a o.b
  | .or o => u3 o.gd o.d o.a o.b
  | .xor o => u3 o.gd o.d o.a o.b
  | .andn o => u3 o.gd o.d o.a o.b
  | .andi o => useV o.gd (regs o.d 1) (regs o.a 1)
  | .ori o => useV o.gd (regs o.d 1) (regs o.a 1)
  | .xori o => useV o.gd (regs o.d 1) (regs o.a 1)
  | .shl o => u3 o.gd o.d o.a o.b
  | .shrl o => u3 o.gd o.d o.a o.b
  | .shra o => u3 o.gd o.d o.a o.b
  | .shli o => useV o.gd (regs o.d 1) (regs o.a 1)
  | .shrli o => useV o.gd (regs o.d 1) (regs o.a 1)
  | .shrai o => useV o.gd (regs o.d 1) (regs o.a 1)
  | .bfx o => useV o.gd (regs o.d 1) (regs o.a 1)
  | .bfi o => useV o.gd (regs o.d 1) (regs o.a 1 ++ regs o.d 1)
  | .popc o => useV o.gd (regs o.d 1) (regs o.a 1)
  | .clz o => useV o.gd (regs o.d 1) (regs o.a 1)
  | .brev o => useV o.gd (regs o.d 1) (regs o.a 1)
  | .sel o => u3 o.sel o.d o.a o.b
  | .lea o => useV o.gd (regs o.d 2) (regs o.a 2 ++ regs o.b 1)
  | .vadd2 o => u3 o.gd o.d o.a o.b
  | .vsub2 o => u3 o.gd o.d o.a o.b
  | .vmax2s o => u3 o.gd o.d o.a o.b
  | .vmax2n o => u3 o.gd o.d o.a o.b
  | .vmin2s o => u3 o.gd o.d o.a o.b
  | .vmin2n o => u3 o.gd o.d o.a o.b
  | .vacs2 o => { useV o.gd (regs o.d 1) (regs o.a 1 ++ regs o.b 1 ++ regs o.c 1) with pw := [o.pd.toNat, o.pd.toNat + 1] }
  | .icmp o => { useV o.gd [] (regsTy o.a o.ty ++ regsTy o.b o.ty) with pw := [o.pd.toNat] }
  | .plog o => { Uses.none with pr := [o.gd.g.toNat, o.pa.toNat, o.pb.toNat], pw := [o.pd.toNat] }
  | .pmovTov o => { useV o.gd (regs o.r 1) [] with pr := List.range 8 }
  | .pmovFrv o => { useV o.gd [] (regs o.r 1) with pw := List.range 7 }
  | .rng o => useV o.gd (regs o.d 1) []
  | .srd o => useV o.gd (regs o.d 1) []
  | .fadd o => u3 o.gd o.d o.a o.b
  | .fsub o => u3 o.gd o.d o.a o.b
  | .fmul o => u3 o.gd o.d o.a o.b
  | .ffma o => useV o.gd (regs o.d 1) (regs o.a 1 ++ regs o.b 1 ++ regs o.c 1)
  | .fmin o => u3 o.gd o.d o.a o.b
  | .fmax o => u3 o.gd o.d o.a o.b
  | .fabs o => useV o.gd (regs o.d 1) (regs o.a 1)
  | .fneg o => useV o.gd (regs o.d 1) (regs o.a 1)
  | .fcmp o => { useV o.gd [] (regs o.a 1 ++ regs o.b 1) with pw := [o.pd.toNat] }
  | .frcp o => useV o.gd (regs o.d 1) (regs o.a 1)
  | .frsq o => useV o.gd (regs o.d 1) (regs o.a 1)
  | .fsqrt o => useV o.gd (regs o.d 1) (regs o.a 1)
  | .fexp2 o => useV o.gd (regs o.d 1) (regs o.a 1)
  | .flog2 o => useV o.gd (regs o.d 1) (regs o.a 1)
  | .hfma2 o => useV o.gd (regs o.d 1) (regs o.a 1 ++ regs o.b 1 ++ regs o.c 1)
  | .hadd2 o => u3 o.gd o.d o.a o.b
  | .cvt o => useV o.gd (regsTy o.d o.t1) (regsTy o.a o.t2 ++ (if o.t1.width < 32 then regs o.d 1 else []))
  | .pk4 o => useV o.gd (regs o.d 1) (regs o.a 1 ++ regs o.b 1 ++ regs o.c 1 ++ regs o.d 1)
  | .upk o => u3 o.gd o.d o.a o.b
  | .fpclass o => useV o.gd (regs o.d 1) (regs o.a 1)
  | .perm o => useV o.gd (regs o.d 1) (regs o.a 1 ++ regs o.b 1 ++ regs o.c 1)
  | .shfl o => u3 o.gd o.d o.a o.b
  | .vote o =>
    { useV o.gd (if o.mode == .ballot then regs o.d 1 else []) (if o.mode == .eq then regs o.a 1 else []) with
      pr := o.gd.g.toNat :: (if o.mode == .eq then [] else [o.a.toNat % 8])
      pw := if o.mode == .ballot then [] else [o.d.toNat % 8] }
  | .lred o => useV o.gd (regs o.d 1) (regs o.a 1)
  | .lscan o => useV o.gd (regs o.d 1) (regs o.a 1)
  | .bra o => useP o.gd
  | .braLong o => useP o.gd
  | .brx o => useV o.gd [] (regs o.a 1)
  | .call o => useP o.gd
  | .callLong o => useP o.gd
  | .callx o => useV o.gd [] (regs o.a 1)
  | .callo o => useP o.gd
  | .ret o => useP o.gd
  | .exit o => useP o.gd
  | .rjoin => Uses.none
  | .frame _ => Uses.none
  | .trap o => useP o.gd
  | .brk o => useP o.gd
  | .ld8 o => useLd o 1
  | .ld16 o => useLd o 1
  | .ld32 o => useLd o 1
  | .ld64 o => useLd o 2
  | .ld128 o => useLd o 4
  | .st8 o => useSt o 1
  | .st16 o => useSt o 1
  | .st32 o => useSt o 1
  | .st64 o => useSt o 2
  | .st128 o => useSt o 4
  | .atom o => useAtom o 1
  | .gld32 o => useV o.gd (regs o.d 1) (regs o.a 2)
  | .gld64 o => useV o.gd (regs o.d 2) (regs o.a 2)
  | .gst32 o => useV o.gd [] (regs o.a 2 ++ regs o.b 1)
  | .gst64 o => useV o.gd [] (regs o.a 2 ++ regs o.b 2)
  | .gatom o => useAtom o 2
  | .gprf o => useV o.gd [] (regs o.a 2 ++ regs o.b 1)
  | .ctr o =>
    let c := regs o.c 1
    let j := if o.j.toNat = 0 then [] else (List.range 4).map (4 * o.j.toNat + ·)
    { Uses.none with
      pr := [o.gd.g.toNat]
      vr := (if o.map then [] else regs o.a 1 ++ regs o.b 1) ++ (if o.shV then c else [])
      sr := (if o.map then regs o.a 1 ++ regs o.b 1 else []) ++ (if o.shV then [] else c) ++ j
      tw := [o.tile.toNat] }
  | .ctrskip o => { Uses.none with sr := if o.a.toNat = 0 then [] else regs o.a 1, tw := [o.tile.toNat] }
  | .acz o => { useP o.gd with tw := [o.tile.toNat] }
  | .acrd o => { useV o.gd (regs o.d 1) (regs o.b 1) with tr := [o.tile.toNat] }
  | .acwr o => { useV o.gd [] (regs o.a 1 ++ regs o.b 1) with tw := [o.tile.toNat] }
  | .acdrain o => { Uses.none with pr := [o.gd.g.toNat], sr := regs o.a 1 ++ regs o.b 1, tr := [o.tile.toNat] }
  | .acaxpy o => { Uses.none with pr := [o.gd.g.toNat], sr := regs o.a 1 ++ regs o.b 1 ++ regs o.c 1, tr := [o.tile.toNat] }
  | .acrst o => useP o.gd
  | .spawn o => useV o.gd [] (regs o.a 2 ++ regs o.b 1 ++ regs o.c 1)
  | .swr o => useV o.gd [] (regs o.a 1)
  | .snop o => useQ o.gd
  | .smov o => useS o.gd (regs o.d 1) (regs o.a 1)
  | .smovi o => useS o.gd (regs o.d 1) []
  | .sadd o => useS o.gd (regsTy o.d o.ty) (regsTy o.a o.ty ++ regsTy o.b o.ty)
  | .ssub o => useS o.gd (regsTy o.d o.ty) (regsTy o.a o.ty ++ regsTy o.b o.ty)
  | .saddi o => useS o.gd (regs o.d 1) (regs o.a 1)
  | .smul o => us3 o.gd o.d o.a o.b
  | .smad o => useS o.gd (regs o.d 1) (regs o.a 1 ++ regs o.b 1 ++ regs o.c 1)
  | .smins o => us3 o.gd o.d o.a o.b
  | .smaxs o => us3 o.gd o.d o.a o.b
  | .sminn o => us3 o.gd o.d o.a o.b
  | .smaxn o => us3 o.gd o.d o.a o.b
  | .sand o => us3 o.gd o.d o.a o.b
  | .sor o => us3 o.gd o.d o.a o.b
  | .sxor o => us3 o.gd o.d o.a o.b
  | .sandi o => useS o.gd (regs o.d 1) (regs o.a 1)
  | .sori o => useS o.gd (regs o.d 1) (regs o.a 1)
  | .sshl o => us3 o.gd o.d o.a o.b
  | .sshrl o => us3 o.gd o.d o.a o.b
  | .sshra o => us3 o.gd o.d o.a o.b
  | .sshli o => useS o.gd (regs o.d 1) (regs o.a 1)
  | .sshrli o => useS o.gd (regs o.d 1) (regs o.a 1)
  | .scmp o => { useS o.gd [] (regsTy o.a o.ty ++ regsTy o.b o.ty) with qw := [o.pd.toNat] }
  | .splog o => { Uses.none with qr := [o.gd.g.toNat, o.pa.toNat, o.pb.toNat], qw := [o.pd.toNat] }
  | .ssel o => us3 o.sel o.d o.a o.b
  | .spopc o => useS o.gd (regs o.d 1) (regs o.a 1)
  | .sld32 o => useS o.gd (regs o.d 1) (regs o.a 1)
  | .sst32 o => useS o.gd [] (regs o.a 1 ++ regs o.b 1)
  | .sld64 o => useS o.gd (regs o.d 2) (regs o.a 1)
  | .sst64 o => useS o.gd [] (regs o.a 1 ++ regs o.b 2)
  | .ssrd o => useS o.gd (regs o.d 1) []
  | .sswr o => useS o.gd [] (regs o.a 1)
  | .sbra o => useQ o.gd
  | .sbraLong o => useQ o.gd
  | .sbrx o => useS o.gd [] (regs o.a 1)
  | .bar o => { useS o.gd [] (regs o.a 1) with qw := [o.qd.toNat] }
  | .barar o => useS o.gd [] (regs o.a 1)
  | .barwt o => { useQ o.gd with qw := [o.qd.toNat] }
  | .fence o => useQ o.gd
  | .tktwait o => useQ o.gd
  | .tktpass o => useQ o.gd
  | .evset o => useS o.gd [] (regs o.a 1)
  | .evclr o => useS o.gd [] (regs o.a 1)
  | .evwait o => useS o.gd [] (regs o.a 1)
  | .qpop o => { useS o.gd [] (regs o.a 1 ++ regs o.b 1) with qw := [o.qd.toNat] }
  | .qpush o => { useS o.gd [] (regs o.a 1 ++ regs o.b 1) with qw := [o.qd.toNat] }
  | .chput o => useS o.gd [] (regs o.a 1)
  | .chget o => { useS o.gd (regs o.a 1) [] with qw := [o.qb.toNat] }
  | .cheos o => useQ o.gd
  | .cpyIn o => useCpy o 1 2 1
  | .cpyOut o => useCpy o 2 1 1
  | .cpyCk o => useCpy o 1 2 2
  | .cpyCkc o => useCpy o 2 2 2
  | .cpyIna o => useCpy o 0 2 1
  | .cpyOuta o => useCpy o 2 0 1
  | .cpygat o => useCpy o 1 2 4
  | .mred o => useMred o
  | .coll o => useMred o
  | .wnw o => useS o.gd (regs o.d 1 ++ regs o.c 1) (regs o.a 1 ++ regs o.b 2 ++ useAfter o.mods)
  | .ovlld o => useS o.gd (regs o.d 1) (useAfter o.mods)
  | .ovlrel o => useS o.gd [] (regs o.a 1)
  | .ovlevict o => useQ o.gd
  | .opwait o => useS o.gd [] (regs o.a 1)
  | .optest o => { useS o.gd [] (regs o.a 1) with qw := [o.qd.toNat] }
  | .opseal o => useQ o.gd
  | .opwaitb o => useQ o.gd
  | .opcancel o => useS o.gd [] (regs o.a 1)
  | .opdetach o => useS o.gd [] (regs o.a 1 ++ regs o.b 2)
  | .opstat o => useS o.gd (regs o.d 1) (regs o.a 1 ++ regs o.b 1)
  | .opprio o => useS o.gd [] (regs o.a 1)
  | .opadopt o => useS o.gd (regs o.d 1) (regs o.a 2)
  | .hret o => useS o.gd [] (regs o.a 1)
  | .yield o => useQ o.gd
  | .strap o => useQ o.gd
  | .sbrk o => useQ o.gd
  | .idleQ o => useS o.gd [] (regs o.a 1)
  | .idleEv o => useS o.gd [] (regs o.a 1)
  | _ => Uses.none

/-- The first register named above the range of the cord's budgets, lane registers before uniform ones (R246; log entry 61, DESIGN CHOICE
for which of several). -/
def badReg (c : Cord) (u : Uses) : Option Nat :=
  match (u.vw ++ u.vr).find? (fun r => !inRange c.vbud r) with
  | some r => some r
  | none => (u.sw ++ u.sr).find? (fun r => !inRange c.ubud r)

/-- Two lists share a number other than 0, whose register holds no value (R104). -/
def meet (l m : List Nat) : Bool := l.any (fun x => x != 0 && m.contains x)

/-- Two lists share a number. -/
def meetP (l m : List Nat) : Bool := l.any (fun x => m.contains x)

/-- An instruction depends on a long-latency instruction in flight (R61): it reads or writes what that one writes, or
writes a register or tile that that one reads. -/
def depends (f u : Uses) : Bool :=
  meet (u.vr ++ u.vw) f.vw || meet (u.sr ++ u.sw) f.sw || meetP (u.pr ++ u.pw) f.pw || meetP (u.qr ++ u.qw) f.qw
    || meetP (u.tr ++ u.tw) f.tw || meet u.vw f.vr || meet u.sw f.sr || meetP u.tw f.tr

end Sys2Proof.Machine
end

