-- ==== Sys2Proof/Machine/Access.lean ====
section
/-!
DEFINITION. Reaching a store: who executes, address translation (14_tables.md R307 to R310), global memory (11_memories.md
R261), the local-memory path (R260), scratchpad offsets and the skewed tile (R254, R255), the armature map (R263, R264),
the range scoreboard (R153, R257) and race check (12_ordering.md R273).
-/

namespace Sys2Proof.Machine

/-! ### Fault causes (16_faults.md R317) -/

def cIllegal : Byte := 0x01
def cPriv : Byte := 0x02
def cRegRange : Byte := 0x03
def cAlign : Byte := 0x04
def cSpRange : Byte := 0x05
def cXlate : Byte := 0x06
def cPerm : Byte := 0x07
def cCodeAbsent : Byte := 0x08
def cOvlAbsent : Byte := 0x09
def cFmtDiverge : Byte := 0x0A
def cShape : Byte := 0x0B
def cAccTile : Byte := 0x0C
def cMmRace : Byte := 0x0D
def cTokenStale : Byte := 0x0E
def cDataErr : Byte := 0x0F
def cTimeout : Byte := 0x10
def cChan : Byte := 0x11
def cSpawnDepth : Byte := 0x12
def cTicket : Byte := 0x13
def cSwTrap : Byte := 0x15
def cBrk : Byte := 0x16
def cHandlerTimeout : Byte := 0x17

/-- The number of a cord slot of a core (R263). -/
def Cord.slotNo (c : Cord) : Nat := 8 * c.quarter + c.pos

/-! ### Parts of the state -/

namespace State

def core (s : State) (n : Nat) : Core := s.cores.get n Core.fresh
def setCore (s : State) (n : Nat) (c : Core) : State := { s with cores := s.cores.set n c }
def die (s : State) (d : Nat) : Die := s.dies.get d Die.fresh
def setDie (s : State) (d : Nat) (x : Die) : State := { s with dies := s.dies.set d x }
def cluster (s : State) (n : Nat) : Cluster := s.clusters.get n Cluster.fresh
def setCluster (s : State) (n : Nat) (x : Cluster) : State := { s with clusters := s.clusters.set n x }
def ctx (s : State) (n : Nat) : Ctx := s.ctxs.get n Ctx.fresh
def setCtx (s : State) (n : Nat) (x : Ctx) : State := { s with ctxs := s.ctxs.set n x }
def block? (s : State) (core slot : Nat) : Option Block := (s.core core).blocks.get? slot
def setBlock (s : State) (core slot : Nat) (b : Block) : State :=
  s.setCore core { s.core core with blocks := (s.core core).blocks.set slot b }
def cord? (s : State) (r : CordRef) : Option Cord := (s.block? r.core r.slot).bind (fun b => b.cords.get? r.cord)
/-- Replaces a cord of a resident block. -/
def setCord (s : State) (r : CordRef) (c : Cord) : State :=
  match s.block? r.core r.slot with
  | none => s
  | some b => s.setBlock r.core r.slot { b with cords := b.cords.set r.cord c }
/-- Replaces a launch. -/
def setLaunch (s : State) (n : Nat) (l : Launch) : State := { s with launches := s.launches.set n l }
/-- A free value, and the state whose counter has moved on (log entry 2, DESIGN CHOICE). -/
def free (s : State) : DWord × State := (Config.freeValue s.freeCtr, { s with freeCtr := s.freeCtr + 1 })
/-- The cord at `r` has found its wait unfinished. -/
def stall (s : State) (r : CordRef) : State := { s with stalled := r :: s.stalled.filter (· != r) }

end State

/-- A fault queue entry (R324), without its stamp. -/
def faultBits (blk tval token ctx core rung cause : Nat) : List Byte :=
  natLe 4 cause ++ natLe 4 (rung + core * 2 ^ 8 + ctx * 2 ^ 20) ++ natLe 4 token ++ natLe 4 tval ++ natLe 8 blk

/-- A counter one up, saturating (R311). -/
def satInc (w : Word) : Word := if w = 0xFFFFFFFF then w else w + 1

/-- The hardware logs an uncorrectable error, a link loss, an escalation or a discarded write in the error log, a ring (R340,
R341). Rung 7 names no rung; the stamp is a free value (log entry 2, DESIGN CHOICE). -/
def logError (s : State) (blk tval token ctx core rung cause : Nat) : State :=
  let (x, s) := s.free
  { s with mgmt := { s.mgmt with
      log := (BitVec.ofNat 256 (leNat (faultBits blk tval token ctx core rung cause ++ natLe 8 x.toNat)) :: s.mgmt.log).take Config.errorLog } }

/-- The log entry of an uncorrectable error that cord or operation of a block meets. -/
def logData (s : State) (core ctx blk tval token : Nat) : State := logError s blk tval token ctx core 7 cDataErr.toNat

/-- The cord that executes: where it stands, its block, its executing set and issue address (R20). -/
structure Here where
  ref : CordRef
  block : Block
  cord : Cord
  set : List Nat
  addr : Nat
  deriving DecidableEq, Repr

/-- The die of a core. -/
def dieOf (core : Nat) : Nat := core / Config.coresPerDie
/-- The cluster of a core, as die * 8 + cluster (R5). -/
def clusterOf (core : Nat) : Nat := core / 8

/-- The uniform window base: that of the lowest-numbered lane of the executing set (R140). -/
def Here.sbase (h : Here) : Nat := match h.set with
  | [] => 0
  | k :: _ => (h.cord.lane k).frame.sb

/-- s register `r` as a uniform-set instruction reads it (R140). -/
def Here.s (h : Here) (r : Reg) : Word := h.cord.s h.sbase r.toNat
def Here.s64 (h : Here) (r : Reg) : DWord := h.cord.s64 h.sbase r.toNat
/-- The cord with s register `r` written. -/
def Here.setS (h : Here) (r : Reg) (x : Word) : Cord := h.cord.setS h.sbase r.toNat x
/-- v register `r` of lane `k`. -/
def Here.v (h : Here) (k : Nat) (r : Reg) : Word := (h.cord.lane k).v h.cord.vbud r.toNat
def Here.v64 (h : Here) (k : Nat) (r : Reg) : DWord := (h.cord.lane k).v64 h.cord.vbud r.toNat
/-- The lanes that execute with a true guard (R21, R80). -/
def Here.active (h : Here) (g : Guard) : List Nat := h.set.filter (fun k => (h.cord.lane k).guard g)

/-! ### Translation -/

/-- The place some bytes further on. -/
def Target.plus : Target → Nat → Target
  | .hbm a, n => .hbm (a + n)
  | .host a, n => .host (a + n)
  | .peer p a, n => .peer p (a + n)

/-- Fields of a page-table entry (R307). -/
def pteCtx (w : DWord) : Nat := field w.toNat 52 12
def pteAddr (w : DWord) : Nat := field w.toNat 12 40 * 4096
def ptePeer (w : DWord) : Nat := field w.toNat 8 4
def pteCache (w : DWord) : Nat := field w.toNat 6 2
def pteTarget (w : DWord) : Nat := field w.toNat 4 2
def pteW (w : DWord) : Bool := bit w.toNat 3
def pteR (w : DWord) : Bool := bit w.toNat 2
def pteLeaf (w : DWord) : Bool := bit w.toNat 1
def pteV (w : DWord) : Bool := bit w.toNat 0

/-- log2 of the page that a leaf at a level maps (R307). -/
def levelBits (level : Nat) : Nat := 16 + 9 * level

/-- A reserved value in an entry; host and peer pages ignore cache (R307, R308). -/
def pteReserved (w : DWord) : Bool := pteTarget w == 3 || (pteTarget w == 0 && decide (2 ≤ pteCache w))

/-- The die whose stacks hold a device address (R261; log entry 6, DESIGN CHOICE for the split of the address space). -/
def hbmDie (a : Nat) : Nat := if a < Config.hbmBytes / 2 then 0 else 1

/-- The Plinth of a device address, 0 to 11 (R261). -/
def plinthOf (a : Nat) : Nat := hbmDie a * 6 + a % (Config.hbmBytes / 2) / 4096 % 6

/-- Device memory that an uncorrectable error damages: a line that the mid-level store lost, or a word of a stack (R265). -/
def lineLost (s : State) (a n : Nat) : Bool :=
  (s.die (hbmDie a)).lost.any (fun l => decide (l * 64 < a + n) && decide (a < l * 64 + 64))
    || s.hbmErr.any (fun e => !e.2 && decide (e.1 * 32 < a + n) && decide (a < e.1 * 32 + 32))

/-- Walks the table of a context from a node down (R307, R308): of an entry that breaks several conditions, those that give XLATE come
before the context's PERM (R148, R158). `level + 1` counts the levels left. A damaged entry gives DATA_ERR (R256, R265). -/
def walk (s : State) (ctx va : Nat) : Nat → Nat → Except Byte TlbEntry
  | 0, _ => .error cXlate
  | level + 1, node =>
    let a := node + 8 * field va (levelBits level) 9
    let w : DWord := BitVec.ofNat 64 (leNat (s.hbm.read a 8))
    if lineLost s a 8 then .error cDataErr
    else if !pteV w || pteReserved w then .error cXlate
    else if if pteLeaf w then level = 3 || pteAddr w % 2 ^ levelBits level ≠ 0 else level = 0 then .error cXlate
    else if pteCtx w ≠ ctx then .error cPerm
    else if pteLeaf w then .ok { ctx := ctx, page := va / 2 ^ levelBits level, bits := levelBits level, leaf := w }
    else walk s ctx va level (pteAddr w)

/-- The TLB entry that covers an address (R309). -/
def tlbFind (l : List TlbEntry) (ctx va : Nat) : Option TlbEntry :=
  l.find? (fun e => e.ctx == ctx && e.page == va / 2 ^ e.bits)

/-- The leaf for an address, from the micro-TLB, the last-level TLB or a walk (R309). `gather` names the micro-TLB. -/
def leafOf (s : State) (core : Nat) (gather : Bool) (ctx va : Nat) : Except Byte TlbEntry :=
  let c := s.core core
  match tlbFind (if gather then c.gtlb else c.etlb) ctx va with
  | some e => .ok e
  | none =>
    match tlbFind (s.die (dieOf core)).tlb ctx va with
    | some e => .ok e
    | none =>
      walk s ctx va 4 (s.ctx ctx).root

/-- Lists a TLB entry, the oldest leaving when the TLB is full (R309; log entry 5, DESIGN CHOICE for which one leaves). -/
def tlbPut (size : Nat) (l : List TlbEntry) (e : TlbEntry) : List TlbEntry :=
  if l.contains e then l else (e :: l).take size

/-- Fills the TLBs after an access (R309). -/
def touchTlb (s : State) (core : Nat) (gather : Bool) (ctx va : Nat) : State :=
  match leafOf s core gather ctx va with
  | .error _ => s
  | .ok e =>
    let c := s.core core
    let s := s.setCore core (if gather then { c with gtlb := tlbPut Config.gatherTlb c.gtlb e }
      else { c with etlb := tlbPut Config.engineTlb c.etlb e })
    let d := s.die (dieOf core)
    s.setDie (dieOf core) { d with tlb := tlbPut Config.lastTlb d.tlb e }

/-- The windows cover the bytes from `a` up to `e`; each window reaches on from where the last one ended. -/
def covered (ws : List Window) : Nat → Nat → Nat → Bool
  | 0, a, e => decide (e ≤ a)
  | fuel + 1, a, e =>
    decide (e ≤ a) || (match ws.find? (fun x => decide (x.base ≤ a) && decide (a < x.base + x.len)) with
      | none => false
      | some x => covered ws fuel (x.base + x.len) e)

/-- Every byte of an access lies in a DMA window of the host that permits it (R336, R341). -/
def windowAllows (s : State) (a n : Nat) (w : Bool) : Bool :=
  let ws := s.mgmt.windows.vals.filter (fun x => if w then x.w else x.r)
  covered ws ws.length a (a + n)

/-- A peer is reached by an enabled link (R338). -/
def peerUp (s : State) (n : Nat) : Bool := ((s.peerLinks.get n 0) &&& s.mgmt.linkMask) != 0

/-- Checks an access of `n` bytes against its leaf (R265, R307, R308, R336, R338; log entry 23, DEDUCED beyond the memory): the target, or the
cause. `rd` asks for DATA_ERR too, as a read does; an access that reads and writes is an atomic, which `w` alone permits. -/
def checkLeaf (s : State) (e : TlbEntry) (va n : Nat) (w rd : Bool) : Except Byte Target :=
  if (w && !pteW e.leaf) || (rd && !w && !pteR e.leaf) then .error cPerm
  else
    let a := pteAddr e.leaf + va % 2 ^ e.bits
    if pteTarget e.leaf = 0 then
      if Config.hbmBytes < a + n then .error cXlate
      else if rd && lineLost s a n then .error cDataErr
      else .ok (.hbm a)
    else if pteTarget e.leaf = 1 then
      if (rd && !windowAllows s a n false) || (w && !windowAllows s a n true) then .error cPerm else .ok (.host a)
    else if peerUp s (ptePeer e.leaf) then .ok (.peer (ptePeer e.leaf) a)
    else .error cDataErr

/-- Translates and checks an access of `n` bytes that lies in one 64 KiB page (R158): the target, or the cause. -/
def translate (s : State) (core : Nat) (gather : Bool) (ctx va n : Nat) (w rd : Bool) : Except Byte Target :=
  if 2 ^ 52 ≤ va then .error cXlate
  else match leafOf s core gather ctx va with
  | .error e => .error e
  | .ok e => checkLeaf s e va n w rd

/-- The leaf for an access of the distributor of a die, which has no micro-TLB (R309). -/
def dieLeaf (s : State) (d ctx va : Nat) : Except Byte TlbEntry :=
  match tlbFind (s.die d).tlb ctx va with
  | some e => .ok e
  | none =>
    walk s ctx va 4 (s.ctx ctx).root

/-- Translates an access of the distributor or the firmware of a die. -/
def dieTranslate (s : State) (d ctx va n : Nat) (w rd : Bool) : Except Byte Target :=
  if 2 ^ 52 ≤ va then .error cXlate
  else match dieLeaf s d ctx va with
  | .error e => .error e
  | .ok e => checkLeaf s e va n w rd

/-! ### Global memory -/

/-- Bytes at a target. -/
def targetRead (s : State) (n : Nat) : Target → List Byte
  | .hbm a => s.hbm.read a n
  | .host a => s.host.read a n
  | .peer p a => (s.peers.get p []).read a n

/-- Writes at a target. A write of a whole lost line, or of a whole damaged word, brings it back (R265). -/
def targetWrite (s : State) (l : List Byte) : Target → State
  | .hbm a =>
    let d := s.die (hbmDie a)
    let stays (z x : Nat) : Bool := !(decide (a ≤ x * z) && decide (x * z + z ≤ a + l.length))
    let s := if d.lost.isEmpty && d.soft.isEmpty then s
      else s.setDie (hbmDie a) { d with lost := d.lost.filter (stays 64), soft := d.soft.filter (stays 8) }
    { s with hbm := s.hbm.write a l,
             hbmErr := s.hbmErr.filter (fun x => !(decide (a ≤ x.1 * 32) && decide (x.1 * 32 + 32 ≤ a + l.length))) }
  | .host a => { s with host := s.host.write a l }
  | .peer p a => { s with peers := s.peers.set p ((s.peers.get p []).write a l) }

/-- An array outside the cores has corrected `k` errors: its counter on the die, 0 the mid-level store and 1 the queues (R311, R313). -/
def countDie (s : State) (d a k : Nat) : State :=
  if k = 0 then s
  else
    let x := s.die d
    s.setDie d { x with ce := x.ce.set a ((List.range k).foldl (fun w _ => satInc w) (x.ce.get a 0)) }

/-- A read of `n` bytes of device memory meets words that the code corrects: each counts once, at its Plinth, or in the mid-level store
of its die (R265, R311). -/
def noteTarget (s : State) (n : Nat) : Target → State
  | .hbm a =>
    let s := (s.hbmErr.filter (fun e => e.2 && decide (e.1 * 32 < a + n) && decide (a < e.1 * 32 + 32))).foldl (fun s e =>
      let k := plinthOf (e.1 * 32)
      { s with corrected := s.corrected.set k (satInc (s.corrected.get k 0)) }) s
    countDie s (hbmDie a) 0 (((s.die (hbmDie a)).soft.filter (fun w => decide (w * 8 < a + n) && decide (a < w * 8 + 8))).length)
  | _ => s

/-! ### Performance counters (R316) -/

/-- Advances the counters of a core that count event `ev` (log entry 7, DESIGN CHOICE for the event numbers). -/
def countPerf (s : State) (core ev : Nat) : State :=
  let c := s.core core
  if c.perf.vals.any (fun x => x.1 == ev) then
    s.setCore core { c with perf := c.perf.map (fun _ x => if x.1 == ev then (x.1, x.2 + 1) else x) }
  else s

/-- The table entries that a walk reads, from a node down. -/
def walkReads (s : State) (ctx va : Nat) : Nat → Nat → List Nat
  | 0, _ => []
  | level + 1, node =>
    let a := node + 8 * field va (levelBits level) 9
    let w : DWord := BitVec.ofNat 64 (leNat (s.hbm.read a 8))
    a :: (if !lineLost s a 8 && pteV w && !pteReserved w && pteCtx w == ctx && !pteLeaf w then walkReads s ctx va level (pteAddr w) else [])

/-- The table entry whose damage ends a walk (R265). -/
def walkLost (s : State) (ctx va : Nat) : Option Nat := (walkReads s ctx va 4 (s.ctx ctx).root).find? (fun a => lineLost s a 8)

/-- A walk counts the words that the code corrects (R265). -/
def noteWalk (s : State) (d ctx va : Nat) : State :=
  if (s.hbmErr.isEmpty && s.dies.vals.all (fun d => d.soft.isEmpty)) || (tlbFind (s.die d).tlb ctx va).isSome then s
  else (walkReads s ctx va 4 (s.ctx ctx).root).foldl (fun s a => noteTarget s 8 (.hbm a)) s

/-- An access of the local-memory path, a gather or an engine has been translated, with whatever outcome: TLBs fill, and a miss of the
micro-TLB is counted (R309, R316). -/
def touch (s : State) (core : Nat) (gather : Bool) (ctx va : Nat) : State :=
  let c := s.core core
  let miss := decide (va < 2 ^ 52) && (tlbFind (if gather then c.gtlb else c.etlb) ctx va).isNone
  let s := touchTlb (if miss then noteWalk s (dieOf core) ctx va else s) core gather ctx va
  if miss then countPerf s core 9 else s

/-! ### Reads of the distributor -/

/-- Bytes that the distributor of a die reads in one page. -/
def dieRead (s : State) (d ctx va n : Nat) : Except Byte (List Byte) :=
  match dieTranslate s d ctx va n false true with
  | .error e => .error e
  | .ok t => .ok (targetRead s n t)

/-- A read of the distributor counts the words that the code corrects, those of its walk among them (R265). -/
def noteDie (s : State) (d ctx va n : Nat) : State :=
  let t := noteWalk s d ctx va
  match dieTranslate s d ctx va n false true with
  | .error _ => t
  | .ok x => noteTarget t n x

/-- Cuts `n` bytes from an address at 64 KiB boundaries: address and length of each piece. -/
def pieces : Nat → Nat → Nat → List (Nat × Nat)
  | 0, _, _ => []
  | fuel + 1, va, n =>
    if n = 0 then []
    else
      let m := min n (65536 - va % 65536)
      (va, m) :: pieces fuel (va + m) (n - m)

/-- The pieces of a range. -/
def piecesOf (va n : Nat) : List (Nat × Nat) := pieces (n / 65536 + 2) va n

/-- A range has been translated, page by page (R309, R316). -/
def touchRange (s : State) (core : Nat) (gather : Bool) (ctx va n : Nat) : State :=
  (piecesOf va n).foldl (fun s p => touch s core gather ctx p.1) s

/-- The addresses of a range that have been translated when the piece at `a` faults. -/
def touchedTo (va n a : Nat) : List Nat := ((piecesOf va n).map (·.1)).filter (· ≤ a)

/-- The first piece that does not translate: cause and its address. -/
def rangeFault (s : State) (core : Nat) (gather : Bool) (ctx va n : Nat) (w rd : Bool) : Option (Byte × Nat) :=
  (piecesOf va n).findSome? (fun p => match translate s core gather ctx p.1 p.2 w rd with
    | .error e => some (e, p.1)
    | .ok _ => none)

/-- `n` bytes of global memory; a piece that does not translate reads 0 (callers have checked). -/
def globalRead (s : State) (core : Nat) (gather : Bool) (ctx va n : Nat) : List Byte :=
  (piecesOf va n).flatMap (fun p => match translate s core gather ctx p.1 p.2 false false with
    | .error _ => List.replicate p.2 0
    | .ok t => targetRead s p.2 t)

/-- A read of global memory counts the words that the code corrects. -/
def noteGlobal (s : State) (core : Nat) (gather : Bool) (ctx va n : Nat) : State :=
  if s.hbmErr.isEmpty && s.dies.vals.all (fun d => d.soft.isEmpty) then s
  else (piecesOf va n).foldl (fun s p => match translate s core gather ctx p.1 p.2 false false with
    | .error _ => s
    | .ok t => noteTarget s p.2 t) s

/-- Two accesses of a context touch one word: by their addresses, or through two mappings of one place (R267, R307). -/
def sameWord (s : State) (core ctx a n b m : Nat) : Bool :=
  let meets (a b : Nat) : Bool := decide (a / 4 * 4 < b + m) && decide (b / 4 * 4 < a + n)
  meets a b || (match translate s core true ctx a n false false, translate s core true ctx b m false false with
    | .ok (.hbm x), .ok (.hbm y) => meets x y
    | .ok (.host x), .ok (.host y) => meets x y
    | .ok (.peer p x), .ok (.peer q y) => p == q && meets x y
    | _, _ => false)

/-! ### Soft errors (R265) -/

/-- An uncorrectable soft error in a word of an array (R265). -/
def badWord (c : Core) (a : ErrArray) (addr n : Nat) : Bool :=
  c.bad.any (fun e => e.1 == a && decide (e.2 * 8 < addr + n) && decide (addr < e.2 * 8 + 8))

/-- The number of an array's counter of correctable errors (R311). -/
def ErrArray.no : ErrArray → Nat
  | .scratchpad => 0
  | .accumulator => 1
  | .codeStore => 2
  | .laneRegs => 3
  | .uniformRegs => 4
  | .opTable => 5
  | .localPath => 6
  | .scoreboard => 7
  | .chanTable => 8

/-- A read of `n` bytes of an array counts the words that the code corrects, each once (R265, R311, R313). The errors stay, so that the
next read counts them again (log entry 82, DESIGN CHOICE). -/
def noteCore (c : Core) (a : ErrArray) (addr n : Nat) : Core :=
  let k := (c.soft.filter (fun e => e.1 == a && decide (e.2 * 8 < addr + n) && decide (addr < e.2 * 8 + 8))).length
  if k = 0 then c
  else { c with ce := c.ce.set a.no ((List.range k).foldl (fun w _ => satInc w) (c.ce.get a.no 0)) }

/-- The same in the state. -/
def noteRead (s : State) (core : Nat) (a : ErrArray) (addr n : Nat) : State :=
  if (s.core core).soft.isEmpty then s else s.setCore core (noteCore (s.core core) a addr n)

/-- A write of whole words of an array leaves no error in them (R265). -/
def mend (c : Core) (a : ErrArray) (addr n : Nat) : Core :=
  let keep (e : ErrArray × Nat) : Bool := !(e.1 == a && decide (addr ≤ e.2 * 8) && decide (e.2 * 8 + 8 ≤ addr + n))
  { c with bad := c.bad.filter keep, soft := c.soft.filter keep }

/-! ### The local-memory path (R260) -/

/-- The line of the path that holds an address. -/
def findLine (c : Core) (ctx va : Nat) : Option LocalLine :=
  c.lines.find? (fun l => l.ctx == ctx && l.addr == va / 64)

/-- A byte of a local area: from the path where it was written there, else from global memory. -/
def localByte (s : State) (core ctx va : Nat) : Byte :=
  match (findLine (s.core core) ctx va).bind (fun l => l.bytes.get? (va % 64)) with
  | some b => b
  | none => (globalRead s core false ctx va 1).headD 0

/-- `n` bytes of a local area. -/
def localRead (s : State) (core ctx va n : Nat) : List Byte :=
  (List.range n).map (fun i => localByte s core ctx (va + i))

/-- Writes a byte into the path. -/
def lineWrite (slot ctx va : Nat) (b : Byte) : List LocalLine → List LocalLine
  | [] => [{ slot := slot, ctx := ctx, addr := va / 64, bytes := Tab.empty.set (va % 64) b }]
  | l :: r =>
    if l.ctx == ctx && l.addr == va / 64 then { l with bytes := l.bytes.set (va % 64) b } :: r
    else l :: lineWrite slot ctx va b r

/-- The place of a local address of a context in the path's array (R265). -/
def pathAddr (ctx va : Nat) : Nat := ctx * 2 ^ 52 + va

/-- Writes bytes of a local area into the path. -/
def localWrite (s : State) (core slot ctx va : Nat) (l : List Byte) : State :=
  let c := s.core core
  let lines := ((List.range l.length).foldl (fun ls i => lineWrite slot ctx (va + i) (l.getD i 0) ls) c.lines)
  s.setCore core (mend { c with lines := lines } .localPath (pathAddr ctx va) l.length)

/-- The bytes of a local access that the path does not hold written, by their offsets: global memory gives them. -/
def unheld (c : Core) (ctx va n : Nat) : List Nat :=
  (List.range n).filter (fun i => ((findLine c ctx (va + i)).bind (fun l => l.bytes.get? ((va + i) % 64))).isNone)

/-- Translates and checks a local access that lies in one 64 KiB page: an error of device memory touches a read where the path does not
hold the byte written (R260, R265). -/
def pathTranslate (s : State) (core ctx va n : Nat) (w rd : Bool) : Except Byte Target :=
  match translate s core false ctx va n w rd with
  | .ok t => .ok t
  | .error e =>
    if e ≠ cDataErr then .error e
    else match translate s core false ctx va n w false with
    | .ok (.hbm a) => if (unheld (s.core core) ctx va n).any (fun i => lineLost s (a + i) 1) then .error e else .ok (.hbm a)
    | _ => .error e

/-- The first piece of a local range that does not translate: cause and its address. -/
def pathFault (s : State) (core ctx va n : Nat) (w rd : Bool) : Option (Byte × Nat) :=
  (piecesOf va n).findSome? (fun p => match pathTranslate s core ctx p.1 p.2 w rd with
    | .error e => some (e, p.1)
    | .ok _ => none)

/-- A local read counts the words that the code corrects: those of the path, and those of global memory where it reads any byte there. -/
def notePath (s : State) (core ctx va n : Nat) : State :=
  let t := noteRead s core .localPath (pathAddr ctx va) n
  if (unheld (s.core core) ctx va n).isEmpty then t else noteGlobal t core false ctx va n

/-! ### Scratchpad -/

/-- Base and row length of the declared tile, and its rows (R249). -/
def tileBase (w : Word) : Nat := field w.toNat 0 20
def tileLen (w : Word) : Nat := field w.toNat 0 12
def tileRows (w : Word) : Nat := field w.toNat 16 12 + 1

/-- A skewed tile is declared (R249, R255). -/
def tileDeclared (splen : Nat) (t1 t2 : Word) : Bool :=
  let len := tileLen t2
  len != 0 && len % 32 == 0 && decide (len ≤ 2048) && tileBase t1 % 32 == 0
    && decide (tileBase t1 + ceilTo (tileRows t2 * len) 2048 ≤ splen)

/-- The byte offset in the allocation that row-major offset `ea` of the declared tile reaches (R255). -/
def skew (t1 : Word) (ea : Nat) : Nat :=
  let t := ea / 32
  let g := t / 64
  32 * (tileBase t1 / 32 + 64 * g + (t + g) % 64) + ea % 32

/-- An operation is finished (R209). -/
def OpState.finished : OpState → Bool
  | .done | .failed | .cancelled => true
  | _ => false

/-- Two byte ranges share a byte (R257). -/
def overlap (lo hi lo' hi' : Nat) : Bool := decide (lo < hi') && decide (lo' < hi)

/-- The ranges that the scoreboard holds: of unfinished operations, and of each `qpop` in flight (R168, R257). -/
def boardRanges (c : Core) : List SpRange :=
  (c.ops.vals.flatMap (fun o => if o.state.finished then [] else o.ranges))
    ++ c.blocks.vals.flatMap (fun b => b.cords.vals.flatMap (fun x => x.inflight.filterMap (·.range)))

/-- Entries of the range scoreboard in use (R257). -/
def scoreCount (c : Core) : Nat := (boardRanges c).length

/-- An access to scratchpad reads the scoreboard: an error in an entry in use gives it DATA_ERR (R265). -/
def badBoard (c : Core) : Bool := badWord c .scoreboard 0 (8 * scoreCount c)

/-- A range of the scoreboard holds an access of `n` bytes (R153): a load meets a destination; a store meets any range of an
unfinished operation, or an operand range of an open instance. -/
def scoreHeld (c : Core) (w : Bool) (phys n : Nat) : Bool :=
  (boardRanges c).any (fun r => (w || r.write) && overlap phys (phys + n) r.lo r.hi)
    || (w && c.tiles.vals.any (fun t => t.slots.any (fun i => i.arrivals.any (fun a =>
      a.ranges.any (fun r => overlap phys (phys + n) r.lo r.hi)))))

/-- Race check flags an access of cord `cord` to a line of its block (R273). -/
def raceFlag (b : Block) (cord off : Nat) : Bool :=
  b.race && (match b.lines.get? (off / 64) with
    | some (c, e) => c != cord && e == b.epoch
    | none => false)

/-- The block with a write of cord `cord` recorded for the lines of a range (R273). -/
def recordWrite (b : Block) (cord off n : Nat) : Block :=
  if b.race && n != 0 then
    let ls := List.range ((off + n - 1) / 64 - off / 64 + 1)
    { b with lines := ls.foldl (fun t i => t.set (off / 64 + i) (cord, b.epoch)) b.lines }
  else b

/-! ### The places of the four spaces -/

/-- What an access reaches (R148). -/
inductive Spot where
  /-- Physical scratchpad of a core. -/
  | sp (core phys : Nat)
  /-- Bytes of the accumulator store of a core. -/
  | acc (core off : Nat)
  /-- A register of a cord, as R263 numbers it, and a byte in it. -/
  | vreg (c : CordRef) (lane reg byte : Nat)
  | sreg (c : CordRef) (reg byte : Nat)
  /-- A global address through the local-memory path. -/
  | loc (ctx va : Nat)
  deriving DecidableEq, Repr

/-- The resident cord at a cord slot of a core (R263). -/
def cordAt (c : Core) (n : Nat) : Option (Nat × Nat × Block × Cord) :=
  (c.blocks.entries.flatMap (fun (sl, b) => b.cords.entries.map (fun (i, x) => (sl, i, b, x)))).find?
    (fun x => 8 * x.2.2.2.quarter + x.2.2.2.pos == n)

/-- A lane of the cord is in RUN or WAIT. -/
def Cord.live (c : Cord) : Bool := !(c.inState .run).isEmpty || !(c.inState .wait).isEmpty

/-- The block of a context whose allocation holds bytes of a core's scratchpad. -/
def ownsSp (c : Core) (ctx phys n : Nat) : Bool :=
  c.blocks.vals.any (fun b => b.ctx == ctx && decide (b.spbase ≤ phys) && decide (phys + n ≤ b.spbase + b.splen))

/-- An armature address: the place, or the cause (R263, R264). A core that has been removed, and a cord slot that no cord has, count as
beyond the region (log entry 74, DESIGN CHOICE). -/
def armSpot (s : State) (h : Here) (ea z : Nat) (w : Bool) : Except Byte Spot :=
  let n := dieOf h.ref.core * 64 + field ea 22 6
  let c := s.core n
  let off := field ea 0 20
  if field ea 28 4 ≠ 0 then .error cSpRange
  else if c.removed then .error cSpRange
  else match field ea 20 2 with
  | 0 =>
    if Config.scratchBytes < off + z then .error cSpRange
    else if ownsSp c h.block.ctx off z then .ok (.sp n off) else .error cPerm
  | 1 =>
    if Config.tiles * Config.tileBytes < off + z then .error cSpRange
    else
      match c.blocks.vals.find? (fun b => b.ctx == h.block.ctx && b.tiles.contains (off / Config.tileBytes)) with
      | none => .error cPerm
      | some b =>
        if w && b.cords.vals.any (fun x => !(x.inState .run).isEmpty) then .error cPerm else .ok (.acc n off)
  | 2 =>
    match cordAt c (field ea 15 5) with
    | none => .error cSpRange
    | some (sl, i, b, x) =>
      if x.vbud ≤ field ea 2 8 + (z - 1) / 4 then .error cSpRange
      else if b.ctx ≠ h.block.ctx || x.live then .error cPerm
      else .ok (.vreg ⟨n, sl, i⟩ (field ea 10 5) (field ea 2 8) (field ea 0 2))
  | _ =>
    if field ea 8 7 ≠ 0 then .error cSpRange
    else match cordAt c (field ea 15 5) with
    | none => .error cSpRange
    | some (sl, i, b, x) =>
      if x.ubud ≤ field ea 2 6 + (z - 1) / 4 then .error cSpRange
      else if b.ctx ≠ h.block.ctx || x.live then .error cPerm
      else .ok (.sreg ⟨n, sl, i⟩ (field ea 2 6) (field ea 0 2))

/-- Where a register of a cord stands in the register files (R263, R265). -/
def regPlace (s : State) (c : CordRef) : Nat := ((s.cord? c).map Cord.slotNo).getD 0

/-- A soft error stands in the words of a place (R265). -/
def spotBad (s : State) (z : Nat) : Spot → Bool
  | .sp n a => badWord (s.core n) .scratchpad a z
  | .acc n a => badWord (s.core n) .accumulator a z
  | .vreg c k r _ => badWord (s.core c.core) .laneRegs ((regPlace s c * 32 + k) * 1024 + 4 * r) z
  | .sreg c r _ => badWord (s.core c.core) .uniformRegs (regPlace s c * 256 + 4 * r) z
  | .loc _ _ => false

/-- An access to scratchpad of another core reads its scoreboard too (R265). -/
def boardBad (s : State) : Spot → Bool
  | .sp n _ => badBoard (s.core n)
  | _ => false

/-- A uniform or lane access of `z` bytes at `ea`: the place, or the first fault in the order of R148. `w` and `rd` say that
it writes and that it reads, `ex` that it is exempt from race check (R157). `lane` gives the local area. -/
def resolve (s : State) (h : Here) (lane : Nat) (sp : Space) (ea : Word) (z : Nat) (w rd ex : Bool) : Except Byte Spot :=
  let a := ea.toNat
  let b := h.block
  if a % z ≠ 0 then .error cAlign
  else match sp with
  | .lin =>
    if b.splen < a + z then .error cSpRange
    else if !ex && raceFlag b h.ref.cord a then .error cMmRace
    else if badBoard (s.core h.ref.core) || (rd && badWord (s.core h.ref.core) .scratchpad (b.spbase + a) z) then .error cDataErr
    else .ok (.sp h.ref.core (b.spbase + a))
  | .skw =>
    if !tileDeclared b.splen h.cord.tile h.cord.tile2
        || decide (tileRows h.cord.tile2 * tileLen h.cord.tile2 < a + z) then .error cSpRange
    else
      let off := skew h.cord.tile a
      if !ex && raceFlag b h.ref.cord off then .error cMmRace
      else if badBoard (s.core h.ref.core) || (rd && badWord (s.core h.ref.core) .scratchpad (b.spbase + off) z) then .error cDataErr
      else .ok (.sp h.ref.core (b.spbase + off))
  | .loc =>
    let va := (h.cord.lane lane).locbase + a
    if b.task.isSome || b.lsize < a + z then .error cSpRange
    else match pathTranslate s h.ref.core b.ctx va z w rd with
    | .error e => .error e
    | .ok _ => if rd && badWord (s.core h.ref.core) .localPath (pathAddr b.ctx va) z then .error cDataErr else .ok (.loc b.ctx va)
  | .arm =>
    match armSpot s h a z w with
    | .error e => .error e
    | .ok p => if (rd && spotBad s z p) || boardBad s p then .error cDataErr else .ok p

/-- `z` bytes of a place. -/
def spotRead (s : State) (z : Nat) : Spot → List Byte
  | .sp n a => (s.core n).spad.read a z
  | .acc n a => (s.core n).acc.read a z
  | .loc ctx va => localRead s s.cur.core ctx va z
  | .vreg c k r b =>
    match s.cord? c with
    | none => List.replicate z 0
    | some x => ((List.range ((b + z + 3) / 4)).flatMap (fun i => natLe 4 ((x.lane k).at (r + i)).toNat)).drop b |>.take z
  | .sreg c r b =>
    match s.cord? c with
    | none => List.replicate z 0
    | some x => ((List.range ((b + z + 3) / 4)).flatMap (fun i => natLe 4 (x.sat (r + i)).toNat)).drop b |>.take z

/-- A word with some of its bytes replaced, from byte `b` on. -/
def patchWord (w : Word) (b : Nat) (l : List Byte) : Word :=
  let o := natLe 4 w.toNat
  BitVec.ofNat 32 (leNat ((o.take b ++ l ++ o.drop (b + l.length)).take 4))

/-- Writes consecutive registers of a lane from bytes. -/
def Lane.patch (l : Lane) (r b : Nat) : List Byte → Nat → Lane
  | _, 0 => l
  | bs, n + 1 => Lane.patch (l.put r (patchWord (l.at r) b (bs.take (4 - b)))) (r + 1) 0 (bs.drop (4 - b)) n

/-- Writes consecutive uniform registers from bytes. -/
def Cord.patch (c : Cord) (r b : Nat) : List Byte → Nat → Cord
  | _, 0 => c
  | bs, n + 1 => Cord.patch (c.sput r (patchWord (c.sat r) b (bs.take (4 - b))) false) (r + 1) 0 (bs.drop (4 - b)) n

/-- Writes bytes at a place. -/
def spotWrite (s : State) (slot : Nat) (l : List Byte) : Spot → State
  | .sp n a => s.setCore n (mend { s.core n with spad := (s.core n).spad.write a l } .scratchpad a l.length)
  | .acc n a => s.setCore n (mend { s.core n with acc := (s.core n).acc.write a l } .accumulator a l.length)
  | .loc ctx va => localWrite s s.cur.core slot ctx va l
  | .vreg c k r b =>
    match s.cord? c with
    | none => s
    | some x =>
      let s := s.setCore c.core (mend (s.core c.core) .laneRegs ((regPlace s c * 32 + k) * 1024 + 4 * r + b) l.length)
      s.setCord c (x.setLane k ((x.lane k).patch r b l ((b + l.length + 3) / 4)))
  | .sreg c r b =>
    match s.cord? c with
    | none => s
    | some x =>
      let s := s.setCore c.core (mend (s.core c.core) .uniformRegs (regPlace s c * 256 + 4 * r + b) l.length)
      s.setCord c (x.patch r b l ((b + l.length + 3) / 4))

/-- A place holds the access at issue (R153). -/
def spotHeld (s : State) (w : Bool) (z : Nat) : Spot → Bool
  | .sp n a => scoreHeld (s.core n) w a z
  | _ => false

/-- An access to scratchpad counts the entries of the scoreboard that the code corrects (R265). -/
def noteBoard (s : State) : Spot → State
  | .sp n _ => noteRead s n .scoreboard 0 (8 * scoreCount (s.core n))
  | _ => s

/-- A read of a place counts the words that the code corrects. -/
def noteSpot (s : State) (z : Nat) : Spot → State
  | .sp n a => noteRead s n .scratchpad a z
  | .acc n a => noteRead s n .accumulator a z
  | .vreg c k r _ => noteRead s c.core .laneRegs ((regPlace s c * 32 + k) * 1024 + 4 * r) z
  | .sreg c r _ => noteRead s c.core .uniformRegs (regPlace s c * 256 + 4 * r) z
  | .loc ctx va => notePath s s.cur.core ctx va z

/-- The offset in the executing block's allocation of a scratchpad place of its own core. -/
def spotOff (h : Here) : Spot → Option Nat
  | .sp n a => if n = h.ref.core && decide (h.block.spbase ≤ a) then some (a - h.block.spbase) else none
  | _ => none

end Sys2Proof.Machine
end

