-- ==== Sys2Proof/Machine/Order.lean ====
section
/-!
DEFINITION. What racing accesses show (12_ordering.md R266 to R281): of a word whose writes are told apart, an agent may see an earlier
write, until a later one happens before its read by a chain of releases and acquires whose scopes hold the agents (R270, R271), it has
read a later one (R268), or, in global memory, a later one has been performed at its home (R274): by then another agent has read it, or a
release at a scope that holds the reader has followed it. Until two accesses have been a data race, only a plain read sees a plain write
late (R272). Each word of an access is performed for itself (R266). The agenda says which words are told apart, and which write an agent
sees (log entry 10, DESIGN CHOICE); otherwise each read gives what was written last. While no word is told apart, every operation of this
file leaves the state as it is.
-/

namespace Sys2Proof.Machine

/-! ### Agents and scopes (R32, R266) -/

def Agent.core? : Agent → Option Nat
  | .cord c _ _ | .op c _ _ | .inst c _ _ => some c
  | _ => none

def Agent.block? : Agent → Option Nat
  | .cord _ b _ | .op _ b _ => some b
  | _ => none

def Agent.die? : Agent → Option Nat
  | .die d => some d
  | a => a.core?.map dieOf

/-- The host and the peers stand outside the device. -/
def Agent.outside : Agent → Bool
  | .host | .peer _ => true
  | _ => false

/-- Agent `b` lies in a scope relative to agent `a` (R32). Each scope contains every narrower one (R3). -/
def within (sc : Scope) (a b : Agent) : Bool :=
  let same (x y : Option Nat) : Bool := x.isSome && x == y
  let blk := same a.block? b.block?
  let clu := blk || same (a.core?.map clusterOf) (b.core?.map clusterOf)
  let die := clu || same a.die? b.die?
  a == b || (match sc with
    | .lane | .cord => false
    | .blk => blk
    | .clu => clu
    | .die => die
    | .dev => die || (!a.outside && !b.outside)
    | .sys => true)

/-- A release of `x` at a scope and an acquire of `y` at a scope hold each other's agent (R270). -/
def pairs (rel : Scope) (x : Agent) (acq : Scope) (y : Agent) : Bool := within rel x y && within acq y x

/-- The executing cord as an agent. -/
def Here.agent (h : Here) : Agent := .cord h.ref.core h.block.id h.ref.cord

/-- A child operation as an agent. -/
def OpEntry.agent (core : Nat) (o : OpEntry) : Agent := .op core o.owner o.token

/-! ### Places -/

/-- The place of a scratchpad access; no other agent reaches the other spots. -/
def Spot.place? : Spot → Option Place
  | .sp n a => some (.sp n a)
  | _ => none

/-- `n` bytes at a place share a byte with `m` bytes at another. -/
def Place.meets (p : Place) (n : Nat) (q : Place) (m : Nat) : Bool :=
  match p, q with
  | .sp c a, .sp d b => c == d && overlap a (a + n) b (b + m)
  | .glob (.hbm a), .glob (.hbm b) => overlap a (a + n) b (b + m)
  | .glob (.host a), .glob (.host b) => overlap a (a + n) b (b + m)
  | .glob (.peer c a), .glob (.peer d b) => c == d && overlap a (a + n) b (b + m)
  | _, _ => false

/-- The place with its address changed. -/
def Place.map (f : Nat → Nat) : Place → Place
  | .sp c a => .sp c (f a)
  | .glob (.hbm a) => .glob (.hbm (f a))
  | .glob (.host a) => .glob (.host (f a))
  | .glob (.peer p a) => .glob (.peer p (f a))

def Place.addr : Place → Nat
  | .sp _ a => a
  | .glob (.hbm a) => a
  | .glob (.host a) => a
  | .glob (.peer _ a) => a

/-- The aligned words that `n` bytes at a place touch. -/
def Place.words (p : Place) (n : Nat) : List Place :=
  (List.range ((p.addr + n + 3) / 4 - p.addr / 4)).map (fun i => p.map (fun a => (a / 4 + i) * 4))

/-- Bytes at a place. -/
def Place.read (s : State) (n : Nat) : Place → List Byte
  | .sp c a => (s.core c).spad.read a n
  | .glob t => targetRead s n t

/-- The core whose scratchpad a place belongs to. -/
def Place.core? : Place → Option Nat
  | .sp c _ => some c
  | _ => none

/-! ### Who knows of a write -/

/-- An armature access to another core is ordered only at a scope that holds the die (R275). -/
def holdsDie : Scope → Bool
  | .die | .dev | .sys => true
  | _ => false

namespace Wrote

/-- The scopes of the release fences of an agent that knows of the write. -/
def since? (e : Wrote) (x : Agent) : Option (List Scope) := (e.known.find? (fun k => k.who == x)).map (·.since)

def knows (e : Wrote) (x : Agent) : Bool := (e.since? x).isSome

/-- `y` knows of the write from now on. -/
def learn (e : Wrote) (y : Agent) (arm : Bool) : Wrote :=
  if e.knows y then { e with known := e.known.map (fun k => if k.who == y then { k with arm := k.arm || arm } else k) }
  else { e with known := ⟨y, [], arm⟩ :: e.known }

/-- Releases of `x` at a scope and acquires of `y` at a scope meet for a write to a place (R270): each scope holds the other agent, and
where one of the two has made the write through the armature map, or a word reached through the map carries the release, both hold the
die (R275). -/
def meets (e : Wrote) (p : Place) (on : Carrier) (rel : Scope) (x : Agent) (acq : Scope) (y : Agent) : Bool :=
  let die := holdsDie rel && holdsDie acq
  let away (c : Nat) (a : Agent) : Bool := a.core? != some c
  pairs rel x acq y
    && (die || (match p with
      | .sp c _ => !(e.by_ == x && away c x && !away c y)
      | _ => true))
    && (die || (match on with
      | .word (.sp c _) _ => !away c x && !away c y
      | _ => true))

/-- What `y` learns of the write by an acquire that meets a release: of scratchpad of another core, that its own armature accesses come
after it only if both scopes hold the die (R275). -/
def learnAt (e : Wrote) (p : Place) (rel acq : Scope) (y : Agent) : Wrote :=
  e.learn y (holdsDie rel && holdsDie acq || p.core?.isNone || p.core? == y.core?)

/-- `y` acquires at a scope what some carriers hold (R270). -/
def hear (y : Agent) (sc : Scope) (ks : List Carrier) (p : Place) (e : Wrote) : Wrote :=
  (e.rels.filter (fun r => ks.contains r.on && e.meets p r.on r.scope r.by_ sc y)).foldl
    (fun e r => e.learnAt p r.scope sc y) e

/-- `y` reads words: a later acquire fence of `y` may meet what they carry (R270). -/
def note (y : Agent) (ks : List Carrier) (_ : Place) (e : Wrote) : Wrote :=
  { e with reads := (e.rels.filter (fun r => ks.contains r.on)).map (fun r => (y, r)) ++ e.reads }

/-- An acquire fence of `y` (R269, R270). -/
def acquire (y : Agent) (sc : Scope) (p : Place) (e : Wrote) : Wrote :=
  (e.reads.filter (fun r => r.1 == y && e.meets p r.2.on r.2.scope r.2.by_ sc y)).foldl (fun e r => e.learnAt p r.2.scope sc y) e

/-- The write, performed for every agent of a scope of `x` (R274). -/
def perform (x : Agent) (sc : Scope) (p : Place) (e : Wrote) : Wrote :=
  if p.core?.isNone && e.knows x then { e with shown := (x, sc) :: e.shown } else e

/-- A release fence of `x`, for the writes that follow it (R269, R270): it follows every write that `x` knows of, but for one of the same
instruction. -/
def release (x : Agent) (sc : Scope) (now : Nat) (p : Place) (e : Wrote) : Wrote :=
  if e.by_ == x && e.clock == now then e
  else perform x sc p { e with known := e.known.map (fun k =>
    if k.who == x && !k.since.contains sc then { k with since := sc :: k.since } else k) }

/-- A release of `x` at a scope, carried to whoever acquires from the carriers. -/
def send (x : Agent) (sc : Scope) (ks : List Carrier) (p : Place) (e : Wrote) : Wrote :=
  if e.knows x then perform x sc p { e with rels := ks.map (fun k => ⟨x, sc, k, false⟩) ++ e.rels } else e

/-- Carriers that no longer hold what they held: an event bit that is cleared (R167). -/
def unsend (ks : List Carrier) (_ : Place) (e : Wrote) : Wrote := { e with rels := e.rels.filter (fun r => !ks.contains r.on) }

/-- What follows `x` in its order follows on `y` too. -/
def pass (x y : Agent) (_ : Place) (e : Wrote) : Wrote :=
  match e.known.find? (fun k => k.who == x) with
  | none => e
  | some k => e.learn y k.arm

end Wrote

/-- How a write orders (R269, R272). -/
inductive WriteKind where
  | plain
  | rel (sc : Scope)
  | atomic (rel : Option Scope)
  deriving DecidableEq, Repr

def WriteKind.scope? : WriteKind → Option Scope
  | .plain => none
  | .rel sc => some sc
  | .atomic r => r

def WriteKind.isAtomic : WriteKind → Bool
  | .atomic _ => true
  | _ => false

def WriteKind.isPlain : WriteKind → Bool
  | .plain => true
  | _ => false

/-- The kind of a store with a `.rel` modifier or none. -/
def storeKind (rel : Bool) (sc : Scope) : WriteKind := if rel then .rel sc else .plain

/-- A word that a write writes: its place, and the numbers of its last write before and after; one whose writes are not told apart keeps
the number 0. -/
structure Rewritten where
  place : Place
  old : Nat
  new : Nat
  deriving DecidableEq, Repr

namespace Rewritten

/-- What carries the releases of the write itself. -/
def on (w : Rewritten) : Carrier := .word w.place w.new

/-- A carrier that is an earlier write of the word. -/
def holds (w : Rewritten) : Carrier → Bool
  | .word p _ | .past p => p == w.place
  | _ => false

/-- A release that the word's earlier writes carry, after the write: an atomic carries it on, whatever was written in between, but for a
fence (R270), and a read of the write that carried it still finds it where the writes are told apart. -/
def keeps (w : Rewritten) (atomic : Bool) (r : Released) : List Released :=
  (if atomic && !r.fence then [{ r with on := w.on }] else [])
    ++ (if w.old != w.new then [r] else if r.fence then [] else [{ r with on := .past w.place }])

end Rewritten

/-- What a write of `x` carries of an earlier one: the releases of `x` before it, and those that its words carried (R270). -/
def Wrote.carry (x : Agent) (k : WriteKind) (ws : List Rewritten) (_ : Place) (e : Wrote) : Wrote :=
  let kept := e.rels.flatMap (fun r => match ws.find? (fun w => w.holds r.on) with
    | none => [r]
    | some w => w.keeps k.isAtomic r)
  let own := ((e.since? x).getD []).flatMap (fun sc => ws.map (fun w => (⟨x, sc, w.on, k.scope? != some sc⟩ : Released)))
  { e with rels := (own ++ kept).dedup }

/-! ### What an agent sees of a word -/

/-- Who reads, and whether by a plain access: neither an atomic nor one with `.acq` (R272). -/
structure Eye where
  who : Agent
  plain : Bool
  deriving DecidableEq, Repr

namespace Track

/-- An access of the agent that the range of the writing operation has held reads what the operation leaves (R153, R264, R280). -/
def heldRead (t : Track) (e : Wrote) (y : Agent) : Bool := t.held.contains (y, e.by_)

/-- The write happens before the agent's next access to the word (R271, R275). -/
def follows (t : Track) (y : Agent) (e : Wrote) : Bool := e.known.any (fun k => k.who == y && (k.arm || t.place.core? == y.core?))

/-- A plain access of the agent and the write are a data race (R272). -/
def races (t : Track) (y : Eye) (e : Wrote) : Bool := y.plain && e.plain && e.by_ != y.who && !t.follows y.who e

/-- An agent's read of the word gives this write or a later one (R268, R271, R272, R274): `raced` says that there has been a data race. -/
def must (t : Track) (y : Eye) (raced : Bool) (e : Wrote) : Bool :=
  t.follows y.who e || e.seen.contains y.who || t.heldRead e y.who
    || e.home || e.shown.any (fun p => within p.2 p.1 y.who)
    || !(raced || (y.plain && e.plain))

/-- The agent may see the word as its first `n` writes left it. -/
def may (t : Track) (y : Eye) (raced : Bool) (n : Nat) : Bool :=
  decide (n < t.writes.length) && !(t.writes.drop n).any (t.must y raced)

/-- What the agent has picked and may see. -/
def picked (t : Track) (y : Eye) (raced : Bool) : List Pick := t.picks.filter (fun p => p.who == y.who && t.may y raced p.ver)

/-- The number of writes that the agent sees of the word. -/
def version (t : Track) (y : Eye) (raced : Bool) : Nat := (t.picked y raced).foldl (fun m p => min m p.ver) t.writes.length

/-- The word as its first `n` writes left it. -/
def bytesAt (t : Track) (n : Nat) : List Byte :=
  match t.writes[n]? with
  | some e => e.before
  | none => t.last

/-- A write of an agent, which leaves the word with these bytes. -/
def push (t : Track) (x : Agent) (plain : Bool) (now : Nat) (l : List Byte) : Track :=
  { t with
    last := l
    writes := t.writes ++ [{ by_ := x, plain := plain, clock := now, before := t.last, known := [⟨x, [], true⟩], rels := [], reads := []
                             seen := [], home := false, shown := [] }] }

/-- An agent reads the word as its first `n` writes left it: it sees none of these again, and, but for a write of its own that comes back to
it, each has been performed at its home (R268, R274). -/
def read (t : Track) (y : Agent) (n : Nat) : Track :=
  let own := (t.writes[n - 1]?).any (fun e => e.by_ == y)
  { t with writes := t.writes.zipIdx.map (fun x =>
      if x.2 < n then { x.1 with
        seen := if x.1.seen.contains y then x.1.seen else y :: x.1.seen
        home := x.1.home || (t.place.core?.isNone && !own) }
      else x.1) }

/-- An agent sees the last write of the word, or a later one, from now on. -/
def shown (t : Track) (y : Agent) : Track :=
  { t with writes := t.writes.map (fun e => { e with seen := if e.seen.contains y then e.seen else y :: e.seen }) }

/-- An agent picks a write for `len` bytes of the word. -/
def pick (t : Track) (p : Pick) : Track :=
  { t with picks := p :: t.picks.filter (fun q => !(q.who == p.who && overlap q.off (q.off + q.len) p.off (p.off + p.len))) }

/-- The word holds other bytes than a write of an agent left: nothing before is seen any longer. -/
def restart (t : Track) (l : List Byte) : Track := { t with last := l, writes := [], picks := [] }

end Track

/-! ### The state -/

namespace State

/-- Applies a step of ordering to every write of every tracked word. -/
def order (s : State) (f : Place → Wrote → Wrote) : State :=
  { s with tracks := s.tracks.map (fun t => { t with writes := t.writes.map (f t.place) }) }

/-- The word's track. -/
def track? (s : State) (w : Place) : Option Track := s.tracks.find? (fun t => t.place == w)

/-- How many writes of a word are told apart. -/
def writesOf (s : State) (w : Place) : Nat := ((s.track? w).map (·.writes.length)).getD 0

/-- How many of them an agent's read sees; an atomic sees them all (R268). -/
def version (s : State) (y : Eye) (w : Place) (newest : Bool) : Nat :=
  if newest then s.writesOf w else ((s.track? w).map (·.version y s.raced)).getD 0

/-- A plain access of an agent to some words meets a plain write of another that does not happen before it: a data race (R272). -/
def noteRace (s : State) (y : Eye) (ws : List Place) : State :=
  if s.tracks.any (fun t => ws.contains t.place && t.writes.any (t.races y)) then { s with raced := true } else s

/-- A write of an agent, in the store already. -/
def wroteAt (s : State) (x : Agent) (p : Place) (n : Nat) (k : WriteKind) : State :=
  let ws := p.words n
  let s := s.noteRace ⟨x, k.isPlain⟩ ws
  let next (w : Place) : Nat := s.writesOf w + (if (s.track? w).isSome then 1 else 0)
  let s := s.order (Wrote.carry x k (ws.map (fun w => ⟨w, s.writesOf w, next w⟩)))
  { s with tracks := s.tracks.map (fun t => if ws.contains t.place then t.push x k.isPlain s.clock (t.place.read s 4) else t) }

/-- The same, where a release is a release fence just before its write too (R269). -/
def wrote (s : State) (x : Agent) (p : Place) (n : Nat) (k : WriteKind) : State :=
  (match k.scope? with
    | some sc => s.order (Wrote.release x sc s.clock)
    | none => s).wroteAt x p n k

/-- A write of an agent to a spot. -/
def wroteSpot (s : State) (x : Agent) (p : Spot) (n : Nat) (k : WriteKind) : State :=
  match p.place? with
  | none => s
  | some q => s.wrote x q n k

/-- An agent sees the words at a place as they stand, or as later writes leave them, from now on. -/
def showTo (s : State) (y : Agent) (p : Place) (n : Nat) : State :=
  { s with tracks := s.tracks.map (fun t => if (p.words n).contains t.place then t.shown y else t) }

/-- A release through carriers. -/
def send (s : State) (x : Agent) (sc : Scope) (ks : List Carrier) : State := s.order (Wrote.send x sc ks)

/-- An acquire from carriers. -/
def hear (s : State) (y : Agent) (sc : Scope) (ks : List Carrier) : State := s.order (Wrote.hear y sc ks)

/-- Carriers hold no release any longer. -/
def unsend (s : State) (ks : List Carrier) : State := s.order (Wrote.unsend ks)

/-- `y` follows on what `x` has done. -/
def pass (s : State) (x y : Agent) : State := s.order (Wrote.pass x y)

/-- Fences of an agent at the scope of an instruction's modifiers, the acquire before the release (R269). -/
def fences (s : State) (x : Agent) (m : Ordr) : State :=
  let s := if m.acq then s.order (Wrote.acquire x m.scope) else s
  if m.rel then s.order (Wrote.release x m.scope s.clock) else s

/-- What the words that an agent reads carry: the writes that it sees of them. -/
def carriers (s : State) (y : Eye) (ws : List Place) (newest : Bool) : List Carrier :=
  ws.map (fun w => .word w (s.version y w newest))

/-- An agent has read some words (R268): every read notes what they carry, for an acquire fence (R270). -/
def readWords (s : State) (y : Eye) (ws : List Place) (newest : Bool) : State :=
  let see (t : Track) : Track := if ws.contains t.place then t.read y.who (s.version y t.place newest) else t
  ({ s with tracks := s.tracks.map see }.order (Wrote.note y.who (s.carriers y ws newest))).noteRace y ws

/-- An agent has read a place; an acquire hears what the words carry (R270). `newest` says that it has read what was written last, as an
atomic does (R268). -/
def saw (s : State) (y : Eye) (p : Place) (n : Nat) (newest : Bool) (acq : Option Scope) : State :=
  let t := s.readWords y (p.words n) newest
  match acq with
  | some sc => t.hear y.who sc (s.carriers y (p.words n) newest)
  | none => t

/-- The same at a spot. -/
def sawSpot (s : State) (y : Eye) (p : Spot) (n : Nat) (newest : Bool) (acq : Option Scope) : State :=
  match p.place? with
  | none => s
  | some q => s.saw y q n newest acq

/-- Ranges of child operations hold an access of an agent to `n` bytes at a place of scratchpad (R280). -/
def holdRead (s : State) (y : Agent) (p : Place) (n : Nat) (ops : List Agent) : State :=
  { s with tracks := s.tracks.map (fun t =>
    if (p.words n).contains t.place then { t with held := (ops.map (fun o => (y, o)) ++ t.held).dedup } else t) }

/-- An agent has issued: nothing of it is held any longer. -/
def unhold (s : State) (y : Agent) : State :=
  { s with tracks := s.tracks.map (fun t => { t with held := t.held.filter (fun x => x.1 != y) }) }

/-- Bytes put at a place, for a reader's eyes. -/
def show_ (s : State) (p : Place) (l : List Byte) : State :=
  match p with
  | .sp n a => s.setCore n { s.core n with spad := (s.core n).spad.write a l }
  | .glob (.hbm a) => { s with hbm := s.hbm.write a l }
  | .glob (.host a) => { s with host := s.host.write a l }
  | .glob (.peer p a) => { s with peers := s.peers.set p ((s.peers.get p []).write a l) }

/-- The stores as an agent sees them (R272). -/
def seenBy (s : State) (y : Eye) : State :=
  (s.tracks.flatMap (fun t => (t.picked y s.raced).map (fun p => (t.place.map (· + p.off), ((t.bytesAt p.ver).drop p.off).take p.len)))).foldl
    (fun s x => s.show_ x.1 x.2) s

/-- The writes of an aligned word are told apart from now on. -/
def track (s : State) (w : Place) : State :=
  if (s.track? w).isSome then s
  else { s with tracks := { place := w, last := w.read s 4, writes := [], picks := [], held := [] } :: s.tracks }

/-- An agent picks the write up to which it sees `len` bytes at a place. -/
def pick (s : State) (y : Agent) (p : Place) (len n : Nat) : State :=
  { s with tracks := s.tracks.map (fun t => if p.meets len t.place 4 then t.pick ⟨y, p.addr % 4, len, n⟩ else t) }

/-- The words of a range of a core's scratchpad start anew: another block has it (R254). -/
def restartWords (s : State) (core a n : Nat) : State :=
  { s with tracks := s.tracks.map (fun t => if (Place.sp core a).meets n t.place 4 then t.restart (t.place.read s 4) else t) }

/-- The words of a range of a core's scratchpad are told apart no longer. -/
def dropWords (s : State) (core a n : Nat) : State :=
  { s with tracks := s.tracks.filter (fun t => !(Place.sp core a).meets n t.place 4) }

/-- What an agent has picked is forgotten. -/
def unpick (s : State) (y : Agent) : State :=
  { s with tracks := s.tracks.map (fun t => { t with picks := t.picks.filter (fun p => p.who != y) }) }

/-- Agents, carriers and places take other names: those of a block that leaves its core, or that comes to another (R328, R329). -/
def moveAgents (s : State) (f : Agent → Agent) (g : Carrier → Carrier) (h : Place → Place) : State :=
  let c (k : Carrier) : Carrier := match g k with
    | .word p n => .word (h p) n
    | .past p => .past (h p)
    | k => k
  { s with tracks := s.tracks.map (fun t => { t with
      place := h t.place
      held := t.held.map (fun e => (f e.1, f e.2))
      picks := t.picks.map (fun p => { p with who := f p.who })
      writes := t.writes.map (fun e => { e with
        by_ := f e.by_, known := e.known.map (fun k => { k with who := f k.who }), seen := e.seen.map f
        rels := e.rels.map (fun r => { r with by_ := f r.by_, on := c r.on })
        reads := e.reads.map (fun r => (f r.1, { r.2 with by_ := f r.2.by_, on := c r.2.on })), shown := e.shown.map (fun x => (f x.1, x.2)) }) }) }

end State

/-- The scope of an acquire, if an access is one. -/
def acqScope (acq : Bool) (sc : Scope) : Option Scope := if acq then some sc else none

/-- Writes bytes to global memory for an agent, piece by piece; a piece that does not translate, or that the agent may not write, is not
written. -/
def globalWrite (s : State) (core : Nat) (ctx va : Nat) (l : List Byte) (x : Agent) (k : WriteKind) : State :=
  ((piecesOf va l.length).foldl (fun (s, l) p => match translate s core false ctx p.1 p.2 true false with
    | .error _ => (s, l.drop p.2)
    | .ok t => ((targetWrite s (l.take p.2) t).wrote x (.glob t) p.2 k, l.drop p.2)) (s, l)).1

/-- The places of `n` bytes of global memory, with their lengths. -/
def globalPlaces (s : State) (core ctx va n : Nat) : List (Place × Nat) :=
  (piecesOf va n).filterMap (fun p => match translate s core false ctx p.1 p.2 false false with
    | .error _ => none
    | .ok t => some (.glob t, p.2))

/-- `n` bytes of global memory as an agent sees them; a piece that does not translate reads 0 (callers have checked). -/
def globalSeen (s : State) (core ctx va n : Nat) (y : Eye) : List Byte :=
  (piecesOf va n).flatMap (fun p => match translate s core false ctx p.1 p.2 false false with
    | .error _ => List.replicate p.2 0
    | .ok t => targetRead (s.seenBy y) p.2 t)

/-- The agent has read `n` bytes of global memory. -/
def globalSaw (s : State) (core ctx va n : Nat) (y : Eye) (acq : Option Scope) : State :=
  (piecesOf va n).foldl (fun s p => match translate s core false ctx p.1 p.2 false false with
    | .error _ => s
    | .ok t => s.saw y (.glob t) p.2 false acq) s

/-- Writes bytes for the distributor of a die, or for a cord that uses a queue, in one page: a release at system scope (R17, R168). -/
def dieWrite (s : State) (d ctx va : Nat) (l : List Byte) (x : Agent) : Except Byte State :=
  match dieTranslate s d ctx va l.length true false with
  | .error e => .error e
  | .ok t => .ok ((targetWrite (noteWalk s d ctx va) l t).wrote x (.glob t) l.length (.rel .sys))

end Sys2Proof.Machine
end

