-- ==== Sys2Proof/Machine/Path.lean ====
section
/-!
DEFINITION. What leaves the local-memory path (11_memories.md R260, R265): a line is written back when it is evicted, when its block exits
and when its block is saved.
-/

namespace Sys2Proof.Machine

/-- The partition of a core's cluster. -/
def partitionOf (s : State) (core : Nat) : Option Nat :=
  (s.partitions.entries.find? (fun x => x.2.clusters.contains (clusterOf core))).map (·.1)

/-- A dirty line of device memory is lost: it enters the die's error list; a full list escalates to the partition rung, which is logged
(R265, R340). -/
def loseLine (s : State) (core line : Nat) : State :=
  let dn := hbmDie (line * 64)
  let d := s.die dn
  let s := logData s core 0 0 (line * 64 % 2 ^ 32) 0
  if d.lost.contains line then s
  else if d.lost.length < Config.errorList then s.setDie dn { d with lost := line :: d.lost }
  else
  let s := logError s 0 (line * 64 % 2 ^ 32) 0 0 core 3 cDataErr.toNat
  match partitionOf s core with
  | none => s
  | some p => { s with agenda := s.agenda ++ [.event (.partitionReset p)] }

/-- Numbered bytes in rising order, cut into runs of neighbours: where each starts, and its bytes. -/
def runsOf : List (Nat × Byte) → List (Nat × List Byte)
  | [] => []
  | (a, b) :: r => match runsOf r with
    | (c, l) :: rest => if c = a + 1 then (a, b :: l) :: rest else (a, [b]) :: (c, l) :: rest
    | [] => [(a, [b])]

/-- The words of a line of the path hold no error any longer. -/
def clearLine (s : State) (core : Nat) (l : LocalLine) : State :=
  s.setCore core (mend (s.core core) .localPath (pathAddr l.ctx (l.addr * 64)) 64)

/-- Writes one line of the path to global memory. A line that holds no written byte has nothing to write. One that an error has damaged
is lost: in device memory its address enters the error list, and elsewhere the error is logged. One that does not translate is lost, and
a damaged table entry that its walk meets is logged (R265, R340). A damaged line is lost as it leaves the path, and not before (log entry
83, DEDUCED). -/
def writeLine (s : State) (core : Nat) (l : LocalLine) : State :=
  let va := l.addr * 64
  if l.bytes.entries.isEmpty then clearLine s core l
  else match translate s core false l.ctx va 64 false false with
  | .error e =>
    let s := touch s core false l.ctx va
    clearLine (if e = cDataErr then logData s core l.ctx 0 (va % 2 ^ 32) 0 else s) core l
  | .ok t =>
    let s := touch s core false l.ctx va
    if badWord (s.core core) .localPath (pathAddr l.ctx va) 64 then
      clearLine (match t with
        | .hbm a => loseLine s core (a / 64)
        | _ => logData s core l.ctx 0 (va % 2 ^ 32) 0) core l
    else
      let s := clearLine (noteRead s core .localPath (pathAddr l.ctx va) 64) core l
      (runsOf l.bytes.entries).foldl (fun s x =>
        (targetWrite s x.2 (t.plus x.1)).wrote (.die (dieOf core)) (.glob (t.plus x.1)) x.2.length (.rel .sys)) s

/-- Writes back the lines of a block slot. -/
def writeLines (s : State) (core slot : Nat) : State :=
  let c := s.core core
  let s := (c.lines.filter (fun l => l.slot == slot)).foldl (fun s l => writeLine s core l) s
  let c := s.core core
  s.setCore core { c with lines := c.lines.filter (fun l => l.slot != slot) }

/-- The path evicts its `i`-th line. -/
def evictLine (s : State) (core i : Nat) : State :=
  match (s.core core).lines[i]? with
  | none => s
  | some l =>
    let s := writeLine s core l
    s.setCore core { s.core core with lines := (s.core core).lines.eraseIdx i }

/-- The numbers of the lines that `n` bytes touch. -/
def linesOf (va n : Nat) : List Nat := (List.range ((va + n + 63) / 64 - va / 64)).map (va / 64 + ·)

/-- Brings lines into the path, by their numbers, before the access that needs them issues (R150, R260); where it is full, the oldest line
of others leaves for each (log entry 75, DESIGN CHOICE for which one leaves). -/
def bringLines (s : State) (core slot ctx : Nat) (as : List Nat) : State :=
  as.foldl (fun s a =>
    if (findLine (s.core core) ctx (a * 64)).isSome then s
    else
      let other (l : LocalLine) : Bool := !(l.ctx == ctx && as.contains l.addr)
      let s := if (s.core core).lines.length < Config.localLines then s
        else evictLine s core (((s.core core).lines.findIdx? other).getD 0)
      s.setCore core { s.core core with
        lines := (s.core core).lines ++ [{ slot := slot, ctx := ctx, addr := a, bytes := .empty }] }) s

end Sys2Proof.Machine
end

