-- ==== Sys2Proof/Machine/Windows.lean ====
section
/-!
DEFINITION. Register windows: the slide of a call or handler entry with its spills, and the return with its fills
(07_control_memory.md R140 to R144, 10_registers.md R246, R247). Frames are numbered from the frame at depth 0 up.
-/

namespace Sys2Proof.Machine

/-- Why a slide or a return fails: the fault of a lane, or of the uniform window, which parks the executing set (R142).
The spec gives REG_RANGE of a spill no sr.tval: `none` stands for a free value (log entry 2, DESIGN CHOICE). -/
structure SpillFault where
  uniform : Bool
  cause : Byte
  tval : Option Word
  /-- The state in which it failed. -/
  left : State
  deriving DecidableEq, Repr

/-- `n` slots from `a` share a slot with `m` slots from `b`, in a ring (R247). -/
def ringMeets (ring a n b m : Nat) : Bool :=
  ring != 0 && (List.range n).any (fun j => decide ((a + j + (ring - b % ring)) % ring < m))

/-- The base moved on by a frame (R247). -/
def slideBase (ring base n : Nat) : Nat := if ring = 0 then 0 else (base + n) % ring

/-- The base moved back by a frame. -/
def slideBack (ring base n : Nat) : Nat := if ring = 0 then 0 else (base + (ring - n % ring)) % ring

/-- Bytes of a spilled frame (R247). -/
def spillBytes (n : Nat) : Nat := 4 * n + 8

/-- The local area of a lane that spills may use: none in a task (R297). -/
def spillArea (b : Block) : Nat := if b.task.isSome then 0 else b.lsize

/-- Where the lane's spills have come down to (R247). -/
def spillTop (b : Block) (l : Lane) : Nat := (leastOf (l.frames.filterMap (·.spill))).getD (spillArea b)

/-- The lane whose local area takes the uniform spills (R247). -/
def lowLane (c : Cord) : Nat := (bitsFrom c.present.toNat 0 32).headD 0

/-- Where the uniform spills have come up to (R247). -/
def uspillTop (c : Cord) : Nat := c.uspill.foldl (fun m e => max m (e.2.2.2 + spillBytes e.2.2.1)) 0

/-- The link slot of frame `i` as a spill writes it: return address, then the caller's sizes (R140, R247). -/
def linkBytes (f : Frame) (caller : Option Frame) : List Byte :=
  natLe 4 ((f.ret.getD 0).toNat) ++
    natLe 4 (match caller with
      | none => 0
      | some g => g.vf + 256 * g.sf)

/-- Frame `i` of a lane. -/
def Lane.frameAt (l : Lane) (i : Nat) : Option Frame := l.frames.reverse[i]?

/-- Replaces frame `i` of a lane. -/
def Lane.setFrame (l : Lane) (i : Nat) (f : Frame) : Lane :=
  { l with frames := (l.frames.reverse.set i f).reverse }

/-- The frames of a lane that a slide spills, oldest first: those that hold slots of the new visible range, and those whose
link slot is not among the newest eight, the frame at depth 0 counting as one that has a slot (R247; log entry 52, DEDUCED). -/
def vSpills (c : Cord) (l : Lane) : List (Nat × Frame) :=
  let ring := ringSize c.vbud
  let nb := slideBase ring l.frame.vb l.frame.vf
  (l.frames.reverse.zipIdx.map (fun x => (x.2, x.1))).filter (fun (i, f) => f.spill.isNone &&
    (decide (i + Config.linkSlots ≤ l.frames.length) || ringMeets ring f.vb f.vf nb (winSize c.vbud)))

/-- A uniform frame is spilled (R247). Lanes that came by different chains and share its depth and its window base share the frame (log
entry 95, DESIGN CHOICE). -/
def uSpilled (c : Cord) (i : Nat) (f : Frame) : Option Nat :=
  (c.uspill.find? (fun e => e.1 == i && e.2.1 == f.sb)).map (·.2.2.2)

/-- The uniform frames that a slide of a lane spills, oldest first: those whose slots it needs (R247). The limit of link slots spills lane
frames alone (log entry 94, DESIGN CHOICE). -/
def uSpills (c : Cord) (l : Lane) : List (Nat × Frame) :=
  let ring := ringSize c.ubud
  let nb := slideBase ring l.frame.sb l.frame.sf
  (l.frames.reverse.zipIdx.map (fun x => (x.2, x.1))).filter (fun (i, f) => f.sf != 0 && (uSpilled c i f).isNone &&
    ringMeets ring f.sb f.sf nb (winSize c.ubud))

/-- An uncorrectable error in a register that a frame of `n` registers at `base` holds: `at_` is where the file of the lane or of the
cord begins (R265). -/
def frameBad (c : Core) (a : ErrArray) (at_ ring base n : Nat) : Bool :=
  (List.range n).any (fun j => badWord c a (at_ + 4 * (16 + (base + j) % ring)) 4)

/-- A spill or fill at a global address fails: in translation or permission, or by an uncorrectable error, of the path or, with
`regs`, of a register that it reads (R142, R144, R247, R265). An error's address is that of the frame (log entry 70, DESIGN CHOICE), and a
fault of translation that of the 64 KiB piece. -/
def spillFault (s : State) (core ctx va n : Nat) (w regs : Bool) : Option (Byte × Nat) :=
  match pathFault s core ctx va n w (!w) with
  | some e => some e
  | none => if regs || badWord (s.core core) .localPath (pathAddr ctx va) n then some (cDataErr, va) else none

/-- A spill reads the registers of a frame: those that the code corrects count (R265). -/
def noteFrame (s : State) (core : Nat) (a : ErrArray) (at_ ring base n : Nat) : State :=
  (List.range n).foldl (fun s j => noteRead s core a (at_ + 4 * (16 + (base + j) % ring)) 4) s

/-- A fill writes the registers of a frame: words written whole hold no error any longer (R265). -/
def mendFrame (s : State) (core : Nat) (a : ErrArray) (at_ ring base n : Nat) : State :=
  if (s.core core).bad.isEmpty && (s.core core).soft.isEmpty then s
  else
    let ks := (List.range n).map (fun j => 16 + (base + j) % ring)
    s.setCore core ((ks.filter (fun k => k % 2 == 0 && ks.contains (k + 1))).foldl (fun c k => mend c a (at_ + 4 * k) 8) (s.core core))

/-- A spill writes its bytes into the path (R247, R260). -/
def spillWrite (s : State) (ref : CordRef) (ctx va : Nat) (l : List Byte) : State :=
  localWrite (bringLines (touchRange s ref.core false ctx va l.length) ref.core ref.slot ctx (linesOf va l.length)) ref.core ref.slot ctx va l

/-- A spill or fill of `n` bytes that fails at an address: the pages up to there have been translated (R309). -/
def SpillFault.at_ (s : State) (core ctx : Nat) (u : Bool) (cause : Byte) (va n a : Nat) : SpillFault :=
  ⟨u, cause, some (BitVec.ofNat 32 a), (touchedTo va n a).foldl (fun s va => touch s core false ctx va) s⟩

/-- What the spills and fills of an instruction leave that take no effect: TLBs filled, and misses and corrected errors counted (R265, R309,
R316). -/
def touchFault (s : State) (core : Nat) (e : SpillFault) : State :=
  let c := e.left.core core
  let s := s.setCore core { s.core core with etlb := c.etlb, perf := c.perf, ce := c.ce }
  { s with
    corrected := e.left.corrected
    dies := if e.left.dies = s.dies then s.dies else e.left.dies.map (fun d x => { s.die d with tlb := x.tlb, ce := x.ce }) }

/-- Spills a lane frame into the lane's local area (R247). -/
def spillV (ref : CordRef) (k : Nat) (s : State) (e : Nat × Frame) : Except SpillFault State :=
  match s.block? ref.core ref.slot, s.cord? ref with
  | some b, some c =>
    let l := c.lane k
    let size := spillBytes e.2.vf
    let top := spillTop b l
    if top < size || (k = lowLane c && decide (top - size < uspillTop c)) then .error ⟨false, cRegRange, none, s⟩
    else
      let va := l.locbase + (top - size)
      let bad := frameBad (s.core ref.core) .laneRegs ((c.slotNo * 32 + k) * 1024) (ringSize c.vbud) e.2.vb e.2.vf
      match spillFault s ref.core b.ctx va size true bad with
      | some (cause, a) => .error (.at_ s ref.core b.ctx false cause va size a)
      | none =>
        let rs := (List.range e.2.vf).flatMap (fun j =>
          natLe 4 (l.at (16 + (e.2.vb + j) % ringSize c.vbud)).toNat)
        let s := noteFrame s ref.core .laneRegs ((c.slotNo * 32 + k) * 1024) (ringSize c.vbud) e.2.vb e.2.vf
        let s := spillWrite s ref b.ctx va (rs ++ linkBytes e.2 (if e.1 = 0 then none else l.frameAt (e.1 - 1)))
        match s.cord? ref with
        | none => .ok s
        | some c => .ok (s.setCord ref (c.setLane k ((c.lane k).setFrame e.1 { e.2 with spill := some (top - size) })))
  | _, _ => .ok s

/-- Spills a uniform frame into the local area of the cord's lowest present lane (R247). The link slot that it writes is that of the lane
whose slide spills it (log entry 84, DEDUCED). -/
def spillU (ref : CordRef) (k : Nat) (s : State) (e : Nat × Frame) : Except SpillFault State :=
  match s.block? ref.core ref.slot, s.cord? ref with
  | some b, some c =>
    let low := c.lane (lowLane c)
    let off := uspillTop c
    let size := spillBytes e.2.sf
    if spillTop b low < off + size then .error ⟨true, cRegRange, none, s⟩
    else
      let va := low.locbase + off
      let bad := frameBad (s.core ref.core) .uniformRegs (c.slotNo * 256) (ringSize c.ubud) e.2.sb e.2.sf
      match spillFault s ref.core b.ctx va size true bad with
      | some (cause, a) => .error (.at_ s ref.core b.ctx true cause va size a)
      | none =>
        let rs := (List.range e.2.sf).flatMap (fun j => natLe 4 (c.sat (16 + (e.2.sb + j) % ringSize c.ubud)).toNat)
        let l := c.lane k
        let s := noteFrame s ref.core .uniformRegs (c.slotNo * 256) (ringSize c.ubud) e.2.sb e.2.sf
        let s := spillWrite s ref b.ctx va (rs ++ linkBytes e.2 (if e.1 = 0 then none else l.frameAt (e.1 - 1)))
        match s.cord? ref with
        | none => .ok s
        | some c => .ok (s.setCord ref { c with uspill := c.uspill ++ [(e.1, e.2.sb, e.2.sf, off)] })
  | _, _ => .ok s

/-- Runs a fallible step over a list. -/
def foldE {α ε σ : Type} (f : σ → α → Except ε σ) : σ → List α → Except ε σ
  | s, [] => .ok s
  | s, x :: r => match f s x with
    | .error e => .error e
    | .ok t => foldE f t r

/-- Active calls of a lane (R140): handler entry adds none (R318). -/
def Lane.calls (l : Lane) : Nat := (l.frames.filter (fun f => f.ret.isSome)).length

/-- push_link and slide_windows of lane `k` (R142, R318): spills, then the new frame with sizes 0 and 0 (R141). Only a call, which
has a return address, meets the depth limit (R247). Lane frames spill before uniform ones (log entry 73, DESIGN CHOICE). -/
def slide (s : State) (ref : CordRef) (k : Nat) (ret : Option Word) (hold : Option Nat) : Except SpillFault State :=
  match s.cord? ref with
  | none => .ok s
  | some c =>
    let l := c.lane k
    if ret.isSome && decide (Config.depthLimit ≤ l.calls) then .error ⟨false, cRegRange, none, s⟩
    else
      match foldE (spillV ref k) s (vSpills c l) with
      | .error e => .error e
      | .ok s =>
        match foldE (spillU ref k) s (uSpills c l) with
        | .error e => .error e
        | .ok s =>
          match s.cord? ref with
          | none => .ok s
          | some c =>
            let l := c.lane k
            let f : Frame := { ret := ret, vf := 0, sf := 0, vb := slideBase (ringSize c.vbud) l.frame.vb l.frame.vf,
                               sb := slideBase (ringSize c.ubud) l.frame.sb l.frame.sf, hold := hold, spill := none }
            .ok (s.setCord ref (c.setLane k { l with frames := f :: l.frames }))

/-- A slide of one of these lanes would spill (R142). -/
def slideSpills (c : Cord) (ks : List Nat) : Bool :=
  ks.any (fun k => !(vSpills c (c.lane k)).isEmpty || !(uSpills c (c.lane k)).isEmpty)

/-- Registers from bytes: `n` words. -/
def wordsOfBytes (l : List Byte) : Nat → List Word
  | 0 => []
  | n + 1 => BitVec.ofNat 32 (leNat (l.take 4)) :: wordsOfBytes (l.drop 4) n

/-- What a fill leaves behind beside its data: TLBs and path fill, and corrected errors count (R260, R265, R309). -/
def readLines (s : State) (ref : CordRef) (ctx va n : Nat) : State :=
  notePath (bringLines (touchRange s ref.core false ctx va n) ref.core ref.slot ctx (linesOf va n)) ref.core ctx va n

/-- Fills a spilled lane frame `i` (R144, R247): its registers, its return address, and its caller's sizes. -/
def fillV (s : State) (ref : CordRef) (k i : Nat) : Except SpillFault State :=
  match s.block? ref.core ref.slot, s.cord? ref with
  | some b, some c =>
    let l := c.lane k
    match l.frameAt i with
    | none => .ok s
    | some f =>
      match f.spill with
      | none => .ok s
      | some off =>
        let va := l.locbase + off
        match spillFault s ref.core b.ctx va (spillBytes f.vf) false false with
        | some (cause, a) => .error (.at_ s ref.core b.ctx false cause va (spillBytes f.vf) a)
        | none =>
          let ws := wordsOfBytes (localRead s ref.core b.ctx va (spillBytes f.vf)) (f.vf + 2)
          let ring := ringSize c.vbud
          let l := (List.range f.vf).foldl (fun l j => l.put (16 + (f.vb + j) % ring) (ws.getD j 0)) l
          let link := (ws.getD (f.vf + 1) 0).toNat
          let l := l.setFrame i { f with spill := none, ret := if f.ret.isSome then some (ws.getD f.vf 0) else none }
          let l := if i = 0 then l else match l.frameAt (i - 1) with
            | none => l
            | some g => l.setFrame (i - 1) { g with
                vf := field link 0 6, sf := field link 8 6
                vb := slideBack ring f.vb (field link 0 6), sb := slideBack (ringSize c.ubud) f.sb (field link 8 6) }
          let s := mendFrame s ref.core .laneRegs ((c.slotNo * 32 + k) * 1024) ring f.vb f.vf
          .ok ((readLines s ref b.ctx va (spillBytes f.vf)).setCord ref (c.setLane k l))
  | _, _ => .ok s

/-- Fills a spilled uniform frame of a lane's chain (R144, R247): its registers alone, since each lane holds its own link slots (log entry
84, DEDUCED). -/
def fillU (s : State) (ref : CordRef) (k i : Nat) : Except SpillFault State :=
  match s.block? ref.core ref.slot, s.cord? ref with
  | some b, some c =>
    match (c.lane k).frameAt i with
    | none => .ok s
    | some f =>
      match uSpilled c i f with
      | none => .ok s
      | some off =>
        let va := (c.lane (lowLane c)).locbase + off
        match spillFault s ref.core b.ctx va (spillBytes f.sf) false false with
        | some (cause, a) => .error (.at_ s ref.core b.ctx true cause va (spillBytes f.sf) a)
        | none =>
          let ws := wordsOfBytes (localRead s ref.core b.ctx va (spillBytes f.sf)) f.sf
          let c := (List.range f.sf).foldl (fun c j => c.sput (16 + (f.sb + j) % ringSize c.ubud) (ws.getD j 0) false) c
          let s := mendFrame s ref.core .uniformRegs (c.slotNo * 256) (ringSize c.ubud) f.sb f.sf
          .ok ((readLines s ref b.ctx va (spillBytes f.sf)).setCord ref { c with uspill := c.uspill.filter (fun e => !(e.1 == i && e.2.1 == f.sb)) })
  | _, _ => .ok s

/-- Pops the current frame of lane `k`: the frame below becomes current, filled first where `fill` says so (R144, R321). -/
def unslide (s : State) (ref : CordRef) (k : Nat) (fill : Bool) : Except SpillFault State :=
  match s.cord? ref with
  | none => .ok s
  | some c =>
    let i := (c.lane k).depth - 1
    match (if fill then fillV s ref k i else .ok s) with
    | .error e => .error e
    | .ok s =>
      match (if fill then fillU s ref k i else .ok s) with
      | .error e => .error e
      | .ok s =>
        match s.cord? ref with
        | none => .ok s
        | some c => .ok (s.setCord ref (c.setLane k { c.lane k with frames := (c.lane k).frames.tail }))

end Sys2Proof.Machine
end

