-- ==== Sys2Proof/Machine/Ops.lean ====
section
/-!
DEFINITION. The named operations that every instruction shares: fetching code (01_machine.md R11), issuing under the
lookahead rule (04_idioms.md R61, 02_execution.md R26), parking lanes, taking a handler and returning from it
(16_faults.md R318 to R323), the rejoin release (R24), barrier phases (07_control_memory.md R163) and the exit of lanes.
-/

namespace Sys2Proof.Machine

/-! ### Fetch -/

/-- The code map entry of a code address (R300). -/
def codeEntry (s : State) (core ctx addr : Nat) : Option CodeMap :=
  (s.core core).map.find? (fun e => e.ctx == ctx && e.cpage == addr / Config.pageBytes)

/-- The word at a code address, when its page is resident (R11). -/
def codeWord (s : State) (core ctx addr : Nat) : Option Word :=
  (codeEntry s core ctx addr).map (fun e =>
    (s.core core).code.word (e.spage * Config.pageBytes + addr % Config.pageBytes))

/-- The page of a code address has an uncorrectable error and waits for its reload (R265). -/
def codeBad (s : State) (core ctx addr : Nat) : Bool :=
  match codeEntry s core ctx addr with
  | none => false
  | some e => badWord (s.core core) .codeStore (e.spage * Config.pageBytes) Config.pageBytes

/-- Bytes of an instruction (R72). -/
def sizeOf' : Instr → Nat
  | .nop o | .snop o => if o.wide then 8 else 4
  | .mov o | .popc o | .clz o | .brev o | .smov o | .spopc o => if o.wide then 8 else 4
  | .imul o | .imulhs o | .imulhn o | .imins o | .iminn o | .imaxs o | .imaxn o | .and o | .or o | .xor o | .andn o
  | .shl o | .shrl o | .shra o | .vmax2s o | .vmax2n o | .vmin2s o | .vmin2n o | .smul o | .smins o | .smaxs o | .sminn o
  | .smaxn o | .sand o | .sor o | .sxor o | .sshl o | .sshrl o | .sshra o => if o.wide then 8 else 4
  | .iadd o | .isub o | .vadd2 o | .vsub2 o | .sadd o | .ssub o => if o.wide then 8 else 4
  | .iabs o | .ineg o => if o.wide then 8 else 4
  | .sel o | .ssel o => if o.wide then 8 else 4
  | .rng o => if o.wide then 8 else 4
  | .fadd o | .fsub o | .fmul o | .fmin o | .fmax o => if o.wide then 8 else 4
  | .fabs o | .fneg o => if o.wide then 8 else 4
  | .ret o | .exit o | .brk o | .yield o | .sbrk o => if o.wide then 8 else 4
  | .frame o => if o.wide then 8 else 4
  | .bra _ | .call _ | .sbra _ | .notAnInstruction _ => 4
  | _ => 8

/-- Holding points (R27). -/
def isHolding : Instr → Bool
  | .rjoin | .exit _ | .ctr _ | .ctrskip _ | .bar _ | .barar _ | .barwt _ => true
  | _ => false

/-- The guard of a uniform-set instruction (R80); none for `ssel`, whose field is its selector, and for the lane set. -/
def uniformGuard : Instr → Option Guard
  | .snop o => some o.gd | .smov o => some o.gd | .smovi o => some o.gd | .sadd o => some o.gd | .ssub o => some o.gd
  | .saddi o => some o.gd | .smul o => some o.gd | .smad o => some o.gd | .smins o => some o.gd | .smaxs o => some o.gd
  | .sminn o => some o.gd | .smaxn o => some o.gd | .sand o => some o.gd | .sor o => some o.gd | .sxor o => some o.gd
  | .sandi o => some o.gd | .sori o => some o.gd | .sshl o => some o.gd | .sshrl o => some o.gd | .sshra o => some o.gd
  | .sshli o => some o.gd | .sshrli o => some o.gd | .scmp o => some o.gd | .splog o => some o.gd
  | .spopc o => some o.gd | .sld32 o => some o.gd | .sst32 o => some o.gd | .sld64 o => some o.gd | .sst64 o => some o.gd
  | .ssrd o => some o.gd | .sswr o => some o.gd | .sbra o => some o.gd | .sbraLong o => some o.gd | .sbrx o => some o.gd
  | .bar o => some o.gd | .barar o => some o.gd | .barwt o => some o.gd | .fence o => some o.gd | .tktwait o => some o.gd
  | .tktpass o => some o.gd | .evset o => some o.gd | .evclr o => some o.gd | .evwait o => some o.gd
  | .qpop o => some o.gd | .qpush o => some o.gd | .chput o => some o.gd | .chget o => some o.gd | .cheos o => some o.gd
  | .cpyIn o => some o.gd | .cpyOut o => some o.gd | .cpyCk o => some o.gd | .cpyCkc o => some o.gd
  | .cpyIna o => some o.gd | .cpyOuta o => some o.gd | .cpygat o => some o.gd | .mred o => some o.gd
  | .coll o => some o.gd | .wnw o => some o.gd | .ovlld o => some o.gd | .ovlrel o => some o.gd
  | .ovlevict o => some o.gd | .opwait o => some o.gd | .optest o => some o.gd | .opseal o => some o.gd
  | .opwaitb o => some o.gd | .opcancel o => some o.gd | .opdetach o => some o.gd | .opstat o => some o.gd
  | .opprio o => some o.gd | .opadopt o => some o.gd | .hret o => some o.gd | .yield o => some o.gd
  | .strap o => some o.gd | .sbrk o => some o.gd | .idleQ o => some o.gd | .idleEv o => some o.gd
  | _ => none

/-- The guard of a lane-set instruction (R80); none where the word has none. -/
def laneGuard : Instr → Option Guard
  | .nop o => some o.gd | .mov o => some o.gd | .movi o => some o.gd | .iadd o => some o.gd | .isub o => some o.gd
  | .iaddi o => some o.gd | .imul o => some o.gd | .imulhs o => some o.gd | .imulhn o => some o.gd
  | .imad o => some o.gd | .imins o => some o.gd | .iminn o => some o.gd | .imaxs o => some o.gd
  | .imaxn o => some o.gd | .iabs o => some o.gd | .ineg o => some o.gd | .and o => some o.gd | .or o => some o.gd
  | .xor o => some o.gd | .andn o => some o.gd | .andi o => some o.gd | .ori o => some o.gd | .xori o => some o.gd
  | .shl o => some o.gd | .shrl o => some o.gd | .shra o => some o.gd | .shli o => some o.gd | .shrli o => some o.gd
  | .shrai o => some o.gd | .bfx o => some o.gd | .bfi o => some o.gd | .popc o => some o.gd | .clz o => some o.gd
  | .brev o => some o.gd | .lea o => some o.gd | .vadd2 o => some o.gd | .vsub2 o => some o.gd
  | .vmax2s o => some o.gd | .vmax2n o => some o.gd | .vmin2s o => some o.gd | .vmin2n o => some o.gd
  | .vacs2 o => some o.gd | .icmp o => some o.gd | .plog o => some o.gd | .pmovTov o => some o.gd
  | .pmovFrv o => some o.gd | .rng o => some o.gd | .srd o => some o.gd | .fadd o => some o.gd | .fsub o => some o.gd
  | .fmul o => some o.gd | .ffma o => some o.gd | .fmin o => some o.gd | .fmax o => some o.gd | .fabs o => some o.gd
  | .fneg o => some o.gd | .fcmp o => some o.gd | .frcp o => some o.gd | .frsq o => some o.gd | .fsqrt o => some o.gd
  | .fexp2 o => some o.gd | .flog2 o => some o.gd | .hfma2 o => some o.gd | .hadd2 o => some o.gd
  | .cvt o => some o.gd | .pk4 o => some o.gd | .upk o => some o.gd | .fpclass o => some o.gd | .perm o => some o.gd
  | .shfl o => some o.gd | .vote o => some o.gd | .lred o => some o.gd | .lscan o => some o.gd | .bra o => some o.gd
  | .braLong o => some o.gd | .brx o => some o.gd | .call o => some o.gd | .callLong o => some o.gd
  | .callx o => some o.gd | .callo o => some o.gd | .ret o => some o.gd | .exit o => some o.gd | .trap o => some o.gd
  | .brk o => some o.gd | .ld8 o => some o.gd | .ld16 o => some o.gd | .ld32 o => some o.gd | .ld64 o => some o.gd
  | .ld128 o => some o.gd | .st8 o => some o.gd | .st16 o => some o.gd | .st32 o => some o.gd | .st64 o => some o.gd
  | .st128 o => some o.gd | .atom o => some o.gd | .gld32 o => some o.gd | .gld64 o => some o.gd
  | .gst32 o => some o.gd | .gst64 o => some o.gd | .gatom o => some o.gd | .gprf o => some o.gd
  | .ctr o => some o.gd | .acz o => some o.gd | .acrd o => some o.gd | .acwr o => some o.gd | .acdrain o => some o.gd
  | .acaxpy o => some o.gd | .acrst o => some o.gd | .spawn o => some o.gd | .swr o => some o.gd
  | _ => none

/-- The uniform assertion of a lane-set instruction (R60). -/
def uniAssert : Instr → Bool
  | .nop o => o.u | .mov o => o.u | .movi o => o.u | .iadd o => o.u | .isub o => o.u | .iaddi o => o.u
  | .imul o => o.u | .imulhs o => o.u | .imulhn o => o.u | .imad o => o.u | .imins o => o.u | .iminn o => o.u
  | .imaxs o => o.u | .imaxn o => o.u | .iabs o => o.u | .ineg o => o.u | .and o => o.u | .or o => o.u
  | .xor o => o.u | .andn o => o.u | .andi o => o.u | .ori o => o.u | .xori o => o.u | .shl o => o.u | .shrl o => o.u
  | .shra o => o.u | .shli o => o.u | .shrli o => o.u | .shrai o => o.u | .bfx o => o.u | .bfi o => o.u
  | .popc o => o.u | .clz o => o.u | .brev o => o.u | .sel o => o.u | .lea o => o.u | .vadd2 o => o.u
  | .vsub2 o => o.u | .vmax2s o => o.u | .vmax2n o => o.u | .vmin2s o => o.u | .vmin2n o => o.u | .vacs2 o => o.u
  | .icmp o => o.u | .plog o => o.u | .pmovTov o => o.u | .pmovFrv o => o.u | .srd o => o.u | .fadd o => o.u
  | .fsub o => o.u | .fmul o => o.u | .ffma o => o.u | .fmin o => o.u | .fmax o => o.u | .fabs o => o.u
  | .fneg o => o.u | .fcmp o => o.u | .frcp o => o.u | .frsq o => o.u | .fsqrt o => o.u | .fexp2 o => o.u
  | .flog2 o => o.u | .hfma2 o => o.u | .hadd2 o => o.u | .cvt o => o.u | .pk4 o => o.u | .upk o => o.u
  | .fpclass o => o.u | .perm o => o.u | .ld8 o => o.u | .ld16 o => o.u | .ld32 o => o.u | .ld64 o => o.u
  | .ld128 o => o.u | .st8 o => o.u | .st16 o => o.u | .st32 o => o.u | .st64 o => o.u | .st128 o => o.u
  | .atom o => o.u | .gld32 o => o.u | .gld64 o => o.u | .gst32 o => o.u | .gst64 o => o.u | .gatom o => o.u
  | _ => false

/-- What the modifiers of an access or a fence say of order, whatever its guard (R80, R156, R165, R269). -/
def modOrder : Instr → Option Ordr
  | .ld8 o | .ld16 o | .ld32 o | .ld64 o | .ld128 o => some ⟨o.acq, false, o.scope⟩
  | .st8 o | .st16 o | .st32 o | .st64 o | .st128 o => some ⟨false, o.rel, o.scope⟩
  | .atom o | .gatom o => some o.ord
  | .gld32 o | .gld64 o => some ⟨o.acq, false, o.scope⟩
  | .gst32 o | .gst64 o => some ⟨false, o.rel, o.scope⟩
  | .sld32 o | .sld64 o => some ⟨o.acq, false, o.scope⟩
  | .sst32 o | .sst64 o => some ⟨false, o.rel, o.scope⟩
  | .fence o => some ⟨o.acq, o.rel, o.scope⟩
  | _ => none

/-- A release by its own entry, when it executes (R269). -/
def relEntry : Instr → Bool
  | .bar _ | .barar _ | .tktpass _ | .evset _ | .spawn _ | .chput _ | .cheos _ | .qpush _ => true
  | _ => false

/-- The instruction reads or writes a store or a tile, or hands work to another agent: an acquire orders it (R269, R271). -/
def accesses : Instr → Bool
  | .ld8 _ | .ld16 _ | .ld32 _ | .ld64 _ | .ld128 _ | .st8 _ | .st16 _ | .st32 _ | .st64 _ | .st128 _ | .atom _
  | .gld32 _ | .gld64 _ | .gst32 _ | .gst64 _ | .gatom _ | .sld32 _ | .sst32 _ | .sld64 _ | .sst64 _
  | .ctr _ | .acz _ | .acrd _ | .acwr _ | .acdrain _ | .acaxpy _ | .spawn _ | .qpop _ | .qpush _ | .chput _ | .chget _
  | .cheos _ | .cpyIn _ | .cpyOut _ | .cpyCk _ | .cpyCkc _ | .cpyIna _ | .cpyOuta _ | .cpygat _ | .mred _ | .coll _
  | .wnw _ | .opstat _ => true
  | _ => false

/-- The guard of a uniform-set instruction is true, or it has none (R80). -/
def guardOn (c : Cord) (i : Instr) : Bool :=
  match uniformGuard i with
  | none => true
  | some g => c.guard g

/-- The modifiers of an instruction that starts a child operation (R215). -/
def opOrder : Instr → Option Ordr
  | .cpyIn o | .cpyOut o | .cpyCk o | .cpyCkc o | .cpyIna o | .cpyOuta o | .cpygat o | .wnw o => some o.ord
  | .mred o | .coll o => some o.ord
  | _ => none

/-- The fence that an instruction is each time it issues, beside its access or the operation that it starts (R80, R269). -/
def fenceOf (i : Instr) : Ordr := ((modOrder i).orElse (fun _ => opOrder i)).getD ⟨false, false, .lane⟩

/-- Gathers in flight hold an issue for the sake of ordering: a release or an acquire waits for all of them, and an access
waits for those that acquire (R165, R269, R274; log entry 10, DESIGN CHOICE). -/
def orderHolds (c : Cord) (i : Instr) : Bool :=
  (((fenceOf i).acq || (fenceOf i).rel) && !c.gathers.isEmpty) || (accesses i && c.gathers.any (·.acq))

/-! ### Lanes that wait and lanes that park -/

/-- A lane of the cord is parked and no handler has left it there (R27). -/
def Cord.unserved (c : Cord) : Bool := !(c.lanesWith (fun l => l.st == .park && !l.served)).isEmpty

/-- Late gather accesses owe data to lane `k` (R26). -/
def Cord.owes (c : Cord) (k : Nat) : Bool := c.gathers.any (fun a => a.late && a.lanes.contains k)

/-- The lane in RUN, or in WAIT for the late data it is owed (R26). -/
def Cord.toRun (c : Cord) (k : Nat) : Lane :=
  if c.owes k then { c.lane k with st := .wait, data := true } else { c.lane k with st := .run, data := false }

/-- Closes the window of gather `id`: late lanes in RUN enter WAIT where they stand (R26). -/
def closeWindow (c : Cord) (id : Nat) : Cord :=
  let mark (a : Access) : Access := if a.id == id then { a with late := true } else a
  let gathers := c.gathers.map mark
  let c : Cord := { c with gathers := gathers, windows := c.windows.filter (fun (w : GatherWindow) => w.id != id) }
  let late := (gathers.filter (fun (a : Access) => a.id == id)).flatMap (·.lanes)
  let stuck := (c.lanesWith (fun (l : Lane) => l.st == .run)).filter (fun k => late.contains k)
  c.onLanes stuck (fun _ l => { l with st := .wait, data := true })

/-- An issue at `addr` does not follow the previous one: another address, or another set of lanes, those apart that have parked
since or wait for data (R26, R61). -/
def Cord.breaks (c : Cord) (addr : Nat) : Bool :=
  let still (k : Nat) : Bool := (c.lane k).st != .park && !((c.lane k).st == .wait && (c.lane k).data)
  c.next != some (BitVec.ofNat 32 addr) || c.execSet != c.prev.filter still

/-- Closes the windows that an issue at `addr` closes (R26): `u` is what it names. -/
def closeWindows (c : Cord) (addr : Nat) (u : Uses) : Cord :=
  let jump := c.breaks addr
  (c.windows.filter (fun w => jump || w.left == 0 || meet (u.vr ++ u.vw) w.dst)).foldl (fun c w => closeWindow c w.id) c

/-- A long-latency instruction in flight holds an issue (R61). -/
def latencyHolds (c : Cord) (addr : Nat) (u : Uses) : Bool :=
  c.inflight.any (fun f => c.breaks addr || f.left == 0 || depends f.uses u)

/-- The special register that an instruction reads or writes by its index. -/
def srIndex : Instr → Option (BitVec 8)
  | .srd o | .ssrd o => some o.idx
  | .sswr o => some o.idx
  | _ => none

/-- A read or write of sr.fpf waits for every instruction in flight that sets it (R103, R252). -/
def flagsHold (c : Cord) (i : Instr) : Bool :=
  srIndex i == some 0x16 && c.inflight.any (fun f => f.owed.any (fun w => match w with
    | .fpf _ => true
    | _ => false))

/-- The release of the rejoins (R24): of each `rjoin` at which every lane of sr.joinm waits, or is in PARK or EXIT. Lanes in WAIT that do
not wait for data stand at an `rjoin` when no lane is parked unserved (R27, R239). -/
def rejoin (c : Cord) : Cord :=
  if c.unserved then c
  else
    let here_ (a : Word) (l : Lane) : Bool := l.st == .wait && !l.data && l.pc == a
    let met (k : Nat) : Bool := (bitsFrom c.joinm.toNat 0 32).all (fun j =>
      here_ (c.lane k).pc (c.lane j) || (c.lane j).st == .park || (c.lane j).st == .exit)
    ((c.lanesWith (fun l => l.st == .wait && !l.data)).filter met).foldl (fun d k =>
      d.setLane k { c.toRun k with pc := (c.lane k).pc + 8 }) c

/-- Parks lanes, each on the instruction its PC stands on, with the cause and value of the lowest-numbered (R27, R149). -/
def Cord.park (c : Cord) (ks : List (Nat × Byte × Word)) : Cord :=
  match ks with
  | [] => c
  | (k, cause, tval) :: r =>
    let low := r.foldl (fun (b : Nat × Byte × Word) x => if x.1 < b.1 then x else b) (k, cause, tval)
    let c := c.onLanes (ks.map (·.1)) (fun _ l => { l with st := .park, data := false, served := false })
    { c with cause := low.2.1, tval := low.2.2, gfault := none }

/-! ### Issue -/

/-- What an issue leaves behind: the state with its effects, the lanes it parks, the lanes it sends elsewhere than to the next
instruction, the lanes whose PC and state it has set itself, and what stays in flight. -/
structure Done where
  s : State
  park : List (Nat × Byte × Word) := []
  go : List (Nat × Word) := []
  stay : List Nat := []
  fl : List InFlight := []
  win : List GatherWindow := []
  /-- The gather instruction whose lanes it parks. -/
  gf : Option Nat := none

/-- What the operation of an instruction answers: it waits, or it has issued. -/
inductive Act where
  | hold
  /-- It waits, and that it does has been counted (R316). -/
  | held (s : State)
  /-- It waits, having changed the state meanwhile. -/
  | wait (s : State)
  | did (d : Done)

/-- A hold of the range scoreboard (R316: event 7, by log entry 7, DESIGN CHOICE). -/
def countHold (s : State) (core : Nat) : Act := .held (countPerf s core 7)

/-- Parks every lane of the executing set (R84). -/
def parkSet (h : Here) (s : State) (cause : Byte) (tval : Word) : Act :=
  .did { s := s, park := h.set.map (fun k => (k, cause, tval)) }

/-- Parks every lane of the executing set with a cause whose sr.tval the spec does not give: a free value (log entry 2, DESIGN CHOICE). -/
def parkSetFree (h : Here) (s : State) (cause : Byte) : Act :=
  let (x, s) := s.free
  parkSet h s cause (x.setWidth 32)

/-- The cord after an issue, but for its lanes: one more instruction (R245), and one issue less for everything in flight and every
open window, to which `fl` and `win` are joined (R26, R61). -/
def Cord.count (c : Cord) (next : Option Word) (set : List Nat) (clock : Nat) (fl : List InFlight) (win : List GatherWindow) : Cord :=
  { c with
    kept := none, keptRed := none, waits := none, fetched := none, icount := c.icount + 1, next := next, prev := set, last := clock, issued := true
    inflight := c.inflight.map (fun f => { f with left := f.left - 1 }) ++ fl
    windows := c.windows.map (fun w => { w with left := w.left - 1 }) ++ win }

/-- The lanes of the executing set that go on: those that do not park and whose PC the operation has not set itself. -/
def Done.movers (d : Done) (h : Here) : List Nat :=
  h.set.filter (fun k => !(d.park.any (fun x => x.1 == k)) && !d.stay.contains k)

/-- The PC that a lane goes on to (R22, R23). -/
def Done.target (d : Done) (next : Word) (k : Nat) : Word := ((d.go.find? (fun x => x.1 == k)).map (·.2)).getD next

/-- The address that follows the issue in code order; none where it sends a lane elsewhere, or calls or returns, wherever to (R61). -/
def Done.follows (d : Done) (h : Here) (c : Cord) (next : Word) : Option Word :=
  let slid (k : Nat) : Bool := (c.lane k).frames.length != (h.cord.lane k).frames.length
  if d.go.any (fun x => x.2 != next || slid x.1) then none else some next

/-- The cord with the lanes parked that an issue parks, and the gather instruction noted that parks them. -/
def Done.parked (d : Done) (c : Cord) : Cord :=
  if d.park.isEmpty then c
  else { c.park d.park with gfault := d.gf.bind (fun g => (leastOf (d.park.map (·.1))).map (fun k => (g, k))) }

/-- The cord after an issue: PCs (R22, R23), counters (R245), windows (R26, R61). -/
def advance (h : Here) (size clock : Nat) (d : Done) (c : Cord) : Cord :=
  let next := BitVec.ofNat 32 (h.addr + size)
  let c := d.parked (c.onLanes (d.movers h) (fun k l => { l with pc := d.target next k }))
  (d.win.filter (fun w => w.left == 0)).foldl (fun c w => closeWindow c w.id) (c.count (d.follows h c next) h.set clock d.fl d.win)

/-- Records that a block has issued its first instruction (R333). -/
def begun (s : State) (b : Block) : State :=
  match s.launches.get? b.launch with
  | none => s
  | some l => if b.det && b.task.isNone && !l.begun.contains b.rank then s.setLaunch b.launch { l with begun := b.rank :: l.begun } else s

/-- The lanes that a lane-set instruction executes in (R80). -/
def actors (h : Here) (i : Instr) : List Nat :=
  match laneGuard i with
  | none => h.set
  | some g => h.active g

/-- The registers that an instruction reads, and its own words, count the errors that the code corrects, once for each register of each
lane that reads it: of the active lanes, and with the uniform assertion of the lowest of them (R60, R80, R265). -/
def noteRegs (s : State) (h : Here) (i : Instr) : State :=
  if (s.core h.ref.core).soft.isEmpty then s
  else
    let word (s : State) (a : Nat) : State := match codeEntry s h.ref.core h.block.ctx a with
      | none => s
      | some e => noteRead s h.ref.core .codeStore (e.spage * Config.pageBytes + a % Config.pageBytes) 4
    let at_ := (codeEntry s h.ref.core h.block.ctx h.addr).map (fun e => (e.spage * Config.pageBytes + h.addr % Config.pageBytes) / 8)
    let next := (h.addr + 4) % 2 ^ 32
    let at2 := (codeEntry s h.ref.core h.block.ctx next).map (fun e => (e.spage * Config.pageBytes + next % Config.pageBytes) / 8)
    let s := word s h.addr
    -- the two words of an instruction may share a word of the code store
    let s := if sizeOf' i = 4 || at_ == at2 then s else word s next
    let u := uses i
    let lanes := if uniAssert i then (actors h i).take 1 else actors h i
    let s := lanes.foldl (fun s k => (u.vr.filter (· != 0)).foldl (fun s r =>
      noteRead s h.ref.core .laneRegs ((h.cord.slotNo * 32 + k) * 1024 + 4 * place h.cord.vbud (h.cord.lane k).frame.vb r) 4) s) s
    (if guardOn h.cord i && !(actors h i).isEmpty then u.sr.filter (· != 0) else []).foldl (fun s r =>
      noteRead s h.ref.core .uniformRegs (h.cord.slotNo * 256 + 4 * place h.cord.ubud h.sbase r) 4) s

/-- An instruction that writes whole words of a register file leaves no error in them; a gather writes its own later (R265). -/
def mendRegs (s : State) (h : Here) (i : Instr) (d : Done) : State :=
  let c := s.core h.ref.core
  if c.bad.isEmpty && c.soft.isEmpty then s
  else
    let words (l : List Nat) (f : Nat → Nat) : List Nat :=
      let ps := (l.filter (· != 0)).map f
      ps.filter (fun p => p % 2 == 0 && ps.contains (p + 1))
    let ks := match i with
      | .gld64 _ => []
      | _ => (d.movers h).filter (fun k => (laneGuard i).all (h.cord.lane k).guard)
    let c := ks.foldl (fun c k => (words (uses i).vw (place h.cord.vbud (h.cord.lane k).frame.vb)).foldl (fun c p =>
      mend c .laneRegs ((h.cord.slotNo * 32 + k) * 1024 + 4 * p) 8) c) c
    let sw := if guardOn h.cord i && !(d.movers h).isEmpty then (uses i).sw else []
    s.setCore h.ref.core ((words sw (place h.cord.ubud h.sbase)).foldl (fun c p =>
      mend c .uniformRegs (h.cord.slotNo * 256 + 4 * p) 8) c)

/-- Ends an issue: the executing cord advances, the instruction orders what it orders, whatever its guard and though it parks lanes (R80,
R269), each uncorrectable error that a lane met is logged (R340), and no cord counts as stalled any longer. -/
def finish (h : Here) (i : Instr) (d : Done) : Out :=
  match d.s.cord? h.ref with
  | none => .next { d.s with stalled := [] }
  | some c =>
    let s := d.s.setCord h.ref (rejoin (advance h (sizeOf' i) d.s.clock d c))
    let s := (s.fences h.agent (fenceOf i)).unhold h.agent
    let s := begun (mendRegs (noteRegs s h i) h i d) h.block
    let s := (d.park.filter (fun x => x.2.1 == cDataErr)).foldl (fun s x =>
      logData s h.ref.core h.block.ctx h.block.index x.2.2.toNat 0) s
    .next { countPerf s h.ref.core (h.cord.quarter) with stalled := [] }

/-- The block runs its cords (R33, R325, R328). -/
def BlockStatus.issues : BlockStatus → Bool
  | .running | .draining => true
  | _ => false

/-- Who executes at `State.cur`, if a cord stands there. -/
def here (s : State) : Option Here :=
  match s.block? s.cur.core s.cur.slot, s.cord? s.cur with
  | some b, some c => some { ref := s.cur, block := b, cord := c, set := c.execSet, addr := c.issueAddr.getD 0 }
  | _, _ => none

/-- A lane register that lane `k` reads as `r` has an uncorrectable error (R265). -/
def laneRegBad (core : Core) (c : Cord) (k r : Nat) : Bool :=
  badWord core .laneRegs ((c.slotNo * 32 + k) * 1024 + 4 * place c.vbud (c.lane k).frame.vb r) 4

/-- The lanes that would read a lane register with an uncorrectable error: with the uniform assertion only the lowest-numbered
active lane reads, and its error is every active lane's (R60, R265). -/
def badLanes (core : Core) (h : Here) (i : Instr) : List Nat :=
  if core.bad.isEmpty then []
  else
    let act := actors h i
    let bad (k : Nat) : Bool := (uses i).vr.any (fun r => r != 0 && laneRegBad core h.cord k r)
    if uniAssert i then (if bad (act.headD 0) then act else []) else act.filter bad

/-- A uniform register that the executing set reads as `r` has an uncorrectable error (R265). -/
def uniformBad (core : Core) (h : Here) (r : Nat) : Bool :=
  badWord core .uniformRegs (h.cord.slotNo * 256 + 4 * place h.cord.ubud h.sbase r) 4

/-- A uniform register that the instruction reads has an uncorrectable error (R265). -/
def badUniform (core : Core) (h : Here) (i : Instr) : Bool := (uses i).sr.any (fun r => r != 0 && uniformBad core h r)

/-- A fault of the instruction parks every lane of its executing set (R199). -/
def parksSet : Instr → Bool
  | .ctr _ => true
  | _ => false

/-- The instruction looks at its uniform registers itself: with a true guard alone, and last of its faults (R195, R205). -/
def checksOwn : Instr → Bool
  | .acdrain _ | .acaxpy _ => true
  | _ => false

/-- The operation without the lanes that an uncorrectable register error parks (R265, R27): the others complete, but for a `ctr`, which
parks its whole set (R199). The error comes before the instruction's other faults (log entry 97, DESIGN CHOICE). The spec gives it no
sr.tval: a free value (log entry 2, DESIGN CHOICE). -/
def withoutBad (i : Instr) (op : Here → State → Act) (h : Here) (s : State) : Act :=
  if !checksOwn i && badUniform (s.core h.ref.core) h i then parkSetFree h s cDataErr
  else match badLanes (s.core h.ref.core) h i with
  | [] => op h s
  | bad =>
    if parksSet i then parkSetFree h s cDataErr
    else
    let (x, s) := s.free
    let park := bad.map (fun k => (k, cDataErr, x.setWidth 32))
    let good := h.set.filter (fun k => !bad.contains k)
    if good.isEmpty then .did { s := s, park := park }
    else match op { h with set := good } s with
      | .did d => .did { d with park := d.park ++ park }
      | a => a

/-- The executing lanes wait in their instruction (R170; log entry 37, DEDUCED). -/
def State.waitHere (s : State) (h : Here) : State :=
  match s.cord? h.ref with
  | none => s
  | some c => s.setCord h.ref { c with waits := some (h.addr, h.set) }

/-- The outcome of an issue from what its operation answers. -/
def actOut (i : Instr) (h : Here) (s : State) : Act → Out
  | .hold => .next ((s.waitHere h).stall h.ref)
  | .held t => .next ((t.waitHere h).stall h.ref)
  | .wait t => .next { t.waitHere h with stalled := [h.ref] }
  | .did d => finish h i d

/-- The issue of an instruction with the windows it closes already closed: the waits that come before it (R27, R61, R252), PRIV
(R84), REG_RANGE (R246), the guard of a uniform-set instruction (R80), and then its own operation. Where it executes in no lane there is no
PRIV. That REG_RANGE and DATA_ERR reach the instructions of 06_lane_ops.md too is R246 and R265 (log entry 97, DESIGN CHOICE). -/
def issueAt (i : Instr) (priv : Here → Bool) (op : Here → State → Act) (h : Here) (s : State) : Out :=
  if isHolding i && h.cord.unserved then
    .next { s.setCord h.ref (h.cord.onLanes h.set (fun _ l => { l with st := .wait, data := false })) with stalled := [] }
  else if latencyHolds h.cord h.addr (uses i) || flagsHold h.cord i
      || orderHolds h.cord i then .next (s.stall h.ref)
  else
    if !guardOn h.cord i then finish h i { s := s }
    else if priv h && !(actors h i).isEmpty then actOut i h s (parkSetFree h s cPriv)
    else match badReg h.cord (uses i) with
    | some r => actOut i h s (parkSet h s cRegRange (BitVec.ofNat 32 r))
    | none =>
      if relEntry i && !h.cord.gathers.isEmpty then .next (s.stall h.ref)
      else actOut i h s (withoutBad i op h s)

/-- Issues an instruction for the cord at `State.cur` (R20 to R23, R38). `op` is the instruction's own operation. -/
def issueP (i : Instr) (priv : Here → Bool) (op : Here → State → Act) (s : State) : Out :=
  match here s with
  | none => .fault .noCord
  | some h =>
    if !h.block.status.issues || h.set.isEmpty then .next (s.stall h.ref)
    else
      let c := closeWindows h.cord h.addr (uses i)
      let s := s.setCord h.ref c
      if c.issueAddr ≠ some h.addr then .next { s with stalled := [] }
      else issueAt i priv op { h with cord := c, set := c.execSet } s

/-- Issues an instruction that any mode may execute. -/
def issue (i : Instr) (op : Here → State → Act) (s : State) : Out := issueP i (fun _ => false) op s

/-! ### Lane-set operations without memory -/

/-- Applies `f` to each active lane; with the uniform assertion the operation is computed once, from the lowest-numbered
active lane, and written to every active lane (R60, R105). `f` reads the first lane and writes the second. -/
def laneWise (h : Here) (g : Guard) (u : Bool) (f : Lane → Lane → Lane) : Cord :=
  let act := h.active g
  h.cord.onLanes act (fun k l => f (if u then h.cord.lane (act.headD k) else h.cord.lane k) l)

/-- A lane-set instruction that changes only its active lanes. -/
def laneOp (i : Instr) (g : Guard) (u : Bool) (f : Nat → Lane → Lane → Lane) (s : State) : Out :=
  issue i (fun h s => .did { s := s.setCord h.ref (laneWise h g u (f h.cord.vbud)) }) s

/-- A lane-set instruction that also sets flags (R58): `f` gives the lane and its flags. -/
def laneFlagOp (i : Instr) (g : Guard) (u : Bool) (f : Nat → Lane → Lane → Lane × Flags) (s : State) : Out :=
  issue i (fun h s =>
    let act := h.active g
    let src (k : Nat) : Lane := h.cord.lane (if u then act.headD k else k)
    let c := laneWise h g u (fun a l => (f h.cord.vbud a l).1)
    let fl := act.foldl (fun x k => x ||| (f h.cord.vbud (src k) (h.cord.lane k)).2) 0
    .did { s := s.setCord h.ref { c with fpf := c.fpf ||| fl } }) s

/-- A uniform-set instruction that changes only its cord. -/
def cordOp (i : Instr) (f : Here → Cord) (s : State) : Out :=
  issue i (fun h s => .did { s := s.setCord h.ref (f h) }) s

/-- The long-latency lookahead of a cord: 0 with sr.mode [2] set (R248). -/
def look (c : Cord) (la : BitVec 4) : Nat := if c.lkdis then 0 else la.toNat

/-! ### Barriers (R163, R164) -/

/-- Every cord of a block. -/
def Block.cordList (b : Block) : List (Nat × Cord) := b.cords.entries

/-- A cord whose lanes are all in EXIT (R27); one that has not started has no lanes yet (log entry 53, DEDUCED). -/
def Cord.exited (c : Cord) : Bool := !c.lanes.vals.isEmpty && c.lanes.vals.all (fun l => l.st == .exit)

/-- Barrier `n`. -/
def Block.barrier (b : Block) (n : Nat) : Barrier := b.barriers.get n { number := 0, phases := [] }

/-- A phase is complete (R163). -/
def phaseDone (b : Block) (p : Phase) : Bool :=
  if p.count = 0 then
    b.cordList.all (fun x => p.arrivals.contains x.1 || x.2.exited) && !p.arrivals.isEmpty
  else decide (p.count ≤ p.arrivals.length)

/-- The cord that takes the last-arriver flag (R67, R163). -/
def lastArriver (det : Bool) (p : Phase) : Option Nat :=
  if det then p.arrivals.foldl (fun m x => some (match m with
    | none => x
    | some y => max x y)) none
  else p.arrivals.getLast?

/-- Completes phases of barrier `n` while the current one is complete (R163, R164): the flags of a waiting `bar` and of a `barar` are
kept until the `bar` goes on and the `barwt` issues. -/
def completePhases : Nat → Block → Nat → Block
  | 0, b, _ => b
  | fuel + 1, b, n =>
    let r := b.barrier n
    match r.phases with
    | [] => b
    | p :: rest =>
      if !phaseDone b p then b
      else
        let last := lastArriver b.det p
        let upd (i : Nat) (c : Cord) : Cord :=
          let flag := last == some i
          { c with
            barWait := c.barWait.map (fun _ w => if w.bar == n && w.phase == r.number then { w with flag := some flag } else w)
            bflags := if c.barars.get? n == some r.number then c.bflags.set n flag else c.bflags }
        let b := { b with
          cords := b.cords.map upd
          barriers := b.barriers.set n { number := r.number + 1, phases := rest }
          epoch := if p.count = 0 then b.epoch + 1 else b.epoch }
        -- an epoch that wraps to 0 clears the line records (R312)
        let b := if p.count = 0 && b.epoch == 0 then { b with lines := .empty } else b
        completePhases fuel b n

/-- Completes whatever phases an exit or arrival completes, on every barrier of the block. -/
def settleBarriers (b : Block) : Block :=
  (List.range 16).foldl (fun b n => completePhases 5 b n) b

/-- The block in a slot with the phases settled; an epoch that wraps to 0 clears the tile records too (R312). -/
def settleAt (s : State) (core slot : Nat) : State :=
  match s.block? core slot with
  | none => s
  | some b =>
    let b' := settleBarriers b
    let s := s.setBlock core slot b'
    if b'.epoch.toNat < b.epoch.toNat then
      let c := s.core core
      s.setCore core { c with tiles := c.tiles.map (fun p t => if b.tiles.contains p then { t with writer := none } else t) }
    else s

/-! ### Leaving lanes -/

/-- Drops one hold of an overlay for each marked slot of these frames (R301). -/
def dropHolds (c : Core) (ctx : Nat) (fs : List Frame) : Core :=
  if fs.all (fun f => f.hold.isNone) then c else
  let drop (r : Residency) : Residency :=
    { r with holds := r.holds - (fs.filter (fun f => match f.hold with
        | none => false
        | some o => r.sharers.any (fun x => x.1 == ctx && x.2.2 == o))).length }
  let res := c.res.map drop
  let dead := res.filter (fun r => r.resident && r.evict && r.tokens == 0 && r.holds == 0)
  { c with res := res.filter (fun r => !dead.contains r),
           map := c.map.filter (fun e => !dead.any (fun r => r.pages.contains e.spage)) }

/-- The lane runs a handler: its handler frame is the newest frame without a return address above depth 0 (R318). -/
def Lane.handles (l : Lane) : Bool := decide (1 < (l.frames.dropWhile (fun f => f.ret.isSome)).length)

/-- Frames that a lane makes use of: in a handler, those above the handler's frame. -/
def Lane.ownFrames (l : Lane) : List Frame := if l.handles then l.frames.takeWhile (fun f => f.ret.isSome) else l.frames

/-- The frames with the marks of the newest `n` cleared. -/
def unmark (n : Nat) (fs : List Frame) : List Frame := (fs.take n).map (fun f => { f with hold := none }) ++ fs.drop n

/-- The set masks of task lanes that exit go into the event slices of their items, each once: a release at cluster scope (R297). -/
def taskExit (s : State) (ref : CordRef) (ks : List Nat) : State :=
  match (s.block? ref.core ref.slot).bind (·.task), s.block? ref.core ref.slot with
  | some t, some b =>
    let out := ks.filterMap (fun k => t.sets.get? k)
    let s := s.setBlock ref.core ref.slot { b with task := some { t with sets := ks.foldl (fun x k => x.erase k) t.sets } }
    let s := s.send (.cord ref.core b.id ref.cord) .clu (out.flatMap (fun e =>
      (bitsFrom e.2.toNat 0 16).map (Carrier.event (clusterOf ref.core) e.1)))
    out.foldl (fun s e =>
      let c := s.cluster (clusterOf ref.core)
      if e.2 = 0 then s
      else s.setCluster (clusterOf ref.core) { c with events := c.events.set e.1 (c.events.get e.1 0 ||| e.2) }) s
  | _, _ => s

/-- Lanes of a cord enter EXIT: their marked slots drop their holds (R145, R301). A lane that leaves a handler's code keeps
the frames of the interrupted code, which `hret` restores (R320). -/
def exitLanes (s : State) (ref : CordRef) (ks : List Nat) : State :=
  match s.block? ref.core ref.slot, s.cord? ref with
  | some b, some c =>
    let fs := ks.flatMap (fun k => (c.lane k).ownFrames)
    let s := s.setCore ref.core (dropHolds (s.core ref.core) b.ctx fs)
    let s := taskExit s ref ks
    s.setCord ref (c.onLanes ks (fun _ l =>
      { l with st := .exit, data := false, frames := unmark l.ownFrames.length l.frames }))
  | _, _ => s

/-! ### Handlers -/

/-- Saves a lane's PC, state and predicates at handler entry (R318). -/
def saveLane (vector : Word) (l : Lane) : Lane :=
  { l with savedPc := l.pc, savedSt := l.st, savedData := l.data, savedP := l.p, pc := vector, st := .run, data := false }

/-- A q predicate owed to the code that the handler interrupts goes to the saved ones, and back where the handler is discarded. -/
def Owed.save : Owed → Owed
  | .q i x => .savedQ i x
  | o => o
def Owed.back : Owed → Owed
  | .savedQ i x => .q i x
  | o => o

/-- The cord inside a handler, its lanes' windows slid already (R318). What is in flight is the interrupted code's. A lane to which late data
is owed waits for them before it runs the handler (R26). -/
def Cord.enter (c : Cord) (ks : List Nat) (rung : Nat) (vector : Word) : Cord :=
  let late (k : Nat) (l : Lane) : Lane := if c.owes k then { l with st := .wait, data := true } else l
  { c.onLanes ks (fun k l => late k (saveLane vector l)) with
    gathers := c.gathers.map (fun a => { a with outer := true })
    inflight := c.inflight.map (fun f => { f with owed := f.owed.map Owed.save })
    handler := some { rung := rung, savedQ := c.q, cause := c.cause }, escalated := none, next := none, waits := none, fetched := none }

/-- Enters a handler (R318): the lanes not in EXIT save their PCs, states and predicates, slide their windows and run from
the rung's vector. A spill that fails answers its fault (R321). -/
def enterHandler (s : State) (ref : CordRef) (rung : Nat) (vector : Word) : Except SpillFault State :=
  match s.cord? ref with
  | none => .ok s
  | some c =>
    let ks := c.lanesWith (fun l => l.st != .exit)
    match foldE (fun s k => slide s ref k none none) s ks with
    | .error e => .error e
    | .ok s =>
      match s.cord? ref with
      | none => .ok s
      | some c =>
        .ok (s.setCord ref (c.enter ks rung vector))

/-- Runs a fallible step over a list as far as it succeeds. -/
def foldUntil {α ε σ : Type} (f : σ → α → Except ε σ) : σ → List α → σ
  | s, [] => s
  | s, x :: r => match f s x with
    | .error _ => s
    | .ok t => foldUntil f t r

/-- What an entry that fails leaves of its slides: the windows as before, and the frames that it has spilled in local memory (R321). -/
def failedEntry (ref : CordRef) : State → List Nat → State
  | s, [] => s
  | s, k :: r =>
    match s.cord? ref with
    | none => s
    | some c =>
      match slide s ref k none none with
      | .ok t =>
        let t := failedEntry ref t r
        match t.cord? ref with
        | none => t
        | some x => t.setCord ref (x.setLane k { x.lane k with frames := (x.lane k).frames.tail })
      | .error _ =>
        match foldE (spillV ref k) s (vSpills c (c.lane k)) with
        | .error _ => foldUntil (spillV ref k) s (vSpills c (c.lane k))
        | .ok t => foldUntil (spillU ref k) t (uSpills c (c.lane k))

/-- The lane with the handler's frame on top: frames of calls that the handler has not returned from are abandoned (R320). -/
def Lane.toHandler (l : Lane) : Lane := { l with frames := l.frames.dropWhile (fun f => f.ret.isSome) }

/-- Spilled uniform frames that no lane's chain holds any longer are forgotten. -/
def pruneSpills (c : Cord) : Cord :=
  { c with uspill := c.uspill.filter (fun e => c.lanes.vals.any (fun l => match l.frameAt e.1 with
      | none => false
      | some f => f.sb == e.2.1 && f.sf != 0)) }

/-- Abandons what the handler of a cord called and has not returned from; its marked slots drop their holds. -/
def abandonCalls (s : State) (ref : CordRef) (ks : List Nat) : State :=
  match s.block? ref.core ref.slot, s.cord? ref with
  | some b, some c =>
    let s := s.setCore ref.core (dropHolds (s.core ref.core) b.ctx (ks.flatMap (fun k => (c.lane k).ownFrames)))
    s.setCord ref (c.onLanes ks (fun _ l => l.toHandler))
  | _, _ => s

/-- What is in flight when a handler is discarded: the handler's own gathers reach memory and no lane, and a q predicate owed to the handler is
dropped, as `hret` would drop what the handler has in q (R321). -/
def Cord.outlive (c : Cord) : Cord :=
  let own : Owed → Bool
    | .q _ _ => true
    | _ => false
  { c with
    gathers := c.gathers.map (fun a => if a.outer then a else { a with lanes := [], dst := [] })
    inflight := c.inflight.map (fun f => { f with owed := (f.owed.filter (fun o => !own o)).map Owed.back }) }

/-- Discards a handler (R321): states and PCs as saved, windows as `hret` would set them, no register read back. -/
def discardHandler (s : State) (ref : CordRef) : State :=
  match s.cord? ref with
  | none => s
  | some c =>
    match c.handler with
    | none => s
    | some hd =>
      let ks := c.lanesWith (·.handles)
      let s := abandonCalls s ref ks
      match s.cord? ref with
      | none => s
      | some c =>
        let c := c.outlive
        let back (k : Nat) (l : Lane) : Lane :=
          let late := l.savedSt == .run && c.owes k
          { l with pc := l.savedPc, st := if late then .wait else l.savedSt, data := l.savedData || late, p := l.savedP
                   frames := l.frames.tail, served := false }
        let gone := ks.filter (fun k => (c.lane k).savedSt == .exit)
        let s := s.setCord ref (pruneSpills { c.onLanes ks back with q := hd.savedQ, handler := none, next := none, waits := none, fetched := none })
        exitLanes s ref gone

/-- Offers a fault to a rung (R322, R323): the cord handler, the block handler, or the context rung. `fuel` counts the rungs. -/
def offer : Nat → State → CordRef → Nat → State
  | 0, s, _, _ => s
  | fuel + 1, s, ref, rung =>
    match s.block? ref.core ref.slot, s.cord? ref with
    | some b, some c =>
      let vector : Word := if rung = 0 then c.hvec else if rung = 1 then b.bhand else 0
      if 2 ≤ rung then s.setCord ref { c with escalated := some rung }
      else if vector = 0 then offer fuel s ref (rung + 1)
      else match enterHandler s ref rung vector with
        | .ok s => s
        | .error e =>
          -- a spill failure at handler entry escalates one rung with its own cause (R321)
          let s := touchFault (failedEntry ref s (c.lanesWith (fun l => l.st != .exit))) ref.core e
          let (x, s) := match e.tval with
            | some x => (x, s)
            | none => let (x, s) := s.free; (x.setWidth 32, s)
          let s := if e.cause = cDataErr then logData s ref.core b.ctx b.index x.toNat 0 else s
          match s.cord? ref with
          | none => s
          | some c => offer fuel (s.setCord ref { c with cause := e.cause, tval := x }) ref (rung + 1)
    | _, _ => s

/-- A cord waits for its handler (R27, R318): a lane parked and not served, none in RUN, none waiting for data. -/
def wantsHandler (c : Cord) : Bool :=
  c.unserved && c.escalated.isNone && (c.inState .run).isEmpty && (c.lanesWith (fun l => l.st == .wait && l.data)).isEmpty

/-- A handler entry waits for what is in flight where the entry would spill, since a spilled register can take no result, and in a
deterministic launch for the cord's gather accesses, since what one that faults late does would depend on time (R333; log entry 8,
DEDUCED). -/
def entryWaits (b : Block) (c : Cord) : Bool :=
  (b.det && !c.gathers.isEmpty)
    || ((!c.gathers.isEmpty || !c.inflight.isEmpty) && slideSpills c (c.lanesWith (fun l => l.st != .exit)))

/-- Takes the fault of a cord to the rung that serves it (R318, R321, R323): a handler that faulted escalates. -/
def takeFault (s : State) (ref : CordRef) : State :=
  match s.cord? ref with
  | none => s
  | some c =>
    match c.handler with
    | none => offer 4 s ref 0
    | some hd => offer 4 (discardHandler s ref) ref (hd.rung + 1)

/-- The words at a code address of a cord decode as `rjoin` (R146, R239). -/
def atRjoin (s : State) (core ctx : Nat) (pc : Word) : Bool :=
  match codeWord s core ctx pc.toNat, codeWord s core ctx ((pc.toNat + 4) % 2 ^ 32) with
  | some w, some x => (match decode w x with
    | .ok .rjoin => true
    | _ => false)
  | _, _ => false

/-- Restores a lane at `hret` (R239, R240, R320): `on` is its bit of the operand. -/
def restoreLane (rj on : Bool) (l : Lane) : Lane :=
  let l := { l with pc := l.savedPc, p := l.savedP, data := false }
  match l.savedSt with
  | .exit => { l with st := .exit }
  | .run => { l with st := .run }
  | .wait => { l with st := if rj then .wait else .run }
  | .park => if on then { l with st := .run } else { l with st := .park, served := true }

/-- Returns from a handler (R320): windows back with their fills, predicates, PCs and states, then the rejoin release. A fill
that fails answers its fault (R321). -/
def leaveHandler (s : State) (ref : CordRef) (mask : Word) : Except SpillFault State :=
  match s.block? ref.core ref.slot, s.cord? ref with
  | some b, some c =>
    match c.handler with
    | none => .ok s
    | some hd =>
      let all := c.lanesWith (·.handles)
      let gone := all.filter (fun k => (c.lane k).savedSt == .exit)
      let ks := all.filter (fun k => (c.lane k).savedSt != .exit)
      let s := abandonCalls s ref all
      match foldE (fun s k => unslide s ref k true) s ks with
      | .error e => .error e
      | .ok s =>
        match foldE (fun s k => unslide s ref k false) s gone with
        | .error e => .error e
        | .ok s =>
          let s := exitLanes s ref gone
          match s.cord? ref with
          | none => .ok s
          | some c =>
            let c := c.onLanes ks (fun k l => restoreLane (atRjoin s ref.core b.ctx l.savedPc) (mask.getLsbD k) l)
            let c := pruneSpills { c with
              q := hd.savedQ, handler := none, next := none, escalated := none, waits := none, fetched := none }
            .ok (s.setCord ref (rejoin c))
  | _, _ => .ok s

end Sys2Proof.Machine
end

