-- ==== Sys2Proof/Machine/Tables.lean ====
section
/-!
DEFINITION. The tables of 14_tables.md as the machine reads them: queue descriptors and bind records (R303, R304), overlay
tables and residency records (R299 to R302), and the op table with its tokens and fault records (09_engines.md R207 to R212).
-/

namespace Sys2Proof.Machine

/-! ### Queues and bind records -/

/-- The die a queue is homed on (R282). -/
def queueDie (q : Nat) : Nat := q / Config.queuesPerDie
/-- A queue, by its number on the device. -/
def queueOf (s : State) (q : Nat) : Queue := (s.die (queueDie q)).queues.get q Queue.fresh
def setQueue (s : State) (q : Nat) (x : Queue) : State :=
  let d := s.die (queueDie q)
  s.setDie (queueDie q) { d with queues := d.queues.set q x }

/-- Fields of a queue descriptor (R303). -/
def qRing (x : Queue) : Nat := field x.desc.toNat 64 64
def qCtx (x : Queue) : Nat := field x.desc.toNat 52 12
def qSize (x : Queue) : Nat := 2 ^ field x.desc.toNat 47 5
def qPrio (x : Queue) : Nat := field x.desc.toNat 44 3
def qPart (x : Queue) : Nat := field x.desc.toNat 41 3
def qGroup (x : Queue) : Nat := field x.desc.toNat 35 6
def qDevice (x : Queue) : Bool := bit x.desc.toNat 34
def qEnabled (x : Queue) : Bool := bit x.desc.toNat 33
/-- Packets waiting (R312). -/
def qFill (x : Queue) : Nat := (x.tail - x.head).toNat
/-- Address of the packet that a counter names (R283). -/
def qSlot (x : Queue) (n : Word) : Nat := qRing x + 64 * (n.toNat % qSize x)
/-- A read of a queue's entry counts the errors that the code corrects, each word of it once (R265, R311, R313). -/
def noteQueue (s : State) (q : Nat) : State := countDie s (queueDie q) 1 (queueOf s q).soft.length
/-- The sequencing harts are told something (R15, R288). -/
def notify (s : State) (d : Nat) (x : Notice) : State := s.setDie d { s.die d with notices := x :: (s.die d).notices }
/-- A queue error counted; the counter saturates (R311). -/
def qError (x : Queue) : Queue := { x with errors := if x.errors = 0xFFFF then x.errors else x.errors + 1 }

/-- Fields of a bind record (R304). -/
def bCores (w : BitVec 256) : Nat := field w.toNat 192 64
def bGrant (w : BitVec 256) : Nat := field w.toNat 176 16
def bHbase (w : BitVec 256) : Nat := field w.toNat 166 10
def bHlast (w : BitVec 256) : Nat := field w.toNat 156 10
def bLast (w : BitVec 256) : Nat := field w.toNat 150 6
def bCcap (w : BitVec 256) : Nat := field w.toNat 138 12
def bBcap (w : BitVec 256) : Nat := field w.toNat 126 12
def bDthr (w : BitVec 256) : Nat := field w.toNat 110 16
def bRthr (w : BitVec 256) : Nat := field w.toNat 94 16
def bPre (w : BitVec 256) : Bool := bit w.toNat 93
def bGroup (w : BitVec 256) : Nat := field w.toNat 80 6
def bPlo (w : BitVec 256) : Nat := field w.toNat 77 3
def bPhi (w : BitVec 256) : Nat := field w.toNat 74 3
def bCtx (w : BitVec 256) : Nat := field w.toNat 62 12
def bValid (w : BitVec 256) : Bool := bit w.toNat 0
/-- The record with another last core used (R292). -/
def bSetLast (w : BitVec 256) (n : Nat) : BitVec 256 :=
  (w &&& ~~~((0x3F : BitVec 256) <<< 150)) ||| (BitVec.ofNat 256 (n % 64) <<< 150)

/-- The bind record of a queue: the lowest-numbered valid record for its context, group and priority (R304). -/
def bindOf (s : State) (q : Nat) : Option (Nat × BitVec 256) :=
  let x := queueOf s q
  (s.die (queueDie q)).binds.entries.find? (fun e => bValid e.2 && bCtx e.2 == qCtx x && bGroup e.2 == qGroup x
    && decide (bPlo e.2 ≤ qPrio x) && decide (qPrio x ≤ bPhi e.2))

/-- The bind record of a block's launch. -/
def bindOfBlock (s : State) (b : Block) : Option (Nat × BitVec 256) :=
  (s.launches.get? b.launch).bind (fun l => bindOf s l.queue)

/-- An event slice is granted to a block's launch (R167, R304). -/
def sliceGranted (s : State) (b : Block) (slice : Nat) : Bool :=
  match bindOfBlock s b with
  | none => false
  | some e => bit (bGrant e.2) slice

/-- The device queue bound under an index (R168). -/
def boundQueue (b : Block) (i : Word) : Option Nat := if i.toNat < 4 then (b.dq.getD i.toNat none) else none

/-! ### Overlay tables -/

/-- An entry of a kernel's overlay table (R299). -/
structure OvlEntry where
  index : Nat
  digest : BitVec 256
  image : Nat
  caddr : Nat
  shared : Bool
  demand : Bool
  pages : Nat
  /-- It keeps the limits of the table. -/
  good : Bool
  deriving DecidableEq, Repr

/-- Reads entry `i` of an overlay table (R299); none where the table cannot be read (log entry 11, DEDUCED). -/
def ovlEntry (s : State) (core ctx ovtab i : Nat) : Option OvlEntry :=
  let a := ovtab + 64 * i
  match rangeFault s core false ctx a 64 false true with
  | some _ => none
  | none =>
    let w := leNat (globalRead s core false ctx a 64)
    some { index := i, digest := BitVec.ofNat 256 (field w 256 256), image := field w 192 64, caddr := field w 160 32
           shared := bit w 134, demand := bit w 133, pages := field w 128 5
           good := field w 0 128 == 0 && field w 135 25 == 0 && field w 160 12 == 0 && field w 192 12 == 0
             && decide (field w 128 5 ≤ 16) }

/-- The overlay table up to its end (R299). -/
def ovlTable (s : State) (core ctx ovtab : Nat) : Nat → Nat → List OvlEntry
  | 0, _ => []
  | fuel + 1, i => match ovlEntry s core ctx ovtab i with
    | none => []
    | some e => if e.pages = 0 then [] else e :: ovlTable s core ctx ovtab fuel (i + 1)

/-- The entry of a table whose damage ends the table for its reader: its address (R256, R265). -/
def ovlDamage (s : State) (core ctx ovtab : Nat) : Option Nat :=
  let i := (ovlTable s core ctx ovtab 256 0).length
  if 256 ≤ i then none
  else match rangeFault s core false ctx (ovtab + 64 * i) 64 false true with
    | some (e, _) => if e = cDataErr then some (ovtab + 64 * i) else none
    | none => none

/-- What the read of a table leaves behind: TLBs fill, and the errors that the code corrects count (R265, R309). -/
def noteOvls (s : State) (core ctx ovtab : Nat) : State :=
  (List.range (min 256 ((ovlTable s core ctx ovtab 256 0).length + 1))).foldl (fun s i =>
    noteGlobal (touch s core false ctx (ovtab + 64 * i)) core false ctx (ovtab + 64 * i) 64) s

/-- The overlay table of a block. -/
def ovlsOf (s : State) (core : Nat) (b : Block) : List OvlEntry := ovlTable s core b.ctx b.ovtab 256 0

/-- Code bytes of an overlay. -/
def OvlEntry.bytes (e : OvlEntry) : Nat := e.pages * Config.pageBytes

/-- The code address of a record in a context (R302). -/
def Residency.at? (r : Residency) (ctx : Nat) : Option Nat := (r.sharers.find? (fun x => x.1 == ctx)).map (·.2.2)

/-- The record is the overlay at this code address of the context. -/
def Residency.is (r : Residency) (ctx caddr : Nat) : Bool := r.sharers.any (fun x => x.1 == ctx && x.2.2 == caddr)

/-- A record is idle (R301). -/
def Residency.idle (r : Residency) : Bool := r.tokens == 0 && r.holds == 0

/-- The record that holds an overlay table's entry in a context (R301). -/
def resOf (c : Core) (ctx : Nat) (e : OvlEntry) : Option Residency :=
  c.res.find? (fun r => r.is ctx e.caddr && r.digest == e.digest && r.npages == e.pages)

/-- The entry counts as absent for good: it breaks a limit, or its code range meets another overlay of the context that is
loading or held (R299). -/
def ovlUnfit (c : Core) (ctx : Nat) (e : OvlEntry) : Bool :=
  !e.good || ((resOf c ctx e).isNone && c.res.any (fun r => (!r.resident || !r.idle) && (match r.at? ctx with
    | none => false
    | some a => overlap a (a + r.npages * Config.pageBytes) e.caddr (e.caddr + e.bytes))))

/-- Applies `f` to the record of an overlay. -/
def mapRes (c : Core) (ctx caddr : Nat) (f : Residency → Residency) : Core :=
  { c with res := c.res.map (fun r => if r.is ctx caddr then f r else r) }

/-- Frees records: their code map entries go before their pages (R302). -/
def freeRes (c : Core) (dead : Residency → Bool) : Core :=
  let gone := c.res.filter dead
  { c with res := c.res.filter (fun r => !dead r)
           map := c.map.filter (fun e => !gone.any (fun r => r.pages.contains e.spage)) }

/-- Frees idle records with the evict mark (R301). -/
def freeEvicted (c : Core) : Core := freeRes c (fun r => r.resident && r.evict && r.idle)

/-- Drops residency tokens of a context, one for each code address listed (R301). A load that nothing holds any longer stops
(R233). -/
def dropTokens (c : Core) (ctx : Nat) (l : List Nat) : Core :=
  let c := l.foldl (fun c a => mapRes c ctx a (fun r => { r with tokens := r.tokens - 1 })) c
  freeEvicted c

/-- Frees idle records whose code range meets an entry of their context, before the entry is loaded (R299). -/
def clearRange (c : Core) (ctx : Nat) (e : OvlEntry) : Core :=
  freeRes c (fun r => r.resident && r.idle && (match r.at? ctx with
    | none => false
    | some a => overlap a (a + r.npages * Config.pageBytes) e.caddr (e.caddr + e.bytes)))

/-- Code-store pages that no record has. -/
def freePages (c : Core) : List Nat :=
  (List.range Config.codePages).filter (fun p => !c.res.any (fun r => r.pages.contains p))

/-- Reclaims idle records that may go until there is enough room: those marked for eviction first, then the least recently loaded (R302). -/
def reclaimUntil (may : Residency → Bool) (enough : Core → Bool) : Nat → Core → Core
  | 0, c => c
  | fuel + 1, c =>
    if enough c then c
    else
      let idle := c.res.filter (fun r => r.resident && r.idle && may r)
      let pool := if idle.any (·.evict) then idle.filter (·.evict) else idle
      match leastOf (pool.map (·.order)) with
      | none => c
      | some o => reclaimUntil may enough fuel (freeRes c (fun r => r.resident && r.idle && may r && r.order == o))

/-- Reclaims idle records until `n` pages are free (R302). -/
def reclaim (n : Nat) (fuel : Nat) (c : Core) : Core := reclaimUntil (fun _ => true) (fun c => decide (n ≤ (freePages c).length)) fuel c

/-- The code map has room for `n` more entries (R300). -/
def mapRoom (n : Nat) (c : Core) : Bool := decide (c.map.length + n ≤ Config.codeMapEntries)

/-- Writes code map entries of a context for a record (R300, R302). -/
def mapPages (c : Core) (ctx ovl caddr : Nat) (pages : List Nat) : Core :=
  { c with map := c.map ++ pages.zipIdx.map (fun x =>
      { ctx := ctx, cpage := caddr / Config.pageBytes + x.2, ovl := ovl, spage := x.1 }) }

/-- A resident shared record of another context with the same digest and page count (R302). -/
def shareable (c : Core) (ctx : Nat) (shared : Bool) (digest : BitVec 256) (pages : Nat) : Option Residency :=
  if !shared then none
  else c.res.find? (fun r => r.resident && r.shared && r.digest == digest && r.npages == pages && (r.at? ctx).isNone)

/-- The core with room in the code map for `n` more entries, idle records other than the one of order `keep` going where they must; none
where there cannot be room (R300, R302; log entry 92, DESIGN CHOICE: the load then waits). -/
def withRoom (c : Core) (keep n : Nat) : Option Core :=
  let c := reclaimUntil (fun r => r.order != keep) (mapRoom n) c.res.length c
  if mapRoom n c then some c else none

/-- Joins a shared record whose pages are resident (R302). -/
def joinRecord (c : Core) (ctx index caddr : Nat) (r : Residency) (tokens holds : Nat) : Core :=
  mapPages { c with res := c.res.map (fun x => if x.order == r.order then
    { x with sharers := (ctx, index, caddr) :: x.sharers, tokens := x.tokens + tokens, holds := x.holds + holds } else x) } ctx index caddr r.pages

/-- Begins to load an entry, or joins a shared record (R301, R302); while the code map has no room for its entries, the load has a record
of its own, without pages. -/
def beginLoad (s : State) (core ctx : Nat) (e : OvlEntry) : State :=
  let c := clearRange (s.core core) ctx e
  match (shareable c ctx e.shared e.digest e.pages).bind (fun r => (withRoom c r.order e.pages).map (fun c => (c, r))) with
  | some (c, r) => s.setCore core (joinRecord c ctx e.index e.caddr r 0 0)
  | none =>
    let r : Residency := { ctx := ctx, pages := [], npages := e.pages, digest := e.digest, image := e.image, done := 0, resident := false
                           tokens := 0, holds := 0, evict := false, shared := e.shared, sharers := [(ctx, e.index, e.caddr)]
                           order := s.serial, susp := none }
    { s with serial := s.serial + 1 }.setCore core { c with res := c.res ++ [r] }

/-! ### The op table -/

/-- State codes of R209. -/
def OpState.code : OpState → Nat
  | .queued => 0 | .running => 1 | .suspended => 2 | .done => 3 | .failed => 4 | .cancelled => 5

/-- Engine and kind codes of R212. -/
def OpKind.engine : OpKind → Nat
  | .cpy _ | .cpygat => 0 | .mred _ | .coll _ => 1 | .wnw | .replay => 2 | .ovlld => 3
def OpKind.code : OpKind → Nat
  | .cpy _ => 0 | .cpygat => 1 | .mred _ => 2 | .coll _ => 3 | .wnw => 4 | .replay => 5 | .ovlld => 6
def OpKind.fn : OpKind → Nat
  | .cpy f => f
  | .mred t => if t == .f32 then 0 else 1
  | .coll t => if t == .f32 then 0 else 1
  | _ => 0

/-- The cursor as the record shows it: 0 for the operations that have no units there, and for an overlay load that is not suspended
(R212, R308). -/
def OpEntry.shownCursor (o : OpEntry) : Nat :=
  match o.kind with
  | .mred _ | .coll _ => 0
  | .ovlld => if o.state == .suspended then o.cursor else 0
  | _ => o.cursor

/-- The fault record (R212). -/
def OpEntry.record (o : OpEntry) : List Byte :=
  let w0 := o.cause.toNat * 2 ^ 24 + o.state.code * 2 ^ 20 + o.kind.engine * 2 ^ 16 + o.kind.code * 2 ^ 12 + o.prio * 2 ^ 10
    + (if o.det.isSome then 2 ^ 9 else 0) + (if o.rep then 2 ^ 8 else 0) + o.kind.fn
  natLe 4 w0 ++ natLe 4 o.token.toNat ++ natLe 8 o.shownCursor ++ natLe 8 o.addr ++ natLe 4 o.batch.toNat ++ natLe 4 o.after.toNat

/-- The operation belongs to the block in a slot: attached or adopted there (R208, R235, R236). -/
def OpEntry.ofBlock (o : OpEntry) (slot : Nat) : Bool := o.slot == slot && (o.det.isNone || o.adopted)

/-- Entries that count against a block's reservation (R207, R235). -/
def opCount (c : Core) (slot : Nat) : Nat := (c.ops.vals.filter (fun o => o.ofBlock slot)).length

/-- The entry that a token validly names for a cord of a block (R208). -/
def validToken (c : Core) (slot : Nat) (t : Word) : Option OpEntry :=
  match c.ops.get? (t.toNat % 512) with
  | none => none
  | some o => if o.token == t && o.ofBlock slot then some o else none

/-- The entry a token's number names. -/
def entryOf (t : Word) : Nat := t.toNat % 512

/-- The lowest-numbered free entry (R207). -/
def freeEntry (c : Core) : Option Nat := (List.range Config.opEntries).find? (fun i => (c.ops.get? i).isNone)

/-- The generation after `g` (R207, R311). -/
def nextGen (g : Nat) : Nat := if g = 2 ^ 23 - 1 then 1 else g + 1

/-- The entries of the scoreboard that are free; one that is taken is written, which leaves no error in it (R257, R265). -/
def mendBoard (c : Core) : Core :=
  mend c .scoreboard (8 * scoreCount c) (8 * (Config.scoreboardEntries - scoreCount c))

/-- Allocates an entry: its number, and the token it forms (R207). It is written whole, as are the scoreboard's entries that its ranges
take, which leaves no error in them (R265). -/
def allocEntry (c : Core) (e : Nat) : Core × Word :=
  let g := nextGen (c.gens.get e 1)
  let c := mendBoard (mend c .opTable (64 * e) 64)
  ({ c with gens := c.gens.set e g }, BitVec.ofNat 32 (g * 512 + e))

/-- The entry of an operation of a core goes: what a cord has kept of it learns whether it finished DONE (R211, R213; log entry 29,
DEDUCED). -/
def Kept.tell (core : Nat) (o : OpEntry) (k : Kept) : Kept :=
  if k.core == core && k.token == o.token && k.done.isNone then { k with done := some (o.state == .done) } else k

/-- The block's cords learn it. -/
def Block.tell (core : Nat) (o : OpEntry) (b : Block) : Block :=
  if b.cords.vals.all (fun x => x.kept.isNone) then b
  else { b with cords := b.cords.map (fun _ x => { x with kept := x.kept.map (Kept.tell core o) }) }

/-- Frees an entry (R211): every cord that waits for the operation learns how it finished, wherever its block is, resident or saved. -/
def freeOp (s : State) (core e : Nat) : State :=
  match (s.core core).ops.get? e with
  | none => s
  | some o =>
    let s := s.setCore core { s.core core with ops := (s.core core).ops.erase e }
    let waits (b : Block) : Bool := b.cords.vals.any (fun x => x.kept.isSome)
    if s.saved.all (fun v => !waits v.block) && s.cores.vals.all (fun c => c.blocks.vals.all (fun b => !waits b)) then s
    else { s with
      cores := s.cores.map (fun _ c => { c with blocks := c.blocks.map (fun _ b => b.tell core o) })
      saved := s.saved.map (fun v => { v with block := v.block.tell core o }) }

/-- Replaces an entry. -/
def setOp (s : State) (core e : Nat) (o : OpEntry) : State :=
  s.setCore core { s.core core with ops := (s.core core).ops.set e o }

/-- An entry before an instruction fills it (R212, R298). -/
def OpEntry.fresh : OpEntry :=
  { ctx := 0, slot := 0, cord := 0, launch := 0, blk := 0, owner := 0, base := 0, len := 0, kind := .cpy 0, prio := 0, state := .queued
    cause := 0, addr := 0, cursor := 0, after := 0, afterCore := 0, batch := 0, bseq := 0, token := 0, det := none, adopted := false, rep := false
    auto := false, ordf := false, acq := false, rel := false, scope := .lane, a := 0, b := 0, c := [], seq := 0
    started := false, ranges := [], cancel := false, pause := false, pair := none, sel := [], repl := [], cert := 0
    listed := false, tile := none, ovl := 0, caddr := 0, holds := false, absent := false, told := false, escalated := none }

/-! ### How an operation finishes -/

/-- Firmware writes an entry into the fault queue of a context, a ring in host memory (R324). Its stamp is a free value (log
entry 2). A ring that no DMA window lets it write gets none (R341). -/
def faultEntry (s : State) (ctx blk tval token core rung cause : Nat) : State :=
  let c := s.ctx ctx
  let a := c.faultBase + 32 * (c.faultHead % c.faultSize)
  if c.faultSize = 0 || !windowAllows s a 32 true then s
  else
    let (x, s) := s.free
    let l := faultBits blk tval token ctx core rung cause ++ natLe 8 x.toNat
    ({ s with host := s.host.write a l }.wrote (.die (dieOf core)) (.glob (.host a)) 32 (.rel .sys)).setCtx ctx
      { c with faultHead := c.faultHead + 1 }

/-- Where the rows of a started pass are written: up and down destinations (R225). -/
def rowRanges (o : OpEntry) : List SpRange :=
  let n := field (o.c.getD 0 0).toNat 0 16 * (o.c.getD 1 0).toNat
  let at_ (i : Nat) : SpRange :=
    { write := true, lo := o.base + (o.c.getD i 0).toNat, hi := o.base + (o.c.getD i 0).toNat + n }
  [at_ 6, at_ 7]

/-- The block keeps a FAILED operation whose token was discarded, until a cord or the context rung is told of it (R211, R232). -/
def keepFailed (s : State) (core : Nat) (o : OpEntry) : State :=
  match s.block? core o.slot with
  | none => s
  | some b => s.setBlock core o.slot { b with failed := b.failed ++ [o] }

/-- A cancelled overlay load: its residency token, if it has not been released, stops holding its overlay, and a load that nothing holds
any longer and that no other operation drives stops: its pages and record are freed (R229, R233). -/
def dropLoad (s : State) (core e : Nat) (o : OpEntry) : State :=
  let s := if !o.holds then s
    else
      let s := match s.block? core o.slot with
        | none => s
        | some b => s.setBlock core o.slot { b with resid := b.resid.erase o.caddr }
      s.setCore core (dropTokens (s.core core) o.ctx [o.caddr])
  let driven := (s.core core).ops.entries.any (fun x =>
    x.1 != e && x.2.kind == .ovlld && !x.2.state.finished && x.2.ctx == o.ctx && x.2.caddr == o.caddr)
  if driven then s else s.setCore core (freeRes (s.core core) (fun r => !r.resident && r.idle && r.is o.ctx o.caddr))

/-- The state after the translations of an engine access (R309, R316). -/
def engineTouch (s : State) (core ctx va n : Nat) : State :=
  touchRange s core false ctx va n

/-- One operation finishes: its ranges are released (R153), a discarded entry is freed (R211), a detached one writes its completion record
and leaves the orphan list, its failure reported at the context rung too (R235). A record whose address does not translate, or that it may
not write (R336), is lost; a walk that meets an uncorrectable error is logged (R340). Its end is a release to whoever waits for it, and to
the reader of its record, or of that of the launch it is attached to (R17, R215, R269). -/
def endOne (s : State) (core e : Nat) (o : OpEntry) (st : OpState) : State :=
  let s := if o.kind == .ovlld && st == .cancelled then dropLoad s core e o else s
  let own := ((s.block? core o.slot).map (·.id)).getD 0
  let s := s.send (o.agent core) .sys ([.op core o.token, .batch core own o.cord o.bseq] ++ if o.det.isNone then [.launch o.launch] else [])
  let o := { o with
    state := st, ranges := [], cancel := false, pause := false, holds := o.holds && st == .done }
  let s := match o.det with
    | none => s
    | some a =>
      let s := engineTouch s core o.ctx a 32
      let s := if (rangeFault s core false o.ctx a 32 true false).any (·.1 == cDataErr) then
        logData s core o.ctx o.blk (a % 2 ^ 32) o.token.toNat else s
      let s := globalWrite s core o.ctx a o.record (o.agent core) (.rel .sys)
      if st == .failed && !o.told then faultEntry s o.ctx o.blk (o.addr % 2 ^ 32) o.token.toNat core 2 o.cause.toNat else s
  if o.det.isNone && o.auto && st == .failed && !o.rep then
    freeOp (setOp (keepFailed s core o) core e o) core e
  else if (if o.det.isSome then o.adopted else !o.auto) then setOp s core e o
  else freeOp (setOp s core e o) core e

/-- The operations of a core, each with the number of its entry. -/
def opsOf (c : Core) : List (Nat × OpEntry) := c.ops.keys.filterMap (fun e => (c.ops.get? e).map (fun o => (e, o)))

/-- The QUEUED operations of the device whose after-token names an operation of a core: their cores, entries and contents. -/
def waitingOn (s : State) (core : Nat) (t : Word) : List (Nat × Nat × OpEntry) :=
  if t = 0 then []
  else s.cores.keys.flatMap (fun n =>
    ((opsOf (s.core n)).filter (fun x => x.2.state == .queued && x.2.after == t && x.2.afterCore == core)).map (fun x => (n, x)))

/-- QUEUED operations whose after-token names one of these, each a core and a token, finish CANCELLED (R210), and those that name them in
turn. -/
def cancelWaiting : Nat → List (Nat × Word) → State → State
  | 0, _, s => s
  | _, [], s => s
  | fuel + 1, t :: ts, s =>
    let hit := waitingOn s t.1 t.2
    let s := hit.foldl (fun s x => endOne s x.1 x.2.1 { x.2.2 with cursor := 0, addr := t.2.toNat } .cancelled) s
    cancelWaiting fuel (ts ++ hit.map (fun x => (x.1, x.2.2.token))) s

/-- The same for operations of one core. -/
def cancelAfter (core fuel : Nat) (ts : List Word) (s : State) : State := cancelWaiting fuel (ts.map (fun t => (core, t))) s

/-- What the end of a pass means for its replay operation (R225, R226, R233): a cancelled pass cancels it, and so does one that fails with its
lists not known yet; otherwise it goes on, on the row ranges (log entry 98, DESIGN CHOICE, for a pass that system software has ended
FAILED). -/
def endPair (s : State) (core : Nat) (o : OpEntry) (st : OpState) : State × List Word :=
  match o.kind, o.pair with
  | .wnw, some t =>
    match (s.core core).ops.get? (entryOf t) with
    | none => (s, [])
    | some r =>
      if r.token != t || r.state.finished then (s, [])
      else if st == .cancelled || (st == .failed && !o.listed) then
        if r.state == .running then (setOp s core (entryOf t) { r with cancel := true }, [])
        else (endOne s core (entryOf t) r .cancelled, [t])
      else (setOp s core (entryOf t) { r with ranges := rowRanges o }, [])
  | _, _ => (s, [])

/-- An operation finishes, with all that follows from it; an uncorrectable error that ends it is logged (R340). -/
def finishOp (s : State) (core e : Nat) (o : OpEntry) (st : OpState) : State :=
  let s := if st == .failed && o.cause == cDataErr && o.state != .suspended then logData s core o.ctx o.blk (o.addr % 2 ^ 32) o.token.toNat else s
  let s := endOne s core e o st
  let (s, ts) := endPair s core o st
  if st == .done then s else cancelAfter core (2 * Config.opEntries) (o.token :: ts) s

/-- XLATE, PERM or DATA_ERR in a unit, or in the entry, ends an operation FAILED. The fault is offered at the context rung first (R317): its
queue entry is written, unless system software has been told of it already; that of a detached one is written as it ends (R235). -/
def failUnit (s : State) (core e : Nat) (o : OpEntry) (cause : Byte) (a : Nat) : State :=
  let o := { o with cause := cause, addr := a }
  if o.det.isNone && !o.told && (cause == cXlate || cause == cPerm || cause == cDataErr) then
    finishOp (faultEntry s o.ctx o.blk (a % 2 ^ 32) o.token.toNat core 2 cause.toNat) core e { o with told := true } .failed
  else finishOp s core e o .failed

end Sys2Proof.Machine
end

