-- ==== Sys2Proof/Machine/Control.lean ====
section
/-!
DEFINITION. Branches, frames, calls, returns, `exit` and `rjoin` (07_control_memory.md R138 to R146). Every target is taken
before the target is fetched (R138).
-/

namespace Sys2Proof.Machine

/-- A branch target: the branch address plus 4 times a word offset, modulo 2^32 (R75). -/
def branchTo (h : Here) (off : Int) : Word := BitVec.ofInt 32 ((h.addr : Int) + 4 * off)

/-- A code address is misaligned (R85). -/
def misaligned (w : Word) : Bool := w.toNat % 4 != 0

/-! ### Branches (R139) -/

/-- Sends the active lanes to a target of each. -/
def branch (i : Instr) (g : Guard) (tgt : Here → Nat → Word) (s : State) : Out :=
  issue i (fun h s => .did { s := s, go := (h.active g).map (fun k => (k, tgt h k)) }) s

def execBra (o : OBr) (s : State) : Out := branch (.bra o) o.gd (fun h _ => branchTo h o.off.toInt) s
def execBraLong (o : OBrL) (s : State) : Out := branch (.braLong o) o.gd (fun h _ => branchTo h o.off.toInt) s

/-- R139: only the lanes whose targets are misaligned park. -/
def execBrx (o : OBrx) (s : State) : Out :=
  issue (.brx o) (fun h s =>
    let act := h.active o.gd
    let bad := act.filter (fun k => misaligned (h.v k o.a))
    .did { s := s, park := bad.map (fun k => (k, cAlign, h.v k o.a))
           go := (act.filter (fun k => !misaligned (h.v k o.a))).map (fun k => (k, h.v k o.a)) }) s

/-- Sends every lane of the executing set to a target; the guard has been found true (R23). -/
def branchAll (i : Instr) (tgt : Here → Word) (s : State) : Out :=
  issue i (fun h s => .did { s := s, go := h.set.map (fun k => (k, tgt h)) }) s

def execSbra (o : OBr) (s : State) : Out := branchAll (.sbra o) (fun h => branchTo h o.off.toInt) s
def execSbraLong (o : OBrL) (s : State) : Out := branchAll (.sbraLong o) (fun h => branchTo h o.off.toInt) s

/-- R139: a misaligned target parks every lane of the executing set. -/
def execSbrx (o : OBrx) (s : State) : Out :=
  issue (.sbrx o) (fun h s =>
    if misaligned (h.s o.a) then parkSet h s cAlign (h.s o.a)
    else .did { s := s, go := h.set.map (fun k => (k, h.s o.a)) }) s

/-! ### Frames and calls (R140 to R143) -/

/-- R141, R246: the declared sizes are checked against the cord's visible ranges. -/
def execFrame (o : OFrame) (s : State) : Out :=
  issue (.frame o) (fun h s =>
    if winSize h.cord.vbud < o.vf.toNat then parkSet h s cRegRange (o.vf.setWidth 32)
    else if winSize h.cord.ubud < o.sf.toNat then parkSet h s cRegRange (o.sf.setWidth 32)
    else
      let size (f : Frame) : Frame := { f with vf := o.vf.toNat, sf := o.sf.toNat }
      let top (l : Lane) : Lane := match l.frames with
        | [] => { l with frames := [size Frame.base] }
        | f :: r => { l with frames := size f :: r }
      .did { s := s.setCord h.ref (h.cord.onLanes h.set (fun _ l => top l)) }) s

/-- The value of sr.tval for a failed spill or fill, and the state after it, which has drawn it if it is free (log entry 2, DESIGN
CHOICE). -/
def spillTval (s : State) (h : Here) (e : SpillFault) : Word × State :=
  let s := touchFault s h.ref.core e
  match e.tval with
  | some x => (x, s)
  | none => let (x, s) := s.free; (x.setWidth 32, s)

/-- Applies a slide or a return to lanes in ascending order: the lanes that succeeded and those that park. A uniform fault
answers the fault (R142, R144). -/
def eachLane (h : Here) (f : State → Nat → Except SpillFault State) :
    State → List Nat → Except SpillFault (State × List Nat × List (Nat × Byte × Word))
  | s, [] => .ok (s, [], [])
  | s, k :: r =>
    match f s k with
    | .ok s =>
      match eachLane h f s r with
      | .error e => .error e
      | .ok (s, ok, bad) => .ok (s, k :: ok, bad)
    | .error e =>
      if e.uniform then .error e
      else
        let (x, s) := spillTval s h e
        match eachLane h f s r with
        | .error e => .error e
        | .ok (s, ok, bad) => .ok (s, ok, (k, e.cause, x) :: bad)

/-- Parks the executing set for a uniform spill or fill that failed (R142, R144). -/
def parkSpill (h : Here) (s : State) (e : SpillFault) : Act :=
  let (x, s) := spillTval s h e
  parkSet h s e.cause x

/-- Results are still owed to registers that a spill or fill would touch (log entry 8, DEDUCED). -/
def owing (c : Cord) : Bool := !(c.inflight.isEmpty && c.gathers.isEmpty)

/-- The calls of the active lanes: each lane's target is read before its slide. Lanes in `bad` park instead. -/
def callAct (h : Here) (s : State) (act : List Nat) (bad : List (Nat × Byte × Word)) (tgt : Nat → Word) : Act :=
  if slideSpills h.cord act && owing h.cord then .hold
  else
    let next := BitVec.ofNat 32 h.addr
    match eachLane h (fun s k => slide s h.ref k (some next) none) s act with
    | .error e => parkSpill h s e
    | .ok (t, ok, failed) => .did { s := t, park := bad ++ failed, go := ok.map (fun k => (k, tgt k)) }

/-- `h` with its address moved to the instruction that follows one of `n` bytes, where a call returns to. -/
def Here.ret (h : Here) (n : Nat) : Here := { h with addr := h.addr + n }

/-- R142. -/
def execCall (o : OBr) (s : State) : Out :=
  issue (.call o) (fun h s => callAct (h.ret 4) s (h.active o.gd) [] (fun _ => branchTo h o.off.toInt)) s
def execCallLong (o : OBrL) (s : State) : Out :=
  issue (.callLong o) (fun h s => callAct (h.ret 8) s (h.active o.gd) [] (fun _ => branchTo h o.off.toInt)) s
def execCallx (o : OBrx) (s : State) : Out :=
  issue (.callx o) (fun h s =>
    let act := h.active o.gd
    let bad := act.filter (fun k => misaligned (h.v k o.a))
    callAct (h.ret 8) s (act.filter (fun k => !bad.contains k)) (bad.map (fun k => (k, cAlign, h.v k o.a)))
      (fun k => h.v k o.a)) s

/-! ### `callo` (R143, R301) -/

/-- The overlay of a block's table that covers a code address: one with a residency record where there is one. -/
def coveringOverlay (s : State) (core : Nat) (b : Block) (a : Nat) : Option OvlEntry :=
  let l := (ovlsOf s core b).filter (fun e => decide (e.caddr ≤ a) && decide (a < e.caddr + e.bytes))
  match l.find? (fun e => (resOf (s.core core) b.ctx e).isSome) with
  | some e => some e
  | none => l.head?

/-- Counts holds of an overlay for lanes that enter or wait (R301). -/
def addHolds (s : State) (core ctx caddr n : Nat) : State :=
  s.setCore core (mapRes (s.core core) ctx caddr (fun r => { r with holds := r.holds + n }))

/-- Gives holds back. -/
def giveHolds (s : State) (core ctx caddr n : Nat) : State :=
  s.setCore core (freeEvicted (mapRes (s.core core) ctx caddr (fun r => { r with holds := r.holds - n })))

/-- The cord with the overlay it waits for at `callo`. -/
def setCalloWait (s : State) (ref : CordRef) (w : Option (Nat × List Nat)) : State :=
  match s.cord? ref with
  | none => s
  | some c => s.setCord ref { c with calloWait := w }

/-- Holds that a cord waiting at `callo` has counted, given back before it goes on. -/
def endCalloWait (s : State) (h : Here) : State :=
  match h.cord.calloWait with
  | none => s
  | some (a, n) => setCalloWait (giveHolds s h.ref.core h.block.ctx a n.length) h.ref none

/-- R143: the call into an overlay by its label. A damaged table entry that keeps it from being found is DATA_ERR, with its
address in sr.tval (R256, R265; log entry 80, DESIGN CHOICE for sr.tval). -/
def execCallo (o : OLbl) (s : State) : Out :=
  issue (.callo o) (fun h s =>
    let act := h.active o.gd
    let tgt := branchTo h o.off.toInt
    let core := h.ref.core
    let ctx := h.block.ctx
    let absent (s : State) : Act := .did { s := s, park := act.map (fun k => (k, cOvlAbsent, tgt)) }
    let waitFor (s : State) (e : OvlEntry) : Act :=
      .wait (setCalloWait (addHolds s core ctx e.caddr act.length) h.ref (some (e.caddr, act)))
    if act.isEmpty then .did { s := s }
    else match coveringOverlay s core h.block tgt.toNat with
    | none =>
      let t := noteOvls (endCalloWait s h) core ctx h.block.ovtab
      match ovlDamage s core ctx h.block.ovtab with
      | some a => .did { s := t, park := act.map (fun k => (k, cDataErr, BitVec.ofNat 32 a)) }
      | none => absent t
    | some e =>
      let s := noteOvls s core ctx h.block.ovtab
      match resOf (s.core core) ctx e with
      | none =>
        if !e.demand || ovlUnfit (s.core core) ctx e then absent (endCalloWait s h)
        else waitFor (beginLoad (endCalloWait s h) core ctx e) e
      | some r =>
        if !r.resident then
          if h.cord.calloWait == some (e.caddr, act) then .hold else waitFor (endCalloWait s h) e
        else if slideSpills h.cord act && owing h.cord then .hold
        else
          -- the holds of the wait pass to the lanes that enter, and the others' go
          match eachLane h (fun s k => slide s h.ref k (some (BitVec.ofNat 32 (h.addr + 8))) (some e.caddr)) s act with
          | .error x => parkSpill h (endCalloWait s h) x
          | .ok (t, ok, failed) =>
            .did { s := endCalloWait (addHolds t core ctx e.caddr ok.length) h, park := failed, go := ok.map (fun k => (k, tgt)) }) s

/-! ### Returns, exits and joins (R144 to R146) -/

/-- A return would fill (R144). -/
def retFills (c : Cord) (ks : List Nat) : Bool :=
  ks.any (fun k =>
    let i := (c.lane k).depth - 1
    match (c.lane k).frameAt i with
    | none => false
    | some f => f.spill.isSome || (uSpilled c i f).isSome)

/-- The return of one lane: fills, then pops; the lane's hold of an overlay goes with its link slot (R144, R301). A return
address that a fill read back and that is misaligned raises ALIGN (R85; log entry 24, DEDUCED). -/
def retLane (ref : CordRef) (s : State) (k : Nat) : Except SpillFault State :=
  match s.block? ref.core ref.slot, s.cord? ref with
  | some b, some c =>
    let f := (c.lane k).frame
    let ret := f.ret.getD 0
    if misaligned ret then .error ⟨false, cAlign, some ret, s⟩
    else match unslide s ref k true with
    | .error e => .error e
    | .ok s => .ok (s.setCore ref.core (dropHolds (s.core ref.core) b.ctx [f]))
  | _, _ => .ok s

/-- Lanes that leave a task's cord release its set masks: they wait for the cord's gathers (R269, R297). -/
def taskWaits (h : Here) (out : List Nat) : Bool := h.block.task.isSome && !out.isEmpty && !h.cord.gathers.isEmpty

/-- R144: a lane at depth 0, or in the frame of its handler (log entry 13, DEDUCED), takes the effect of `exit`. -/
def execRet (o : OG) (s : State) : Out :=
  issue (.ret o) (fun h s =>
    let act := h.active o.gd
    let leaves (k : Nat) : Bool := (h.cord.lane k).frame.ret.isNone
    let out := act.filter leaves
    let back := act.filter (fun k => !leaves k)
    if (retFills h.cord back && owing h.cord) || taskWaits h out then .hold
    else match eachLane h (retLane h.ref) s back with
    | .error e => parkSpill h s e
    | .ok (s, ok, failed) =>
      let s := if out.isEmpty then s else settleAt (exitLanes s h.ref out) h.ref.core h.ref.slot
      .did { s := s, park := failed, stay := out
             go := ok.map (fun k => (k, (h.cord.lane k).frame.ret.getD 0)) }) s

/-- R145. -/
def execExit (o : OG) (s : State) : Out :=
  issue (.exit o) (fun h s =>
    let act := h.active o.gd
    if taskWaits h act then .hold
    else .did { s := settleAt (exitLanes s h.ref act) h.ref.core h.ref.slot, stay := act }) s

/-- R24, R146: every lane of the executing set waits at the `rjoin`; the release follows at the end of the issue. -/
def execRjoin (s : State) : Out :=
  issue .rjoin (fun h s => .did {
    s := s.setCord h.ref (h.cord.onLanes h.set (fun _ l => { l with st := .wait, data := false })), stay := h.set }) s

end Sys2Proof.Machine
end

