-- ==== Sys2Proof/Machine/Digest.lean ====
section
/-!
DEFINITION. SHAKE256, which checks overlay pages (14_tables.md R299, R301) and measures firmware (17_outside.md R343). The spec
names the function and gives no definition of it: it is taken from FIPS 202 (log entry 16, PRESUMED). Every constant is worked
out from its rule there: rotation offsets from the walk over the 24 lanes, round constants from the shift register.
-/

namespace Sys2Proof.Machine

/-- The 25 lanes of a sponge state, in planes: lane `x` of plane `y`. -/
abbrev Planes := List (List DWord)

/-- A lane, its place taken modulo 5 both ways. -/
def Planes.lane (p : Planes) (x y : Nat) : DWord := (p.getD (y % 5) []).getD (x % 5) 0

/-- The planes whose lanes `f` gives by place. -/
def planes (f : Nat → Nat → DWord) : Planes := [0, 1, 2, 3, 4].map (fun y => [0, 1, 2, 3, 4].map (fun x => f x y))

/-- How far each lane is turned, as the walk of `n` more steps from place (`x`, `y`) finds it: step `t` turns by the triangular
number of `t`, and leads to (y, 2 x + 3 y). -/
def turns : Nat → Nat → Nat → Nat → List ((Nat × Nat) × Nat)
  | 0, _, _, _ => []
  | n + 1, t, x, y => ((x, y), t * (t + 1) / 2 % 64) :: turns n (t + 1) y ((2 * x + 3 * y) % 5)

/-- The turn of a lane; the lane (0, 0), which the walk leaves out, is not turned. -/
def turnOf (x y : Nat) : Nat := ((turns 24 1 1 0).find? (fun e => e.1 == (x % 5, y % 5))).elim 0 (·.2)

/-- The shift register of the round constants, one step on: its polynomial is x^8 + x^6 + x^5 + x^4 + 1. -/
def lfsr (r : Nat) : Nat := if r < 128 then 2 * r else (2 * r - 256) ^^^ 0x71

/-- The register `n` steps on. -/
def lfsrs : Nat → Nat → Nat
  | 0, r => r
  | n + 1, r => lfsrs n (lfsr r)

/-- The constant of the round that starts with the register at `r`: bit 2^j - 1 is the register's bit 0 after `j` steps. -/
def roundConst (r : Nat) : DWord :=
  [0, 1, 2, 3, 4, 5, 6].foldl (fun w j => if lfsrs j r % 2 = 1 then w ||| BitVec.twoPow 64 (2 ^ j - 1) else w) 0

/-- The parity of a column. -/
def Planes.column (p : Planes) (x : Nat) : DWord := p.foldl (fun w row => w ^^^ row.getD (x % 5) 0) 0

/-- Adds to each lane the parities of the columns beside it. -/
def spreadParity (p : Planes) : Planes :=
  planes (fun x y => p.lane x y ^^^ p.column (x + 4) ^^^ (p.column (x + 1)).rotateLeft 1)

/-- Turns each lane and moves it: the lane that comes to (u, v) was at (u + 3 v, u). -/
def turnLanes (p : Planes) : Planes := planes (fun u v => (p.lane (u + 3 * v) u).rotateLeft (turnOf (u + 3 * v) u))

/-- Mixes each plane. -/
def mixPlanes (p : Planes) : Planes :=
  p.map (fun row => [0, 1, 2, 3, 4].map (fun x =>
    row.getD x 0 ^^^ (row.getD ((x + 2) % 5) 0 &&& ~~~(row.getD ((x + 1) % 5) 0))))

/-- The rounds that are left, the register standing at `r` for the next. -/
def spongeRounds : Nat → Nat → Planes → Planes
  | 0, _, p => p
  | n + 1, r, p =>
    let q := mixPlanes (turnLanes (spreadParity p))
    spongeRounds n (lfsrs 7 r) (planes (fun x y => if x = 0 ∧ y = 0 then q.lane 0 0 ^^^ roundConst r else q.lane x y))

/-- Bytes that a state takes in or gives out between permutations. -/
def shakeRate : Nat := 136

/-- Takes in one block of bytes, and permutes. -/
def takeIn (p : Planes) (l : List Byte) : Planes :=
  spongeRounds 24 1 (planes (fun x y => p.lane x y ^^^ BitVec.ofNat 64 (leNat ((l.drop (8 * (x + 5 * y))).take 8))))

/-- Takes in `n` blocks. -/
def takeAll : Nat → Planes → List Byte → Planes
  | 0, p, _ => p
  | n + 1, p, l => takeAll n (takeIn p (l.take shakeRate)) (l.drop shakeRate)

/-- What follows a message of `n` bytes, to make whole blocks. -/
def shakeTail (n : Nat) : List Byte :=
  match shakeRate - 1 - n % shakeRate with
  | 0 => [0x9F]
  | m + 1 => 0x1F :: (List.replicate m 0 ++ [0x80])

/-- SHAKE256 with `n` bytes of output, at most one block. -/
def shake (n : Nat) (l : List Byte) : List Byte :=
  let m := l ++ shakeTail l.length
  ((takeAll (m.length / shakeRate) (planes (fun _ _ => 0)) m).flatten.flatMap (fun w => natLe 8 w.toNat)).take n

/-- SHAKE256 with 256 bits of output. -/
def shake256 (l : List Byte) : List Byte := shake 32 l

/-- The digest as the tables hold it (R299). -/
def digestOf (l : List Byte) : BitVec 256 := BitVec.ofNat 256 (leNat (shake256 l))

end Sys2Proof.Machine
end

