-- ==== Sys2Proof/Machine/Flags.lean ====
section
/-!
DEFINITION. Floating-point operations on encodings with the sticky flags they set (03_numbers.md R43 to R45, R58;
06_lane_ops.md R120 to R129), and the saturation of integer results (R46, R53).
-/

namespace Sys2Proof.Machine

/-! ### Integer results -/

/-- The bits of an exact integer result: clamped to the range of the type with `.sat`, else wrapped (R46, R53, R108). -/
def satInt (ty : Ty) (sat : Bool) (x : Int) : Nat := intBits ty (if sat then clampTo ty x else x)

/-- The integer type a type code means where code 0 is accepted: 32 bits, of no sign that matters (R108). -/
def orInt32 (ty : Ty) : Ty := if ty == .none then .n32 else ty

/-- The relation that a condition asks of a comparison (R91). -/
def condHolds (c : Cond) (lt eq : Bool) : Bool :=
  match c with
  | .eq => eq
  | .ne => !eq
  | .lt => lt
  | .le => lt || eq
  | .gt => !lt && !eq
  | .ge => !lt
  | .un => false

/-- `icmp` on the bits of two values (R113). -/
def cmpInt (ty : Ty) (c : Cond) (x y : Nat) : Bool :=
  condHolds c (decide (bitsInt ty x < bitsInt ty y)) (bitsInt ty x == bitsInt ty y)

/-- Predicate logic (R114). -/
def logPred (op : LogOp) (x y : Bool) : Bool :=
  match op with
  | .and => x && y
  | .or => x || y
  | .xor => x != y
  | .andn => x && !y

/-! ### Arithmetic -/

/-- A rounded result. `clean` says that no operand is NaN, `made` that a NaN was made of them (R43). -/
def rounded (f : Fmt) (mode : Rnd) (r : Word) (sat clean made : Bool) (x : Num) : Nat × Flags :=
  let (w, fl) := roundNum f mode r sat false x
  (w, if clean && made then fl ||| fInvalid else fl)

/-- a + b, rounded once. -/
def fpAdd (f : Fmt) (mode : Rnd) (r : Word) (sat : Bool) (a b : Nat) : Nat × Flags :=
  let x := f.decode a
  let y := f.decode b
  let (z, bad) := Num.add (mode == .rd) x y
  rounded f mode r sat (!x.isNan && !y.isNan) bad z

/-- a − b, rounded once. -/
def fpSub (f : Fmt) (mode : Rnd) (r : Word) (sat : Bool) (a b : Nat) : Nat × Flags :=
  let x := f.decode a
  let y := f.decode b
  let (z, bad) := Num.add (mode == .rd) x y.neg
  rounded f mode r sat (!x.isNan && !y.isNan) bad z

/-- a · b, rounded once. -/
def fpMul (f : Fmt) (mode : Rnd) (r : Word) (sat : Bool) (a b : Nat) : Nat × Flags :=
  let x := f.decode a
  let y := f.decode b
  let (z, bad) := Num.mul x y
  rounded f mode r sat (!x.isNan && !y.isNan) bad z

/-- a · b + c, rounded once (R45). -/
def fpFma (f : Fmt) (mode : Rnd) (r : Word) (sat : Bool) (a b c : Nat) : Nat × Flags :=
  let x := f.decode a
  let y := f.decode b
  let w := f.decode c
  let (p, bad) := Num.mul x y
  let (z, bad') := Num.add (mode == .rd) p w
  rounded f mode r sat (!x.isNan && !y.isNan && !w.isNan) (bad || bad') z

/-- Order of two encodings with −0 below +0 (R121). -/
def fpBelow (f : Fmt) (a b : Nat) : Bool :=
  let x := f.decode a
  let y := f.decode b
  Num.lt x y || (x.isZero && y.isZero && bit a (f.eb + f.mb) && !bit b (f.eb + f.mb))

/-- `fmin`, or with `mx` `fmax` (R121). -/
def fpMinMax (f : Fmt) (mx : Bool) (a b : Nat) : Nat :=
  match (f.decode a).isNan, (f.decode b).isNan with
  | true, true => f.nanBits
  | true, false => b
  | false, true => a
  | false, false => if mx then (if fpBelow f a b then b else a) else (if fpBelow f b a then b else a)

/-- A binary32 value as an instruction writes it: every NaN is the canonical one (R43). -/
def canon32 (x : Word) : Word := if (Fmt.f32.decode x.toNat).isNan then BitVec.ofNat 32 Fmt.f32.nanBits else x

/-- `fabs` and `fneg` (R121): the sign bit cleared or inverted; NaN gives the canonical NaN. -/
def fpSign (f : Fmt) (invert : Bool) (a : Nat) : Nat :=
  if (f.decode a).isNan then f.nanBits
  else if bit a (f.eb + f.mb) then a - f.signBit
  else if invert then a + f.signBit else a

/-- `fcmp` (R122). -/
def cmpFp (f : Fmt) (c : Cond) (a b : Nat) : Bool :=
  let x := f.decode a
  let y := f.decode b
  if x.isNan || y.isNan then c == .ne || c == .un else condHolds c (Num.lt x y) (Num.eq x y)

/-! ### Functions that approximate (R124, R125) -/

/-- The five functions. -/
inductive ApproxFn where
  | rcp | rsq | sqrt | exp2 | log2
  deriving DecidableEq, Repr

/-- The canonical NaN of FP32 with invalid. -/
def badFp32 : Nat × Flags := (Fmt.f32.nanBits, fInvalid)

/-- The result and flags of a function that approximates. -/
def approx (fn : ApproxFn) (mode : Rnd) (r : Word) (a : Nat) : Nat × Flags :=
  let f := Fmt.f32
  let out (x : Num) : Nat × Flags := roundNum f mode r false false x
  match f.decode a with
  | .nan => (f.nanBits, 0)
  | .inf s =>
    match fn with
    | .rcp => (f.signed s 0, 0)
    | .rsq => if s then badFp32 else (0, 0)
    | .sqrt => if s then badFp32 else (f.infBits, 0)
    | .exp2 => (if s then 0 else f.infBits, 0)
    | .log2 => if s then badFp32 else (f.infBits, 0)
  | .fin s m e =>
    if m = 0 then
      match fn with
      | .rcp => (f.signed s f.infBits, fDivide)
      | .rsq => (f.signed s f.infBits, fDivide)
      | .sqrt => (f.signed s 0, 0)
      | .exp2 => out (.fin false 1 0)
      | .log2 => (f.signed true f.infBits, fDivide)
    else
      match fn with
      | .rcp => out (recip s m e)
      | .rsq => if s then badFp32 else out (recipRoot m e)
      | .sqrt => if s then badFp32 else out (rootOf m e)
      | .exp2 =>
        if 8 ≤ Num.lead m e then (if s then out (.fin false 1 (-400)) else (f.infBits, fOver ||| fInexact))
        else if 7 ≤ Num.lead m e && !s then (f.infBits, fOver ||| fInexact)
        else out (exp2 s m e)
      | .log2 => if s then badFp32 else out (log2Of m e)

/-! ### Conversions -/

/-- The type is a floating-point format. -/
def isFloat (ty : Ty) : Bool :=
  match ty with
  | .f32 | .bf16 | .f16 | .e4m3 | .e5m2 => true
  | _ => false

/-- `cvt` of the bits of a value (R126): the bits of the result and the flags. -/
def convert (t1 t2 : Ty) (mode : Rnd) (r : Word) (sat : Bool) (x : Nat) : Nat × Flags :=
  if isFloat t2 then
    let v := (Fmt.ofTy t2).decode x
    if isFloat t1 then roundNum (Fmt.ofTy t1) mode r sat false v else roundInt t1 mode r v
  else
    let i := bitsInt t2 x
    if isFloat t1 then roundNum (Fmt.ofTy t1) mode r sat false (.fin (decide (i < 0)) i.natAbs 0)
    else (satInt t1 sat i, 0)

/-- The class bit of `fpclass` (R129). -/
def classOf (f : Fmt) (a : Nat) : Nat :=
  match f.decode a with
  | .nan => 8
  | .inf s => if s then 0 else 7
  | .fin s m _ =>
    if m = 0 then (if s then 3 else 4)
    else if m < 2 ^ f.mb then (if s then 2 else 5)
    else (if s then 1 else 6)

/-- Element `i` of `n` bits of a register (R47). -/
def elem (w : Word) (n i : Nat) : Nat := field w.toNat (n * i) n

/-- A register with element `i` of `n` bits replaced (R21, R47). -/
def setElem (w : Word) (n i x : Nat) : Word :=
  let mask : Word := BitVec.ofNat 32 ((2 ^ n - 1) * 2 ^ (n * i))
  (w &&& ~~~mask) ||| (BitVec.ofNat 32 (x % 2 ^ n * 2 ^ (n * i)))

/-- Two 16-bit elements as a register. -/
def pack2 (x y : Nat) : Word := BitVec.ofNat 32 (x % 2 ^ 16 + y % 2 ^ 16 * 2 ^ 16)

/-- The draws of an instruction that rounds with `.sr` (R56): the lane with its generator moved on, and the values. Other modes
draw nothing. -/
def lookDraws (mode : Rnd) (n : Nat) (l : Lane) : Lane × List Word :=
  if mode == .sr then
    let (g, r) := draws n l.rng
    ({ l with rng := g }, r)
  else (l, List.replicate n 0)

end Sys2Proof.Machine
end

