-- ==== Sys2Proof/Machine/Tiles.lean ====
section
/-!
DEFINITION. Accumulator tiles and contraction instances (08_contraction.md R171 to R193): shape words, operand vectors, the
group sum, the order of writes to one tile, and the waits of R181.
-/

namespace Sys2Proof.Machine

/-! ### Shape words (R171, R172) -/

def shapeFa (w : Word) : Nat := field w.toNat 0 4
def shapeFb (w : Word) : Nat := field w.toNat 4 4
def shapeM (w : Word) : Nat := field w.toNat 8 6 + 1
def shapeN (w : Word) : Nat := field w.toNat 14 6 + 1
def shapeTr (w : Word) : Bool := bit w.toNat 20
/-- The tile edge T of q4 scales. -/
def shapeT (w : Word) : Nat := if bit w.toNat 21 then 32 else 16
def shapeArnd (w : Word) : Nat := field w.toNat 22 2

/-- Longest vector of a format code. -/
def longest (f : Nat) : Nat := if f = 1 || f = 2 then 32 else 64

/-- A bad shape word (R172). -/
def badShape (w : Word) : Bool :=
  let fa := shapeFa w
  let fb := shapeFb w
  let lim := min (longest fa) (longest fb)
  fa == 0 || decide (7 ≤ fa) || fb == 0 || decide (7 ≤ fb) || ((fa == 5) != (fb == 5))
    || decide (lim < shapeM w) || decide (lim < shapeN w)
    || decide (2 ≤ shapeArnd w) || (shapeArnd w == 1 && (fa == 5 || fb == 5))
    || (bit w.toNat 21 && fa != 6 && fb != 6) || field w.toNat 24 8 != 0

/-- F of the group sum's window (R172). -/
def windowF (w : Word) : Nat :=
  if shapeFa w = 1 || shapeFa w = 2 || shapeFb w = 1 || shapeFb w = 2 then 28 else 19

/-- Element size in bytes; q4 is packed two to a byte. -/
def fmtBytes (f : Nat) : Nat := if f = 1 || f = 2 then 2 else 1

/-- Packed length of a vector of `n` elements (R173). -/
def packedLen (f n : Nat) : Nat := if f = 6 then (n + 1) / 2 else n * fmtBytes f

/-- Distance between vectors of consecutive ranks in the `.map` form (R173). -/
def mapStride (f n : Nat) (mode : OpMode) : Nat := if mode == .col then fmtBytes f else packedLen f n

/-! ### Operand vectors (R173 to R175) -/

/-- Row-major offset, or linear offset in mode 0, of byte unit `j` of a vector: an element, or for q4 a pair of elements. -/
def unitEa (mode : OpMode) (t2 : Word) (f o j : Nat) : Nat :=
  if mode == .col then o + j * tileLen t2 else o + j * fmtBytes f

/-- Offset in the allocation of unit `j` of a vector. -/
def unitOff (mode : OpMode) (t1 t2 : Word) (f o j : Nat) : Nat :=
  if mode == .row then unitEa mode t2 f o j else skew t1 (unitEa mode t2 f o j)

/-- Byte units of a vector of `n` elements. -/
def units (f n : Nat) : Nat := if f = 6 then (n + 1) / 2 else n

/-- The vector's bytes lie where R175 wants them. -/
def vecInRange (splen : Nat) (mode : OpMode) (t1 t2 : Word) (f n o : Nat) : Bool :=
  if mode == .row then decide (o + packedLen f n ≤ splen)
  else tileDeclared splen t1 t2
    && decide (unitEa mode t2 f o (units f n - 1) + fmtBytes f ≤ tileRows t2 * tileLen t2)

/-- Offset of the scale byte of element `i` at rank `rho` (R174). -/
def scaleOff (base stride : Word) (t rho i : Nat) : Nat :=
  (base + BitVec.ofNat 32 (rho / t) * stride + BitVec.ofNat 32 (i / t)).toNat

/-- Offsets of the scale bytes of a vector. -/
def scaleOffs (base stride : Word) (t rho n : Nat) : List Nat :=
  (List.range ((n - 1) / t + 1)).map (fun j => scaleOff base stride t rho (j * t))

/-- Offsets in the allocation of every byte unit of a vector. -/
def vecOffs (mode : OpMode) (t1 t2 : Word) (f n o : Nat) : List Nat :=
  (List.range (units f n)).map (unitOff mode t1 t2 f o)

/-- The range of the allocation from the least to the greatest of some offsets, the last unit `z` bytes long. -/
def hull (z : Nat) (l : List Nat) : Option (Nat × Nat) :=
  match leastOf l with
  | none => none
  | some lo => some (lo, l.foldl Nat.max 0 + z)

/-- The number that element `i` of a vector stands for. `rd` reads a byte of the allocation. -/
def vecElem (rd : Nat → Byte) (mode : OpMode) (t1 t2 : Word) (f o : Nat) (scale : Nat → Nat) (i : Nat) : Num :=
  if f = 6 then
    let b := (rd (unitOff mode t1 t2 f o (i / 2))).toNat
    q4Decode (rd (scale i)).toNat (field b (4 * (i % 2)) 4)
  else
    let off := unitOff mode t1 t2 f o i
    let w := (rd off).toNat + (if fmtBytes f = 2 then 256 * (rd (off + 1)).toNat else 0)
    match f with
    | 1 => Fmt.bf16.decode w
    | 2 => Fmt.f16.decode w
    | 3 => Fmt.e4m3.decode w
    | 4 => Fmt.e5m2.decode w
    | _ => let v := sxInt w 8; .fin (decide (v < 0)) v.natAbs 0

/-! ### The group sum (R184 to R186) -/

/-- The exponent E of the largest nonzero product. -/
def maxLead : List Num → Option Int
  | [] => none
  | .fin _ m e :: r =>
    if m = 0 then maxLead r
    else match maxLead r with
      | none => some (Num.lead m e)
      | some x => some (if x < Num.lead m e then Num.lead m e else x)
  | _ :: r => maxLead r

/-- A product in units of 2^q, truncated toward zero. -/
def truncTo (q : Int) : Num → Int
  | .fin s m e =>
    let n : Nat := if q ≤ e then m * 2 ^ (e - q).toNat else m / 2 ^ (q - e).toNat
    if s then -(n : Int) else n
  | _ => 0

/-- group_sum of R184. -/
def groupSum (f : Nat) (ps : List Num) : Num :=
  if ps.any Num.isNan then .nan
  else
    let infs := ps.filter Num.isInf
    if infs.contains (.inf false) && infs.contains (.inf true) then .nan
    else match infs with
    | x :: _ => x
    | [] =>
      match maxLead ps with
      | none => .fin (ps.all (fun p => match p with
          | .fin s _ _ => s
          | _ => false)) 0 0
      | some e =>
        let q := e - f
        let t := ps.foldl (fun t p => t + truncTo q p) (0 : Int)
        .fin (decide (t < 0)) t.natAbs q

/-- A float group added into an element (R184, R185). -/
def addGroup (arnd : Nat) (r : Word) (f : Nat) (t : Word) (ps : List Num) : Word :=
  let x := (Num.add false (Fmt.f32.decode t.toNat) (groupSum f ps)).1
  BitVec.ofNat 32 (roundNum .f32 (if arnd = 1 then .sr else .rn) r false true x).1

/-- The integer that an exact number stands for; INT8 products are integers. -/
def numInt : Num → Int
  | .fin s m e => if s then -((m * 2 ^ e.toNat : Nat) : Int) else ((m * 2 ^ e.toNat : Nat) : Int)
  | _ => 0

/-- An INT8 group added into an element (R186). -/
def addInts (t : Word) (ps : List Num) : Word := t + BitVec.ofInt 32 (ps.foldl (fun x p => x + numInt p) 0)

/-! ### Tiles of a core -/

/-- The physical tile of operand aN (R194). -/
def physTile (b : Block) (n : Nat) : Option Nat := b.tiles[n]?

/-- What a physical tile keeps. -/
def Core.tile (c : Core) (p : Nat) : Tile := c.tiles.get p Tile.fresh

/-- The core with a tile's record replaced. -/
def Core.setTile (c : Core) (p : Nat) (t : Tile) : Core := { c with tiles := c.tiles.set p t }

/-- Byte address of element [m][n] of a physical tile (R258). -/
def elemAddr (p m n : Nat) : Nat := p * Config.tileBytes + (64 * m + n) * 4

/-- Element [m][n] of a physical tile. -/
def Core.elemAt (c : Core) (p m n : Nat) : Word := c.acc.word (elemAddr p m n)

/-- The core with an element written. -/
def Core.setElem (c : Core) (p m n : Nat) (w : Word) : Core := { c with acc := c.acc.setWord (elemAddr p m n) w }

/-- The block that owns a physical tile: its slot, and the operand number. -/
def tileOwner (c : Core) (p : Nat) : Option (Nat × Block × Nat) :=
  c.blocks.entries.findSome? (fun e => (e.2.tiles.findIdx? (· == p)).map (fun n => (e.1, e.2, n)))

/-! ### Order and waits (R176 to R182) -/

/-- Signed distance from sequence number `b` to `a`. -/
def seqDiff (a b : Word) : Int := (a - b).toInt

/-- A cord has arrived at block-scope instance `seq` on operand `n`, or is absent from it (R176, R177, R200). -/
def reachedOrAbsent (c : Cord) (n : Nat) (seq : Word) : Bool :=
  c.exited || c.skipAll.contains n || decide (0 ≤ seqDiff (c.tcount.get n 0) seq)

/-- An instance is complete (R178). -/
def instComplete (b : Block) (n : Nat) (i : Instance) : Bool :=
  match i.seq with
  | none => true
  | some q => b.cords.vals.all (fun c => reachedOrAbsent c n q)

/-- Instance `j` is applied before instance `i` (R180): a lower sequence number, or a cord that arrived there earlier. -/
def instBefore (j i : Instance) : Bool :=
  (match j.seq, i.seq with
    | some a, some b => decide (seqDiff a b < 0)
    | _, _ => false)
  || j.arrivals.any (fun a => i.arrivals.any (fun b => a.cord == b.cord && decide (a.stamp < b.stamp)))

/-- A tile copy that has started and not finished keeps the tile busy (R219). -/
def tileBusy (c : Core) (p : Nat) : Bool :=
  c.ops.vals.any (fun o => o.tile == some p && o.started && !o.state.finished)

/-- An operation that a token names has not finished. -/
def unfinished (c : Core) (t : Word) : Bool :=
  match c.ops.get? (entryOf t) with
  | none => false
  | some o => o.token == t && !o.state.finished

/-- What is still to be applied to a tile: an instance, or a cord write, by its arrivals, each a cord and a stamp (R180). A cord write has
no sequence number. -/
structure Pending where
  arr : List (Nat × Nat)
  seq : Option Word
  deriving DecidableEq, Repr

/-- A cord write of a cord, by its stamp. -/
def Pending.write (cord t : Nat) : Pending := ⟨[(cord, t)], none⟩

/-- What is still to be applied to a tile (R178 to R182, R219). -/
def pendings (c : Core) (p : Nat) : List Pending :=
  (c.tile p).slots.map (fun i => ⟨i.arrivals.map (fun a => (a.cord, a.stamp)), i.seq⟩)
    ++ (c.ops.vals.filter (fun o => o.kind == .cpy 4 && o.tile == some p && !o.state.finished)).map (fun o => .write o.cord o.seq)

/-- `y` is applied before `x` by R180: a lower sequence number, an earlier place in the order of a cord of both, or a cord write whose cord
has still to arrive at the instance `x`. -/
def Pending.before (b : Block) (n : Nat) (y x : Pending) : Bool :=
  (match y.seq, x.seq with
    | some i, some j => decide (seqDiff i j < 0)
    | none, some j => y.arr.any (fun e => (b.cords.get? e.1).any (fun c => !reachedOrAbsent c n j))
    | _, _ => false)
  || y.arr.any (fun e => x.arr.any (fun f => e.1 == f.1 && decide (e.2 < f.2)))

/-- `y` and `x` are writes of two cords, and `y` reached the uniform pipe first (R182). -/
def Pending.piped (y x : Pending) : Bool :=
  y.seq.isNone && x.seq.isNone && y.arr.any (fun e => x.arr.any (fun f => e.1 != f.1 && decide (e.2 < f.2)))

/-- Everything that some of `l` is applied after, `fuel` steps on. -/
def behind (b : Block) (n : Nat) (all : List Pending) : Nat → List Pending → List Pending
  | 0, l => l
  | fuel + 1, l => behind b n all fuel (l ++ all.filter (fun y => !l.contains y && l.any (fun x => y.before b n x || y.piped x)))

/-- Another cord's write of the tile reached the uniform pipe before the cord's write of stamp `t`, and is still to be applied (R182).
One that by R180 comes after the cord's own write is not waited for (log entry 58, DEDUCED). -/
def writeBefore (c : Core) (p : Nat) (b : Block) (n cord t : Nat) : Bool :=
  let x := Pending.write cord t
  let all := pendings c p
  all.any (fun y => y.piped x && !(behind b n (x :: all) (all.length + 1) [y]).contains x)

/-- An instance of the tile other than `i` has had groups added and has groups left: it is applied whole (R180). -/
def tileBegun (t : Tile) (i : Option Instance) : Bool := t.slots.any (fun j => j.next != 0 && some j != i)

/-- Nothing that is applied before the instance is still to be applied: no instance before it is open and none has begun, no tile copy keeps
the tile busy, the copies it waits for have finished, and, at cord scope, the cord writes before it are applied (R178, R180, R182, R219). -/
def instFirst (c : Core) (p : Nat) (b : Block) (n : Nat) (i : Instance) : Bool :=
  !(c.tile p).slots.any (fun j => instBefore j i) && !tileBegun (c.tile p) (some i) && !tileBusy c p
    && !i.arrivals.any (fun a => a.after.any (unfinished c) || (i.seq.isNone && writeBefore c p b n a.cord a.stamp))

/-- The array may work on the instance: it is complete, and it has begun or nothing comes before it. One that has begun is applied whole,
whatever exits meanwhile (R178, R180; log entry 22, DESIGN CHOICE). -/
def instReady (c : Core) (p : Nat) (b : Block) (n : Nat) (i : Instance) : Bool :=
  instComplete b n i && (i.next != 0 || instFirst c p b n i)

/-- The groups of an instance, ascending: number, arrival and lanes (R183). -/
def groupsOf (i : Instance) : List (Nat × Arrival × List Part) :=
  (List.range 64).filterMap (fun g =>
    match i.arrivals.find? (fun a => a.cord == g / 2) with
    | none => none
    | some a =>
      let ps := a.parts.filter (fun x => x.lane / 16 == g % 2)
      if ps.isEmpty then none else some (g, a, ps))

/-- The groups still to process. -/
def groupsLeft (i : Instance) : List (Nat × Arrival × List Part) := (groupsOf i).filter (fun x => decide (i.next ≤ x.1))

/-- A cord has an arrival at an instance of the tile that has not closed, or a cord write on it not yet applied (R181). -/
def tileWaits (c : Core) (slot cord p : Nat) : Bool :=
  (c.tile p).slots.any (fun i => i.arrivals.any (fun a => a.cord == cord))
    || c.ops.vals.any (fun o => o.kind == .cpy 4 && o.tile == some p && o.slot == slot && o.cord == cord && !o.state.finished)

/-- A cord write that the cord has issued and that is not applied (R181). -/
def writesPending (c : Core) (slot cord : Nat) (b : Block) : Bool :=
  b.tiles.any (fun p => (c.tile p).slots.any (fun i => i.seq.isNone && i.arrivals.any (fun a => a.cord == cord)))
    || c.ops.vals.any (fun o => o.kind == .cpy 4 && o.slot == slot && o.cord == cord && !o.state.finished)

/-- Race check on a tile (R182): the last cord write was another cord's in this epoch. -/
def tileRace (b : Block) (cord : Nat) (t : Tile) : Bool :=
  b.race && (match t.writer with
    | none => false
    | some (c, e) => c != cord && e == b.epoch)

/-- The tile with a cord write recorded (R182). -/
def Tile.wrote (t : Tile) (b : Block) (cord : Nat) : Tile := { t with writer := some (cord, b.epoch) }

/-! ### One group (R184 to R187, R192) -/

/-- The operands of one lane in an arrival, as functions of the element index. -/
def laneVec (rd : Nat → Byte) (a : Arrival) (x : Part) (second : Bool) (i : Nat) : Num :=
  let f := if second then shapeFb a.shape else shapeFa a.shape
  let mode := if second then a.bmode else a.amode
  let o := (if second then x.boff else x.aoff).toNat
  let j := if second then 2 else 0
  vecElem rd mode a.tile a.tile2 f o
    (scaleOff (a.scale.getD j 0) (a.scale.getD (j + 1) 0) (shapeT a.shape) (a.rank0 + x.lane)) i

/-- Offsets that a lane's operands read, in order: a, b, then scale bytes. -/
def laneReads (a : Arrival) (x : Part) : List (Nat × Nat) :=
  let w := a.shape
  let one (f n : Nat) (mode : OpMode) (o : Word) : List (Nat × Nat) :=
    (vecOffs mode a.tile a.tile2 f n o.toNat).map (fun y => (y, fmtBytes f))
  let sc (f n j : Nat) : List (Nat × Nat) :=
    if f = 6 then (scaleOffs (a.scale.getD j 0) (a.scale.getD (j + 1) 0) (shapeT w) (a.rank0 + x.lane) n).map (fun y => (y, 1))
    else []
  one (shapeFa w) (shapeM w) a.amode x.aoff ++ one (shapeFb w) (shapeN w) a.bmode x.boff
    ++ sc (shapeFa w) (shapeM w) 0 ++ sc (shapeFb w) (shapeN w) 2

/-- Adds a group into the tile, element by element in row-major order of (m, n). -/
def applyGroup (c : Core) (p spbase : Nat) (a : Arrival) (ps : List Part) (g : Nat) : Core :=
  let w := a.shape
  let rd (o : Nat) : Byte := c.spad.get (spbase + o)
  let va := ps.map (fun x => (List.range (shapeM w)).map (laneVec rd a x false))
  let vb := ps.map (fun x => (List.range (shapeN w)).map (laneVec rd a x true))
  let rs := if shapeArnd w = 1 then (draws (shapeM w * shapeN w) (if g % 2 = 0 then a.draw0 else a.draw1)).2 else []
  (List.range (shapeM w)).foldl (fun c m =>
    (List.range (shapeN w)).foldl (fun c n =>
      let prods := (va.zip vb).map (fun v => (Num.mul (v.1.getD m .nan) (v.2.getD n .nan)).1)
      let (i, j) := if shapeTr w then (n, m) else (m, n)
      let t := c.elemAt p i j
      c.setElem p i j (if shapeFa w = 5 then addInts t prods
        else addGroup (shapeArnd w) (rs.getD (m * shapeN w + n) 0) (windowF w) t prods)) c) c

/-- The tile's fault record with an error of an instance added (R192). A second error keeps the first one's offset and joins the cords
of both instances (log entry 56, DESIGN CHOICE). -/
def Tile.record (t : Tile) (off : Nat) (i : Instance) : Tile :=
  let cs := i.arrivals.map (·.cord)
  { t with fault := some (match t.fault with
      | none => (off, cs)
      | some (o, l) => (o, l ++ cs)) }

/-- The operand words of a group, and with `adds` the words of the tile that it adds to, count the errors that the code corrects (R265). -/
def noteGroup (c : Core) (p spbase : Nat) (a : Arrival) (ps : List Part) (adds : Bool) : Core :=
  if c.soft.isEmpty then c
  else
    let (rows, cols) := if shapeTr a.shape then (shapeN a.shape, shapeM a.shape) else (shapeM a.shape, shapeN a.shape)
    let c := (ps.flatMap (laneReads a)).foldl (fun c x => noteCore c .scratchpad (spbase + x.1) x.2) c
    if adds then (List.range rows).foldl (fun c m => noteCore c .accumulator (elemAddr p m 0) (4 * cols)) c else c

/-- A ready instance of another block of the core has a higher prio, and is served first (R196). -/
def outranked (c : Core) (p k : Nat) : Bool :=
  match tileOwner c p, (c.tile p).slots[k]? with
  | some (slot, _, _), some i => c.tiles.entries.any (fun t => match tileOwner c t.1 with
    | none => false
    | some (slot', b, n) => slot' != slot && t.2.slots.any (fun j => decide (i.prio < j.prio) && instReady c t.1 b n j))
  | _, _ => false

/-- Processes the next group of the instance in slot `k` of a tile, and closes the instance when none is left (R178, R183). Of several
damaged operand words of a group the first is recorded: of the lowest lane, of a before b before the scale bytes (log entry 56, DESIGN
CHOICE). -/
def stepInstance (c : Core) (p k : Nat) : Core :=
  match tileOwner c p, (c.tile p).slots[k]? with
  | some (_, b, n), some i =>
    if !instReady c p b n i then c
    else
      let close (c : Core) : Core := c.setTile p { c.tile p with slots := (c.tile p).slots.eraseIdx k }
      match groupsLeft i with
      | [] => close c
      | (g, a, ps) :: rest =>
        let bad := (ps.flatMap (laneReads a)).find? (fun x => badWord c .scratchpad (b.spbase + x.1) x.2)
        let c := noteGroup c p b.spbase a ps bad.isNone
        let c := match bad with
          | some x => c.setTile p ((c.tile p).record x.1 i)
          | none => applyGroup c p b.spbase a ps g
        if rest.isEmpty then close c
        else c.setTile p { c.tile p with slots := (c.tile p).slots.set k { i with next := g + 1 } }
  | _, _ => c

end Sys2Proof.Machine
end

