-- ==== Sys2Proof/Machine/Engines.lean ====
section
/-!
DEFINITION. The engines of a core: when a child operation starts, its units of work, and how it finishes, suspends or is
replayed (09_engines.md R209 to R221, R225 to R229, R233; 11_memories.md R257). Collectives stand in `Collective`.
-/

namespace Sys2Proof.Machine

/-- What one unit of an operation answers. -/
inductive UnitRes where
  /-- Its writes are held by an open contraction instance (R64, R257), or there is nothing to do now. -/
  | held
  /-- A fault: the global addresses that have been translated, whether it ends the operation FAILED or suspends it (R221), cause and
  address. -/
  | fault (touched : List Nat) (fatal : Bool) (cause : Byte) (addr : Nat)
  /-- Its effects, and whether it was the last. -/
  | did (s : State) (o : OpEntry) (last : Bool)

/-! ### Reading and writing -/

/-- A global address of an engine, computed in 64 bits (R220). -/
def wrap64 (a : Nat) : Nat := a % 2 ^ 64

/-- A fault of an engine access: the addresses that have been translated, page by page, whether it ends the operation (R221), the cause and
the address. -/
structure EngineFault where
  touched : List Nat
  fatal : Bool
  cause : Byte
  addr : Nat
  deriving DecidableEq, Repr

/-- The first fault of an engine access. -/
def engineFault (s : State) (core ctx va n : Nat) (w : Bool) : Option EngineFault :=
  (rangeFault s core false ctx va n w (!w)).map (fun x => ⟨touchedTo va n x.2, decide (2 ^ 52 ≤ x.2), x.1, x.2⟩)

/-- A unit meets a fault. -/
def EngineFault.unit (f : EngineFault) : UnitRes := .fault f.touched f.fatal f.cause f.addr

/-- What a unit reads after it has read some runs of global memory, which have been translated too (R316). -/
def readAfter {α : Type} (l : List (Nat × Nat)) : Except EngineFault α → Except EngineFault α
  | .error f => .error { f with touched := l.flatMap (fun x => (piecesOf x.1 x.2).map (·.1)) ++ f.touched }
  | .ok x => .ok x

/-- Who reads for an engine: a child operation, with the scope of its acquire if it is one, or the hardware of the core for itself
(R215, R266). -/
structure Reader where
  core : Nat
  ctx : Nat
  who : Agent
  acq : Option Scope
  deriving DecidableEq, Repr

/-- What the reader's reads see: those of an acquire are no plain accesses (R272). -/
def Reader.eye (r : Reader) : Eye := ⟨r.who, r.acq.isNone⟩

/-- A child operation as a reader. -/
def OpEntry.reader (core : Nat) (o : OpEntry) : Reader := ⟨core, o.ctx, o.agent core, acqScope o.acq o.scope⟩

/-- The overlay loader as a reader: it sees what stands in memory. -/
def loaderOf (core ctx : Nat) : Reader := ⟨core, ctx, .die (dieOf core), some .sys⟩

/-- The state after an engine has read some runs of global memory, each an address and a length: TLBs fill, and the errors that the code
corrects count (R265, R309). -/
def engineSeen (s : State) (r : Reader) (l : List (Nat × Nat)) : State :=
  l.foldl (fun s x => globalSaw (noteGlobal (engineTouch s r.core r.ctx x.1 x.2) r.core false r.ctx x.1 x.2) r.core r.ctx x.1 x.2 r.eye r.acq) s

/-- The state after an operation has read scratchpad of its allocation (R265). -/
def spadSeen (s : State) (core : Nat) (o : OpEntry) (off n : Nat) : State :=
  (noteRead s core .scratchpad (o.base + off) n).saw (o.reader core).eye (.sp core (o.base + off)) n false (acqScope o.acq o.scope)

/-- Bytes of global memory, or the fault. -/
def engineRead (s : State) (r : Reader) (va n : Nat) : Except EngineFault (List Byte) :=
  match engineFault s r.core r.ctx va n false with
  | some f => .error f
  | none => .ok (globalSeen s r.core r.ctx va n r.eye)

/-- The core as an operation sees its scratchpad (R272). -/
def coreFor (s : State) (core : Nat) (o : OpEntry) : Core := (s.seenBy (o.reader core).eye).core core

/-- Bytes of the operation's allocation. -/
def opBytes (c : Core) (o : OpEntry) (off n : Nat) : List Byte := c.spad.read (o.base + off) n

/-- The offset of the first word with an uncorrectable error in a range of the allocation (R265). -/
def badOff (c : Core) (o : OpEntry) (off n : Nat) : Option Nat :=
  leastOf ((c.bad.filter (fun e => e.1 == .scratchpad && overlap (e.2 * 8) (e.2 * 8 + 8) (o.base + off) (o.base + off + n))).map
    (fun e => max (e.2 * 8) (o.base + off) - o.base))

/-- The operation's entry is damaged (R265). -/
def entryBad (c : Core) (e : Nat) : Bool := badWord c .opTable (64 * e) 64

/-- A contraction instance at which a cord arrived before the operation was issued holds bytes that it would write (R64, R257). -/
def writeHeld (c : Core) (o : OpEntry) (off n : Nat) : Bool :=
  c.tiles.vals.any (fun t => t.slots.any (fun i => i.arrivals.any (fun a => decide (a.stamp < o.seq)
    && a.ranges.any (fun r => overlap r.lo r.hi (o.base + off) (o.base + off + n)))))

/-- The block with a write of an operation recorded (R279): as the issuing cord's, or, detached, as nobody's. -/
def recordOp (b : Block) (o : OpEntry) (off n : Nat) : Block :=
  if o.det.isSome then
    if n = 0 then b
    else { b with lines := b.lines.filter (fun i _ => decide (i < off / 64) || decide ((off + n - 1) / 64 < i)) }
  else recordWrite b o.cord off n

/-- The release of an operation, after the last of its writes, covers them all; the words of its last unit carry it (R215, R278; log
entry 10, DESIGN CHOICE). -/
def opRelease (s : State) (core : Nat) (o : OpEntry) (ps : List (Place × Nat)) (last : Bool) : State :=
  if o.rel && last then s.send (o.agent core) o.scope ((ps.flatMap (fun p => p.1.words p.2)).map (fun w => .word w (s.writesOf w))) else s

/-- Writes bytes into the operation's allocation (R279). The issuing cord's later loads read them, with nothing more (R281). -/
def opWrite (s : State) (core : Nat) (o : OpEntry) (off : Nat) (l : List Byte) (last : Bool) : State :=
  let c := s.core core
  let blocks := c.blocks.map (fun _ b => if b.spbase == o.base && b.splen == o.len then recordOp b o off l.length else b)
  let s := s.setCore core (mend { c with spad := c.spad.write (o.base + off) l, blocks := blocks } .scratchpad (o.base + off) l.length)
  let s := s.wrote (o.agent core) (.sp core (o.base + off)) l.length .plain
  let s := if o.det.isNone then s.showTo (.cord core o.owner o.cord) (.sp core (o.base + off)) l.length else s
  opRelease s core o [(.sp core (o.base + off), l.length)] last

/-! ### Copies (R217 to R219) -/

/-- Bytes that `.in`, `.out`, `.ina` and `.outa` move. -/
def copyLen (fn : Nat) (o : OpEntry) : Nat := (o.c.getD 0 0).toNat * (if fn < 4 then 1 else 256)

/-- One unit, 4 KiB at most, of a copy into scratchpad or a tile. -/
def unitIn (s : State) (core : Nat) (o : OpEntry) (total : Nat) : UnitRes :=
  let n := min 4096 (total - o.cursor)
  let va := wrap64 (o.b + o.cursor)
  let last := decide (total ≤ o.cursor + n)
  match engineRead s (o.reader core) va n with
  | .error f => f.unit
  | .ok l =>
    match o.tile with
    | some p =>
      let s := engineSeen s (o.reader core) [(va, n)]
      let c := s.core core
      let at_ := p * Config.tileBytes + o.cursor
      let s := s.setCore core (mend { c with acc := c.acc.write at_ l } .accumulator at_ n)
      .did s { o with cursor := o.cursor + n } last
    | none =>
      if writeHeld (s.core core) o (o.a + o.cursor) n then .held
      else .did (opWrite (engineSeen s (o.reader core) [(va, n)]) core o (o.a + o.cursor) l last) { o with cursor := o.cursor + n } last

/-- The offset of a damaged word of a tile copy's rows. -/
def badTile (c : Core) (p off n : Nat) : Bool := badWord c .accumulator (p * Config.tileBytes + off) n

/-- One unit of a copy out of scratchpad or a tile. -/
def unitOut (s : State) (core : Nat) (o : OpEntry) (total : Nat) : UnitRes :=
  let n := min 4096 (total - o.cursor)
  let va := wrap64 (o.a + o.cursor)
  let c := s.core core
  let src : Except Nat (List Byte) := match o.tile with
    | some p => if badTile c p o.cursor n then .error o.cursor else .ok (c.acc.read (p * Config.tileBytes + o.cursor) n)
    | none => match badOff c o (o.b + o.cursor) n with
      | some a => .error a
      | none => .ok (opBytes (coreFor s core o) o (o.b + o.cursor) n)
  let last := decide (total ≤ o.cursor + n)
  match src with
  | .error a => .fault [] false cDataErr a
  | .ok l =>
    match engineFault s core o.ctx va n true with
    | some f => f.unit
    | none =>
      let s := match o.tile with
        | some p => noteRead s core .accumulator (p * Config.tileBytes + o.cursor) n
        | none => spadSeen s core o (o.b + o.cursor) n
      let t := globalWrite (engineTouch s core o.ctx va n) core o.ctx va l (o.agent core) .plain
      .did (opRelease t core o (globalPlaces s core o.ctx va n) last) { o with cursor := o.cursor + n } last

/-! ### The native sparse format (R218) -/

/-- Chunk count and element bytes of a control word. -/
def chunkCount (w : Word) : Nat := field w.toNat 0 16
def chunkZ (w : Word) : Nat := 2 ^ field w.toNat 16 2

/-- The value bytes of chunk `j` in element order: its present elements with their numbers. -/
structure Chunk where
  elems : List (Nat × List Byte)
  deriving DecidableEq, Repr

/-- Reads chunk `j` of a tensor with `z`-byte elements. -/
def readChunk (s : State) (r : Reader) (base j z : Nat) : Except EngineFault Chunk :=
  let first := (wrap64 (base + 4 * j), 4)
  match engineRead s r first.1 4 with
  | .error f => .error f
  | .ok e =>
    let at_ := base + 16 * leNat e
    match readAfter [first] (engineRead s r (wrap64 at_) 16) with
    | .error f => .error f
    | .ok m =>
      let present := bitsFrom (leNat m) 0 128
      match readAfter [first, (wrap64 at_, 16)] (engineRead s r (wrap64 (at_ + 16)) (present.length * z)) with
      | .error f => .error f
      | .ok v => .ok { elems := present.zipIdx.map (fun x => (x.1, (v.drop (x.2 * z)).take z)) }

/-- What `readChunk` reads, where nothing faults. -/
def chunkSpans (s : State) (r : Reader) (base j z : Nat) (k : Chunk) : List (Nat × Nat) :=
  let e := wrap64 (base + 4 * j)
  let at_ := base + 16 * leNat (globalSeen s r.core r.ctx e 4 r.eye)
  [(e, 4), (wrap64 at_, 16), (wrap64 (at_ + 16), k.elems.length * z)]

/-- The runs of global memory of a chunk that faults nowhere. -/
def chunkReads (s : State) (r : Reader) (base j z : Nat) : List (Nat × Nat) :=
  match readChunk s r base j z with
  | .error _ => []
  | .ok k => chunkSpans s r base j z k

/-- The 128 elements, absent ones as zero bytes. -/
def Chunk.dense (c : Chunk) (z : Nat) : List Byte :=
  (List.range 128).flatMap (fun i => ((c.elems.find? (fun x => x.1 == i)).map (·.2)).getD (List.replicate z 0))

/-- One chunk of `.ck`. -/
def unitCk (s : State) (core : Nat) (o : OpEntry) : UnitRes :=
  let ctl := o.c.getD 1 0
  let z := chunkZ ctl
  let j := (o.c.getD 0 0).toNat + o.cursor
  let off := o.a + 128 * z * o.cursor
  let last := decide (chunkCount ctl ≤ o.cursor + 1)
  match readChunk s (o.reader core) o.b j z with
  | .error f => f.unit
  | .ok k =>
    if writeHeld (s.core core) o off (128 * z) then .held
    else .did (opWrite (engineSeen s (o.reader core) (chunkSpans s (o.reader core) o.b j z k)) core o off (k.dense z) last)
      { o with cursor := o.cursor + 1 } last

/-- One chunk of `.ckc`; the last one writes the value count too. -/
def unitCkc (s : State) (core : Nat) (o : OpEntry) : UnitRes :=
  let ctl := o.c.getD 1 0
  let z := chunkZ ctl
  let j := (o.c.getD 0 0).toNat + o.cursor
  let ioff := (o.c.getD 2 0).toNat
  let k := o.cert.toNat
  match readChunk s (o.reader core) o.b j z with
  | .error f => f.unit
  | .ok ch =>
    let n := ch.elems.length
    let last := decide (chunkCount ctl ≤ o.cursor + 1)
    if writeHeld (s.core core) o (o.a + k * z) (n * z) || writeHeld (s.core core) o (ioff + 16 + 4 * k) (4 * n)
        || (last && writeHeld (s.core core) o ioff 16) then .held
    else
      let s := opWrite (engineSeen s (o.reader core) (chunkSpans s (o.reader core) o.b j z ch)) core o (o.a + k * z) (ch.elems.flatMap (·.2)) false
      let s := opWrite s core o (ioff + 16 + 4 * k) (ch.elems.flatMap (fun x => natLe 4 (128 * j + x.1))) false
      let s := if last then opWrite s core o ioff (natLe 4 (k + n) ++ List.replicate 12 0) true else s
      .did s { o with cursor := o.cursor + 1, cert := BitVec.ofNat 32 (k + n) } last

/-! ### Row gathers (R220) -/

/-- Index list offset, row count, row length and stride. -/
def gatN (o : OpEntry) : Nat := (o.c.getD 1 0).toNat
def gatR (o : OpEntry) : Nat := (o.c.getD 2 0).toNat

/-- The index list as the operation reads it at its start. -/
def gatList (c : Core) (o : OpEntry) : List Nat :=
  (List.range (gatN o)).map (fun j => leNat (opBytes c o ((o.c.getD 0 0).toNat + 4 * j) 4))

/-- One row of `cpygat`. An index list with a soft error at its start has not been read. -/
def unitGat (s : State) (core : Nat) (o : OpEntry) : UnitRes :=
  let r := gatR o
  match (if o.sel.isEmpty then badOff (s.core core) o (o.c.getD 0 0).toNat (4 * gatN o) else none) with
  | some a => .fault [] false cDataErr a
  | none =>
    let o := if o.sel.isEmpty then { o with sel := gatList (coreFor s core o) o } else o
    let va := wrap64 (o.b + o.sel.getD o.cursor 0 * (o.c.getD 3 0).toNat)
    let last := decide (gatN o ≤ o.cursor + 1)
    match engineRead s (o.reader core) va r with
    | .error f => f.unit
    | .ok l =>
      if writeHeld (s.core core) o (o.a + o.cursor * r) r then .held
      else
        let s := if o.cursor = 0 then spadSeen s core o (o.c.getD 0 0).toNat (4 * gatN o) else s
        .did (opWrite (engineSeen s (o.reader core) [(va, r)]) core o (o.a + o.cursor * r) l last) { o with cursor := o.cursor + 1 } last

/-! ### The Winnow pass (R225 to R227) -/

/-- Word `i` of a descriptor. -/
def dw (o : OpEntry) (i : Nat) : Nat := (o.c.getD i 0).toNat
def passN (o : OpEntry) : Nat := field (dw o 0) 0 16
def passFmt (o : OpEntry) : Nat := field (dw o 0) 16 4
def passR (o : OpEntry) : Nat := dw o 1

/-- The sixteen words of the descriptor of a pass. -/
def readDesc (c : Core) (o : OpEntry) : List Word := wordsOfBytes (opBytes c o o.a 64) 16

/-- The scratchpad ranges that a descriptor names: offset, bytes, and whether the pass writes them. -/
def descRanges (o : OpEntry) : List (Nat × Nat × Bool) :=
  let n := passN o
  [(dw o 2, 4 * n, false), (dw o 3, 4 * n, true), (dw o 4, 4 * n, true), (dw o 5, 16, true),
   (dw o 6, n * passR o, true), (dw o 7, n * passR o, true)]

/-- The limit that a descriptor breaks: cause, and the offset that breaks it; for a count, length or format the descriptor's own. -/
def descFault (o : OpEntry) : Option (Byte × Nat) :=
  let r := passR o
  if passN o = 0 || decide (16384 < passN o) || decide (2 < passFmt o) || field (dw o 0) 20 12 != 0
      || r % 16 != 0 || decide (r < 16) || decide (4096 < r) || (passFmt o != 0 && r % (128 * passFmt o) != 0) then
    some (cShape, o.a)
  else match (descRanges o).find? (fun x => x.1 % 16 != 0) with
  | some x => some (cAlign, x.1)
  | none => ((descRanges o).find? (fun x => decide (o.len < x.1 + x.2.1))).map (fun x => (cSpRange, x.1))

/-- The operation with its descriptor read and its further ranges taken. -/
def enterPass (c : Core) (o : OpEntry) : OpEntry :=
  let o := { o with c := readDesc c o }
  { o with ranges := o.ranges ++ (descRanges o).map (fun x =>
      { write := x.2.2, lo := o.base + x.1, hi := o.base + x.1 + x.2.1 }) }

/-- What the two stages find, in order of the neurons (R226). -/
structure Lists where
  sel : List Nat
  rep : List Nat
  cert : Nat
  deriving DecidableEq, Repr

/-- The check of one neuron: its bound u (R226). -/
def passBound (o : OpEntry) (score beta gamma : Nat) : Nat :=
  let add (x y : Nat) : Nat := (fpAdd .f32 .ru 0 false x y).1
  let mul (x y : Nat) : Nat := (fpMul .f32 .ru 0 false x y).1
  let nan (x : Nat) : Bool := (Fmt.f32.decode x).isNan
  let t := mul (fpSign .f32 false beta) (dw o 12)
  let t := add score t
  let t := add t (dw o 14)
  let t := add t (fpSign .f32 true (dw o 13))
  let t := if nan t then t else fpMinMax .f32 true 0 t
  mul t (fpSign .f32 false gamma)

/-- The table words that the check stage reads for a neuron. -/
def neuronSpans (o : OpEntry) (i : Nat) : List (Nat × Nat) := [(wrap64 (o.b + dw o 8 + 4 * i), 4), (wrap64 (o.b + dw o 9 + 4 * i), 4)]

/-- The table words that the check stage reads: of every neuron below `n` that the select stage left (R226). -/
def tableSpans (o : OpEntry) (sel : List Nat) (n : Nat) : List (Nat × Nat) :=
  ((List.range n).filter (fun i => !sel.contains i)).flatMap (neuronSpans o)

/-- Runs the select and check stages over neurons `i` up (R226). A fault of a table ends them. -/
def passLists (s : State) (core : Nat) (o : OpEntry) : Nat → Nat → Lists → Except EngineFault Lists
  | 0, _, l => .ok { l with sel := l.sel.reverse, rep := l.rep.reverse }
  | k + 1, i, l =>
    let score := leNat (opBytes (coreFor s core o) o (dw o 2 + 4 * i) 4)
    if (Fmt.f32.decode score).isNan || cmpFp .f32 .ge score (dw o 13) then
      passLists s core o k (i + 1) { l with sel := i :: l.sel }
    else match readAfter (tableSpans o l.sel i) (engineRead s (o.reader core) (wrap64 (o.b + dw o 8 + 4 * i)) 4) with
    | .error f => .error f
    | .ok beta => match readAfter (tableSpans o l.sel i ++ (neuronSpans o i).take 1)
        (engineRead s (o.reader core) (wrap64 (o.b + dw o 9 + 4 * i)) 4) with
      | .error f => .error f
      | .ok gamma =>
        let u := passBound o score (leNat beta) (leNat gamma)
        if (Fmt.f32.decode u).isNan || cmpFp .f32 .gt u (dw o 15) then
          passLists s core o k (i + 1) { l with rep := i :: l.rep }
        else passLists s core o k (i + 1) { l with cert := (fpAdd .f32 .ru 0 false l.cert u).1 }

/-- Row `i` of the projection at an offset, dense (R225). -/
def passRow (s : State) (core : Nat) (o : OpEntry) (off i : Nat) : Except EngineFault (List Byte) :=
  let r := passR o
  if passFmt o = 0 then engineRead s (o.reader core) (wrap64 (o.b + off + i * r)) r
  else
    let z := passFmt o
    let c := r / (128 * z)
    let at_ := wrap64 (o.b + off)
    (List.range c).foldl (fun (acc : Except EngineFault (List Byte)) k => match acc with
      | .error f => .error f
      | .ok l => match readAfter ((List.range k).flatMap (fun j => chunkReads s (o.reader core) at_ (i * c + j) z))
          (readChunk s (o.reader core) at_ (i * c + k) z) with
        | .error f => .error f
        | .ok ch => .ok (l ++ ch.dense z)) (.ok [])

/-- What `passRow` reads, where nothing faults. -/
def rowSpans (s : State) (core : Nat) (o : OpEntry) (off i : Nat) : List (Nat × Nat) :=
  let r := passR o
  if passFmt o = 0 then [(wrap64 (o.b + off + i * r), r)]
  else
    let z := passFmt o
    let c := r / (128 * z)
    (List.range c).flatMap (fun k => chunkReads s (o.reader core) (wrap64 (o.b + off)) (i * c + k) z)

/-- The lists of neurons a list of words. -/
def listBytes (l : List Nat) : List Byte := l.flatMap (natLe 4)

/-- One row, up for an even cursor and down for an odd one, of the neurons listed; it is written `shift` rows further on. -/
def unitRow (s : State) (core : Nat) (o : OpEntry) (rows : List Nat) (shift : Nat) : UnitRes :=
  let j := o.cursor / 2
  let up := o.cursor % 2 == 0
  match passRow s core o (if up then dw o 10 else dw o 11) (rows.getD j 0) with
  | .error f => f.unit
  | .ok l =>
    let last := decide (2 * rows.length ≤ o.cursor + 1)
    let off := (if up then dw o 6 else dw o 7) + (shift + j) * passR o
    if writeHeld (s.core core) o off (passR o) then .held
    else .did (opWrite (engineSeen s (o.reader core) (rowSpans s core o (if up then dw o 10 else dw o 11) (rows.getD j 0))) core o off l last)
      { o with cursor := o.cursor + 1 } last

/-- Two operations are of one block. An adopted operation is neither of the block that issued it nor of the one that adopted it (log entry
85, DESIGN CHOICE). -/
def sameBlock (a b : OpEntry) : Bool := a.launch == b.launch && a.blk == b.blk && a.slot == b.slot

/-- An earlier unfinished operation of the same block, or a `qpop` of it that is not complete, stands in the way of some ranges
(R168, R257). -/
def rangeConflict (c : Core) (o : OpEntry) (rs : List SpRange) : Bool :=
  let meets (l : List SpRange) : Bool := l.any (fun r => rs.any (fun q => (q.write || r.write) && overlap q.lo q.hi r.lo r.hi))
  c.ops.vals.any (fun x => !x.state.finished && sameBlock x o && decide (x.seq < o.seq) && meets x.ranges)
    || (match c.blocks.get? o.slot with
      | none => false
      | some b => b.id == o.owner && meets (b.cords.vals.flatMap (fun x => x.inflight.filterMap (·.range))))

/-- The further ranges of a pass can be taken: none is in its way, and the scoreboard has room (R257). -/
def passFits (c : Core) (o o' : OpEntry) : Bool :=
  !rangeConflict c o o'.ranges && decide (scoreCount c + (o'.ranges.length - o.ranges.length) ≤ Config.scoreboardEntries)

/-- The replay operation takes the lists that its pass has found (R226). -/
def giveLists (s : State) (core : Nat) (o : OpEntry) : State :=
  match o.pair with
  | none => s
  | some t => match (s.core core).ops.get? (entryOf t) with
    | none => s
    | some r =>
      if r.token == t && !r.state.finished then
        setOp s core (entryOf t) { r with c := o.c, sel := o.sel, repl := o.repl, listed := true }
      else s

/-- The unit of a pass that reads its descriptor where a soft error kept it from being read, and finds the lists. -/
def unitLists (s : State) (core : Nat) (o : OpEntry) : UnitRes :=
  let c := coreFor s core o
  match (if o.c.isEmpty then badOff c o o.a 64 else none) with
  | some a => .fault [] false cDataErr a
  | none =>
    let o' := if o.c.isEmpty then enterPass c o else o
    match descFault o' with
    | some (e, a) => .fault [] true e a
    | none =>
    if o.c.isEmpty && !passFits c o o' then .held
    else
    let o := o'
    match badOff c o (dw o 2) (4 * passN o) with
    | some a => .fault [] false cDataErr a
    | none => match passLists s core o (passN o) 0 { sel := [], rep := [], cert := 0 } with
    | .error f => f.unit
    | .ok l =>
      if writeHeld c o (dw o 3) (4 * l.sel.length) || writeHeld c o (dw o 4) (4 * l.rep.length)
          || writeHeld c o (dw o 5) 16 then .held
      else
        let o := { o with sel := l.sel, repl := l.rep, cert := BitVec.ofNat 32 l.cert, listed := true }
        let s := spadSeen (spadSeen (engineSeen s (o.reader core) (tableSpans o l.sel (passN o))) core o o.a 64) core o (dw o 2) (4 * passN o)
        let s := opWrite s core o (dw o 3) (listBytes l.sel) false
        let s := opWrite s core o (dw o 4) (listBytes l.rep) false
        let s := opWrite s core o (dw o 5) (listBytes [l.sel.length, l.rep.length, l.cert, 0]) l.sel.isEmpty
        .did (giveLists s core o) o l.sel.isEmpty

/-! ### Overlay pages (R228) -/

/-- The record an overlay load works on. -/
def loadRec (c : Core) (o : OpEntry) : Option Residency := c.res.find? (fun r => r.is o.ctx o.caddr)

/-- Writes a page of the code store; its words hold no error any longer (R265). -/
def writePage (c : Core) (page : Nat) (l : List Byte) : Core :=
  { c with code := (c.code.clear (page * Config.pageBytes) ((page + 1) * Config.pageBytes)).write (page * Config.pageBytes) l
           bad := c.bad.filter (fun e => !(e.1 == .codeStore && e.2 * 8 / Config.pageBytes == page))
           soft := c.soft.filter (fun e => !(e.1 == .codeStore && e.2 * 8 / Config.pageBytes == page)) }

/-- Loads the next page of a record, whose pages are allocated. -/
def loadPage (s : State) (core : Nat) (r : Residency) : Except EngineFault State :=
  let va := wrap64 (r.image + r.done * Config.pageBytes)
  match engineRead s (loaderOf core r.ctx) va Config.pageBytes with
  | .error f => .error f
  | .ok l =>
    let s := engineSeen s (loaderOf core r.ctx) [(va, Config.pageBytes)]
    let c := writePage (s.core core) (r.pages.getD r.done 0) l
    .ok (s.setCore core { c with res := c.res.map (fun x => if x.order == r.order then { x with done := x.done + 1 } else x) })

/-- One page of an overlay load. The check of the digest, which ends it, is a step of its own. -/
def unitPage (s : State) (core : Nat) (o : OpEntry) : UnitRes :=
  match loadRec (s.core core) o with
  | none => .held
  | some r =>
    if r.resident || decide (r.npages ≤ r.done) then .held
    else match loadPage s core r with
    | .error f => f.unit
    | .ok s => .did s { o with cursor := r.done + 1 } false

/-! ### One unit of any operation -/

/-- The next unit of a RUNNING operation; a collective has none. -/
def workUnit (s : State) (core e : Nat) (o : OpEntry) : UnitRes :=
  if entryBad (s.core core) e then .fault [] true cDataErr 0
  else match o.kind with
  | .cpy fn =>
    if fn = 0 || fn = 4 then unitIn s core o (copyLen fn o)
    else if fn = 1 || fn = 5 then unitOut s core o (copyLen fn o)
    else if fn = 2 then unitCk s core o else unitCkc s core o
  | .cpygat => unitGat s core o
  | .wnw => if o.listed then unitRow s core o o.sel 0 else unitLists s core o
  | .replay => unitRow s core o o.repl o.sel.length
  | .ovlld => unitPage s core o
  | .mred _ | .coll _ => .held

/-! ### Start (R214, R257) -/

/-- The engine has room for one more operation (R214). The replay operation of a pass that has finished takes no room from another pass (log
entry 86, DESIGN CHOICE). -/
def engineRoom (c : Core) (o : OpEntry) : Bool :=
  let run (f : OpEntry → Bool) : Nat := (c.ops.vals.filter (fun x => x.state == .running && f x)).length
  match o.kind with
  | .cpy _ | .cpygat => decide (run (fun x => x.kind.engine == 0) < 8)
  | .mred _ | .coll _ => decide (run (fun x => x.kind.engine == 1) < 16)
  | .wnw => decide (run (fun x => x.kind == .wnw) < 1)
  | .replay => true
  | .ovlld => decide (run (fun x => x.kind == .ovlld) < 2)

/-- A tile copy's wait (R181, R219): the issuing cord's earlier instances on the tile have closed, and its earlier cord writes
are applied. -/
def tileClear (c : Core) (o : OpEntry) (p : Nat) : Bool :=
  !(c.tile p).slots.any (fun i => i.arrivals.any (fun a => a.cord == o.cord && decide (a.stamp < o.seq)))
    && !c.ops.vals.any (fun x => x.tile == some p && sameBlock x o && x.cord == o.cord && decide (x.seq < o.seq)
      && !x.state.finished)
    && !tileBusy c p && !tileBegun (c.tile p) none
    && !(o.kind == .cpy 4 && (match tileOwner c p with
      | none => false
      | some (_, b, n) => writeBefore c p b n o.cord o.seq))

/-- A load can have its pages (R302): those of a resident shared record, once the code map has room, or free ones. -/
def loadRoom (c : Core) (ctx : Nat) (r : Residency) : Bool :=
  match shareable c ctx r.shared r.digest r.npages with
  | some x => (withRoom c x.order r.npages).isSome
  | none => decide (r.npages ≤ (freePages (reclaim r.npages Config.codePages c)).length)

/-- What each kind of operation further waits for. -/
def kindReady (c : Core) (o : OpEntry) : Bool :=
  match o.kind with
  | .cpy fn => if fn < 4 then true else (match o.tile with
    | none => true
    | some p => tileClear c o p)
  | .wnw =>
    let o' := enterPass c o
    (badOff c o o.a 64).isSome || (descFault o').isSome || passFits c o o'
  | .replay => o.listed
  | .ovlld =>
    o.absent || (match loadRec c o with
      | none => true
      | some r => r.resident || (!c.ops.vals.any (fun x => x.kind == .ovlld && x.state == .running && x.ctx == o.ctx && x.caddr == o.caddr)
          && (!r.pages.isEmpty || loadRoom c o.ctx r)))
  | _ => true

/-- The earlier operations of the same cord on the same engine (R214): a detached one no longer once its block has left the core, and an
adopted one never (log entry 85, DESIGN CHOICE). -/
def earlierOps (c : Core) (o : OpEntry) : List OpEntry :=
  c.ops.vals.filter (fun x => sameBlock x o && x.cord == o.cord && x.kind.engine == o.kind.engine && decide (x.seq < o.seq))

/-- The operation's block is being saved (R328). -/
def blockSaves (c : Core) (o : OpEntry) : Bool :=
  o.det.isNone && (match c.blocks.get? o.slot with
    | none => false
    | some b => b.id == o.owner && (match b.status with
      | .saving _ => true
      | _ => false))

/-- A save waits for the operation to finish (R328). -/
def saveAwaits (o : OpEntry) : Bool := !o.state.finished && (o.kind.engine == 1 || o.kind == .ovlld)

/-- The operation `x` of the same block stands in the way of `o`: by its after-token, as the pass that has still to find the lists of a
replay, by the order of an engine, by a range or by a tile (R214, R219, R226, R257). -/
def standsBefore (c : Core) (o x : OpEntry) : Bool :=
  sameBlock x o && !x.state.finished && ((o.after == x.token && o.after != 0)
    || (o.kind == .replay && !o.listed && o.pair == some x.token)
    || (decide (x.seq < o.seq) && (((earlierOps c o).contains x && (!x.started || o.ordf))
      || x.ranges.any (fun r => o.ranges.any (fun q => (q.write || r.write) && overlap q.lo q.hi r.lo r.hi))
      || (o.tile.isSome && x.tile == o.tile))))

/-- Operations, and all that stand in their way, `fuel` steps on. -/
def allBefore (c : Core) : Nat → List OpEntry → List OpEntry
  | 0, l => l
  | fuel + 1, l => allBefore c fuel (l ++ c.ops.vals.filter (fun x => !l.contains x && l.any (fun o => standsBefore c o x)))

/-- An operation that a save waits for cannot finish before this one has gone on (log entry 19, DEDUCED). -/
def saveNeeds (c : Core) (o : OpEntry) : Bool :=
  (allBefore c c.ops.entries.length (c.ops.vals.filter (fun x => sameBlock x o && saveAwaits x))).contains o

/-- The operation's block is being saved, and the operation stays as it is: QUEUED or SUSPENDED, or SUSPENDED at its next unit boundary
(R328). Collectives and overlay loads go on, since the save waits for them, and so does what they wait for. -/
def opSaves (c : Core) (o : OpEntry) : Bool := blockSaves c o && !saveNeeds c o

/-- A copy or gather stops at its next unit boundary, for a save (R328). -/
def saveStops (c : Core) (o : OpEntry) : Bool := o.kind.engine == 0 && opSaves c o

/-- The operation that the after-token names has finished DONE (R214): on the core that it was issued on, wherever the block has gone since
(R315). -/
def afterDone (s : State) (o : OpEntry) : Bool :=
  o.after == 0 || (match (s.core o.afterCore).ops.get? (entryOf o.after) with
    | none => true
    | some x => x.token != o.after || x.state == .done)

/-- The start conditions of R214 and R257, but for the after-token, the choice among operations and the collectives' own. -/
def mayStart (c : Core) (o : OpEntry) : Bool :=
  o.state == .queued && !o.pause && !opSaves c o
    && (earlierOps c o).all (fun x => x.started || x.state.finished)
    && (!o.ordf || (earlierOps c o).all (fun x => x.state.finished))
    && engineRoom c o && !rangeConflict c o o.ranges && kindReady c o

/-- Allocates the pages of a record that an overlay load starts to fill, or joins it to a resident shared one (R302). -/
def takePages (c : Core) (ctx caddr : Nat) : Core :=
  match c.res.find? (fun r => r.is ctx caddr) with
  | none => c
  | some r =>
    if r.resident || !r.pages.isEmpty then c
    else match shareable c ctx r.shared r.digest r.npages with
    | some x => (match withRoom c x.order r.npages with
      | none => c
      | some c =>
        let i := ((r.sharers.find? (fun y => y.1 == ctx)).map (·.2.1)).getD 0
        joinRecord (freeRes c (fun y => y.order == r.order)) ctx i caddr x r.tokens r.holds)
    | none =>
      let c := reclaim r.npages Config.codePages c
      let ps := (freePages c).take r.npages
      mapRes c ctx caddr (fun r => if r.resident then r else { r with pages := ps })

/-- A tile copy into the tile is the issuing cord's write, from its issue on (R182, R219). -/
def tileWrote (c : Core) (o : OpEntry) : Core :=
  match o.kind, o.tile, c.blocks.get? o.slot with
  | .cpy 4, some p, some b => if o.det.isNone then c.setTile p ((c.tile p).wrote b o.cord) else c
  | _, _, _ => c

/-- An operation that starts sees every write of the operation that its after-token names (R215), and its entry is read (R265). -/
def starting (s : State) (core e : Nat) (o : OpEntry) : State :=
  noteRead (if o.after = 0 then s else s.hear (o.agent core) .sys [.op o.afterCore o.after]) core .opTable (64 * e) 64

/-- An operation other than a collective starts (R210): what its start itself does follows. -/
def startOp (s : State) (core e : Nat) (o : OpEntry) : State :=
  let c := coreFor s core o
  let o := { o with state := .running, started := true }
  let fail (cause : Byte) (a : Nat) : State := finishOp s core e { o with cause := cause, addr := a } .failed
  match o.kind with
  | .wnw =>
    if (badOff c o o.a 64).isSome then setOp s core e o
    else
      let o := enterPass c o
      match descFault o with
      | some (cause, a) => fail cause a
      | none => setOp s core e o
  | .replay => if o.repl.isEmpty then finishOp s core e o .done else setOp s core e o
  | .ovlld =>
    if o.absent then fail cOvlAbsent 0
    else match loadRec c o with
    | none => fail cOvlAbsent 0
    | some r =>
      if r.resident then finishOp s core e o .done
      else
        let s := s.setCore core (takePages (s.core core) o.ctx o.caddr)
        match loadRec (s.core core) o with
        | none => fail cOvlAbsent 0
        | some r => if r.resident then finishOp s core e o .done else setOp s core e { o with cursor := r.done }
  | .cpygat =>
    setOp s core e (if (badOff c o (o.c.getD 0 0).toNat (4 * gatN o)).isSome then o else { o with sel := gatList c o })
  | _ => setOp s core e o

/-! ### Units as steps (R210, R221, R233) -/

/-- An operation of a core. -/
def opAt (s : State) (core e : Nat) : Option OpEntry := (s.core core).ops.get? e

/-- Nothing of the core counts as stalled any longer. -/
def woke (s : State) : Out := .next { s with stalled := [] }

/-- A RUNNING operation has a unit that can be worked now. -/
def hasUnit (s : State) (core e : Nat) (o : OpEntry) : Bool :=
  o.state == .running && !o.cancel && !saveStops (s.core core) o && (match workUnit s core e o with
    | .held => false
    | _ => true)

/-- The entry that an engine serves next: of the RUNNING operations with a unit to work those of highest priority, and of these in turn the
one after the last served (R214; log entry 77, DESIGN CHOICE for the order of a turn). -/
def engineNext (s : State) (core engine : Nat) : Option Nat :=
  let l := (opsOf (s.core core)).filter (fun x => x.2.kind.engine == engine && hasUnit s core x.1 x.2)
  let top := l.foldl (fun m x => max m x.2.prio) 0
  let es := (l.filter (fun x => x.2.prio == top)).map (·.1)
  match (s.core core).served.get? engine with
  | none => leastOf es
  | some k => match leastOf (es.filter (fun e => decide (k < e))) with
    | some e => some e
    | none => leastOf es

/-- The engine has served an entry, whose words count the errors that the code corrects (R214, R265). -/
def served (s : State) (core e : Nat) (o : OpEntry) : State :=
  let s := noteRead s core .opTable (64 * e) 64
  s.setCore core { s.core core with served := (s.core core).served.set o.kind.engine e }

/-- R210, R233: at a unit boundary a pending cancel ends the operation, and a save suspends it; otherwise it does, in its turn (R214), a
unit that is not its last. -/
def execUnitBoundary (core e : Nat) (s : State) : Out :=
  match opAt s core e with
  | none => .next s
  | some o =>
    if o.state != .running then .next s
    else if o.cancel then woke (finishOp s core e o .cancelled)
    else if saveStops (s.core core) o then woke (setOp s core e { o with state := .suspended })
    else if engineNext s core o.kind.engine ≠ some e then .next s
    else match workUnit (served s core e o) core e o with
    | .did s o false => woke (setOp s core e o)
    | _ => .next s

/-- R210: an operation performs its last write and becomes DONE. -/
def execOpFinish (core e : Nat) (s : State) : Out :=
  match opAt s core e with
  | none => .next s
  | some o =>
    if o.state != .running || engineNext s core o.kind.engine ≠ some e then .next s
    else match workUnit (served s core e o) core e o with
    | .did s o true => woke (finishOp s core e o .done)
    | _ => .next s

/-- The record whose load is suspended without an operation, under the number that system software gives it: 512 and its place (log
entry 76, DESIGN CHOICE). -/
def suspRec (c : Core) (e : Nat) : Option Residency :=
  if e < 512 then none else (c.res[e - 512]?).filter (fun r => r.susp.isSome)

/-- R210: system software replays a SUSPENDED operation, or a suspended load (R308), from its cursor. -/
def execOpReplay (core e : Nat) (s : State) : Out :=
  match opAt s core e with
  | none => (match suspRec (s.core core) e with
    | none => .next s
    | some r =>
      let c := s.core core
      woke (s.setCore core { c with res := c.res.map (fun x => if x.order == r.order then { x with susp := none } else x) }))
  | some o =>
    if o.state != .suspended || o.pause || opSaves (s.core core) o || !engineRoom (s.core core) o then .next s
    else woke (setOp s core e { o with state := .running, cause := 0, addr := 0, told := false, escalated := none })

end Sys2Proof.Machine
end

