-- ==== Sys2Proof/Machine/Overlays.lean ====
section
/-!
DEFINITION. How a fault ends a launch (16_faults.md R325), and the overlay loader: the end of a load, the reload of a damaged page,
and the end of a suspended operation (09_engines.md R210, R228; 11_memories.md R265; 14_tables.md R301, R302, R308).
-/

namespace Sys2Proof.Machine

/-! ### Cancelling, and ending a launch -/

/-- What `opcancel` does to an operation (R210, R233): a RUNNING one with units ends at its next unit boundary, any other at once. -/
def cancelOp (s : State) (core e : Nat) : State :=
  match opAt s core e with
  | none => s
  | some o =>
    if o.state.finished then s
    else if o.state == .running && o.kind.engine != 1 && o.kind != .ovlld then setOp s core e { o with cancel := true }
    else finishOp s core e o .cancelled

/-- Cancels the operations attached to a block (R325, R332). -/
def cancelBlockOps (s : State) (core slot : Nat) : State :=
  ((s.core core).ops.entries.filter (fun x => x.2.slot == slot && x.2.det.isNone && !x.2.state.finished)).foldl
    (fun s x => cancelOp s core x.1) s

/-- A fault has ended a launch: its failing block is the lowest, and its cause that of this block's first such fault, which depends on no
order of moves (R325, R333; log entry 78, DEDUCED for the cause). -/
def failLaunch (s : State) (n blk : Nat) (cause : Byte) : State :=
  match s.launches.get? n with
  | none => s
  | some l =>
    s.setLaunch n { l with
      status := .failed
      cause := if l.status == .failed && l.fblk.all (fun x => decide (x ≤ blk)) then l.cause else cause
      fblk := some (match l.fblk with
        | none => blk
        | some x => min x blk) }

/-- Discards the open instances of some tiles. -/
def dropInstances (c : Core) (ps : List Nat) : Core :=
  { c with tiles := c.tiles.map (fun p t => if ps.contains p then { t with slots := [] } else t) }

/-- A block is ended by a fault (R325): its cords stop issuing, its operations are cancelled, its open instances discarded, and
it passes no ticket. -/
def endBlock (s : State) (core slot : Nat) (cause : Byte) : State :=
  match s.block? core slot with
  | none => s
  | some b =>
    if b.status == .ended then s
    else
      let s := s.setBlock core slot { b with status := .ended }
      let s := s.setCore core (dropInstances (s.core core) b.tiles)
      let s := failLaunch s b.launch b.index cause
      let s := match s.launches.get? b.launch with
        | none => s
        | some l => if b.task.isSome then s else s.setLaunch b.launch { l with endedBlocks := b.rank :: l.endedBlocks }
      cancelBlockOps s core slot

/-! ### Loads that fail (R301, R308) -/

/-- Parks the lanes of a context that wait at a `callo` for an overlay (log entry 44, DEDUCED). The `callo` was held and never issued:
sr.icount does not count it (R245; log entry 54, DEDUCED). -/
def parkCallo (s : State) (core ctx caddr : Nat) (cause : Byte) (tval : Word) : State :=
  let cord (c : Cord) : Cord := match c.calloWait with
    | none => c
    | some (a, ks) => if a == caddr then { c.park (ks.map (fun k => (k, cause, tval))) with calloWait := none } else c
  let c := s.core core
  s.setCore core { c with blocks := c.blocks.map (fun _ b =>
    if b.ctx == ctx then { b with cords := b.cords.map (fun _ c => cord c) } else b) }

/-- The unfinished overlay loads of a record. -/
def loadOps (c : Core) (r : Residency) : List (Nat × OpEntry) :=
  c.ops.entries.filter (fun x => x.2.kind == .ovlld && !x.2.state.finished && r.is x.2.ctx x.2.caddr)

/-- A base-overlay load that fails is served at the context rung (R317): firmware writes the fault queue entry (R324), and the block
ends (R299, R308, R325). -/
def baseFault (s : State) (core slot addr : Nat) (cause : Byte) : State :=
  match s.block? core slot with
  | none => s
  | some b => if b.status == .ended then s
    else endBlock (faultEntry s b.ctx b.index (addr % 2 ^ 32) 0 core 2 cause.toNat) core slot cause

/-- A block that waits for an overlay before it runs: its base overlay, or one that its restore must load first (R15, R301). -/
def waitsFor (b : Block) (mine : Nat → Bool) : Bool :=
  match b.status with
  | .reserved => b.base.any mine
  | .restoring => b.base.any mine || b.resid.any mine
      || b.cords.vals.any (fun c => c.lanes.vals.any (fun l => l.frames.any (fun f => f.hold.any mine)))
  | _ => false

/-- A load fails: every token's load finishes FAILED, waiting `callo` lanes park, blocks that wait for it to start or to go on
end, and the pages and the record are freed (R299, R301, R308). `unit` says that a unit of the load has met the fault, which is then
offered at the context rung first (R317); a digest that differs is no unit's. -/
def failLoad (s : State) (core : Nat) (r : Residency) (unit : Bool) (cause : Byte) (addr : Nat) : State :=
  let ops := loadOps (s.core core) r
  let s := if ops.isEmpty && cause == cDataErr then logData s core r.ctx 0 (addr % 2 ^ 32) 0 else s
  let s := ops.foldl (fun s x =>
    if unit then failUnit s core x.1 x.2 cause addr
    else finishOp s core x.1 { x.2 with cause := cause, addr := addr } .failed) s
  let s := r.sharers.foldl (fun s x => parkCallo s core x.1 x.2.2 cause (BitVec.ofNat 32 r.image)) s
  let mine (b : Block) (a : Nat) : Bool := r.is b.ctx a
  let c := s.core core
  let waits := c.blocks.entries.filter (fun x => waitsFor x.2 (mine x.2))
  let c := { c with blocks := c.blocks.map (fun _ b => { b with resid := b.resid.filter (fun a => !mine b a) }) }
  let s := s.setCore core (freeRes c (fun x => x.order == r.order))
  let s := { s with launches := s.launches.map (fun _ l =>
    { l with bases := l.bases.filter (fun x => !(x.1 == core && r.is l.ctx x.2)) }) }
  waits.foldl (fun s x => baseFault s core x.1 addr cause) s

/-! ### The end of a load (R228, R301, R302) -/

/-- Loads what is left of a record that no `ovlld` drives: a base overlay or a demand load. A fault ends it, after the pages before it. -/
def loadRest (core order : Nat) : Nat → State → State × Option EngineFault
  | 0, s => (s, none)
  | fuel + 1, s => match (s.core core).res.find? (fun r => r.order == order) with
    | none => (s, none)
    | some r =>
      if r.npages ≤ r.done then (s, none)
      else match loadPage s core r with
      | .error f => (s, some f)
      | .ok s => loadRest core order fuel s

/-- The bytes of a record's pages, as they stand in the code store. -/
def imageBytes (c : Core) (r : Residency) : List Byte :=
  r.pages.flatMap (fun p => c.code.read (p * Config.pageBytes) Config.pageBytes)

/-- The load of a record is complete: its digest decides (R301). While the code map has no room for its entries, idle records go;
where none are left, the load waits (R300, R302). -/
def endLoad (s : State) (core : Nat) (r : Residency) : State :=
  let c := s.core core
  let n := r.npages * r.sharers.length
  if digestOf (imageBytes c r) ≠ r.digest then failLoad s core r false cPerm r.image
  else match withRoom c r.order n with
  | none => s
  | some c =>
    let c := { c with res := c.res.map (fun x => if x.order == r.order then { x with resident := true } else x) }
    let c := r.sharers.foldl (fun c x => mapPages c x.1 x.2.1 x.2.2 r.pages) c
    let s := s.setCore core c
    let s := (loadOps (s.core core) r).foldl (fun s x =>
      if x.2.started || (x.2.after == 0 && !x.2.ordf) then finishOp s core x.1 x.2 .done else s) s
    s.setCore core (freeEvicted (s.core core))

/-- A residency token of an `ovlld` holds the overlay of a record (R301). -/
def tokened (c : Core) (r : Residency) : Bool := c.blocks.vals.any (fun b => b.resid.any (r.is b.ctx))

/-- A load that no operation drives, and that holds a token of `ovlld`, suspends and is reported at the context rung, for the block that
holds the token, with the token if its entry is still there (R301, R308). -/
def suspendLoad (s : State) (core : Nat) (r : Residency) (cause : Byte) (a : Nat) : State :=
  let c := s.core core
  let tok := ((c.ops.vals.find? (fun o => o.kind == .ovlld && o.holds && r.is o.ctx o.caddr)).map (·.token)).getD 0
  let (ctx, blk) := match c.blocks.vals.find? (fun b => b.resid.any (r.is b.ctx)) with
    | none => (r.ctx, 0)
    | some b => (b.ctx, b.index)
  let s := if cause = cDataErr then logData s core ctx blk (a % 2 ^ 32) tok.toNat else s
  let s := s.setCore core { c with res := c.res.map (fun x => if x.order == r.order then { x with susp := some (cause, a) } else x) }
  faultEntry s ctx blk (a % 2 ^ 32) tok.toNat core 2 cause.toNat

/-- R301: the load of the `i`-th residency record ends, if it can: an `ovlld` that drives it has loaded its pages, or no such
operation drives it and the loader fetches what is left. A fault suspends the load where a token holds it, and fails it elsewhere (R308), as
an image address beyond bit 51 does everywhere (R221). -/
def execOverlayDigestCheck (core i : Nat) (s : State) : Out :=
  match (s.core core).res[i]? with
  | none => .next s
  | some r =>
    if r.resident || r.susp.isSome then .next s
    else if r.npages ≤ r.done then
      if (loadOps (s.core core) r).any (fun x => x.2.state == .suspended) then .next s else woke (endLoad s core r)
    else if !(loadOps (s.core core) r).isEmpty then .next s
    else
      let s' := match r.sharers with
        | x :: _ => s.setCore core (takePages (s.core core) x.1 x.2.2)
        | [] => s
      match (s'.core core).res.find? (fun x => x.order == r.order) with
      | none => woke s'
      | some r' =>
        if r'.pages.length < r'.npages then .next s
        else
        let (t, fault) := loadRest core r.order r.npages s'
        match (t.core core).res.find? (fun x => x.order == r.order), fault with
        | none, _ => .next s
        | some x, none => woke (endLoad t core x)
        | some x, some f =>
          let t := f.touched.foldl (fun t va => touch t core false r.ctx va) t
          woke (if !f.fatal && tokened (t.core core) x then suspendLoad t core x f.cause f.addr else failLoad t core x true f.cause f.addr)

/-- R210: system software ends a SUSPENDED operation FAILED. The end of an overlay load fails the load for all that wait (R308). -/
def execOpEndFailed (core e : Nat) (s : State) : Out :=
  match opAt s core e with
  | none => (match suspRec (s.core core) e with
    | none => .next s
    | some r => match r.susp with
      | none => .next s
      | some (cause, a) => woke (failLoad s core r true cause a))
  | some o =>
    if o.state != .suspended || o.pause || opSaves (s.core core) o then .next s
    else match o.kind, loadRec (s.core core) o with
    | .ovlld, some r => woke (failLoad s core r true o.cause o.addr)
    | _, _ => woke (finishOp s core e o .failed)

/-- An overlay load whose overlay no residency token of `ovlld` holds any longer: it fails where another suspends (R308). -/
def tokenless (c : Core) (o : OpEntry) : Bool :=
  o.kind == .ovlld && (match loadRec c o with
    | none => false
    | some r => !tokened c r)

/-- R221: a unit meets a fault and the operation suspends at its start, or ends FAILED where the fault says so (R317); an overlay load that cannot
go on fails for all that wait for it (R308). -/
def execOpSuspend (core e : Nat) (s : State) : Out :=
  match opAt s core e with
  | none => .next s
  | some o =>
    if o.state != .running || o.cancel || saveStops (s.core core) o || engineNext s core o.kind.engine ≠ some e then .next s
    else match workUnit s core e o with
    | .fault l true cause a =>
      let s := l.foldl (fun s va => touch s core false o.ctx va) (served s core e o)
      (match (if o.kind == .ovlld && !entryBad (s.core core) e then loadRec (s.core core) o else none) with
      | some r => woke (failLoad s core r true cause a)
      | none => woke (failUnit s core e o cause a))
    | .fault l false cause a =>
      let s := l.foldl (fun s va => touch s core false o.ctx va) (served s core e o)
      match (if tokenless (s.core core) o then loadRec (s.core core) o else none) with
      | some r => woke (failLoad s core r true cause a)
      | none =>
      let s := if cause = cDataErr then logData s core o.ctx o.blk (a % 2 ^ 32) o.token.toNat else s
      woke (setOp s core e { o with state := .suspended, cause := cause, addr := a, told := false, escalated := none })
    | _ => .next s

/-! ### Damaged code pages (R265) -/

/-- The address of the first word of an instruction that lies in a damaged page, and so cannot be fetched. -/
def damagedFetch (s : State) (core ctx addr : Nat) : Option Nat :=
  if codeBad s core ctx addr then some addr
  else match codeWord s core ctx addr with
  | none => none
  | some w => if lengthOf w == 8 && codeBad s core ctx (addr + 4) then some (addr + 4) else none

/-- Parks the executing sets that cannot fetch from a page: DATA_ERR, with the code address (R265). Nothing was issued: sr.icount does
not count it (R245; log entry 54, DEDUCED). -/
def parkFetch (s : State) (core page : Nat) : State :=
  let here (ctx a : Nat) : Bool := match codeEntry s core ctx a with
    | none => false
    | some e => e.spage == page
  let cord (b : Block) (c : Cord) : Cord := match c.issueAddr with
    | none => c
    | some a => if c.fetched.any (fun x => x.1 == a) then c else match damagedFetch s core b.ctx a with
      | none => c
      | some x => if here b.ctx x then c.park (c.execSet.map (fun k => (k, cDataErr, BitVec.ofNat 32 x))) else c
  let k := s.core core
  s.setCore core { k with blocks := k.blocks.map (fun _ b =>
    if b.status.issues then { b with cords := b.cords.map (fun _ c => cord b c) } else b) }

/-- R265: the overlay loader reloads a damaged page from its image; `ok` says whether the words it brings are sound. The error of the code
store is logged, though the reload cures it, and so is one that the read of the image meets (R340). -/
def execCodePageReload (core page : Nat) (ok : Bool) (s : State) : Out :=
  let c := s.core core
  if !badWord c .codeStore (page * Config.pageBytes) Config.pageBytes then .next s
  else match c.res.find? (fun r => r.pages.contains page) with
  | none => .next s
  | some r =>
    let i := (r.pages.findIdx? (· == page)).getD 0
    let va := wrap64 (r.image + i * Config.pageBytes)
    let s := logData (countPerf s core 8) core r.ctx 0 va 0
    match engineRead s (loaderOf core r.ctx) va Config.pageBytes with
    | .error f =>
      let t := f.touched.foldl (fun t va => touch t core false r.ctx va) s
      woke (parkFetch (if f.cause = cDataErr then logData t core r.ctx 0 f.addr 0 else t) core page)
    | .ok l =>
      let s := engineSeen s (loaderOf core r.ctx) [(va, Config.pageBytes)]
      if ok then woke (s.setCore core (writePage (s.core core) page l))
      else woke (parkFetch s core page)

end Sys2Proof.Machine
end

