-- ==== Sys2Proof/Machine/Collective.lean ====
section
/-!
DEFINITION. Reductions over the mesh and over Reed links (09_engines.md R222 to R224; 14_tables.md R305), and the start of
operations of every kind (R214).
-/

namespace Sys2Proof.Machine

/-! ### Combine trees (R305) -/

def rtParent (b : Byte) : Nat := (b.extractLsb' 4 3).toNat
/-- The router is in the tree and its core is a member. -/
def rtMem (b : Byte) : Bool := b.getLsbD 7 && decide (rtParent b ≤ 4)
def rtChild (b : Byte) (port : Nat) : Bool := decide (1 ≤ port) && b.getLsbD (port - 1)

/-- The byte of a router. -/
def Tree.at (t : Tree) (n : Nat) : Byte := t.routers.get n 0

/-- The router at a port: 1 north, 2 east, 3 south, 4 west (R305). -/
def neighbour (n port : Nat) : Option Nat :=
  if port = 1 then (if 8 ≤ n then some (n - 8) else none)
  else if port = 2 then (if n % 8 < 7 then some (n + 1) else none)
  else if port = 3 then (if n + 8 < 64 then some (n + 8) else none)
  else if port = 4 then (if 0 < n % 8 then some (n - 1) else none)
  else none

/-- The port of the other end. -/
def opposite (port : Nat) : Nat := (port + 1) % 4 + 1

/-- What a port of a node leads to: the node at the other end, and its port (R305). -/
abbrev Net := Nat → Nat → Option (Nat × Nat)

/-- The routers of a die. -/
def mesh : Net := fun n port => (neighbour n port).map (fun m => (m, opposite port))

/-- The devices, joined by Reed links (R224; log entry 28, DESIGN CHOICE: what the links join). -/
def fabricNet (ws : List Wire) : Net := fun n link => ws.findSome? (fun w =>
  if w.dev == n && w.link == link then some (w.dev', w.link')
  else if w.dev' == n && w.link' == link then some (w.dev, w.link) else none)

namespace Net

/-- The child nodes of a node in ascending order of their ports, with the ports. -/
def children (net : Net) (t : Tree) (n : Nat) : List (Nat × Nat) :=
  ([1, 2, 3, 4].filter (rtChild (t.at n))).filterMap (fun p => (net n p).map (fun m => (p, m.1)))

/-- The members in the subtree of a node. -/
def below (net : Net) (t : Tree) : Nat → Nat → List Nat
  | 0, _ => []
  | fuel + 1, n => (if rtMem (t.at n) then [n] else []) ++ (net.children t n).flatMap (fun c => below net t fuel c.2)

/-- The child nodes behind live ports: their subtrees hold a member (R305). -/
def live (net : Net) (t : Tree) (n : Nat) : List (Nat × Nat) := (net.children t n).filter (fun c => !(net.below t 64 c.2).isEmpty)

/-- Child and parent bytes agree, and one root's subtree holds every member (R305). -/
def good (net : Net) (t : Tree) : Bool :=
  (List.range 64).all (fun n =>
    [1, 2, 3, 4].all (fun p => !rtChild (t.at n) p || (match net n p with
      | none => false
      | some m => rtParent (t.at m.1) == m.2))
    && (rtParent (t.at n) == 0 || decide (4 < rtParent (t.at n)) || (match net n (rtParent (t.at n)) with
      | none => false
      | some m => rtChild (t.at m.1) m.2)))
  && (List.range 64).any (fun n => rtParent (t.at n) == 0
    && ((List.range 64).filter (fun m => rtMem (t.at m))).all (fun m => (net.below t 64 n).contains m))

end Net

/-- The child routers of a router in ascending order of their ports. -/
def childRouters (t : Tree) (n : Nat) : List Nat := (mesh.children t n).map (·.2)

/-- The members in the subtree of a router. -/
def membersBelow (t : Tree) (fuel n : Nat) : List Nat := mesh.below t fuel n

/-- The child routers behind live ports (R305). -/
def liveChildren (t : Tree) (n : Nat) : List Nat := (mesh.live t n).map (·.2)

/-- The members of a tree. -/
def treeMembers (t : Tree) : List Nat := (List.range 64).filter (fun n => rtMem (t.at n))

/-- The bytes of a die's tree agree (R305). -/
def treeGood (t : Tree) : Bool := mesh.good t

/-! ### Packets -/

/-- Fields of the control word (R222). -/
def redId (w : Word) : Nat := field w.toNat 0 16
def redTree (w : Word) : Nat := field w.toNat 16 4
def redCount (w : Word) : Nat := field w.toNat 20 5 + 1
def opCtl (o : OpEntry) : Word := o.c.headD 0

/-- The type of an operation's elements. -/
def OpEntry.redTy (o : OpEntry) : RedTy := match o.kind with
  | .mred t => t
  | .coll t => t
  | _ => .f32

/-- Elements added pairwise: rounded to nearest for f32, wrapping for s32 (R222). -/
def addElems (ty : RedTy) (a b : List Word) : List Word :=
  (a.zip b).map (fun x => match ty with
    | .f32 => BitVec.ofNat 32 (fpAdd .f32 .rn 0 false x.1.toNat x.2.toNat).1
    | .s32 => x.1 + x.2)

/-- The elements of a packet as its type writes them (R43). -/
def canonElems (x : RedTy × List Word) : RedTy × List Word :=
  match x.1 with
  | .f32 => (x.1, x.2.map canon32)
  | .s32 => x

/-- The combination of packets in order; none where types or element counts differ (R222). -/
def combinePackets : List (RedTy × List Word) → Option (RedTy × List Word)
  | [] => none
  | x :: r => r.foldl (fun acc y => match acc with
    | none => none
    | some a => if a.1 == y.1 && a.2.length == y.2.length then some (a.1, addElems a.1 a.2 y.2) else none) (some (canonElems x))

/-- The packet of an operation: its source elements. -/
def ownPacket (c : Core) (o : OpEntry) : RedTy × List Word :=
  (o.redTy, wordsOfBytes (opBytes c o o.b (4 * redCount (opCtl o))) (redCount (opCtl o)))

/-- A member operation that still waits for the result. -/
def waitingMember (s : State) (m : Nat × Nat) (ctl : Nat × Nat) : Option OpEntry :=
  match opAt s m.1 m.2 with
  | none => none
  | some o => if o.state == .running && o.kind.engine == 1 && redTree (opCtl o) == ctl.1 && redId (opCtl o) == ctl.2 then some o else none

/-- Ends the member operations of a reduction FAILED. -/
def failMembers (s : State) (ms : List (Nat × Nat)) (ctl : Nat × Nat) (cause : Byte) (a : Nat) : State :=
  ms.foldl (fun s m => match waitingMember s m ctl with
    | none => s
    | some o => finishOp s m.1 m.2 { o with cause := cause, addr := a } .failed) s

/-- Writes the result to each member's destination; the operations finish DONE (R222), or FAILED where the entry is damaged (R265). Its entry
is read, which counts an error that the code corrects (R265). -/
def deliverResult (s : State) (ms : List (Nat × Nat)) (ctl : Nat × Nat) (x : List Word) : State :=
  ms.foldl (fun s m => match waitingMember s m ctl with
    | none => s
    | some o =>
      if entryBad (s.core m.1) m.2 then failUnit s m.1 m.2 o cDataErr 0
      else finishOp (opWrite (noteRead s m.1 .opTable (64 * m.2) 64) m.1 o o.a (x.flatMap (fun w => natLe 4 w.toNat)) true) m.1 m.2 o .done) s

/-- An open contraction instance holds the destination of some member (R257). -/
def resultHeld (s : State) (ms : List (Nat × Nat)) (ctl : Nat × Nat) : Bool :=
  ms.any (fun m => match waitingMember s m ctl with
    | none => false
    | some o => writeHeld (s.core m.1) o o.a (4 * redCount (opCtl o)))

/-! ### Reductions of a die (R222, R223) -/

/-- The reduction of a tree and an identifier. -/
def redOf (d : Die) (tree id : Nat) : Option Reduction := d.reds.find? (fun r => r.tree == tree && r.id == id)

/-- The state with a reduction replaced, or listed. -/
def putRed (s : State) (d : Nat) (r : Reduction) : State :=
  let x := s.die d
  s.setDie d { x with reds := r :: x.reds.filter (fun y => !(y.tree == r.tree && y.id == r.id)) }

/-- The state without a reduction. -/
def dropRed (s : State) (d tree id : Nat) : State :=
  let x := s.die d
  s.setDie d { x with reds := x.reds.filter (fun y => !(y.tree == tree && y.id == id)) }

/-- A failed reduction is forgotten once every member has sent a packet (R223). -/
def settleRed (s : State) (d : Nat) (r : Reduction) : State :=
  if (treeMembers ((s.die d).trees.get r.tree Tree.fresh)).all (fun m => (r.own.get? m).isSome) then dropRed s d r.tree r.id
  else putRed s d r

/-- A `mred` starts: its packet enters its router; a late packet of a failed reduction ends it (R222, R223). A
soft error in its source ends this member's operation alone: it sends no packet (log entry 43, DESIGN CHOICE). -/
def startMred (s : State) (core e : Nat) (o : OpEntry) : State :=
  let d := dieOf core
  let n := core % Config.coresPerDie
  let tree := redTree (opCtl o)
  let id := redId (opCtl o)
  let o := { o with state := .running, started := true }
  match badOff (s.core core) o o.b (4 * redCount (opCtl o)) with
  | some a => failUnit s core e o cDataErr a
  | none =>
    let pkt := ownPacket (coreFor s core o) o
    let s := spadSeen s core o o.b (4 * redCount (opCtl o))
    match redOf (s.die d) tree id with
    | none => putRed (setOp s core e o) d
        { tree := tree, id := id, own := Tab.empty.set n pkt, sent := .empty, members := [(core, e)], failed := none }
    | some r =>
      match r.failed with
      | some (cause, a) => settleRed (finishOp s core e { o with cause := cause, addr := a } .failed) d { r with own := r.own.set n pkt }
      | none => putRed (setOp s core e o) d { r with own := r.own.set n pkt, members := r.members ++ [(core, e)] }

/-- The packets that a router waits for, in the order of R222; none while one is missing. -/
def routerPackets (t : Tree) (r : Reduction) (n : Nat) : Option (List (RedTy × List Word)) :=
  let own : List (Option (RedTy × List Word)) := if rtMem (t.at n) then [r.own.get? n] else []
  let all := own ++ (liveChildren t n).map (r.sent.get? ·)
  if all.all Option.isSome then some (all.filterMap id) else none

/-- Fails a reduction for all its members. -/
def failRed (s : State) (d : Nat) (r : Reduction) (cause : Byte) (a : Nat) : State :=
  settleRed (failMembers s r.members (r.tree, r.id) cause a) d { r with failed := some (cause, a), members := [] }

/-- R222: a router that holds every packet it waits for combines them and sends the combination to its parent; the root
delivers it. -/
def execMredPacketArrival (die tree id router : Nat) (s : State) : Out :=
  match redOf (s.die die) tree id with
  | none => .next s
  | some r =>
    let t := (s.die die).trees.get tree Tree.fresh
    if r.failed.isSome || (r.sent.get? router).isSome || !treeGood t || (membersBelow t 64 router).isEmpty then .next s
    else match routerPackets t r router with
    | none => .next s
    | some ps =>
      match combinePackets ps with
      | none => woke (failRed s die r cShape 0)
      | some x =>
        if rtParent (t.at router) ≠ 0 then woke (putRed s die { r with sent := r.sent.set router x })
        else if resultHeld s r.members (tree, id) then .next s
        else woke (dropRed (deliverResult s r.members (tree, id) x.2) die tree id)

/-- The lowest-numbered member below a router whose packet has not arrived there (R223). -/
def missingMember (t : Tree) (r : Reduction) (n : Nat) : Option Nat :=
  leastOf ((if rtMem (t.at n) && (r.own.get? n).isNone then [n] else [])
    ++ ((liveChildren t n).filter (fun m => (r.sent.get? m).isNone)).flatMap (membersBelow t 64))

/-- The address field of a fault record that names no member (R223, R305). -/
def noMember : Nat := 2 ^ 64 - 1

/-- R223: a router has held a partial combination for longer than its tree's time-out. -/
def execMredTimeout (die tree id router : Nat) (s : State) : Out :=
  match redOf (s.die die) tree id with
  | none => .next s
  | some r =>
    let t := (s.die die).trees.get tree Tree.fresh
    let holds := (r.own.get? router).isSome || (childRouters t router).any (fun m => (r.sent.get? m).isSome)
    if r.failed.isSome || !holds || (treeGood t && ((r.sent.get? router).isSome || (routerPackets t r router).isSome)) then .next s
    else woke (failRed s die r cTimeout (match missingMember t r router with
      | none => noMember
      | some m => die * Config.coresPerDie + m))

/-! ### Reductions over Reed links (R224) -/

/-- A system tree: a byte for each device by its number (R305; log entry 28, DEDUCED). -/
def sysTree (s : State) (tree : Nat) : Tree := s.sysTrees.get tree Tree.fresh

/-- The byte of this device. -/
def sysByte (s : State) (tree : Nat) : Byte := (sysTree s tree).at s.selfDev

/-- The live child links of this device in ascending order (R224, R305). -/
def liveLinks (s : State) (tree : Nat) : List Nat := ((fabricNet s.wires).live (sysTree s tree) s.selfDev).map (·.1)

/-- The members below a link of this device. -/
def membersVia (s : State) (tree link : Nat) : List Nat := match fabricNet s.wires s.selfDev link with
  | none => []
  | some m => (fabricNet s.wires).below (sysTree s tree) 64 m.1

/-- The bytes of a system tree agree (R305). -/
def sysGood (s : State) (tree : Nat) : Bool := (fabricNet s.wires).good (sysTree s tree)

def sysRedOf (s : State) (tree id : Nat) : Option SysReduction := s.sysReds.find? (fun r => r.tree == tree && r.id == id)
def putSysRed (s : State) (r : SysReduction) : State :=
  { s with sysReds := r :: s.sysReds.filter (fun y => !(y.tree == r.tree && y.id == r.id)) }
def dropSysRed (s : State) (tree id : Nat) : State :=
  { s with sysReds := s.sysReds.filter (fun y => !(y.tree == tree && y.id == id)) }

/-- A reduction of which nothing has arrived. -/
def SysReduction.fresh (tree id : Nat) : SysReduction :=
  { tree := tree, id := id, own := none, children := .empty, sent := false, members := [], failed := none }

/-- A failed reduction is forgotten once the device has every packet (log entry 43, DEDUCED). -/
def settleSys (s : State) (r : SysReduction) : State :=
  if (r.own.isSome || !rtMem (sysByte s r.tree)) && (liveLinks s r.tree).all (fun l => (r.children.get? l).isSome) then
    dropSysRed s r.tree r.id
  else putSysRed s r

/-- A system tree uses a link that is not enabled (R338). -/
def treeCut (s : State) (tree : Nat) : Bool :=
  let b := sysByte s tree
  (liveLinks s tree).any (fun l => !s.mgmt.linkMask.getLsbD l) || (rtParent b != 0 && !s.mgmt.linkMask.getLsbD (rtParent b))

/-- The address field of a time-out whose missing device the spec does not tell: a free value (log entry 2, DESIGN CHOICE). -/
def freeMember (s : State) : Nat × State :=
  let (x, s) := s.free
  (x.toNat % 2 ^ 16, s)

/-- A `coll` starts: its packet is the device's own. Over a disabled link it fails (R338); a soft error in its source ends it as it ends a
`mred` (log entry 43, DESIGN CHOICE). -/
def startColl (s : State) (core e : Nat) (o : OpEntry) : State :=
  let tree := redTree (opCtl o)
  let id := redId (opCtl o)
  let o := { o with state := .running, started := true }
  if treeCut s tree then
    let (a, s) := freeMember s
    finishOp s core e { o with cause := cTimeout, addr := a } .failed
  else match badOff (s.core core) o o.b (4 * redCount (opCtl o)) with
  | some a => failUnit s core e o cDataErr a
  | none =>
    let r := (sysRedOf s tree id).getD (SysReduction.fresh tree id)
    let pkt := ownPacket (coreFor s core o) o
    let s := spadSeen s core o o.b (4 * redCount (opCtl o))
    match r.failed with
    | some (cause, a) => settleSys (finishOp s core e { o with cause := cause, addr := a } .failed) { r with own := some pkt }
    | none => putSysRed (setOp s core e o) { r with own := some pkt, members := r.members ++ [(core, e)] }

/-- Sends a packet over a link: elements, or a failure with its cause and address. -/
def sendLink (s : State) (tree id link : Nat) (x : RedTy × List Word) (fail : Option (Byte × Nat)) : State :=
  { s with linkOut := (tree, id, { link := link, fn := x.1, elems := x.2, fail := fail }) :: s.linkOut }

/-- Sends a packet to the live child links. -/
def sendDown (s : State) (tree id : Nat) (x : RedTy × List Word) (fail : Option (Byte × Nat)) : State :=
  (liveLinks s tree).foldl (fun s l => sendLink s tree id l x fail) s

/-- The result reaches the device: it goes down to the child links and to the member's destination. -/
def collResult (s : State) (r : SysReduction) (x : RedTy × List Word) : State :=
  dropSysRed (deliverResult (sendDown s r.tree r.id x none) r.members (r.tree, r.id) x.2) r.tree r.id

/-- The failure of a reduction goes to the devices next to this one: to the child links, and to the parent where nothing has gone there
yet (R222 to R224: it fails on every member). -/
def sendFailure (s : State) (r : SysReduction) (f : Byte × Nat) : State :=
  let s := sendDown s r.tree r.id (.f32, []) (some f)
  let p := rtParent (sysByte s r.tree)
  if p = 0 || decide (4 < p) || r.sent then s else sendLink s r.tree r.id p (.f32, []) (some f)

/-- Fails a reduction on this device and on those next to it. -/
def failSys (s : State) (r : SysReduction) (cause : Byte) (a : Nat) : State :=
  settleSys (failMembers (sendFailure s r (cause, a)) r.members (r.tree, r.id) cause a) { r with failed := some (cause, a), members := [] }

/-- Reductions in progress over a link that is no longer enabled fail (R338). -/
def cutReductions (s : State) : State :=
  (s.sysReds.filter (fun r => r.failed.isNone && treeCut s r.tree)).foldl (fun s r =>
    let (a, s) := freeMember s
    failSys s r cTimeout a) s

/-- The packets the device waits for: its own first, then its child links' in ascending order (R224). -/
def sysPackets (s : State) (r : SysReduction) : Option (List (RedTy × List Word)) :=
  let all := (if rtMem (sysByte s r.tree) then [r.own] else []) ++ (liveLinks s r.tree).map (r.children.get? ·)
  if all.all Option.isSome then some (all.filterMap id) else none

/-- A packet arrives over a link: from a child, or, with the result, from the parent; a failure fails the reduction here too. -/
def takeColl (s : State) (r : SysReduction) (p : CollPacket) : State :=
  let b := sysByte s r.tree
  if !s.mgmt.linkMask.getLsbD p.link then s
  else if (liveLinks s r.tree).contains p.link then
    if (r.children.get? p.link).isSome then s
    else
      let r := { r with children := r.children.set p.link (p.fn, p.elems) }
      match r.failed, p.fail with
      | some _, _ => settleSys s r
      | none, some f => failSys s r f.1 f.2
      | none, none => putSysRed s r
  else if p.link = rtParent b && decide (1 ≤ p.link) && decide (p.link ≤ 4) && r.failed.isNone then
    match p.fail with
    | some f => failSys s { r with sent := true } f.1 f.2
    | none => if !r.sent || resultHeld s r.members (r.tree, r.id) then s else collResult s r (p.fn, p.elems)
  else s

/-- The device combines what it holds, when it holds all: towards its parent, or at the root into the result. -/
def combineColl (s : State) (r : SysReduction) : State :=
  let p := rtParent (sysByte s r.tree)
  if r.failed.isSome || r.sent || decide (4 < p) || !sysGood s r.tree then s
  else match sysPackets s r with
  | none => s
  | some [] => s
  | some ps =>
    match combinePackets ps with
    | none => failSys s r cShape 0
    | some x =>
      if p ≠ 0 then putSysRed (sendLink s r.tree r.id p x none) { r with sent := true }
      else if resultHeld s r.members (r.tree, r.id) then s
      else collResult s r x

/-- R224: a packet arrives over a link; or, with no packet, the device combines what it holds. -/
def execCollPacketArrival (tree id : Nat) (pkt : Option CollPacket) (s : State) : Out :=
  match pkt, sysRedOf s tree id with
  | some p, r => woke (takeColl s (r.getD (SysReduction.fresh tree id)) p)
  | none, none => .next s
  | none, some r => woke (combineColl s r)

/-- The lowest-numbered member below this device whose packet has not arrived here (R223, R224). -/
def missingDevice (s : State) (r : SysReduction) : Option Nat :=
  let own := if rtMem (sysByte s r.tree) && r.own.isNone then [s.selfDev] else []
  leastOf (own ++ ((liveLinks s r.tree).filter (fun l => (r.children.get? l).isNone)).flatMap (membersVia s r.tree))

/-- R224, R223: this device has held a partial combination for longer than the tree's time-out. `missing` is the address
where no member is missing (log entry 28, DESIGN CHOICE). -/
def execCollTimeout (tree id missing : Nat) (s : State) : Out :=
  match sysRedOf s tree id with
  | none => .next s
  | some r =>
    if r.failed.isSome || (r.own.isNone && r.children.entries.isEmpty) || (sysGood s tree && (r.sent || (sysPackets s r).isSome)) then .next s
    else woke (failSys s r cTimeout ((missingDevice s r).getD missing % 2 ^ 16))

/-! ### Starting (R214) -/

/-- A collective's own start condition (R222): the core's earlier reduction of the same identifier and tree has reached it. -/
def redReady (s : State) (core : Nat) (o : OpEntry) : Bool :=
  let tree := redTree (opCtl o)
  let id := redId (opCtl o)
  let same (x : OpEntry) : Bool := x.state == .running && x.kind.code == o.kind.code && redTree (opCtl x) == tree && redId (opCtl x) == id
  match o.kind with
  | .mred _ => !(s.core core).ops.vals.any same && (match redOf (s.die (dieOf core)) tree id with
    | none => true
    | some r => r.failed.isSome || (r.own.get? (core % Config.coresPerDie)).isNone)
  | .coll _ => !(s.core core).ops.vals.any same && (match sysRedOf s tree id with
    | none => true
    | some r => r.failed.isSome || r.own.isNone)
  | _ => true

/-- An operation of a core may start (R214). -/
def opReady (s : State) (core : Nat) (o : OpEntry) : Bool := mayStart (coreFor s core o) o && afterDone s o && redReady s core o

/-- An operation comes before another when the engine chooses (R214). -/
def chosenBefore (a b : OpEntry) : Bool := decide (b.prio < a.prio) || (a.prio == b.prio && decide (a.seq < b.seq))

/-- R214: an operation starts when its conditions hold and the engine takes no other first; a damaged entry fails it (R265). -/
def execOpStart (core e : Nat) (s : State) : Out :=
  match opAt s core e with
  | none => .next s
  | some o =>
    if !opReady s core o then .next s
    else if (s.core core).ops.vals.any (fun x => x.kind.engine == o.kind.engine && opReady s core x && chosenBefore x o) then .next s
    else
      let s := starting s core e o
      if entryBad (s.core core) e then woke (failUnit s core e { o with state := .running, started := true } cDataErr 0)
      else match o.kind with
      | .mred _ => woke (startMred s core e o)
      | .coll _ => woke (startColl s core e o)
      | _ => woke (startOp s core e o)

end Sys2Proof.Machine
end

