-- ==== Sys2Proof/Machine/Contract.lean ====
section
/-!
DEFINITION. The contraction and tile instructions (08_contraction.md R194 to R206), and the array's step (R183, R184).
-/

namespace Sys2Proof.Machine

/-! ### `ctr` (R196 to R199) -/

/-- The rank of lane 0 (R173). -/
def rankBase (o : OCtr) (cord : Nat) : Nat := if o.scope == .blk then 32 * cord else 0

/-- A lane's vector offsets (R173). -/
def ctrPart (h : Here) (o : OCtr) (shape : Word) (k : Nat) : Part :=
  if o.map then
    let r : Word := BitVec.ofNat 32 (rankBase o h.ref.cord + k)
    { lane := k
      aoff := h.s o.a + r * BitVec.ofNat 32 (mapStride (shapeFa shape) (shapeM shape) o.amode)
      boff := h.s o.b + r * BitVec.ofNat 32 (mapStride (shapeFb shape) (shapeN shape) o.bmode) }
  else { lane := k, aoff := h.v k o.a, boff := h.v k o.b }

/-- The shape is bad for this word (R172, R173, R196). -/
def ctrBad (o : OCtr) (w : Word) : Bool :=
  let qa := shapeFa w == 6
  let qb := shapeFb w == 6
  badShape w || ((qa || qb) != (o.j != 0)) || (qa && o.amode == .col) || (qb && o.bmode == .col)

/-- The cord's copies of a tile that have not finished: an instance at which it arrives later waits for them (R219). -/
def copiesOf (s : State) (h : Here) (p : Nat) : List Word :=
  ((s.core h.ref.core).ops.vals.filter (fun e => e.tile == some p && e.slot == h.ref.slot
    && e.cord == h.ref.cord && !e.state.finished)).map (·.token)

/-- The arrival that a `ctr` records, but for its draws (R179). -/
def ctrArrival (s : State) (h : Here) (o : OCtr) (p : Nat) (shape : Word) (act : List Nat) : Arrival :=
  let quad (i : Nat) : Word := if o.j = 0 then 0 else h.s (BitVec.ofNat 6 (4 * o.j.toNat + i))
  { cord := h.ref.cord, stamp := s.clock, parts := act.map (ctrPart h o shape), shape := shape, amode := o.amode
    bmode := o.bmode, tile := h.cord.tile, tile2 := h.cord.tile2, rank0 := rankBase o h.ref.cord
    scale := (List.range 4).map quad, draw0 := 0, draw1 := 0, ranges := []
    after := copiesOf s h p }

/-- One operand's check (R175): the cause. -/
def vecFault (b : Block) (cord : Nat) (a : Arrival) (x : Part) (second : Bool) : Option Byte :=
  let w := a.shape
  let f := if second then shapeFb w else shapeFa w
  let n := if second then shapeN w else shapeM w
  let mode := if second then a.bmode else a.amode
  let o := (if second then x.boff else x.aoff).toNat
  let j := if second then 2 else 0
  let sc := if f = 6 then scaleOffs (a.scale.getD j 0) (a.scale.getD (j + 1) 0) (shapeT w) (a.rank0 + x.lane) n else []
  if !vecInRange b.splen mode a.tile a.tile2 f n o || sc.any (fun y => decide (b.splen ≤ y)) then some cSpRange
  else if (vecOffs mode a.tile a.tile2 f n o ++ sc).any (raceFlag b cord) then some cMmRace
  else none

/-- A lane's first fault (R199): cause and offset. Of one kind of fault a's stands before b's, and the offset is that of the vector,
for a scale byte of it too (log entry 57, DESIGN CHOICE). -/
def partFault (b : Block) (cord : Nat) (a : Arrival) (x : Part) : Option (Byte × Word) :=
  let w := a.shape
  let mis (f : Nat) (o : Word) : Bool := f != 6 && o.toNat % fmtBytes f != 0
  if mis (shapeFa w) x.aoff then some (cAlign, x.aoff)
  else if mis (shapeFb w) x.boff then some (cAlign, x.boff)
  else
    let fa := vecFault b cord a x false
    let fb := vecFault b cord a x true
    if fa == some cSpRange then some (cSpRange, x.aoff)
    else if fb == some cSpRange then some (cSpRange, x.boff)
    else match fa, fb with
    | some e, _ => some (e, x.aoff)
    | none, some e => some (e, x.boff)
    | none, none => none

/-- The up to four scratchpad ranges of an arrival: a, b and the two scale tables, as physical bytes (R179). -/
def arrivalRanges (b : Block) (a : Arrival) : List SpRange :=
  let w := a.shape
  let mk (z : Nat) (l : List Nat) : List SpRange := match hull z l with
    | none => []
    | some r => [{ write := false, lo := b.spbase + r.1, hi := b.spbase + r.2 }]
  let vec (f n : Nat) (mode : OpMode) (o : Part → Word) : List Nat :=
    a.parts.flatMap (fun x => vecOffs mode a.tile a.tile2 f n (o x).toNat)
  let sc (f n j : Nat) : List Nat :=
    if f = 6 then a.parts.flatMap (fun x =>
      scaleOffs (a.scale.getD j 0) (a.scale.getD (j + 1) 0) (shapeT w) (a.rank0 + x.lane) n)
    else []
  mk (fmtBytes (shapeFa w)) (vec (shapeFa w) (shapeM w) a.amode (·.aoff))
    ++ mk (fmtBytes (shapeFb w)) (vec (shapeFb w) (shapeN w) a.bmode (·.boff))
    ++ mk 1 (sc (shapeFa w) (shapeM w) 0) ++ mk 1 (sc (shapeFb w) (shapeN w) 2)

/-- The generator states that an arrival reserves (R187), and the cord whose drawing lanes have moved on. -/
def reserveDraws (c : Cord) (a : Arrival) : Cord × Arrival :=
  if shapeArnd a.shape ≠ 1 then (c, a)
  else
    let lane (g : Nat) : Option Nat := (a.parts.find? (fun x => x.lane / 16 == g)).map (·.lane)
    let n := shapeM a.shape * shapeN a.shape
    let take (c : Cord) (g : Nat) : Cord × DWord := match lane g with
      | none => (c, 0)
      | some k => (c.setLane k { c.lane k with rng := (draws n (c.lane k).rng).1 }, (c.lane k).rng)
    let (c, d0) := take c 0
    let (c, d1) := take c 1
    (c, { a with draw0 := d0, draw1 := d1 })

/-- Records an arrival at an instance of a tile: joins the block-scope instance of its sequence number, or opens one (R176,
R179). An instance keeps the prio of its first arrival, which is 0 for that of a `ctrskip` (log entry 87, DESIGN CHOICE). -/
def joinInstance (t : Tile) (seq : Option Word) (prio : Nat) (a : Arrival) : Tile :=
  if seq.isSome && t.slots.any (fun i => i.seq == seq) then
    { t with slots := t.slots.map (fun i => if i.seq == seq then { i with arrivals := i.arrivals ++ [a] } else i) }
  else { t with slots := t.slots ++ [{ seq := seq, prio := prio, arrivals := [a], next := 0 }] }

/-- The tile has a slot for the instance (R179). -/
def hasSlot (t : Tile) (seq : Option Word) : Bool :=
  (seq.isSome && t.slots.any (fun i => i.seq == seq)) || decide (t.slots.length < 4)

/-- The shape word that a `ctr` reads: none where no lane gives one, and the lanes' disagreement (R197). -/
def ctrShape (h : Here) (o : OCtr) (act : List Nat) : Except Word (Option Word) :=
  if !o.shV then .ok (some (h.s o.c))
  else match act.map (fun k => h.v k o.c) with
  | [] => .ok none
  | x :: r => if r.all (· == x) then .ok (some x) else .error x

/-- A cord's arrival at an instance as a reader of scratchpad: it reads the operands of that arrival (R179, R266). -/
def Arrival.agent (core tile : Nat) (a : Arrival) : Agent := .inst core tile a.stamp

/-- R197: the checks in the order of R199, the wait for a slot, then the arrival. The tile's own race stands after the lanes' checks and
before the wait (log entry 71, DEDUCED). The operands are read after what happens before the `ctr` (R198). -/
def execCtr (o : OCtr) (s : State) : Out :=
  issue (.ctr o) (fun h s =>
    let n := o.tile.toNat
    let act := h.active o.gd
    let blk := o.scope == .blk
    match physTile h.block n with
    | none => parkSet h s cAccTile (o.tile.setWidth 32)
    | some p =>
      if blk && h.cord.skipAll.contains n then parkSet h s cAccTile (o.tile.setWidth 32)
      else match ctrShape h o act with
      | .error x => parkSet h s cFmtDiverge x
      | .ok shape =>
        if shape.any (ctrBad o) then parkSet h s cShape (shape.getD 0)
        else
          let a := ctrArrival s h o p (shape.getD 0) act
          match a.parts.findSome? (partFault h.block h.ref.cord a) with
          | some e => parkSet h s e.1 e.2
          | none =>
            let core := s.core h.ref.core
            -- at cord scope it is a cord write of the tile (R182)
            if !blk && tileRace h.block h.ref.cord (core.tile p) then parkSetFree h s cMmRace
            else
            let seq := if blk then some (h.cord.tcount.get n 0 + 1) else none
            if !hasSlot (core.tile p) seq then .hold
            else
              let (c, a) := reserveDraws h.cord { a with ranges := arrivalRanges h.block a }
              let c : Cord := if blk then { c with tcount := c.tcount.set n (c.tcount.get n 0 + 1) } else c
              let s := (s.setCord h.ref c).pass h.agent (a.agent h.ref.core p)
              .did { s := s.setCore h.ref.core
                      ((s.core h.ref.core).setTile p (joinInstance (if blk then core.tile p else (core.tile p).wrote h.block h.ref.cord)
                        seq o.prio.toNat a)) }) s

/-! ### `ctrskip` (R200) -/

/-- An arrival without participating lanes. -/
def skipArrival (s : State) (h : Here) (p : Nat) : Arrival :=
  { cord := h.ref.cord, stamp := s.clock, parts := [], shape := 0, amode := .row, bmode := .row, tile := 0, tile2 := 0
    rank0 := 0, scale := [], draw0 := 0, draw1 := 0, ranges := [], after := copiesOf s h p }

/-- Arrives at the next instances while slots allow: the tile, the count, and the arrivals still owed. -/
def skipMany (a : Arrival) : Nat → Tile → Word → Tile × Word × Nat
  | 0, t, n => (t, n, 0)
  | k + 1, t, n =>
    if hasSlot t (some (n + 1)) then skipMany a k (joinInstance t (some (n + 1)) 0 a) (n + 1) else (t, n, k + 1)

def execCtrskip (o : OSkip) (s : State) : Out :=
  issue (.ctrskip o) (fun h s =>
    let n := o.tile.toNat
    match physTile h.block n with
    | none => parkSet h s cAccTile (o.tile.setWidth 32)
    | some p =>
      if h.cord.skipAll.contains n then parkSet h s cAccTile (o.tile.setWidth 32)
      else if o.all then .did { s := s.setCord h.ref { h.cord with skipAll := n :: h.cord.skipAll } }
      else
        let owed := match h.cord.skipLeft.get? h.addr with
          | some k => k
          | none => if o.a = 0 then 1 else (h.s o.a).toNat
        let core := s.core h.ref.core
        -- a tile has four slots, and an arrival past its open instances needs one (R179)
        let (t, cnt, left) := skipMany (skipArrival s h p) (min owed 8) (core.tile p) (h.cord.tcount.get n 0)
        let left := owed - min owed 8 + left
        let c : Cord := { h.cord with
          tcount := h.cord.tcount.set n cnt
          skipLeft := if left = 0 then h.cord.skipLeft.erase h.addr else h.cord.skipLeft.set h.addr left }
        let s := s.setCord h.ref c
        let s := s.setCore h.ref.core ((s.core h.ref.core).setTile p t)
        if left = 0 then .did { s := s }
        else if t == core.tile p then .hold else .wait s) s

/-! ### Tile instructions (R201, R202) -/

/-- What every tile instruction does first (R194, R195, R181, R219): nothing without an active lane where it is cord-wide;
ACC_TILE; then the wait. A write waits for the cord writes before it too (R182), and all wait for an instance that has begun (R180). -/
def tileOp (h : Here) (s : State) (tile : TileN) (w : Bool) (f : Nat → Act) : Act :=
  match physTile h.block tile.toNat with
  | none => parkSet h s cAccTile (tile.setWidth 32)
  | some p =>
    let c := s.core h.ref.core
    if tileWaits c h.ref.slot h.ref.cord p || tileBusy c p || tileBegun (c.tile p) none
        || (w && writeBefore c p h.block tile.toNat h.ref.cord s.clock) then .hold
    else f p

/-- The tile's fault record concerns the cord (R192). -/
def tileFault (t : Tile) (cord : Nat) : Option Nat :=
  match t.fault with
  | none => none
  | some (off, cs) => if cs.contains cord then some off else none

/-- A tile word with an uncorrectable error in the accumulator store (R265). -/
def elemBad (c : Core) (p idx : Nat) : Bool := badWord c .accumulator (p * Config.tileBytes + 4 * idx) 4

/-- R201. -/
def execAcz (o : OAcz) (s : State) : Out :=
  issue (.acz o) (fun h s =>
    if (h.active o.gd).isEmpty then .did { s := s }
    else tileOp h s o.tile true (fun p =>
      let c := s.core h.ref.core
      if tileRace h.block h.ref.cord (c.tile p) then parkSetFree h s cMmRace
      else
        let t := { (c.tile p).wrote h.block h.ref.cord with fault := none }
        .did { s := s.setCore h.ref.core
                ((mend { c with acc := c.acc.clear (p * Config.tileBytes) ((p + 1) * Config.tileBytes) } .accumulator (p * Config.tileBytes)
                  Config.tileBytes).setTile p t) })) s

/-- R202: a tile read, per lane; it completes like any long-latency instruction. A race of the tile comes before its fault record (log entry
88, DESIGN CHOICE). -/
def execAcrd (o : OAcrd) (s : State) : Out :=
  issue (.acrd o) (fun h s =>
    let act := h.active o.gd
    tileOp h s o.tile false (fun p =>
      if act.isEmpty then .did { s := s }
      else
        let c := s.core h.ref.core
        let idx (k : Nat) : Nat := field (h.v k o.b).toNat 0 12
        if tileRace h.block h.ref.cord (c.tile p) then parkSetFree h s cMmRace
        else match tileFault (c.tile p) h.ref.cord with
        | some off => parkSet h s cDataErr (BitVec.ofNat 32 off)
        | none =>
          let (x, s) := if act.any (fun k => elemBad c p (idx k)) then s.free else (0, s)
          let bad := act.filter (fun k => elemBad c p (idx k))
          let owed := (act.filter (fun k => !bad.contains k)).map (fun k =>
            Owed.v k (place h.cord.vbud (h.cord.lane k).frame.vb o.d.toNat) (c.acc.word (p * Config.tileBytes + 4 * idx k)))
          let s := (act.filter (fun k => !bad.contains k)).foldl (fun s k =>
            noteRead s h.ref.core .accumulator (p * Config.tileBytes + 4 * idx k) 4) s
          .did { s := s, park := bad.map (fun k => (k, cDataErr, x.setWidth 32))
                 fl := [{ left := look h.cord o.la, uses := uses (.acrd o), owed := owed }] })) s

/-- R202: a cord write; the highest-numbered lane's value remains. -/
def execAcwr (o : OAcwr) (s : State) : Out :=
  issue (.acwr o) (fun h s =>
    let act := h.active o.gd
    tileOp h s o.tile true (fun p =>
      if act.isEmpty then .did { s := s }
      else
        let c := s.core h.ref.core
        if tileRace h.block h.ref.cord (c.tile p) then parkSetFree h s cMmRace
        else
          let put (c : Core) (k : Nat) : Core :=
            { c with acc := c.acc.setWord (p * Config.tileBytes + 4 * field (h.v k o.a).toNat 0 12) (h.v k o.b) }
          .did { s := s.setCore h.ref.core ((act.foldl put c).setTile p ((c.tile p).wrote h.block h.ref.cord)) })) s

/-! ### `acdrain` and `acaxpy` (R203 to R205) -/

/-- The region of M times N elements of `z` bytes from `ea`: the offset in the allocation of each element, or the cause with the first
faulting offset (R205). -/
def region (b : Block) (c : Cord) (skw : Bool) (ea cnt z : Nat) : Except (Byte × Nat) (List Nat) :=
  let all := (List.range cnt).map (fun i => ea + i * z)
  let top := if !skw then b.splen else if tileDeclared b.splen c.tile c.tile2 then tileRows c.tile2 * tileLen c.tile2 else 0
  if ea % z ≠ 0 then .error (cAlign, ea)
  else match all.find? (fun o => decide (top < o + z)) with
  | some o => .error (cSpRange, o)
  | none => .ok (if skw then all.map (skew c.tile) else all)

/-- Bytes of an element of a drained region. -/
def drainBytes (ty : Ty) : Nat := ty.width / 8

/-- A cord's stores of `z` bytes at some offsets of its block's allocation, as other agents see them (R272). -/
def storedAll (s : State) (h : Here) (z : Nat) (offs : List Nat) : State :=
  if s.tracks.isEmpty then s
  else offs.foldl (fun s o => s.wrote h.agent (.sp h.ref.core (h.block.spbase + o)) z .plain) s

/-- Writes elements of `z` bytes at their offsets, as stores of the issuing cord (R205). -/
def writeRegion (s : State) (h : Here) (z : Nat) (offs : List Nat) (vals : List Nat) : State :=
  let c := s.core h.ref.core
  let spad := (offs.zip vals).foldl (fun m x => Mem.write m (h.block.spbase + x.1) (natLe z x.2)) c.spad
  let s := storedAll (s.setCore h.ref.core ((offs.foldl (fun c o => mend c .scratchpad (h.block.spbase + o) z) { c with spad := spad }))) h z offs
  match s.block? h.ref.core h.ref.slot with
  | none => s
  | some b => s.setBlock h.ref.core h.ref.slot (offs.foldl (fun b o => recordWrite b h.ref.cord o z) b)

/-- Element `i` of the region that the shape word names lies in a damaged word of the accumulator store (R265). -/
def regionBad (c : Core) (p : Nat) (w : Word) (i : Nat) : Bool := elemBad c p (64 * (i / shapeN w) + i % shapeN w)

/-- What a drain reads counts the errors that the code corrects: the tile's elements, the scoreboard, and with `rd` the region (R265), in
which it has then read what others wrote (R270). -/
def noteDrain (s : State) (h : Here) (p : Nat) (w : Word) (offs : List Nat) (z : Nat) (rd : Bool) : State :=
  let s := if rd && !s.tracks.isEmpty then
      offs.foldl (fun s o => s.saw ⟨h.agent, true⟩ (.sp h.ref.core (h.block.spbase + o)) z false none) s
    else s
  if (s.core h.ref.core).soft.isEmpty then s
  else
    let s := noteBoard s (.sp h.ref.core h.block.spbase)
    let s := (List.range (shapeM w)).foldl (fun s m => noteRead s h.ref.core .accumulator (elemAddr p m 0) (4 * shapeN w)) s
    if rd then offs.foldl (fun s o => noteRead s h.ref.core .scratchpad (h.block.spbase + o) z) s else s

/-- What the two share (R205): faults in the order ALIGN, SP_RANGE, MM_RACE, DATA_ERR, then the hold of R153, then the
elements. `w` is the shape word, and `rd` says that the region is read too. The race of the tile itself (R182) and an error of the
scoreboard give the region's first offset, a damaged word of the tile that of its element, and a damaged register of the instruction,
before the other errors, a free value (log entry 79, DEDUCED). -/
def drainOp (i : Instr) (h : Here) (s : State) (p : Nat) (skw : Bool) (ea w : Word) (z : Nat) (rd : Bool)
    (elems : List Nat → List Nat × Cord) : Act :=
  let c := s.core h.ref.core
  match region h.block h.cord skw ea.toNat (shapeM w * shapeN w) z with
  | .error e => parkSet h s e.1 (BitVec.ofNat 32 e.2)
  | .ok offs =>
    if tileRace h.block h.ref.cord (c.tile p) then parkSet h s cMmRace ea
    else match offs.findIdx? (raceFlag h.block h.ref.cord) with
    | some i => parkSet h s cMmRace (BitVec.ofNat 32 (ea.toNat + i * z))
    | none => if badUniform c h i then parkSetFree h s cDataErr
    else match tileFault (c.tile p) h.ref.cord with
    | some off => parkSet h s cDataErr (BitVec.ofNat 32 off)
    | none =>
      match offs.zipIdx.find? (fun x => badBoard c || regionBad c p w x.2 || (rd && badWord c .scratchpad (h.block.spbase + x.1) z)) with
      | some x => parkSet h s cDataErr (BitVec.ofNat 32 (ea.toNat + x.2 * z))
      | none =>
        if offs.any (fun o => scoreHeld c true (h.block.spbase + o) z) then countHold s h.ref.core
        else
          let (vals, cord) := elems offs
          .did { s := writeRegion ((noteDrain s h p w offs z rd).setCord h.ref cord) h z offs vals }

/-- One drained element (R203): `.f32` leaves the bits of a number unchanged; a NaN becomes the canonical one (R43), and with `.sat` an
infinity the greatest finite number (R53; log entry 68, DEDUCED). -/
def drainElem (o : ODrain) (x : Word) (r : Word) : Nat :=
  match o.ty with
  | .f32 => (match Fmt.f32.decode x.toNat with
    | .fin .. => x.toNat
    | n => (roundNum .f32 .rn 0 o.sat false n).1)
  | .s32 => x.toNat
  | .s8 => if o.sat then intBits .s8 (clampTo .s8 x.toInt) else field x.toNat 0 8
  | ty => (roundNum (Fmt.ofTy ty) o.rnd r o.sat false (Fmt.f32.decode x.toNat)).1

/-- The cord with the draws of a stochastic drain taken by the drawing lane, and the draws (R203). -/
def regionDraws (c : Cord) (k n : Nat) (sr : Bool) : Cord × List Word :=
  if sr then
    let (g, r) := draws n (c.lane k).rng
    (c.setLane k { c.lane k with rng := g }, r)
  else (c, [])

/-- R203. -/
def execAcdrain (o : ODrain) (s : State) : Out :=
  issue (.acdrain o) (fun h s =>
    match h.active o.gd with
    | [] => .did { s := s }
    | k :: _ => tileOp h s o.tile false (fun p =>
      let c := s.core h.ref.core
      let w := h.s o.b
      let cnt := shapeM w * shapeN w
      let ea := h.s o.a + o.imm.signExtend 32
      drainOp (.acdrain o) h s p o.skw ea w (drainBytes o.ty) false (fun _ =>
        let (cord, rs) := regionDraws h.cord k cnt (o.rnd == .sr)
        ((List.range cnt).map (fun i =>
          drainElem o (c.elemAt p (i / shapeN w) (i % shapeN w)) (rs.getD i 0)), cord)))) s

/-- R204: w − η·g, formed exactly and rounded once. -/
def axpyElem (ty : Ty) (sat : Bool) (w eta g r : Word) : Nat :=
  let p := (Num.mul (Fmt.f32.decode eta.toNat) (Fmt.f32.decode g.toNat)).1
  let x := (Num.add false ((Fmt.ofTy ty).decode w.toNat) p.neg).1
  (roundNum (Fmt.ofTy ty) .sr r sat false x).1

/-- R204. -/
def execAcaxpy (o : OAxpy) (s : State) : Out :=
  issue (.acaxpy o) (fun h s =>
    match h.active o.gd with
    | [] => .did { s := s }
    | k :: _ => tileOp h s o.tile false (fun p =>
      let c := s.core h.ref.core
      let w := h.s o.b
      let cnt := shapeM w * shapeN w
      let z := drainBytes o.ty
      drainOp (.acaxpy o) h s p false (h.s o.a) w z true (fun offs =>
        let (cord, rs) := regionDraws h.cord k cnt true
        (offs.zipIdx.map (fun x =>
          axpyElem o.ty o.sat (BitVec.ofNat 32 (leNat (((s.seenBy ⟨h.agent, true⟩).core h.ref.core).spad.read (h.block.spbase + x.1) z))) (h.s o.c)
            (c.elemAt p (x.2 / shapeN w) (x.2 % shapeN w)) (rs.getD x.2 0)), cord)))) s

/-- R206: the restart record. It reads the window registers that the cord has, so that it waits for those that are owed (R61), and an
uncorrectable error in one parks it (R265). -/
def execAcrst (o : OLbl) (s : State) : Out :=
  issue (.acrst o) (fun h s =>
    let n := min 16 (winSize h.cord.ubud)
    let ks := (List.range n).map (16 + ·)
    if (h.active o.gd).isEmpty then .did { s := s }
    else if latencyHolds h.cord h.addr { Uses.none with sr := ks } then .hold
    else if ks.any (uniformBad (s.core h.ref.core) h) then parkSetFree h s cDataErr
    else
      let r : Restart :=
        { label := branchTo h o.off.toInt
          regs := (List.range n).map (fun i => h.cord.s h.sbase (16 + i))
          counts := h.cord.tcount
          skips := h.cord.skipAll
          lanes := BitVec.ofNat 32 (maskOf (h.cord.lanesWith (fun l => l.st != .exit))) }
      let s := if (s.core h.ref.core).soft.isEmpty then s
        else ks.foldl (fun s k => noteRead s h.ref.core .uniformRegs (h.cord.slotNo * 256 + 4 * place h.cord.ubud h.sbase k) 4) s
      .did { s := s.setCord h.ref { h.cord with restart := r } }) s

/-! ### The array -/

/-- The group that an instance processes next: its block, arrival and lanes. -/
def nextGroup (c : Core) (p k : Nat) : Option (Block × Arrival × List Part) :=
  match tileOwner c p, (c.tile p).slots[k]? with
  | some (_, b, n), some i => if instReady c p b n i then (groupsLeft i).head?.map (fun g => (b, g.2.1, g.2.2)) else none
  | _, _ => none

/-- The damaged words that the next group of an instance finds, as offsets in the block's allocation (R192, R265). -/
def groupErrors (c : Core) (b : Block) (a : Arrival) (ps : List Part) : List Nat :=
  ((((ps.flatMap (laneReads a)).filter (fun x => badWord c .scratchpad (b.spbase + x.1) x.2)).map (fun x => x.1 / 8 * 8))).dedup

/-- The next group of an instance has read its operands: a data race with a write that it does not follow is one (R272). -/
def noteOperands (s : State) (core tile : Nat) (b : Block) (a : Arrival) (ps : List Part) : State :=
  if s.tracks.isEmpty then s
  else s.noteRace ⟨a.agent core tile, true⟩ ((ps.flatMap (laneReads a)).flatMap (fun x => (Place.sp core (b.spbase + x.1)).words x.2))

/-- The core with the next group of an instance processed, each operand byte as the group's arrival sees it (R64, R281); the arrivals of a
closed instance read no more. -/
def stepSeen (s : State) (core tile i : Nat) : State :=
  let c := s.core core
  match (c.tile tile).slots[i]? with
  | none => s
  | some x =>
    let seen := match nextGroup c tile i with
      | none => s
      | some (b, a, ps) => noteOperands (s.seenBy ⟨a.agent core tile, true⟩) core tile b a ps
    let d := { stepInstance (seen.core core) tile i with spad := c.spad }
    let s := { s with raced := seen.raced }.setCore core d
    if (d.tile tile).slots.any (fun y => y.arrivals == x.arrivals) then s
    else x.arrivals.foldl (fun s a => s.unpick (a.agent core tile)) s

/-- R183, R184: the array adds the next group of an instance; nothing happens while the instance may not be processed, or one of another
block with a higher prio may (R196). -/
def execContractionGroup (core tile i : Nat) (s : State) : Out :=
  let c := s.core core
  if outranked c tile i then .next s
  else
  let g := nextGroup c tile i
  let s := match g with
    | none => s
    | some (b, a, ps) => (groupErrors c b a ps).foldl (fun s off => logData s core b.ctx b.index off 0) s
  let s := stepSeen s core tile i
  .next { (if g.isSome then countPerf s core 4 else s) with stalled := [] }

end Sys2Proof.Machine
end

