-- ==== Sys2Proof/Machine/LaneMemory.lean ====
section
/-!
DEFINITION. Lane and uniform access to scratchpad, local memory and the armature map (07_control_memory.md R148 to R157).
-/

namespace Sys2Proof.Machine

/-! ### Shared -/

/-- What an access of `z` bytes of a place leaves behind beside its data: the TLBs fill (R309), and a read counts the errors that the code
corrects (R265). -/
def touchSpot (s : State) (z : Nat) (rd : Bool) (p : Spot) : State :=
  let s := match p with
    | .loc ctx va => touch s s.cur.core false ctx va
    | _ => s
  if rd then noteSpot s z p else s

/-- The lines of local memory that an instruction needs come into the path before it issues (R150, R260). -/
def bringSpots (s : State) (h : Here) (z : Nat) (ps : List (Nat × Spot)) : State :=
  let vas := ps.filterMap (fun x => match x.2 with
    | .loc _ va => some va
    | _ => none)
  bringLines s h.ref.core h.ref.slot h.block.ctx (vas.flatMap (linesOf · z)).dedup

/-- An instruction that reaches scratchpad reads the scoreboard of each core that it reaches, once (R265). -/
def noteBoards (s : State) (ps : List Spot) : State :=
  if s.cores.vals.all (fun c => c.soft.isEmpty) then s
  else
    let cores := (ps.filterMap (fun p => match p with
      | .sp n _ => some n
      | _ => none)).dedup
    cores.foldl (fun s n => noteBoard s (.sp n 0)) s

/-- Lane `k`'s effective address (R148). -/
def laneEa (h : Here) (a : Reg) (imm : BitVec 11) (k : Nat) : Word := h.v k a + imm.signExtend 32

/-- The place of each lane, or its cause. -/
def laneSpots (s : State) (h : Here) (sp : Space) (ks : List Nat) (ea : Nat → Word) (z : Nat) (w rd ex : Bool) :
    List (Nat × Except Byte Spot) :=
  ks.map (fun k => (k, resolve s h k sp (ea k) z w rd ex))

/-- The lanes whose access is good, with their places. -/
def goodSpots (l : List (Nat × Except Byte Spot)) : List (Nat × Spot) :=
  l.filterMap (fun x => match x.2 with
    | .ok p => some (x.1, p)
    | .error _ => none)

/-- The lanes that fault, as `Done.park` lists them (R149). -/
def badSpots (l : List (Nat × Except Byte Spot)) (ea : Nat → Word) : List (Nat × Byte × Word) :=
  l.filterMap (fun x => match x.2 with
    | .ok _ => none
    | .error e => some (x.1, e, ea x.1))

/-- Accesses to local memory that fault in or after translation have been translated (R309, R316). -/
def touchBad (s : State) (h : Here) (sp : Space) (bad : List (Nat × Byte × Word)) : State :=
  if sp == .loc then
    (bad.filter (fun x => x.2.1 == cXlate || x.2.1 == cPerm || x.2.1 == cDataErr)).foldl (fun s x =>
      touch s h.ref.core false h.block.ctx ((h.cord.lane x.1).locbase + x.2.2.toNat)) s
  else s

/-- A global access of the cord in flight touches a word of a local area that it is about to access: the two are performed in issue
order (R267, R268). -/
def gatherMeets (s : State) (h : Here) (z : Nat) : Spot → Bool
  | .loc ctx va => h.cord.gathers.any (fun a => sameWord s h.ref.core ctx a.addr a.size va z)
  | _ => false

/-- The accesses are held at issue (R153, R267). -/
def spotsHeld (s : State) (h : Here) (w : Bool) (z : Nat) (ps : List (Nat × Spot)) : Bool :=
  ps.any (fun x => spotHeld s w z x.2 || gatherMeets s h z x.2)

/-- Who is still to write the `n` bytes of a core's scratchpad that a range holds: child operations, and cords whose `qpop` is in flight
(R153, R168). -/
def holders (c : Core) (core phys n : Nat) : List Agent :=
  let holds (r : SpRange) : Bool := r.write && overlap phys (phys + n) r.lo r.hi
  (c.ops.vals.filter (fun o => !o.state.finished && o.ranges.any holds)).map (·.agent core)
    ++ c.blocks.vals.flatMap (fun b => (b.cords.entries.filter (fun x => x.2.inflight.any (fun f => f.range.any holds))).map (fun x =>
      .cord core b.id x.1))

/-- An issue that a range of the scoreboard holds is counted, once for each try (R316; log entry 7, DESIGN CHOICE), and sees what those
leave whose ranges hold it (R280). -/
def holdSpots (s : State) (h : Here) (w : Bool) (z : Nat) (ps : List (Nat × Spot)) : Act :=
  let sps := ps.filterMap (fun x => match x.2 with
    | .sp n a => if scoreHeld (s.core n) w a z then some (n, a) else none
    | _ => none)
  if sps.isEmpty then .hold
  else if s.tracks.isEmpty then countHold s h.ref.core
  else countHold (sps.foldl (fun s x => s.holdRead h.agent (.sp x.1 x.2) z (holders (s.core x.1) x.1 x.2 z)) s) h.ref.core

/-! ### Loads (R151) -/

/-- The words that a load of `z` bytes gives its destination, the least significant first; `old` is the destination's own. -/
def loadWords (mode : LdMode) (z el : Nat) (bs : List Byte) (old : Word) : List Word :=
  let x := leNat bs
  if z < 4 then
    match mode with
    | .zx => [BitVec.ofNat 32 x]
    | .sx => [BitVec.ofInt 32 (sxInt x (8 * z))]
    | .el => [setElem32 old z el x]
  else (List.range (z / 4)).map (fun i => BitVec.ofNat 32 (x / 2 ^ (32 * i)))
where
  /-- A word with element `i` of `z` bytes replaced. -/
  setElem32 (w : Word) (z i x : Nat) : Word :=
    let mask : Word := BitVec.ofNat 32 ((2 ^ (8 * z) - 1) * 2 ^ (8 * z * i))
    (w &&& ~~~mask) ||| (BitVec.ofNat 32 (x % 2 ^ (8 * z) * 2 ^ (8 * z * i)))

/-- Results owed to consecutive registers of a lane. -/
def owedV (bud : Nat) (l : Lane) (k d : Nat) (ws : List Word) : List Owed :=
  ws.zipIdx.map (fun x => Owed.v k (place bud l.frame.vb (d + x.2)) x.1)

/-- A load to v0 (R151): no access; a prefetch in space 2 raises only ALIGN (R158), the others ALIGN and SP_RANGE. -/
def voidLoad (s : State) (h : Here) (o : OLd) (z : Nat) (k : Nat) : Option Byte :=
  let ea := laneEa h o.a o.imm k
  if ea.toNat % z ≠ 0 then some cAlign
  else if o.space == .loc then none
  else match resolve s h k o.space ea z false false true with
  | .error e => if e = cSpRange then some e else none
  | .ok _ => none

/-- A prefetch has been translated (R309, R316), and where nothing faults it has read its line, which counts the errors that the code corrects
(R265). Where its only fault is an uncorrectable error, in the memory or in a table entry of its
walk, the DATA_ERR is suppressed, counted by the Plinth that found it and logged (R158, R311, R340). -/
def countSuppressed (s : State) (h : Here) (gather : Bool) (va n : Nat) : State :=
  let ctx := h.block.ctx
  let found : Option Nat := match translate s h.ref.core gather ctx va n false false with
    | .ok (.hbm a) => some a
    | .ok _ => none
    | .error _ => walkLost s ctx va
  let t := touch s h.ref.core gather ctx va
  match translate s h.ref.core gather ctx va n false true with
  | .ok x => noteTarget t n x
  | .error e =>
  if e ≠ cDataErr then t
  else match found with
  | some a =>
    logData { t with suppressed := t.suppressed.set (plinthOf a) (satInc (t.suppressed.get (plinthOf a) 0)) } h.ref.core ctx h.block.index va 0
  | none => t

/-- A prefetch into the local-memory path brings in the line where nothing faults (R158, R260). -/
def prefetchLine (h : Here) (s : State) (va : Nat) : State :=
  match translate s h.ref.core false h.block.ctx va 64 false true with
  | .ok x => bringLines (noteTarget (touch s h.ref.core false h.block.ctx va) 64 x) h.ref.core h.ref.slot h.block.ctx (linesOf va 64)
  | .error _ => countSuppressed s h false va 64

/-- R151. -/
def laneLoad (i : Instr) (o : OLd) (z : Nat) (s : State) : Out :=
  issue i (fun h s =>
    let act := h.active o.gd
    -- with the uniform assertion one access serves every active lane (R60)
    let ks := if o.u then act.take 1 else act
    let all (l : List (Nat × Byte × Word)) : List (Nat × Byte × Word) :=
      if o.u then l.flatMap (fun x => act.map (fun k => (k, x.2))) else l
    let ea := laneEa h o.a o.imm
    if o.d = 0 && decide (z ≤ 4) then
      let bad := ks.filterMap (fun k => (voidLoad s h o z k).map (fun e => (k, e, ea k)))
      let inArea (k : Nat) : Bool := h.block.task.isNone && decide ((ea k).toNat + z ≤ h.block.lsize)
      let s := if o.space == .loc then
          (ks.filter (fun k => (voidLoad s h o z k).isNone && inArea k)).foldl (fun s k =>
            prefetchLine h s (((h.cord.lane k).locbase + (ea k).toNat) / 64 * 64)) s
        else s
      .did { s := s, park := all bad }
    else
      let l := laneSpots s h o.space ks ea z false true o.acq
      let good := goodSpots l
      if spotsHeld s h false z good then holdSpots s h false z good
      else
        let s := bringSpots s h z good
        let eye : Eye := ⟨h.agent, !o.acq⟩
        let one (x : Nat × Spot) : List Owed :=
          let bs := spotRead (s.seenBy eye) z x.2
          (if o.u then act else [x.1]).flatMap (fun k =>
            owedV h.cord.vbud (h.cord.lane k) k o.d.toNat (loadWords o.mode z o.el.toNat bs (h.v k o.d)))
        let see (s : State) (x : Nat × Spot) : State :=
          (touchSpot s z true x.2).sawSpot eye x.2 z false (acqScope o.acq o.scope)
        let s' := touchBad (good.foldl see (noteBoards s (good.map (·.2)))) h o.space (badSpots l ea)
        .did { s := s', park := all (badSpots l ea)
               fl := [{ left := look h.cord o.la, uses := uses i, owed := good.flatMap one }] }) s

def execLd8 (o : OLd) (s : State) : Out := laneLoad (.ld8 o) o 1 s
def execLd16 (o : OLd) (s : State) : Out := laneLoad (.ld16 o) o 2 s
def execLd32 (o : OLd) (s : State) : Out := laneLoad (.ld32 o) o 4 s
def execLd64 (o : OLd) (s : State) : Out := laneLoad (.ld64 o) o 8 s
def execLd128 (o : OLd) (s : State) : Out := laneLoad (.ld128 o) o 16 s

/-! ### Stores (R152) -/

/-- Records a write of the executing cord to a place of its own allocation (R273). -/
def recordSpot (h : Here) (s : State) (z : Nat) (p : Spot) : State :=
  match spotOff h p, s.block? h.ref.core h.ref.slot with
  | some off, some b => s.setBlock h.ref.core h.ref.slot (recordWrite b h.ref.cord off z)
  | _, _ => s

/-- The bytes that a store of `z` bytes takes from its source register. -/
def storeBytes (h : Here) (o : OSt) (z k : Nat) : List Byte :=
  let ws := (List.range ((z + 3) / 4)).map (fun i => h.v k (o.b + BitVec.ofNat 6 i))
  let all := ws.flatMap (fun w => natLe 4 w.toNat)
  if z < 4 then (all.drop (z * o.el.toNat)).take z else all

/-- R152: lanes in ascending order, so that the highest-numbered lane's bytes remain. -/
def laneStore (i : Instr) (o : OSt) (z : Nat) (s : State) : Out :=
  issue i (fun h s =>
    let act := h.active o.gd
    let ks := if o.u then act.take 1 else act
    let ea := laneEa h o.a o.imm
    let l := laneSpots s h o.space ks ea z true false o.rel
    let good := goodSpots l
    if spotsHeld s h true z good then holdSpots s h true z good
    else
      let s := bringSpots s h z good
      let put (s : State) (x : Nat × Spot) : State :=
        let bs := storeBytes h o z x.1
        let s := (spotWrite (touchSpot s z false x.2) h.ref.slot bs x.2).wroteSpot h.agent x.2 z (storeKind o.rel o.scope)
        if o.rel || o.space == .arm then s else recordSpot h s z x.2
      let bad := badSpots l ea
      .did { s := touchBad (good.foldl put (noteBoards s (good.map (·.2)))) h o.space bad
             park := if o.u then bad.flatMap (fun x => act.map (fun k => (k, x.2))) else bad }) s

def execSt8 (o : OSt) (s : State) : Out := laneStore (.st8 o) o 1 s
def execSt16 (o : OSt) (s : State) : Out := laneStore (.st16 o) o 2 s
def execSt32 (o : OSt) (s : State) : Out := laneStore (.st32 o) o 4 s
def execSt64 (o : OSt) (s : State) : Out := laneStore (.st64 o) o 8 s
def execSt128 (o : OSt) (s : State) : Out := laneStore (.st128 o) o 16 s

/-! ### Atomics (R155) -/

/-- The new word of an atomic. `d` is the compare value of `.cas`. -/
def atomNew (op : AtomOp) (old x d : Word) : Word :=
  match op with
  | .add => old + x
  | .mins => if old.toInt ≤ x.toInt then old else x
  | .minn => if old.toNat ≤ x.toNat then old else x
  | .maxs => if old.toInt ≤ x.toInt then x else old
  | .maxn => if old.toNat ≤ x.toNat then x else old
  | .and => old &&& x
  | .or => old ||| x
  | .xor => old ^^^ x
  | .xchg => x
  | .cas => if old == d then x else old
  | .fadd =>
    BitVec.ofNat 32 (roundNum .f32 .rn 0 false false (Num.add false (Fmt.f32.decode old.toNat) (Fmt.f32.decode x.toNat)).1).1

/-- An atomic of space 3 is refused in a deterministic launch (R333). -/
def detArm (o : OAtom) (h : Here) : Bool := h.block.det && o.space == .arm

/-- R155: lanes in ascending order, each seeing the updates of the lanes below it. -/
def execAtom (o : OAtom) (s : State) : Out :=
  issueP (.atom o) (detArm o) (fun h s =>
    let act := h.active o.gd
    let ks := if o.u then act.take 1 else act
    let ea := laneEa h o.a o.imm
    let l := laneSpots s h o.space ks ea 4 true true true
    let good := goodSpots l
    if spotsHeld s h true 4 good then holdSpots s h true 4 good
    else
      let s := bringSpots s h 4 good
      let step (x : State × List Owed) (y : Nat × Spot) : State × List Owed :=
        let s := touchSpot x.1 4 true y.2
        let old : Word := BitVec.ofNat 32 (leNat (spotRead s 4 y.2))
        let new := atomNew o.op old (h.v y.1 o.b) (h.v y.1 o.d)
        let owed := (if o.u then act else [y.1]).flatMap (fun k => owedV h.cord.vbud (h.cord.lane k) k o.d.toNat [old])
        let s := (s.sawSpot ⟨h.agent, false⟩ y.2 4 true (acqScope o.ord.acq o.ord.scope)).fences h.agent ⟨o.ord.acq, false, o.ord.scope⟩
        let s := (spotWrite s h.ref.slot (natLe 4 new.toNat) y.2).wroteSpot h.agent y.2 4 (.atomic (acqScope o.ord.rel o.ord.scope))
        (s, x.2 ++ owed)
      let (s, owed) := good.foldl step (noteBoards s (good.map (·.2)), [])
      let bad := badSpots l ea
      .did { s := touchBad s h o.space bad, park := if o.u then bad.flatMap (fun x => act.map (fun k => (k, x.2))) else bad
             fl := [{ left := look h.cord o.la, uses := uses (.atom o), owed := owed }] }) s

/-! ### Uniform loads and stores (R154) -/

/-- A uniform access: a fault parks the executing set (R149). -/
def uniSpot (s : State) (h : Here) (a : Reg) (imm : BitVec 11) (skw : Bool) (z : Nat) (w ex : Bool)
    (f : Spot → Act) : Act :=
  let ea := h.s a + imm.signExtend 32
  match resolve s h 0 (if skw then .skw else .lin) ea z w (!w) ex with
  | .error e => parkSet h s e ea
  | .ok p => if spotHeld s w z p then holdSpots s h w z [(0, p)] else f p

/-- The cord with consecutive s registers written, the least significant word first. -/
def setWords (h : Here) (d : Reg) (ws : List Word) : Cord :=
  ws.zipIdx.foldl (fun c x => c.setS h.sbase (d.toNat + x.2) x.1) h.cord

def uniLoad (i : Instr) (o : OSld) (z : Nat) (s : State) : Out :=
  issue i (fun h s => uniSpot s h o.a o.imm o.skw z false o.acq (fun p =>
    let eye : Eye := ⟨h.agent, !o.acq⟩
    let ws := loadWords .zx z 0 (spotRead (s.seenBy eye) z p) 0
    let s := (noteSpot (noteBoard s p) z p).sawSpot eye p z false (acqScope o.acq o.scope)
    .did { s := s.setCord h.ref (setWords h o.d ws) })) s

def uniStore (i : Instr) (o : OSst) (z : Nat) (s : State) : Out :=
  issue i (fun h s => uniSpot s h o.a o.imm o.skw z true o.rel (fun p =>
    let bs := (List.range (z / 4)).flatMap (fun j => natLe 4 (h.s (o.b + BitVec.ofNat 6 j)).toNat)
    let s := (spotWrite (noteBoard s p) h.ref.slot bs p).wroteSpot h.agent p z (storeKind o.rel o.scope)
    .did { s := if o.rel then s else recordSpot h s z p })) s

def execSld32 (o : OSld) (s : State) : Out := uniLoad (.sld32 o) o 4 s
def execSld64 (o : OSld) (s : State) : Out := uniLoad (.sld64 o) o 8 s
def execSst32 (o : OSst) (s : State) : Out := uniStore (.sst32 o) o 4 s
def execSst64 (o : OSst) (s : State) : Out := uniStore (.sst64 o) o 8 s

end Sys2Proof.Machine
end

