-- ==== Sys2Proof/Machine/ChildOps.lean ====
section
/-!
DEFINITION. The instructions that create child operations (09_engines.md R213, R217 to R228), and those that wait on and manage
them (R216, R229 to R236).
-/

namespace Sys2Proof.Machine

/-! ### What every issue shares (R213) -/

/-- What the cord has kept of the operation that its issue at this address waits for. -/
def Here.kept (h : Here) (t : Word) : Option Kept := h.cord.kept.filter (fun k => k.addr == h.addr && k.token == t)

/-- The core whose operation a token means: that of the operation that the issue waits for, which may run on where the block has been saved
(R315, R329), else the cord's own. -/
def Here.opCore (h : Here) (t : Word) : Nat := ((h.kept t).map (·.core)).getD h.ref.core

/-- The entry that an instruction fills, but for token, batch and what the instruction's own operands give. -/
def newOp (s : State) (h : Here) (kind : OpKind) (m : OpMods) (ord : Ordr) : OpEntry :=
  { OpEntry.fresh with
    ctx := h.block.ctx, slot := h.ref.slot, cord := h.ref.cord, launch := h.block.launch, blk := h.block.index
    owner := h.block.id, base := h.block.spbase, len := h.block.splen, kind := kind, prio := m.prio.toNat
    after := match m.after with
      | none => 0
      | some r => h.s r
    afterCore := match m.after with
      | none => h.ref.core
      | some r => h.opCore (h.s r)
    batch := h.cord.batch, bseq := h.cord.seals, ordf := m.ordf, acq := ord.acq, rel := ord.rel, scope := ord.scope, seq := s.clock }

/-- A read or write range of the block's allocation. -/
def opRange (h : Here) (w : Bool) (off n : Nat) : SpRange :=
  { write := w, lo := h.block.spbase + off, hi := h.block.spbase + off + n }

/-- Allocates an entry for an operation and writes its token (R207, R211, R213): the state and the token. The operation follows on what the
cord has done (R215). -/
def createOp (s : State) (h : Here) (d : Reg) (o : OpEntry) : State × Word :=
  let c := s.core h.ref.core
  match freeEntry c with
  | none => (s, 0)
  | some e =>
    let (c, t) := allocEntry c e
    let s := setOp (s.setCore h.ref.core c) h.ref.core e { o with token := t, auto := d == 0 }
    let s := s.pass h.agent (.op h.ref.core o.owner t)
    match s.cord? h.ref with
    | none => (s, t)
    | some x => (s.setCord h.ref { x.setTok h.sbase d.toNat t with batchOpen := true }, t)

/-- Room for `n` more operations of the block and `k` more ranges (R211, R257). -/
def opRoom (c : Core) (h : Here) (n k : Nat) : Bool :=
  decide (opCount c h.ref.slot + n ≤ h.block.ops) && decide (c.ops.entries.length + n ≤ Config.opEntries)
    && decide (scoreCount c + k ≤ Config.scoreboardEntries)

/-- The after-token, where it is not valid (R208, R213). -/
def staleAfter (s : State) (h : Here) (m : OpMods) : Option Word :=
  match m.after with
  | none => none
  | some r => if (validToken (s.core h.ref.core) h.ref.slot (h.s r)).isSome then none else some (h.s r)

/-- The entry that an after-token validly names, which the instruction reads (R208, R265). -/
def afterEntry (s : State) (h : Here) (m : OpMods) : Option Nat :=
  m.after.bind (fun r => (validToken (s.core h.ref.core) h.ref.slot (h.s r)).map (fun _ => entryOf (h.s r)))

/-- Operations whose after-token's operation has already finished FAILED or CANCELLED are CANCELLED (R210). -/
def settleAfter (s : State) (core : Nat) (t : Word) : State :=
  match (s.core core).ops.get? (entryOf t) with
  | none => s
  | some o =>
    if o.token == t && (o.state == .failed || o.state == .cancelled) then cancelAfter core (2 * Config.opEntries) [t] s else s

/-- The instruction waits, and keeps the operation it waits for (R213, R231; log entry 29, DEDUCED). -/
def keep (h : Here) (s : State) (t : Word) : Act :=
  if (h.kept t).isSome then .hold else .wait (s.setCord h.ref { h.cord with kept := some ⟨h.addr, t, h.ref.core, none⟩, keptRed := none })

/-- Creates the operation once there is room (R211, R215): the waits come after the checks, which are not made again. -/
def enterOp (h : Here) (s : State) (t : Word) (n k : Nat) (go : State → State) : Act :=
  if !h.cord.gathers.isEmpty || !opRoom (s.core h.ref.core) h n k then keep h s t
  else .did { s := match (h.kept t).bind (·.done) with
    | some true => go s
    | some false => cancelAfter (h.opCore t) (2 * Config.opEntries) [t] (go s)
    | none => settleAfter (go s) (h.opCore t) t }

/-- The issue of an operation (R213): TOKEN_STALE, PERM, the checks of its own entry in `bad`; the waits for the cord's gathers
(R215) and for room; then `go` creates it. -/
def issueOp (h : Here) (s : State) (m : OpMods) (bad : Option (Byte × Word)) (n k : Nat) (go : State → State) : Act :=
  let t : Word := match m.after with
    | none => 0
    | some r => h.s r
  if (h.kept t).isSome then enterOp h s t n k go
  else match staleAfter s h m with
  | some t => parkSet h s cTokenStale t
  | none =>
    if (afterEntry s h m).any (entryBad (s.core h.ref.core)) then parkSetFree h s cDataErr
    else
    let s := (afterEntry s h m).toList.foldl (fun s e => noteRead s h.ref.core .opTable (64 * e) 64) s
    if h.block.ops = 0 then parkSetFree h s cPerm
    else match bad with
    | some (e, x) => parkSet h s e x
    | none => enterOp h s t n k go

/-- The first of some checks that fails. -/
def firstBad (l : List (Bool × Byte × Word)) : Option (Byte × Word) := (l.find? (·.1)).map (·.2)

/-- A value not a multiple of `n`: ALIGN, with its low word (log entry 40, DEDUCED). -/
def alignBad (x n : Nat) : Bool × Byte × Word := (decide (x % n ≠ 0), cAlign, BitVec.ofNat 32 x)

/-- A range outside the allocation: SP_RANGE, with its offset. -/
def rangeBad (h : Here) (off n : Nat) : Bool × Byte × Word :=
  (decide (h.block.splen < off + n), cSpRange, BitVec.ofNat 32 off)

/-- A source range with a line that race check flags (R217, R273): MM_RACE, with its offset. -/
def raceBad (h : Here) (off n : Nat) : Bool × Byte × Word :=
  ((List.range ((off + n - 1) / 64 - off / 64 + 1)).any (fun i => raceFlag h.block h.ref.cord ((off / 64 + i) * 64)),
   cMmRace, BitVec.ofNat 32 off)

/-! ### `cpy` (R217 to R219) -/

/-- R217: a length L of a linear copy. -/
def lenBad (l : Word) : Bool × Byte × Word :=
  (l.toNat % 16 != 0 || l.toNat == 0 || decide (1048576 < l.toNat), cShape, l)

/-- R217. -/
def execCpyIn (o : OCpy) (s : State) : Out :=
  issue (.cpyIn o) (fun h s =>
    let a := (h.s o.a).toNat
    let b := (h.s64 o.b).toNat
    let l := h.s o.c
    let bad := firstBad [lenBad l, alignBad a 16, alignBad b 16, rangeBad h a l.toNat]
    issueOp h s o.mods bad 1 1 (fun s =>
      (createOp s h o.d { newOp s h (.cpy 0) o.mods o.ord with
        a := a, b := b, c := [l], ranges := [opRange h true a l.toNat] }).1)) s

/-- R217. -/
def execCpyOut (o : OCpy) (s : State) : Out :=
  issue (.cpyOut o) (fun h s =>
    let a := (h.s64 o.a).toNat
    let b := (h.s o.b).toNat
    let l := h.s o.c
    let bad := firstBad [lenBad l, alignBad a 16, alignBad b 16, rangeBad h b l.toNat, raceBad h b l.toNat]
    issueOp h s o.mods bad 1 1 (fun s =>
      (createOp s h o.d { newOp s h (.cpy 1) o.mods o.ord with
        a := a, b := b, c := [l], ranges := [opRange h false b l.toNat] }).1)) s

/-- R218: the limits of a control word. -/
def ctlBad (w : Word) : Bool × Byte × Word :=
  (chunkCount w == 0 || decide (8192 < chunkCount w) || field w.toNat 16 2 == 3 || field w.toNat 18 14 != 0, cShape, w)

/-- R218. -/
def execCpyCk (o : OCpy) (s : State) : Out :=
  issue (.cpyCk o) (fun h s =>
    let a := (h.s o.a).toNat
    let b := (h.s64 o.b).toNat
    let ctl := h.s (o.c + 1)
    let n := 128 * chunkCount ctl * chunkZ ctl
    let bad := firstBad [ctlBad ctl, alignBad a 16, alignBad b 16, rangeBad h a n]
    issueOp h s o.mods bad 1 1 (fun s =>
      (createOp s h o.d { newOp s h (.cpy 2) o.mods o.ord with
        a := a, b := b, c := [h.s o.c, ctl], ranges := [opRange h true a n] }).1)) s

/-- R218. -/
def execCpyCkc (o : OCpy) (s : State) : Out :=
  issue (.cpyCkc o) (fun h s =>
    let a := (h.s o.a).toNat
    let i := (h.s (o.a + 1)).toNat
    let b := (h.s64 o.b).toNat
    let ctl := h.s (o.c + 1)
    let n := 128 * chunkCount ctl * chunkZ ctl
    let m := 16 + 512 * chunkCount ctl
    let bad := firstBad [ctlBad ctl, alignBad a 16, alignBad i 16, alignBad b 16, rangeBad h a n, rangeBad h i m]
    issueOp h s o.mods bad 1 2 (fun s =>
      (createOp s h o.d { newOp s h (.cpy 3) o.mods o.ord with
        a := a, b := b, c := [h.s o.c, ctl, h.s (o.a + 1)], ranges := [opRange h true a n, opRange h true i m] }).1)) s

/-- The checks of a tile copy (R194, R213, R217, R182, R192): ACC_TILE, SHAPE for the row count, ALIGN, MM_RACE, and for a read the
tile's fault record. -/
def tileCopyBad (h : Here) (s : State) (t : Reg) (r : Word) (g : Nat) (reads : Bool) : Option (Byte × Word) :=
  match physTile h.block (field t.toNat 0 4) with
  | none => some (cAccTile, BitVec.ofNat 32 (field t.toNat 0 4))
  | some p =>
    let x := (s.core h.ref.core).tile p
    firstBad [(r == 0 || decide (64 < r.toNat), cShape, r), alignBad g 16,
      (tileRace h.block h.ref.cord x, cMmRace, BitVec.ofNat 32 (field t.toNat 0 4)),
      (reads && (tileFault x h.ref.cord).isSome, cDataErr, BitVec.ofNat 32 ((tileFault x h.ref.cord).getD 0))]

/-- R219. -/
def execCpyIna (o : OCpy) (s : State) : Out :=
  issue (.cpyIna o) (fun h s =>
    let b := (h.s64 o.b).toNat
    issueOp h s o.mods (tileCopyBad h s o.a (h.s o.c) b false) 1 0 (fun s =>
      let e := { newOp s h (.cpy 4) o.mods o.ord with b := b, c := [h.s o.c], tile := physTile h.block (field o.a.toNat 0 4) }
      let s := (createOp s h o.d e).1
      s.setCore h.ref.core (tileWrote (s.core h.ref.core) e))) s

/-- R219. -/
def execCpyOuta (o : OCpy) (s : State) : Out :=
  issue (.cpyOuta o) (fun h s =>
    let a := (h.s64 o.a).toNat
    issueOp h s o.mods (tileCopyBad h s o.b (h.s o.c) a true) 1 0 (fun s =>
      (createOp s h o.d { newOp s h (.cpy 5) o.mods o.ord with
        a := a, c := [h.s o.c], tile := physTile h.block (field o.b.toNat 0 4) }).1)) s

/-! ### `cpygat` (R220) -/

/-- R220. -/
def execCpygat (o : OCpy) (s : State) : Out :=
  issue (.cpygat o) (fun h s =>
    let a := (h.s o.a).toNat
    let q (i : Nat) : Word := h.s (o.c + BitVec.ofNat 6 i)
    let (i, n, r, st) := ((q 0).toNat, (q 1).toNat, (q 2).toNat, (q 3).toNat)
    let bad := firstBad [(n == 0 || decide (65536 < n), cShape, q 1), (r % 16 != 0 || decide (r < 16) || decide (4096 < r), cShape, q 2),
      (st % 16 != 0, cShape, q 3), rangeBad h a (n * r), rangeBad h i (4 * n), raceBad h i (4 * n)]
    issueOp h s o.mods bad 1 2 (fun s =>
      (createOp s h o.d { newOp s h .cpygat o.mods o.ord with
        a := a, b := (h.s64 o.b).toNat, c := [q 0, q 1, q 2, q 3]
        ranges := [opRange h false i (4 * n), opRange h true a (n * r)] }).1)) s

/-! ### Collectives (R222, R224) -/

/-- A collective that waits at issue notes its tree, whose writes fail it (R222, R305). -/
def noteTree (h : Here) (sys : Bool) (tree : Nat) : Act → Act
  | .wait s => match s.cord? h.ref with
    | none => .wait s
    | some c => .wait (s.setCord h.ref { c with keptRed := some (sys, tree, false) })
  | a => a

/-- The tree of a collective was written while it waited at issue: it ends FAILED with TIMEOUT (R222, R305). -/
def cutRed (h : Here) (x : State × Word) : State :=
  match h.cord.keptRed, opAt x.1 h.ref.core (entryOf x.2) with
  | some (_, _, true), some o => finishOp x.1 h.ref.core (entryOf x.2) { o with cause := cTimeout, addr := noMember } .failed
  | _, _ => x.1

/-- The issue of a collective; `member` says that the core, or the device, is a member of the tree (log entry 40, DEDUCED for sr.tval). -/
def issueRed (h : Here) (s : State) (o : OMred) (kind : OpKind) (member : Bool) : Act :=
  let a := (h.s o.a).toNat
  let b := (h.s o.b).toNat
  let w := h.s o.c
  let n := 4 * redCount w
  let bad := firstBad [(!member, cPerm, w), (field w.toNat 25 7 != 0, cShape, w), alignBad a 4, alignBad b 4,
    rangeBad h a n, rangeBad h b n, raceBad h b n]
  let sys := match kind with
    | .coll _ => true
    | _ => false
  noteTree h sys (redTree w) (issueOp h s o.mods bad 1 2 (fun s =>
    cutRed h (createOp s h o.d { newOp s h kind o.mods o.ord with
      a := a, b := b, c := [w], ranges := [opRange h false b n, opRange h true a n] })))

/-- R222. -/
def execMred (o : OMred) (s : State) : Out :=
  issue (.mred o) (fun h s =>
    let t := (s.die (dieOf h.ref.core)).trees.get (redTree (h.s o.c)) Tree.fresh
    issueRed h s o (.mred o.fn) (rtMem (t.at (h.ref.core % Config.coresPerDie)))) s

/-- R224. -/
def execColl (o : OMred) (s : State) : Out :=
  issue (.coll o) (fun h s => issueRed h s o (.coll o.fn) (rtMem (sysByte s (redTree (h.s o.c))))) s

/-! ### `wnw` (R225) -/

/-- Links a pass and its replay operation. -/
def pairOps (s : State) (core : Nat) (t u : Word) : State :=
  let set (s : State) (t u : Word) : State := match opAt s core (entryOf t) with
    | none => s
    | some o => setOp s core (entryOf t) { o with pair := some u }
  set (set s t u) u t

/-- R225: both entries are allocated, and join the same batch; the replay operation has the lower priority of R226 (log entry 25, DEDUCED). -/
def execWnw (o : OCpy) (s : State) : Out :=
  issue (.wnw o) (fun h s =>
    let a := (h.s o.a).toNat
    let bad := firstBad [alignBad a 16, rangeBad h a 64, raceBad h a 64]
    issueOp h s o.mods bad 2 1 (fun s =>
      let p := { newOp s h .wnw o.mods o.ord with a := a, b := (h.s64 o.b).toNat, ranges := [opRange h false a 64] }
      let (s, t) := createOp s h o.d p
      let (s, u) := createOp s h o.c { p with kind := .replay, prio := p.prio - 1, ordf := false, ranges := [] }
      pairOps s h.ref.core t u)) s

/-! ### Overlays (R228, R229) -/

/-- The overlay table's entry of an index. -/
def ovlAt (s : State) (h : Here) (idx : BitVec 8) : Option OvlEntry := (ovlsOf s h.ref.core h.block)[idx.toNat]?

/-- Counts a residency token of the block (R301). -/
def addToken (s : State) (h : Here) (caddr : Nat) : State :=
  let core := h.ref.core
  let s := s.setCore core (mapRes (s.core core) h.block.ctx caddr (fun r => { r with tokens := r.tokens + 1, evict := false }))
  match s.block? core h.ref.slot with
  | none => s
  | some b => s.setBlock core h.ref.slot { b with resid := caddr :: b.resid }

/-- An index with no entry: OVL_ABSENT, or DATA_ERR where a damaged entry keeps it from being read, with its address (R256, R265, R299; log
entry 80, DESIGN CHOICE for sr.tval). -/
def ovlBad (s : State) (h : Here) (idx : BitVec 8) : Byte × Word :=
  match ovlDamage s h.ref.core h.block.ctx h.block.ovtab with
  | some a => (cDataErr, BitVec.ofNat 32 a)
  | none => (cOvlAbsent, idx.setWidth 32)

/-- R228: the token holds the overlay from its issue on. A resident overlay finishes it at once, unless it waits for an earlier
operation (log entry 42, DEDUCED). -/
def execOvlld (o : OOvl) (s : State) : Out :=
  issue (.ovlld o) (fun h s =>
    let core := h.ref.core
    let e? := ovlAt s h o.idx
    let s := noteOvls s core h.block.ctx h.block.ovtab
    issueOp h s o.mods (firstBad [(e?.isNone, ovlBad s h o.idx)]) 1 0 (fun s =>
      match e? with
      | none => s
      | some e =>
        let ent := { newOp s h .ovlld o.mods ⟨false, false, .lane⟩ with ovl := e.index, caddr := e.caddr }
        if ovlUnfit (s.core core) h.block.ctx e then (createOp s h o.d { ent with absent := true }).1
        else
          let s := if (resOf (s.core core) h.block.ctx e).isNone then beginLoad s core h.block.ctx e else s
          let s := addToken s h e.caddr
          let (s, t) := createOp s h o.d { ent with holds := true }
          match opAt s core (entryOf t) with
          | none => s
          | some x =>
            if (loadRec (s.core core) x).any (·.resident) && x.after == 0 && !x.ordf then
              finishOp s core (entryOf t) { x with started := true } .done
            else s)) s

/-- The entry that a token operand names: TOKEN_STALE where it is not valid, DATA_ERR where it is damaged (R208, R265). Reading it counts the
errors that the code corrects. -/
def tokenOp (h : Here) (s : State) (r : Reg) (f : State → Nat → OpEntry → Act) : Act :=
  match validToken (s.core h.ref.core) h.ref.slot (h.s r) with
  | none => parkSet h s cTokenStale (h.s r)
  | some o =>
    if entryBad (s.core h.ref.core) (entryOf (h.s r)) then parkSetFree h s cDataErr
    else f (noteRead s h.ref.core .opTable (64 * entryOf (h.s r)) 64) (entryOf (h.s r)) o

/-- R229: drops the residency token, once, and collects the entry when the load has finished. -/
def execOvlrel (o : OTok) (s : State) : Out :=
  issue (.ovlrel o) (fun h s => tokenOp h s o.a (fun s e x =>
    let core := h.ref.core
    if x.kind != .ovlld then parkSet h s cTokenStale (h.s o.a)
    else
      let s := if !x.holds then s
        else
          let s := match s.block? core h.ref.slot with
            | none => s
            | some b => s.setBlock core h.ref.slot { b with resid := b.resid.erase x.caddr }
          s.setCore core (dropTokens (s.core core) x.ctx [x.caddr])
      if x.state.finished then .did { s := freeOp s core e }
      else .did { s := setOp s core e { x with holds := false, auto := true } })) s

/-- R229: marks a resident overlay for eviction. -/
def execOvlevict (o : OEvict) (s : State) : Out :=
  issue (.ovlevict o) (fun h s =>
    let e? := ovlAt s h o.idx
    let s := noteOvls s h.ref.core h.block.ctx h.block.ovtab
    let c := s.core h.ref.core
    match e? with
    | none => parkSet h s (ovlBad s h o.idx).1 (ovlBad s h o.idx).2
    | some e => match resOf c h.block.ctx e with
      | none => .did { s := s }
      | some r =>
        if r.resident then .did { s := s.setCore h.ref.core (freeEvicted (mapRes c h.block.ctx e.caddr (fun r => { r with evict := true }))) }
        else .did { s := s }) s

/-! ### Waiting (R231, R232) -/

/-- A token operand read through a cord's own operation (R230). -/
def onToken (i : Instr) (r : Reg) (f : Here → State → Nat → OpEntry → Act) (s : State) : Out :=
  issue i (fun h s => tokenOp h s r (f h)) s

/-- The end of a wait for an operation is an acquire of its writes (R215, R269). -/
def hearOp (s : State) (h : Here) (t : Word) : State := s.hear h.agent .sys [.op (h.opCore t) t]

/-- The end of an `opwait` (R231). -/
def endWait (h : Here) (s : State) (e : Nat) (x : OpEntry) : Act :=
  let core := h.ref.core
  if !x.state.finished then keep h s x.token
  else if x.state == .failed && !x.rep then parkSet h (setOp s core e { x with rep := true }) x.cause x.token
  else .did { s := freeOp (hearOp s h x.token) core e }

/-- R231: a wait that has begun is for the operation, whoever collects, detaches or adopts it meanwhile, and wherever the block is restored
(R329; log entry 29, DEDUCED). -/
def execOpwait (o : OTok) (s : State) : Out :=
  issue (.opwait o) (fun h s =>
    let t := h.s o.a
    let own := h.opCore t == h.ref.core && (validToken (s.core h.ref.core) h.ref.slot t).isSome
    if (h.kept t).isNone || own then tokenOp h s o.a (endWait h)
    else if unfinished (s.core (h.opCore t)) t then .hold
    else .did { s := hearOp s h t }) s

/-- R231. -/
def execOptest (o : OTest) (s : State) : Out :=
  onToken (.optest o) o.a (fun h s e x =>
    let core := h.ref.core
    let s := s.setCord h.ref (h.cord.setQ o.qd.toNat x.state.finished)
    let s := if x.state.finished then hearOp s h x.token else s
    if x.state == .done || x.state == .cancelled then .did { s := freeOp s core e } else .did { s := s }) s

/-- The operations of a cord that count in its batches (R216). -/
def cordOps (c : Core) (ref : CordRef) : List (Nat × OpEntry) :=
  c.ops.entries.filter (fun x => x.2.ofBlock ref.slot && x.2.cord == ref.cord)

/-- Sealed batches of a cord that are not finished (R216). -/
def openSealed (core : Core) (ref : CordRef) (c : Cord) : Nat :=
  (((cordOps core ref).filter (fun x => !x.2.state.finished && x.2.bseq != c.seals)).map (·.2.bseq)).dedup.length

/-- R216. -/
def execOpseal (o : OSeal) (s : State) : Out :=
  issue (.opseal o) (fun h s =>
    if !h.cord.batchOpen then .did { s := s }
    else if Config.sealLimit ≤ openSealed (s.core h.ref.core) h.ref h.cord then .hold
    else .did { s := s.setCord h.ref { h.cord with batch := h.cord.batch + 1, batchOpen := false, seals := h.cord.seals + 1 } }) s

/-- The earliest issued of some operations. -/
def earliest (l : List (Option Nat × OpEntry)) : Option (Option Nat × OpEntry) :=
  l.foldl (fun m x => match m with
    | none => some x
    | some y => if x.2.seq < y.2.seq then some x else some y) none

/-- What carries the ends of the operations in the batches of the cord that were sealed before its `n` newest. -/
def batchesOf (h : Here) (n : Nat) : List Carrier :=
  (List.range (h.cord.seals - n)).map (Carrier.batch h.ref.core h.block.id h.ref.cord)

/-- R232: waits for all sealed batches but the `n` newest, then reports the earliest failure not yet told, one at each issue. -/
def execOpwaitb (o : OWaitb) (s : State) : Out :=
  issue (.opwaitb o) (fun h s =>
    let core := h.ref.core
    let c := s.core core
    let old (x : OpEntry) : Bool := decide (o.n.toNat < h.cord.seals - x.bseq)
    let mine := (cordOps c h.ref).filter (fun x => old x.2)
    if mine.any (fun x => !x.2.state.finished) then .hold
    else if mine.any (fun x => entryBad c x.1) then parkSetFree h s cDataErr
    else
      let s := mine.foldl (fun s x => noteRead s core .opTable (64 * x.1) 64) s
      let lost := h.block.failed.filter (fun x => x.cord == h.ref.cord && old x)
      let bad := (mine.filter (fun x => x.2.state == .failed && !x.2.rep)).map (fun x => (some x.1, x.2))
        ++ lost.map (fun x => ((none : Option Nat), x))
      match earliest bad with
      | none => .did { s := s.hear h.agent .sys (batchesOf h o.n.toNat) }
      | some (some e, x) => parkSet h (setOp s core e { x with rep := true }) x.cause x.token
      | some (none, x) =>
        parkSet h (match s.block? core h.ref.slot with
          | none => s
          | some b => s.setBlock core h.ref.slot { b with failed := b.failed.erase x }) x.cause x.token) s

/-! ### Managing (R233 to R236) -/

/-- R233. -/
def execOpcancel (o : OTok) (s : State) : Out :=
  onToken (.opcancel o) o.a (fun h s e _ => .did { s := cancelOp s h.ref.core e }) s

/-- R235. The token is checked first, and then the address before the operation's state (log entry 59, DESIGN CHOICE). -/
def execOpdetach (o : ODet) (s : State) : Out :=
  onToken (.opdetach o) o.a (fun h s e x =>
    let a := (h.s64 o.b).toNat
    if a % 32 ≠ 0 then parkSet h s cAlign (BitVec.ofNat 32 a)
    else if x.state.finished then parkSet h s cTokenStale x.token
    else .did { s := setOp s h.ref.core e { x with det := some a, adopted := false } }) s

/-- R234: the fault record goes to scratchpad as a store of the cord. The token is checked before the address (log entry 59, DESIGN
CHOICE). -/
def execOpstat (o : OStat) (s : State) : Out :=
  onToken (.opstat o) o.b (fun h s e x =>
    let core := h.ref.core
    let ea := h.s o.a
    match resolve s h 0 .lin ea 32 true false false with
    | .error c => parkSet h s c ea
    | .ok p =>
      if spotHeld s true 32 p then holdSpots s h true 32 [(0, p)]
      else
        let s := (spotWrite (noteBoard s p) h.ref.slot x.record p).wroteSpot h.agent p 32 .plain
        let s := match s.block? core h.ref.slot with
          | none => s
          | some b => s.setBlock core h.ref.slot (recordWrite b h.ref.cord ea.toNat 32)
        let s := match s.cord? h.ref with
          | none => s
          | some c => s.setCord h.ref (c.setS h.sbase o.d.toNat (BitVec.ofNat 32 (leNat (x.record.take 4))))
        if x.state.finished then .did { s := freeOp s core e } else .did { s := s }) s

/-- R234. -/
def execOpprio (o : OPrio) (s : State) : Out :=
  onToken (.opprio o) o.a (fun h s e x =>
    if x.state.finished then .did { s := s } else .did { s := setOp s h.ref.core e { x with prio := o.p.toNat } }) s

/-- R236: takes over an orphan of the context on the core; every other identifier gives 0. A damaged entry gives DATA_ERR (R265). -/
def execOpadopt (o : OAdopt) (s : State) : Out :=
  issue (.opadopt o) (fun h s =>
    let core := h.ref.core
    let t := h.s o.a
    let w := (h.s (o.a + 1)).toNat
    let no : Act := .did { s := s.setCord h.ref (h.setS o.d 0) }
    match opAt s core (entryOf t) with
    | none => no
    | some x =>
      if w ≠ core || x.token != t then no
      else if entryBad (s.core core) (entryOf t) then parkSetFree h s cDataErr
      else
      let s := noteRead s core .opTable (64 * entryOf t) 64
      if x.det.isSome && !x.adopted && !x.state.finished && x.ctx == h.block.ctx
          && decide (opCount (s.core core) h.ref.slot < h.block.ops) then
        let s := setOp s core (entryOf t) { x with
          adopted := true, slot := h.ref.slot, cord := h.ref.cord, batch := h.cord.batch, bseq := h.cord.seals }
        .did { s := s.setCord h.ref { h.cord.setTok h.sbase o.d.toNat t with batchOpen := true } }
      else .did { s := s.setCord h.ref (h.setS o.d 0) }) s

end Sys2Proof.Machine
end

