-- ==== Sys2Proof/Machine/Sync.lean ====
section
/-!
DEFINITION. Barriers, fences, tickets, events, device queues and channels (07_control_memory.md R163 to R169; 09_engines.md
R243; 15_counters.md R313, R314).
-/

namespace Sys2Proof.Machine

/-! ### Barriers (R163, R164) -/

/-- The phase in which an arrival of the cord counts, from the current one: the first in which it has not arrived. -/
def arrivalPhase (r : Barrier) (cord : Nat) : Nat := (r.phases.takeWhile (fun p => p.arrivals.contains cord)).length

/-- The barrier with an arrival; the first arrival of a phase gives its count. -/
def arriveAt (r : Barrier) (j cord count : Nat) : Barrier :=
  match r.phases[j]? with
  | none => { r with phases := r.phases ++ [{ count := count, arrivals := [cord] }] }
  | some p => { r with phases := r.phases.set j { p with arrivals := p.arrivals ++ [cord] } }

/-- The arrival of `bar` and `barar` (R163): SHAPE for a count above 32; the wait for cord writes (R181; a `barar` too waits for
them at its issue, log entry 72, DEDUCED) and for a phase less than four ahead; then the arrival, a release at block scope, after which
`f` notes its phase in the cord. -/
def arrive (h : Here) (s : State) (a : Reg) (bn : Nat) (f : Cord → Nat → Cord) : Act :=
  let count := field (h.s a).toNat 0 6
  let r := h.block.barrier bn
  let j := arrivalPhase r h.ref.cord
  if 32 < count then parkSet h s cShape (h.s a)
  else if writesPending (s.core h.ref.core) h.ref.slot h.ref.cord h.block || decide (4 ≤ j) then .hold
  else
    let s := s.setCord h.ref (f h.cord (r.number + j))
    match s.block? h.ref.core h.ref.slot with
    | none => .did { s := s }
    | some b =>
      let b := { b with barriers := b.barriers.set bn (arriveAt r j h.ref.cord count) }
      let s := s.send h.agent .blk [.phase h.ref.core b.id bn (r.number + j)]
      .did { s := settleAt (s.setBlock h.ref.core h.ref.slot b) h.ref.core h.ref.slot }

/-- The arrival that the executing lanes have made at the `bar` where they stand (R23). -/
def Here.arrived (h : Here) : Option BarWait := (h.cord.barWait.get? h.addr).filter (fun w => h.set.all w.lanes.contains)

/-- The end of a wait for a phase is an acquire at block scope (R269). -/
def hearPhase (s : State) (h : Here) (bn n : Nat) : State := s.hear h.agent .blk [.phase h.ref.core h.block.id bn n]

/-- The `bar` at an address goes on with its flag, or waits where it stands (R163, R170). -/
def barWait (h : Here) (s : State) (addr qd : Nat) : Act :=
  match s.cord? h.ref with
  | none => .did { s := s }
  | some c => match c.barWait.get? addr with
    | none => .wait s
    | some w => match w.flag with
      | none => .wait s
      | some flag =>
        .did { s := hearPhase (s.setCord h.ref ({ c with barWait := c.barWait.erase addr }.setQ qd flag)) h w.bar w.phase }

/-- R163: the cord arrives, once, and waits at the instruction until the phase at which it arrived completes; its predicate is written
then (log entry 37, DEDUCED). -/
def execBar (o : OBar) (s : State) : Out :=
  issue (.bar o) (fun h s =>
    match h.arrived with
    | some w => if w.flag.isNone then .hold else barWait h s h.addr o.qd.toNat
    | none =>
      match arrive h s o.a o.bn.toNat (fun c n => { c with barWait := c.barWait.set h.addr ⟨h.set, o.bn.toNat, n, none⟩ }) with
      | .did d => if d.park.isEmpty then barWait h d.s h.addr o.qd.toNat else .did d
      | a => a) s

def execBarar (o : OBarar) (s : State) : Out :=
  issue (.barar o) (fun h s => arrive h s o.a o.bn.toNat (fun c n => { c with
    barars := c.barars.set o.bn.toNat n, bflags := c.bflags.erase o.bn.toNat })) s

/-- R163: waits for the phase of the cord's last `barar`; without one it writes false. -/
def execBarwt (o : OBarwt) (s : State) : Out :=
  issue (.barwt o) (fun h s =>
    let bn := o.bn.toNat
    match h.cord.barars.get? bn with
    | none => .did { s := s.setCord h.ref (h.cord.setQ o.qd.toNat false) }
    | some n =>
      if (h.block.barrier bn).number ≤ n then .hold
      else .did { s := hearPhase (s.setCord h.ref (h.cord.setQ o.qd.toNat (h.cord.bflags.get bn false))) h bn n }) s

/-! ### Fences (R165) -/

/-- R165: the waits that order the cord's accesses come before the issue; the fence itself changes nothing. -/
def execFence (o : OFence) (s : State) : Out := cordOp (.fence o) (fun h => h.cord) s

/-! ### Tickets (R166, R313, R314) -/

/-- Counts of f2 to f5 of a launch (R29, R284). -/
def launchCounts (l : Launch) : List Nat :=
  let fw := field l.header.toNat 64 32
  let cnt := field l.packet.toNat 192 64
  let w (j : Nat) : Nat := field fw (3 + 6 * j) 6
  (List.range 4).map (fun j => field cnt (((List.range j).map w).foldl (· + ·) 0) (w j) + 1)

/-- Blocks in a group at a level (R31). -/
def groupSize (l : Launch) (level : Nat) : Nat := ((launchCounts l).take (level - 1)).foldl (· * ·) 1

/-- Ranks of the blocks below a block in its group. -/
def lowerRanks (l : Launch) (level rank : Nat) : List Nat :=
  let g := groupSize l level
  (List.range (rank % g)).map (rank / g * g + ·)

/-- The launch has placed the block of a rank. -/
def placedRank (l : Launch) (r : Nat) : Bool := decide (r < l.next) && !l.back.contains r

/-- A block that a wait would wait for in vain: ended, or never to be placed (R325). -/
def neverPasses (l : Launch) (r : Nat) : Bool :=
  !l.passed.contains r && !l.passing.contains r
    && (l.endedBlocks.contains r || (l.status == .failed && !placedRank l r))

/-- What carries the pass of a block's ticket to a `tktwait`. -/
def ticketOf (b : Block) : Carrier := .ticket b.launch b.rank

/-- R166, an acquire at device scope when it ends (R68): a task, which has no index in the launch, waits for no block (log entry 38, DEDUCED). -/
def execTktwait (o : OTkt) (s : State) : Out :=
  issue (.tktwait o) (fun h s =>
    if h.block.task.isSome then .did { s := s }
    else match s.launches.get? h.block.launch with
    | none => .did { s := s }
    | some l =>
      let low := lowerRanks l o.level.toNat h.block.rank
      if low.any (neverPasses l) then parkSetFree h s cTicket
      else if low.all (l.passed.contains ·) then
        .did { s := s.hear h.agent .dev (low.map (Carrier.ticket h.block.launch)) }
      else .hold) s

/-- The block passes its ticket, if it has not (R166); the frontier takes it a clock later (R313). -/
def passTicket (s : State) (b : Block) : State :=
  if b.task.isSome then s
  else match s.launches.get? b.launch with
  | none => s
  | some l =>
    if l.passed.contains b.rank || l.passing.contains b.rank then s
    else s.setLaunch b.launch { l with passing := l.passing ++ [b.rank] }

/-- R166, R68. -/
def execTktpass (o : OGX) (s : State) : Out :=
  issue (.tktpass o) (fun h s => .did { s := passTicket (s.send h.agent .dev [ticketOf h.block]) h.block }) s

/-- R314: the frontier of the launch's groups takes the passes made before. -/
def execTicketFrontierUpdate (launch : Nat) (s : State) : Out :=
  match s.launches.get? launch with
  | none => .next s
  | some l =>
    if l.passing.isEmpty then .next s
    else .next { s.setLaunch launch { l with passed := l.passed ++ l.passing, passing := [] } with stalled := [] }

/-! ### Events (R167, R243) -/

/-- The event bits of a slice of the executing core's cluster. -/
def eventBits (s : State) (h : Here) (slice : Nat) : BitVec 16 := (s.cluster (clusterOf h.ref.core)).events.get slice 0

/-- The state with the event bits of a slice replaced. -/
def setEvents (s : State) (h : Here) (slice : Nat) (x : BitVec 16) : State :=
  let c := s.cluster (clusterOf h.ref.core)
  s.setCluster (clusterOf h.ref.core) { c with events := c.events.set slice x }

/-- An event instruction: PERM for a slice not granted (R304). -/
def eventOp (i : Instr) (o : OEv) (f : Here → State → BitVec 16 → BitVec 16 → Act) (s : State) : Out :=
  issue i (fun h s =>
    if !sliceGranted s h.block o.slice.toNat then parkSetFree h s cPerm
    else f h s ((h.s o.a).setWidth 16) (eventBits s h o.slice.toNat)) s

/-- What carries the bits of a mask from an `evset` to an `evwait` (R269). -/
def bitsOf (h : Here) (slice : Nat) (m : BitVec 16) : List Carrier :=
  (bitsFrom m.toNat 0 16).map (Carrier.event (clusterOf h.ref.core) slice)

/-- R167: a release at cluster scope. -/
def execEvset (o : OEv) (s : State) : Out :=
  eventOp (.evset o) o (fun h s m x =>
    .did { s := setEvents (s.send h.agent .clu (bitsOf h o.slice.toNat m)) h o.slice.toNat (x ||| m) }) s
/-- R167: it orders nothing, and a bit set again carries what the new `evset` releases. -/
def execEvclr (o : OEv) (s : State) : Out :=
  eventOp (.evclr o) o (fun h s m x => .did { s := setEvents (s.unsend (bitsOf h o.slice.toNat m)) h o.slice.toNat (x &&& ~~~m) }) s
/-- R167: its end is an acquire at cluster scope. -/
def execEvwait (o : OEv) (s : State) : Out :=
  eventOp (.evwait o) o (fun h s m x =>
    if x &&& m = m then .did { s := s.hear h.agent .clu (bitsOf h o.slice.toNat m) } else .hold) s
/-- R243: waits until any bit of the mask is set; a mask of 0 does not wait. It orders nothing. -/
def execIdleEv (o : OEv) (s : State) : Out :=
  eventOp (.idleEv o) o (fun _ s m x => if m = 0 || x &&& m != 0 then .did { s := s } else .hold) s

/-! ### Device queues (R168, R243, R295) -/

/-- A device queue of the block: PERM for an index not bound, DATA_ERR for a damaged entry (R265). -/
def queueOp (h : Here) (s : State) (idx : Word) (f : Nat → Queue → Act) : Act :=
  match boundQueue h.block idx with
  | none => parkSetFree h s cPerm
  | some q => if (queueOf s q).bad then parkSetFree h s cDataErr else f q (queueOf s q)

def execIdleQ (o : OBrx) (s : State) : Out :=
  issue (.idleQ o) (fun h s => queueOp h s (h.s o.a) (fun q x => if qFill x = 0 then .hold else .did { s := noteQueue s q })) s

/-- The 64 bytes of scratchpad that a queue instruction names (R148, R157): its place. -/
def packetSpot (h : Here) (s : State) (a : Reg) (imm : BitVec 11) (w : Bool) (f : Spot → Act) : Act :=
  let ea := h.s a + imm.signExtend 32
  match resolve s h 0 .lin ea 64 w (!w) true with
  | .error e => parkSet h s e ea
  | .ok p => if spotHeld s w 64 p then holdSpots s h w 64 [(0, p)] else f p

/-- The scratchpad range of a place. -/
def Spot.range (p : Spot) (w : Bool) (n : Nat) : Option SpRange :=
  match p with
  | .sp _ a => some { write := w, lo := a, hi := a + n }
  | _ => none

/-- R168: the packet at the head, if there is one. A packet that cannot be read leaves the head where it is. The destination stands in
the scoreboard until the instruction completes; while the scoreboard is full it waits at issue (R257). A slot that does not translate,
or that the context may not read, parks the executing set like an uncorrectable error (log entry 60, DESIGN CHOICE). -/
def execQpop (o : OQpop) (s : State) : Out :=
  issue (.qpop o) (fun h s =>
    queueOp h s (h.s o.b) (fun q x => packetSpot h s o.a o.imm true (fun p =>
      let s := noteBoard s p
      let s := s.setCore h.ref.core (mendBoard (s.core h.ref.core))
      let fl (b : Bool) : InFlight :=
        { left := look h.cord o.la, uses := uses (.qpop o), owed := [.q o.qd.toNat b], range := p.range true 64 }
      if Config.scoreboardEntries ≤ scoreCount (s.core h.ref.core) then .hold
      else if qFill x = 0 then .did { s := noteQueue s q, fl := [fl false] }
      else match dieRead s (queueDie q) (qCtx x) (qSlot x x.head) 64 with
      | .error e => parkSetFree h (noteDie s (queueDie q) (qCtx x) (qSlot x x.head) 64) e
      | .ok l =>
        let s := s.hear h.agent .sys [.packet q x.head.toNat, .bell q]
        let s := (spotWrite s h.ref.slot l p).wroteSpot h.agent p 64 .plain
        .did { s := noteQueue (noteDie (setQueue s q { x with head := x.head + 1 })
                 (queueDie q) (qCtx x) (qSlot x x.head) 64) q, fl := [fl true] }))) s

/-- R168: into the slot at the tail, unless the queue is full. A slot that does not translate, or that the context may not write, parks
the executing set (log entry 60, DESIGN CHOICE). -/
def execQpush (o : OQpush) (s : State) : Out :=
  issue (.qpush o) (fun h s =>
    queueOp h s (h.s o.b) (fun q x => packetSpot h s o.a o.imm false (fun p =>
      let done (s : State) (ok : Bool) : Act := .did { s := noteQueue (s.setCord h.ref (h.cord.setQ o.qd.toNat ok)) q }
      if qFill x = qSize x then done s false
      else match dieWrite s (queueDie q) (qCtx x) (qSlot x x.tail) (spotRead (s.seenBy ⟨h.agent, true⟩) 64 p) h.agent with
      | .error e => parkSetFree h (noteWalk s (queueDie q) (qCtx x) (qSlot x x.tail)) e
      | .ok t =>
        let s := ((noteSpot (noteBoard t p) 64 p).sawSpot ⟨h.agent, true⟩ p 64 false none).send h.agent .sys [.packet q x.tail.toNat]
        done (setQueue s q { x with tail := x.tail + 1 }) true))) s

/-! ### Channels (R169, R306) -/

/-- The channel an operand names: CHAN where the block has none of that number. Reading its table entry counts an error that the code
corrects (R265). -/
def chanOp (h : Here) (s : State) (n : ChanN) (f : State → Nat → Channel → Act) : Act :=
  match h.block.chans[n.toNat]? with
  | none => parkSetFree h s cChan
  | some p =>
    if badWord (s.core h.ref.core) .chanTable (8 * p) 8 then parkSetFree h s cDataErr
    else match (s.core h.ref.core).chans.get? p with
    | none => parkSetFree h s cChan
    | some c => f (noteRead s h.ref.core .chanTable (8 * p) 8) p c

/-- Items in a ring (R312). -/
def Channel.fill (c : Channel) : Nat := (c.tail - c.head).toNat
/-- Address of the slot that a counter names. -/
def Channel.slotAt (c : Channel) (n : BitVec 16) : Nat := c.base + 4 * (n.toNat % 2 ^ c.lsize)

/-- The state with a channel's entry replaced. -/
def setChan (s : State) (core p : Nat) (c : Channel) : State :=
  s.setCore core { s.core core with chans := (s.core core).chans.set p c }

/-- The number of the end-of-stream token among the items of a channel. -/
def tokenItem : Nat := 65536

/-- R169, R70: CHAN after the token has been sent; waits while the ring is full. A release at block scope. -/
def execChput (o : OChput) (s : State) : Out :=
  issue (.chput o) (fun h s => chanOp h s o.ch (fun s p c =>
    let n := h.ref.core
    if c.eos then parkSetFree h s cChan
    else if badBoard (s.core n) then parkSetFree h s cDataErr
    else if 2 ^ c.lsize ≤ c.fill then .hold
    else if scoreHeld (s.core n) true (c.slotAt c.tail) 4 then holdSpots s h true 4 [(0, .sp n (c.slotAt c.tail))]
    else
      let s := noteBoard s (.sp n (c.slotAt c.tail))
      let s := s.setCore n { s.core n with spad := (s.core n).spad.setWord (c.slotAt c.tail) (h.s o.a) }
      let s := (s.wrote h.agent (.sp n (c.slotAt c.tail)) 4 (.rel .blk)).send h.agent .blk [.item h.block.id o.ch.toNat c.tail.toNat]
      .did { s := setChan s n p { c with tail := c.tail + 1 } })) s

/-- R169: an item, or the token, which stays at the head. An acquire at block scope. -/
def execChget (o : OChget) (s : State) : Out :=
  issue (.chget o) (fun h s => chanOp h s o.ch (fun s p c =>
    let n := h.ref.core
    let fl (l : List Owed) : List InFlight := [{ left := look h.cord o.la, uses := uses (.chget o), owed := l }]
    if c.fill = 0 then
      if c.eos then .did { s := s.hear h.agent .blk [.item h.block.id o.ch.toNat tokenItem], fl := fl [.q o.qb.toNat true] } else .hold
    else if badBoard (s.core n) || badWord (s.core n) .scratchpad (c.slotAt c.head) 4 then parkSetFree h s cDataErr
    else if scoreHeld (s.core n) false (c.slotAt c.head) 4 then holdSpots s h false 4 [(0, .sp n (c.slotAt c.head))]
    else
      let s := noteRead (noteBoard s (.sp n (c.slotAt c.head))) n .scratchpad (c.slotAt c.head) 4
      let s := (s.hear h.agent .blk [.item h.block.id o.ch.toNat c.head.toNat]).saw ⟨h.agent, false⟩ (.sp n (c.slotAt c.head)) 4 true (some .blk)
      let x := (s.core n).spad.word (c.slotAt c.head)
      .did { s := setChan s n p { c with head := c.head + 1 }
             fl := fl [.s (place h.cord.ubud h.sbase o.a.toNat) x, .q o.qb.toNat false] })) s

/-- R169: uses no slot, so it never waits. -/
def execCheos (o : OCheos) (s : State) : Out :=
  issue (.cheos o) (fun h s => chanOp h s o.ch (fun s p c =>
    if c.eos then parkSetFree h s cChan
    else .did { s := setChan (s.send h.agent .blk [.item h.block.id o.ch.toNat tokenItem]) h.ref.core p { c with eos := true } })) s

end Sys2Proof.Machine
end

