-- ==== Sys2Proof/Machine/Tasks.lean ====
section
/-!
DEFINITION. Tasks: `spawn`, and the packing unit that forms task cords (09_engines.md R238; 13_queues.md R296, R297).
-/

namespace Sys2Proof.Machine

/-! ### Task queues (R296) -/

/-- Items of a context in all its overflow rings. -/
def overflowCount (s : State) (ctx : Nat) : Nat := ((s.ctx ctx).overflow.vals.map List.length).foldl (· + ·) 0

/-- Items of a context that wait in its overflow ring for a cluster's queue. -/
def overflowOf (s : State) (ctx cl : Nat) : List TaskItem := (s.ctx ctx).overflow.get cl []

/-- Further items that a cluster takes from a context. -/
def taskRoom (s : State) (ctx cl : Nat) : Nat :=
  (if (overflowOf s ctx cl).isEmpty then Config.taskItems - (s.cluster cl).tasks.length else 0)
    + ((s.ctx ctx).overflowSize - overflowCount s ctx)

/-- Enqueues an item: in creation order, past a full queue to the overflow ring (R296). -/
def enqueueTask (s : State) (cl : Nat) (x : TaskItem) : State :=
  let c := s.cluster cl
  if c.tasks.length < Config.taskItems && (overflowOf s x.ctx cl).isEmpty then s.setCluster cl { c with tasks := c.tasks ++ [x] }
  else
    let k := s.ctx x.ctx
    s.setCtx x.ctx { k with overflow := k.overflow.set cl (k.overflow.get cl [] ++ [x]) }

/-- Moves overflowed items into a cluster's queue while it has room, the contexts in ascending order. -/
def refillTasks (cl : Nat) : List Nat → State → State
  | [], s => s
  | ctx :: r, s =>
    let c := s.cluster cl
    let k := s.ctx ctx
    let l := k.overflow.get cl []
    let n := Config.taskItems - c.tasks.length
    if l.isEmpty then refillTasks cl r s
    else refillTasks cl r ((s.setCluster cl { c with tasks := c.tasks ++ l.take n }).setCtx ctx
      { k with overflow := k.overflow.set cl (l.drop n) })

/-! ### `spawn` (R238) -/

/-- The depth of the items that a cord spawns: sr.depth plus 1 (R238). -/
def spawnDepth (h : Here) : Nat := ((h.block.task.map (·.depth)).getD 0) + 1

/-- The fault of one lane's `spawn` (R238, R296): the cause, and the value in sr.tval. A lane with several takes the depth's, then the
entry's, then the slice's (log entry 55, DESIGN CHOICE). -/
def spawnFault (s : State) (h : Here) (o : OSpawn) (k : Nat) : Option (Byte × Option Word) :=
  let depth := spawnDepth h
  let entry := h.v k o.b
  if 8 < depth then some (cSpawnDepth, none)
  else if misaligned entry then some (cAlign, some entry)
  else if !sliceGranted s h.block o.slice.toNat then some (cPerm, none)
  else none

/-- The item that one lane enqueues: the work identifier is that of R297, but for its lane. -/
def spawnItem (h : Here) (o : OSpawn) (k : Nat) : TaskItem :=
  let l := h.cord.lane k
  let masks := h.v k o.c
  { ctx := h.block.ctx, launch := h.block.launch, by_ := h.block.id
    rank := if h.block.task.isSome then none else some h.block.rank, entry := h.v k o.b, arg := h.v64 k o.a
    waitM := masks.setWidth 16, setM := masks.extractLsb' 16 16, slice := o.slice.toNat, cls := o.cls.toNat
    depth := spawnDepth h
    wid := BitVec.ofNat 64 ((l.wid.toNat * 256 + l.spawns.toNat) % 2 ^ 59), prio := h.block.prio }

/-- R238: each active lane without a fault of its own enqueues an item, in ascending order; the cord waits while the queue and
the overflow ring cannot take them all, none enqueued (log entry 100, DESIGN CHOICE). A release at cluster scope, to the start of each task. -/
def execSpawn (o : OSpawn) (s : State) : Out :=
  issue (.spawn o) (fun h s =>
    let act := h.active o.gd
    let cl := clusterOf h.ref.core
    let good := act.filter (fun k => (spawnFault s h o k).isNone)
    let bad := act.filterMap (fun k => (spawnFault s h o k).map (fun e => (k, e)))
    if taskRoom s h.block.ctx cl < good.length then .hold
    else
      let (x, s) := if bad.isEmpty then ((0 : DWord), s) else s.free
      let s := s.setCord h.ref (h.cord.onLanes good (fun _ l => { l with spawns := l.spawns + 1 }))
      let s := s.send h.agent .clu (good.map (fun k => .task h.block.launch (spawnItem h o k).wid))
      let s := good.foldl (fun s k => enqueueTask s cl (spawnItem h o k)) s
      .did { s := s, park := bad.map (fun e => (e.1, e.2.1, e.2.2.getD (x.setWidth 32))) }) s

/-! ### Packing (R297) -/

/-- The event bits that an item waits for are set. -/
def itemReady (c : Cluster) (x : TaskItem) : Bool := c.events.get x.slice 0 &&& x.waitM == x.waitM

/-- Two items have one spawning block; a block placed again after a flush is the same block of its launch (R332). -/
def TaskItem.sameSpawner (x y : TaskItem) : Bool := x.by_ == y.by_ || (x.launch == y.launch && x.rank.isSome && x.rank == y.rank)

/-- A block spawned an item. -/
def Block.spawned (b : Block) (x : TaskItem) : Bool :=
  b.id == x.by_ || (b.launch == x.launch && b.task.isNone && x.rank == some b.rank)

/-- The block that spawned an item has exited (R34): its cords have, or it has left its core, neither saved nor flushed. -/
def spawnerGone (s : State) (x : TaskItem) : Bool :=
  let here_ (b : Block) : Bool := b.spawned x && !(b.status == .ended || b.cords.vals.all Cord.exited)
  let flushed := match s.launches.get? x.launch with
    | none => false
    | some l => x.rank.any l.back.contains
  !(s.cores.vals.any (fun c => c.blocks.vals.any here_) || s.saved.any (fun v => v.block.spawned x) || flushed)

/-- The launch of an item is deterministic. -/
def itemDet (s : State) (x : TaskItem) : Bool :=
  match s.launches.get? x.launch with
  | none => false
  | some l => bit l.packet.toNat 32

/-- Two items may stand in one cord. -/
def TaskItem.sameGroup (x y : TaskItem) : Bool := x.launch == y.launch && x.entry == y.entry && x.cls == y.cls

/-- The first 32 ready items of an item's group, in creation order. -/
def groupOf (c : Cluster) (x : TaskItem) : List TaskItem := (c.tasks.filter (fun y => itemReady c y && x.sameGroup y)).take 32

/-- Those of them that the same block has spawned. -/
def spawnedGroup (c : Cluster) (x : TaskItem) : List TaskItem :=
  (c.tasks.filter (fun y => itemReady c y && x.sameGroup y && x.sameSpawner y)).take 32

/-- Forms a cord of some items: they leave the queue. -/
def formCord (s : State) (cl : Nat) (l : List TaskItem) : State :=
  let c := s.cluster cl
  let s := s.setCluster cl { c with tasks := l.foldl (fun t x => t.erase x) c.tasks, formed := c.formed ++ [⟨l, false, false⟩] }
  refillTasks cl s.ctxs.keys s

/-- R297: a cord forms of 32 ready items, or, in a deterministic launch, of the ready items of a block that has exited (log entry 46,
DEDUCED). -/
def execTaskCordFormation (die cluster : Nat) (s : State) : Out :=
  let cl := die * 8 + cluster
  let c := s.cluster cl
  let ready := c.tasks.filter (itemReady c)
  match ready.find? (fun x => (groupOf c x).length == 32) with
  | some x => .next { formCord s cl (groupOf c x) with stalled := [] }
  | none => match ready.find? (fun x => itemDet s x && spawnerGone s x) with
    | some x => .next { formCord s cl (spawnedGroup c x) with stalled := [] }
    | none => .next s

/-- R297: the oldest ready item of a group has waited 256 clocks, in a launch that is not deterministic. The number's remainder by 8 names
the cluster of the die, its quotient the group: that of the ready item of this position among those of such launches (log entry 89, DESIGN
CHOICE: which group's time has come is the agenda's). -/
def execTaskReadyTimeout (die cluster : Nat) (s : State) : Out :=
  let cl := die * 8 + cluster % 8
  let c := s.cluster cl
  match (c.tasks.filter (fun x => itemReady c x && !itemDet s x))[cluster / 8]? with
  | none => .next s
  | some x => .next { formCord s cl (groupOf c x) with stalled := [] }

end Sys2Proof.Machine
end

