-- ==== Sys2Proof/Machine/Distributor.lean ====
section
/-!
DEFINITION. The distributor: doorbells, launch packets and headers with their checks (13_queues.md R282 to R289), the completion
record (01_machine.md R17, R288), and the completion of a launch.
-/

namespace Sys2Proof.Machine

/-! ### Doorbells (R283, R303) -/

/-- The state with an error of a queue counted (R311). -/
def queueErr (s : State) (q : Nat) : State := setQueue s q (qError (queueOf s q))

/-- A doorbell of a queue in the mode given: its tail is the queue's new one where it is the highest written (R16), or the error is counted
(R283). In recovery mode the port is closed (R342). It is a release at system scope of the host's earlier writes (R277, R295). -/
def ringBell (q : Nat) (v : DWord) (device : Bool) (s : State) : Out :=
  let x := queueOf s q
  let n := v.setWidth 32
  if s.mgmt.boot == .recovery || qDevice x != device then .next s
  else if !qEnabled x || field v.toNat 32 32 != 0 || decide (qSize x < (n - x.head).toNat) then .next (queueErr s q)
  else woke (setQueue (s.send .host .sys [.bell q]) q { x with tail := if x.tail - x.head < n - x.head then n else x.tail })

/-- R283: a doorbell of a launch-mode queue. -/
def execDoorbell (q : Nat) (v : DWord) (s : State) : Out := ringBell q v false s

/-- R295: a doorbell of a device-mode queue; waiting cords look at the queue again (R243). -/
def execDeviceQueueDoorbell (q : Nat) (v : DWord) (s : State) : Out := ringBell q v true s

/-! ### Fields of the packet (R284) and of the header (R286) -/

def pSeed (p : BitVec 512) : Nat := field p.toNat 448 64
def pCrec (p : BitVec 512) : Nat := field p.toNat 384 64
def pArg (p : BitVec 512) : Nat := field p.toNat 320 64
def pLoc (p : BitVec 512) : Nat := field p.toNat 256 64
def pCnt (p : BitVec 512) : Nat := field p.toNat 192 64
def pFlag (p : BitVec 512) (i : Nat) : Bool := bit p.toNat i
def pDet (p : BitVec 512) : Bool := pFlag p 32
def pRace (p : BitVec 512) : Bool := pFlag p 33
def pSpread (p : BitVec 512) : Bool := pFlag p 34
def pCores (p : BitVec 512) : Bool := pFlag p 35
def pIdem (p : BitVec 512) : Bool := pFlag p 36
def pRecomp (p : BitVec 512) : Bool := pFlag p 37
def pPersist (p : BitVec 512) : Bool := pFlag p 38
def pType (p : BitVec 512) : Nat := field p.toNat 24 8
def pSlot (p : BitVec 512) : Nat := field p.toNat 0 10

def hRole (h : BitVec 1024) (r : Nat) : Nat := field h.toNat (512 + 128 * r) 128
def hRoleEntry (h : BitVec 1024) (r : Nat) : Nat := field (hRole h r) 0 32
def hRoleCords (h : BitVec 1024) (r : Nat) : Nat := field (hRole h r) 32 6
def hRoleRegs (h : BitVec 1024) (r : Nat) : Nat := field (hRole h r) 40 9
def hRing (h : BitVec 1024) : Nat := field h.toNat 368 4
def hRbase (h : BitVec 1024) : Nat := field h.toNat 352 14
def hDq (h : BitVec 1024) (i : Nat) : Nat := field h.toNat (288 + 16 * i) 16
def hBhand (h : BitVec 1024) : Nat := field h.toNat 256 32
def hOvtab (h : BitVec 1024) : Nat := field h.toNat 192 64
def hLsize (h : BitVec 1024) : Nat := field h.toNat 160 16 * 256
def hOps (h : BitVec 1024) : Nat := field h.toNat 148 10
def hSpad (h : BitVec 1024) : Nat := field h.toNat 137 11
def hLregs (h : BitVec 1024) : Nat := field h.toNat 128 9
def hChans (h : BitVec 1024) : Nat := field h.toNat 114 5
def hTiles (h : BitVec 1024) : Nat := field h.toNat 109 5
def hUregs (h : BitVec 1024) : Nat := field h.toNat 102 7
def hCords (h : BitVec 1024) : Nat := field h.toNat 96 6
def hFw (h : BitVec 1024) : Nat := field h.toNat 64 32
def hNrole (h : BitVec 1024) : Nat := field h.toNat 40 3
def hBase (h : BitVec 1024) : Nat := field h.toNat 32 8
def hEntry (h : BitVec 1024) : Nat := field h.toNat 0 32

/-- Width of field f(j + 2) of the work identifier (R30). -/
def fwWidth (fw j : Nat) : Nat := field fw (3 + 6 * j) 6
/-- Width of f1. -/
def fwW1 (fw : Nat) : Nat := field fw 0 3
/-- Where field f(j + 2) starts in the block index. -/
def fwPos (fw j : Nat) : Nat := ((List.range j).map (fwWidth fw)).foldl (· + ·) 0

/-- Blocks of a launch: the product of the counts of f2 to f5 (R29). -/
def blockCount (l : Launch) : Nat := (launchCounts l).foldl (· * ·) 1

/-- The block index of a rank: f2 varies fastest (R29). -/
def indexOfRank (l : Launch) (rank : Nat) : Nat :=
  let fw := hFw l.header
  let cs := launchCounts l
  ((List.range 4).map (fun j =>
    let below := (cs.take j).foldl (· * ·) 1
    rank / below % cs.getD j 1 * 2 ^ fwPos fw j)).foldl (· + ·) 0

/-! ### The checks of a header and a packet (R286 to R289) -/

/-- Reserved fields of a packet that are not 0 (R284). -/
def packetReserved (p : BitVec 512) : Bool := field p.toNat 39 153 != 0 || field p.toNat 10 14 != 0

/-- Reserved fields of a header that are not 0 (R286); a low bit of ovtab, for which R288 gives no code, and bits [14:13] of a dq entry,
which R286 does not name, are refused with the same code 0x04 (log entry 91, DESIGN CHOICE). -/
def headerReserved (h : BitVec 1024) : Bool :=
  field h.toNat 384 128 != 0 || field h.toNat 372 12 != 0 || field h.toNat 366 2 != 0 || field h.toNat 176 16 != 0
    || field h.toNat 158 2 != 0 || field h.toNat 119 9 != 0 || field h.toNat 43 21 != 0 || hOvtab h % 4096 != 0
    || (List.range 4).any (fun r => field (hRole h r) 38 2 != 0 || field (hRole h r) 49 79 != 0)
    || (List.range 4).any (fun i => field (hDq h i) 13 2 != 0)

/-- Widths or counts that break R28 or R29; bits of fw above f5's width are taken for a width (log entry 62, DESIGN CHOICE). -/
def badWidths (h : BitVec 1024) (p : BitVec 512) : Bool :=
  let fw := hFw h
  decide (5 < fwW1 fw) || (List.range 4).any (fun j => decide (59 < fwWidth fw j))
    || decide (64 < 5 + fwW1 fw + fwPos fw 4) || field fw 27 5 != 0
    || decide (hCords h = 0) || decide (2 ^ fwW1 fw < hCords h) || decide (2 ^ fwPos fw 4 ≤ pCnt p)

/-- Lane-register budgets by cord (R33). -/
def cordBudgets (h : BitVec 1024) : List Nat :=
  if hNrole h = 0 then List.replicate (hCords h) (hLregs h)
  else (List.range (hNrole h)).flatMap (fun r => List.replicate (hRoleCords h r) (hRoleRegs h r))

/-- Roles or a footprint that break R33, R35 or R287; a role without cords breaks them too (log entry 90, DESIGN CHOICE), and ring and rbase
are not looked at where there is no channel (log entry 99, DESIGN CHOICE). -/
def badFootprint (h : BitVec 1024) : Bool :=
  let roles := List.range (hNrole h)
  let badRegs (n : Nat) : Bool := decide (n < 8) || decide (256 < n) || n % 8 != 0
  decide (hNrole h = 1) || decide (4 < hNrole h) || decide (32 < hCords h)
    || (decide (hNrole h ≠ 0) && (decide ((roles.map (hRoleCords h)).foldl (· + ·) 0 ≠ hCords h)
        || roles.any (fun r => hRoleCords h r == 0 || badRegs (hRoleRegs h r))))
    || (decide (hNrole h = 0) && badRegs (hLregs h))
    || decide (hUregs h < 16) || decide (64 < hUregs h) || hUregs h % 8 != 0
    || decide (Config.laneRegs < 32 * (cordBudgets h).foldl (· + ·) 0) || decide (Config.uniformRegs < hCords h * hUregs h)
    || decide (1024 < hSpad h) || decide (16 < hTiles h) || decide (Config.opEntries < hOps h) || decide (16 < hChans h)
    || (decide (hChans h ≠ 0) && (decide (hRing h < 2) || decide (9 < hRing h)
        || decide (hSpad h * 1024 < 64 * hRbase h + hChans h * 4 * 2 ^ hRing h)))

/-- A device-queue binding that R289 or R333 refuses. -/
def badBinding (s : State) (q : Nat) (h : BitVec 1024) (p : BitVec 512) : Bool :=
  (List.range 4).any (fun i =>
    let w := hDq h i
    bit w 15 && (pDet p || (let y := queueOf s (field w 0 13)
      queueDie (field w 0 13) != queueDie q || qCtx y != qCtx (queueOf s q) || !qDevice y)))

/-- Cores that a bind record names. -/
def bindCores (w : BitVec 256) : List Nat := bitsFrom (bCores w) 0 Config.coresPerDie

/-- The header error of a launch, if it has one (R288), the packet's own first (log entry 45, DEDUCED for the order). -/
def launchError (s : State) (q : Nat) (p : BitVec 512) (bind : BitVec 256) : Except Nat (BitVec 1024) :=
  if packetReserved p then .error 4
  else if pSlot p < bHbase bind || bHlast bind < pSlot p then .error 1
  else match (s.die (queueDie q)).headers.get? (pSlot p) with
  | none => .error 1
  | some h =>
    if headerReserved h then .error 4
    else if badWidths h p then .error 2
    else if badFootprint h then .error 3
    else if badBinding s q h p then .error 5
    else if pSpread p && pCores p && decide ((bindCores bind).length <
        ((List.range 4).map (fun j => field (pCnt p) (fwPos (hFw h) j) (fwWidth (hFw h) j) + 1)).foldl (· * ·) 1) then .error 6
    else if pArg p % 4096 ≠ 0 || pLoc p % 256 ≠ 0 then .error 7
    else .ok h

/-! ### Completion records (R288) -/

/-- What the distributor of a die answers to a damaged word that it reads: an entry of the error log (R340). -/
def logDie (s : State) (d ctx : Nat) (cause : Byte) : State :=
  if cause = cDataErr then logData s (d * Config.coresPerDie) ctx 0 0 0 else s

/-- A completion record without its stamp. -/
def recordBits (status cause herr fblk : Nat) : List Byte :=
  natLe 4 (status + cause * 2 ^ 8 + herr * 2 ^ 16) ++ natLe 12 0 ++ natLe 8 fblk

/-- The distributor writes a completion record; its stamp is a free value (log entry 2, DESIGN CHOICE). A record whose address no longer
translates is lost; a walk that meets an uncorrectable error is logged (R340). -/
def writeRecord (s : State) (d ctx crec status cause herr fblk : Nat) : State :=
  let (x, s) := s.free
  match dieWrite s d ctx crec (recordBits status cause herr fblk ++ natLe 8 x.toNat) (.die d) with
  | .error e => logDie (noteWalk s d ctx crec) d ctx e
  | .ok s => s

/-- The completion record address is misaligned or does not translate (R288): the cause. -/
def badCrec (s : State) (d ctx a : Nat) : Option Byte :=
  if a % 32 ≠ 0 then some cAlign else match dieTranslate s d ctx a 32 true false with
    | .error e => some e
    | .ok _ => none

/-- The walk of a packet's completion record address counts the words that the code corrects (R265). -/
def noteCrec (s : State) (q : Nat) (p : BitVec 512) : State :=
  if pCrec p % 32 = 0 then noteWalk s (queueDie q) (qCtx (queueOf s q)) (pCrec p) else s

/-! ### Packets (R284, R285) -/

/-- The packet at the head of an enabled launch-mode queue that does not wait for a bind record. -/
def headPacket (s : State) (q : Nat) : Option (Except Byte (BitVec 512)) :=
  let x := queueOf s q
  if qDevice x || !qEnabled x || qFill x = 0 || x.waiting then none
  else if x.bad then some (.error cDataErr)
  else some (match dieRead s (queueDie q) (qCtx x) (qSlot x x.head) 64 with
    | .error e => .error e
    | .ok l => .ok (BitVec.ofNat 512 (leNat l)))

/-- The packet at the head is taken. -/
def takePacket (s : State) (q : Nat) : State :=
  let x := queueOf s q
  let s := noteDie (noteQueue s q) (queueDie q) (qCtx x) (qSlot x x.head) 64
  setQueue s q { x with head := x.head + 1 }

/-- A packet is dropped, and the drop counted and reported to the sequencing harts (R288, R308). -/
def dropPacket (s : State) (q : Nat) : Out := woke (notify (queueErr (takePacket s q) q) (queueDie q) (.dropped q))

/-- A packet whose own bytes, or whose header's, cannot be read is dropped (R308), and one whose record's address is misaligned or not
translatable (R288); an uncorrectable error is logged (R340). -/
def dropUnread (s : State) (q : Nat) (cause : Byte) : Out :=
  dropPacket (logDie s (queueDie q) (qCtx (queueOf s q)) cause) q

/-- A packet is refused (R288). -/
def refusePacket (s : State) (q : Nat) (p : BitVec 512) (herr : Nat) : Out :=
  woke (writeRecord (takePacket s q) (queueDie q) (qCtx (queueOf s q)) (pCrec p) 3 0 herr 0)

/-- The launch that a packet starts. -/
def newLaunch (q : Nat) (x : Queue) (p : BitVec 512) (h : BitVec 1024) : Launch :=
  { die := queueDie q, queue := q, ctx := qCtx x, prio := qPrio x, header := h, packet := p, status := .placing, woken := false
    next := 0, back := [], passed := [], passing := [], gone := [], endedBlocks := [], begun := [], cause := 0, fblk := none
    taskCores := .empty, bases := [] }

/-- The packet waits at the head for a bind record, and the sequencing harts are told (R15). -/
def waitBind (s : State) (q : Nat) : Out :=
  woke (notify (setQueue s q { queueOf s q with waiting := true }) (queueDie q) (.unbound q))

/-- R284: the distributor takes a packet that starts a launch, drops it, refuses it, or leaves it until a bind record matches. -/
def execLaunchPacket (q : Nat) (s : State) : Out :=
  match headPacket s q with
  | none => .next s
  | some (.error c) => dropUnread s q c
  | some (.ok p) =>
    if pType p = 2 then .next s
    else
      let s := noteCrec s q p
      match badCrec s (queueDie q) (qCtx (queueOf s q)) (pCrec p) with
    | some e => dropUnread s q e
    | none =>
      if pType p ≠ 1 then refusePacket s q p 4
      else match bindOf s q with
      | none => waitBind s q
      | some e => match launchError s q p e.2 with
        | .error n => refusePacket s q p n
        | .ok h =>
          let s' := (takePacket s q).setLaunch s.nextLaunch (newLaunch q (queueOf s q) p h)
          woke { s' with nextLaunch := s.nextLaunch + 1 }

/-- R285: a header is copied into a granted slot; a packet that breaks a limit of R284 is refused (R287). -/
def execRegisterHeader (q : Nat) (s : State) : Out :=
  match headPacket s q with
  | none => .next s
  | some (.error _) => .next s
  | some (.ok p) =>
    let d := queueDie q
    let ctx := qCtx (queueOf s q)
    if pType p ≠ 2 then .next s
    else
      let s := noteCrec s q p
      match badCrec s d ctx (pCrec p) with
    | some e => dropUnread s q e
    | none =>
      if packetReserved p then refusePacket s q p 4
      else match bindOf s q with
      | none => refusePacket s q p 1
      | some e =>
        if pSlot p < bHbase e.2 || bHlast e.2 < pSlot p then refusePacket s q p 1
        else if pArg p % 128 ≠ 0 || pLoc p % 256 ≠ 0 then refusePacket s q p 7
        else match dieRead s d ctx (pArg p) 128 with
        | .error c => dropUnread (noteDie s d ctx (pArg p) 128) q c
        | .ok l =>
          let s := noteDie (takePacket s q) d ctx (pArg p) 128
          let x := s.die d
          let s := s.setDie d { x with headers := x.headers.set (pSlot p) (BitVec.ofNat 1024 (leNat l)) }
          woke (writeRecord s d ctx (pCrec p) 1 0 0 0)

/-! ### Bind records (R304) -/

/-- A launch's record is the `i`-th. -/
def bindsTo (s : State) (i : Nat) (l : Launch) : Bool := (bindOf s l.queue).any (fun e => e.1 == i)

/-- Blocked task cords that `may` wake are tried again (R292). -/
def wakeTasks (s : State) (may : Launch → Bool) : State :=
  let wakes (t : TaskCord) : Bool := t.blocked && (t.items.head?.bind (fun x => s.launches.get? x.launch)).any may
  { s with clusters := s.clusters.map (fun _ c =>
      { c with formed := c.formed.map (fun t => if wakes t then { t with blocked := false, woken := true } else t) }) }

/-- R304: a write of a bind record, but for the distributor's own field, wakes packets that wait on the die, and launches and task
cords blocked on the record, whose it was before or is now. -/
def execBindRecordWrite (die i : Nat) (w : BitVec 256) (s : State) : Out :=
  if s.mgmt.boot != .up || decide (Config.dies ≤ die) || decide (64 ≤ i) then .next s
  else
    let d := s.die die
    let w := bSetLast w (bLast (d.binds.get i 0))
    let t := s.setDie die { d with binds := d.binds.set i w, queues := d.queues.map (fun _ q => { q with waiting := false }) }
    let wakes (l : Launch) : Bool := l.die == die && l.status == .blocked && (bindsTo s i l || bindsTo t i l)
    let t := wakeTasks t (fun l => l.die == die && (bindsTo s i l || bindsTo t i l))
    woke { t with launches := t.launches.map (fun _ l => if wakes l then { l with status := .placing, woken := true } else l) }

/-! ### Completion (R17, R325) -/

/-- Blocks of a launch that are resident or saved (R17), and tasks of it that have not run, which hold it open too (log entry 63, DESIGN
CHOICE). -/
def launchAlive (s : State) (n : Nat) : Bool :=
  s.cores.vals.any (fun c => c.blocks.vals.any (fun b => b.launch == n))
    || s.saved.any (fun v => v.block.launch == n)
    || s.clusters.vals.any (fun c => c.tasks.any (fun x => x.launch == n) || c.formed.any (fun f => f.items.any (fun x => x.launch == n)))
    || s.ctxs.vals.any (fun c => c.overflow.vals.any (fun f => f.any (fun x => x.launch == n)))

/-- Every block of the launch has been placed, or a fault keeps the rest from being placed (R325). -/
def allPlaced (l : Launch) : Bool := l.status == .failed || (decide (blockCount l ≤ l.next) && l.back.isEmpty)

/-- Items of a launch that a fault has ended are never placed (R325); overflowed items of others take their places (R296). -/
def dropTasks (s : State) (n : Nat) : State :=
  let keep (l : List TaskItem) : List TaskItem := l.filter (fun x => x.launch != n)
  let s : State := { s with
    clusters := s.clusters.map (fun _ c => { c with
      tasks := keep c.tasks, formed := c.formed.filter (fun f => !f.items.any (fun x => x.launch == n)) })
    ctxs := s.ctxs.map (fun _ c => { c with overflow := c.overflow.map (fun _ l => keep l) }) }
  s.clusters.keys.foldl (fun s cl => refillTasks cl s.ctxs.keys s) s

/-- R17: the distributor writes the completion record, which releases what the launch's blocks and attached operations have written, and
the base overlay's residency tokens go (R301). -/
def execLaunchCompletion (launch : Nat) (s : State) : Out :=
  match s.launches.get? launch with
  | none => .next s
  | some l =>
    let s' := if l.status == .failed then dropTasks s launch else s
    if !allPlaced l || launchAlive s' launch then .next s
    else
      let s := l.bases.foldl (fun (s : State) x => s.setCore x.1 (dropTokens (s.core x.1) l.ctx [x.2])) s'
      let s := { s with launches := s.launches.erase launch }.hear (.die l.die) .sys [.launch launch]
      woke (if l.status == .failed then writeRecord s l.die l.ctx (pCrec l.packet) 2 l.cause.toNat 0 (l.fblk.getD 0)
        else writeRecord s l.die l.ctx (pCrec l.packet) 1 0 0 0)

end Sys2Proof.Machine
end

