-- ==== Sys2Proof/Machine/Gather.lean ====
section
/-!
DEFINITION. Global memory through the gather unit (07_control_memory.md R158 to R162), the arrival of data and the performance
of accesses in flight (R26, R159 to R161), and the completion of long-latency instructions (04_idioms.md R61).
-/

namespace Sys2Proof.Machine

/-! ### Issue -/

/-- Lane `k`'s address, modulo 2^64 (R158). -/
def gatherAddr (h : Here) (a : Reg) (imm : BitVec 11) (k : Nat) : Nat := (h.v64 k a + imm.signExtend 64).toNat

/-- The faults that the issue finds (R158): ALIGN, then XLATE for an address above 52 bits. -/
def gatherFault (addr z : Nat) : Option Byte :=
  if addr % z ≠ 0 then some cAlign else if 2 ^ 52 ≤ addr then some cXlate else none

/-- Destination registers of an access in each lane that receives its result. -/
def gatherDst (h : Here) (d : Reg) (n k : Nat) : List Nat :=
  (List.range n).map (fun i => place h.cord.vbud (h.cord.lane k).frame.vb (d.toNat + i))

/-- The cord's gather count cannot take `n` accesses more: its next gather instruction is held at issue (R313). -/
def gathersFull (h : Here) (n : Nat) : Bool := decide (Config.gatherLimit < h.cord.gathers.length + n)

/-- The accesses of a gather instruction: one for each active lane, or one for all with the uniform assertion (R60). Lanes
whose address faults park at once. -/
def gatherAct (h : Here) (s : State) (g : Guard) (u : Bool) (a : Reg) (imm : BitVec 11) (z n : Nat) (d : Reg)
    (ord : Ordr) (op : Nat → AccessOp) (done : Nat → List InFlight × List GatherWindow) : Act :=
  let act := h.active g
  let ks := if u then act.take 1 else act
  let addr := gatherAddr h a imm
  let bad := ks.filterMap (fun k => (gatherFault (addr k) z).map (fun e => (k, e, BitVec.ofNat 32 (addr k))))
  let good := ks.filter (fun k => (gatherFault (addr k) z).isNone)
  if gathersFull h ks.length then .hold
  else
    let id := h.cord.gseq
    let one (k : Nat) : Access :=
      let ls := if u then act else [k]
      { id := id, lanes := ls, op := op k, addr := addr k, size := z, dst := ls.map (gatherDst h d n)
        pc := BitVec.ofNat 32 h.addr, late := false, acq := ord.acq, rel := ord.rel, scope := ord.scope
        stamp := s.clock, outer := false }
    let s := s.setCord h.ref { h.cord with gathers := h.cord.gathers ++ good.map one, gseq := id + 1 }
    let (fl, win) := done id
    .did { s := s, fl := fl, win := win
           gf := some id
           park := if u then bad.flatMap (fun x => act.map (fun k => (k, x.2))) else bad }

/-- R159. A `gld32` to v0 is a prefetch: it writes nothing and raises only ALIGN (R158). -/
def gatherLoad (i : Instr) (o : OGld) (z : Nat) (s : State) : Out :=
  issue i (fun h s =>
    let act := h.active o.gd
    let ks := if o.u then act.take 1 else act
    if o.d = 0 && z == 4 then
      if gathersFull h ks.length then .hold else
      let addr := gatherAddr h o.a o.imm
      let bad := ks.filter (fun k => addr k % z != 0)
      let s := (ks.filter (fun k => addr k % z == 0)).foldl (fun s k =>
        countSuppressed s h true (addr k / 64 * 64) 64) s
      let park := bad.map (fun k => (k, cAlign, BitVec.ofNat 32 (addr k)))
      .did { s := s, park := if o.u then park.flatMap (fun x => act.map (fun k => (k, x.2))) else park }
    else gatherAct h s o.gd o.u o.a o.imm z (z / 4) o.d ⟨o.acq, false, o.scope⟩ (fun _ => .load)
      (fun id => ([], [{ id := id, left := look h.cord o.la, dst := regs o.d (z / 4) }]))) s

def execGld32 (o : OGld) (s : State) : Out := gatherLoad (.gld32 o) o 4 s
def execGld64 (o : OGld) (s : State) : Out := gatherLoad (.gld64 o) o 8 s

/-- R160: for lookahead the store completes at issue. -/
def gatherStore (i : Instr) (o : OGst) (z : Nat) (s : State) : Out :=
  issue i (fun h s =>
    gatherAct h s o.gd o.u o.a o.imm z 0 0 ⟨false, o.rel, o.scope⟩
      (fun k => .store ((List.range (z / 4)).flatMap (fun j => natLe 4 (h.v k (o.b + BitVec.ofNat 6 j)).toNat)))
      (fun _ => ([], []))) s

def execGst32 (o : OGst) (s : State) : Out := gatherStore (.gst32 o) o 4 s
def execGst64 (o : OGst) (s : State) : Out := gatherStore (.gst64 o) o 8 s

/-- R161, R333. -/
def execGatom (o : OAtom) (s : State) : Out :=
  issueP (.gatom o) (fun h => h.block.det) (fun h s =>
    gatherAct h s o.gd o.u o.a o.imm 4 1 o.d o.ord (fun k => .atom o.op (h.v k o.b) (h.v k o.d))
      (fun id => ([{ left := look h.cord o.la, uses := uses (.gatom o), owed := [.gather id] }], []))) s

/-- R162: raises no fault and changes nothing but the count of suppressed errors; it completes when its requests are accepted,
at issue. -/
def execGprf (o : OGprf) (s : State) : Out :=
  issue (.gprf o) (fun h s =>
    let one (s : State) (k : Nat) : State :=
      let addr := gatherAddr h o.a o.imm k
      let n := min (h.v k o.b).toNat 4096
      if n = 0 then s
      else (List.range ((addr + n - 1) / 64 - addr / 64 + 1)).foldl (fun s j =>
        countSuppressed s h true ((addr / 64 + j) * 64) 64) s
    .did { s := (h.active o.gd).foldl one s }) s

/-! ### Accesses in flight -/

/-- What an access asks of its page: an atomic is a write that also reads (R307). -/
def AccessOp.writes : AccessOp → Bool
  | .load => false
  | _ => true
def AccessOp.reads : AccessOp → Bool
  | .store _ => false
  | _ => true
def AccessOp.isAtom : AccessOp → Bool
  | .atom _ _ _ => true
  | _ => false

/-- Where an access in flight goes, or its fault. -/
def Access.target (a : Access) (s : State) (core ctx : Nat) : Except Byte Target :=
  translate s core true ctx a.addr a.size a.op.writes a.op.reads

/-- An access in flight comes before a later one of its cord: they touch one word, through whatever mappings (R161, R267), or go to
one peer on one traffic class (R277, R337). -/
def comesFirst (s : State) (core ctx : Nat) (b a : Access) : Bool :=
  sameWord s core ctx a.addr a.size b.addr b.size
    || (a.op.isAtom == b.op.isAtom && (match a.target s core ctx, b.target s core ctx with
      | .ok (.peer p _), .ok (.peer q _) => p == q
      | _, _ => false))

/-- The accesses that take place together with access `i`: for an atomic on host memory, all of its instruction's on the line, which
the host attachment holds while it applies the lanes (R336); otherwise the access alone. -/
def lineMates (s : State) (core ctx : Nat) (c : Cord) (i : Nat) (a : Access) : List Nat :=
  match a.op.isAtom, a.target s core ctx with
  | true, .ok (.host x) =>
    (List.range c.gathers.length).filter (fun j => match c.gathers[j]? with
      | none => false
      | some b => b.id == a.id && (match b.target s core ctx with
        | .ok (.host y) => x / 64 == y / 64
        | _ => false))
  | _, _ => [i]

/-- An access that is not of `js` comes before access `i` (R267; log entry 10, DESIGN CHOICE). -/
def earlierSame (s : State) (core ctx : Nat) (c : Cord) (js : List Nat) (i : Nat) (a : Access) : Bool :=
  (List.range i).any (fun j => !js.contains j && (match c.gathers[j]? with
    | none => false
    | some b => comesFirst s core ctx b a))

/-- Neither an atomic nor with `.acq` or `.rel` (R272). -/
def Access.plain (a : Access) : Bool := !a.op.isAtom && !a.acq && !a.rel

/-- An access of another cord, issued earlier, touches a word of this access, one of the two writes it, and one is no plain access: such a
pair is no data race, and is performed in the order of issue, as some interleaving of the accesses would have it (R272; log entry 10, DESIGN
CHOICE). -/
def earlierOther (s : State) (ref : CordRef) (ctx : Nat) (a : Access) : Bool :=
  let pair (b : Access) : Bool := decide (b.stamp < a.stamp) && (a.op.writes || b.op.writes) && !(a.plain && b.plain)
  s.cores.entries.any (fun n => n.2.blocks.entries.any (fun x => x.2.cords.entries.any (fun c =>
    (⟨n.1, x.1, c.1⟩ : CordRef) != ref && c.2.gathers.any (fun b => pair b && (match a.target s ref.core ctx, b.target s n.1 x.2.ctx with
      | .ok t, .ok u => (Place.glob t).meets a.size (.glob u) b.size
      | _, _ => false)))))

/-- The cord without access `i`. -/
def Cord.dropAccess (c : Cord) (i : Nat) : Cord := { c with gathers := c.gathers.eraseIdx i }

/-- Lanes that waited for data return to RUN when none is owed to them any longer (R26). -/
def wake (c : Cord) (ks : List Nat) : Cord :=
  ks.foldl (fun c k => if (c.lane k).st == .wait && (c.lane k).data then c.setLane k (c.toRun k) else c) c

/-- An access's lane has exited, in the code that the access belongs to: in that which a handler has interrupted, by its saved state (R145,
R318). -/
def Access.gone (a : Access) (l : Lane) : Bool := if a.outer && l.handles then l.savedSt == .exit else l.st == .exit

/-- Delivers words to the lanes of an access; data for a lane in EXIT is discarded (R145). -/
def deliver (c : Cord) (a : Access) (ws : List Word) : Cord :=
  let one (c : Cord) (x : Nat × List Nat) : Cord :=
    if a.gone (c.lane x.1) then c
    else c.setLane x.1 ((x.2.zip ws).foldl (fun l y => l.put y.1 y.2) (c.lane x.1))
  (a.lanes.zip a.dst).foldl one c

/-- A lane parked by an access that faults late, with its PC back on the instruction (R27, R160); in the code that a handler has interrupted,
as its saved state, while the lane goes on in the handler (R318). -/
def lateLane (c : Cord) (a : Access) (k : Nat) : Lane :=
  let l := c.lane k
  if a.outer && l.handles then
    { (if l.st == .wait && l.data then c.toRun k else l) with savedPc := a.pc, savedSt := .park, savedData := false }
  else { l with pc := a.pc, st := .park, data := false, served := false }

/-- Parks the lanes of an access that faults late. A lane in EXIT stays there. sr.cause and sr.tval are those of the instruction's
lowest-numbered parked lane (R149, R158; log entry 30, DEDUCED). -/
def parkLate (c : Cord) (a : Access) (cause : Byte) : Cord :=
  let ks := a.lanes.filter (fun k => !a.gone (c.lane k))
  let p := c.onLanes ks (fun k _ => lateLane c a k)
  match leastOf ks with
  | none => p
  | some k =>
    let p := { p with cause := cause, tval := BitVec.ofNat 32 a.addr }
    if c.gfault.any (fun x => x.1 == a.id && decide (x.2 < k)) then { p with cause := c.cause, tval := c.tval, gfault := c.gfault }
    else { p with gfault := some (a.id, k) }

/-- Words that an access writes whole to lane registers hold no error any longer (R265). -/
def mendDst (c : Core) (slotNo : Nat) (x : Cord) (a : Access) : Core :=
  if c.bad.isEmpty && c.soft.isEmpty then c
  else (a.lanes.zip a.dst).foldl (fun c y =>
    if a.gone (x.lane y.1) then c
    else (y.2.filter (fun p => p % 2 == 0 && y.2.contains (p + 1))).foldl (fun c p => mend c .laneRegs ((slotNo * 32 + y.1) * 1024 + 4 * p) 8) c) c

/-- How the write of an access orders (R269). -/
def Access.kind (a : Access) : WriteKind :=
  if a.op.isAtom then .atomic (acqScope a.rel a.scope) else storeKind a.rel a.scope

/-- Access `i` in flight of a cord takes place at its target, or parks its lanes. But for an atomic, it reads what its cord sees; the
fence that a release is has come at its issue (R268, R269, R272). -/
def perform (ref : CordRef) (i : Nat) (s : State) : State :=
  match s.block? ref.core ref.slot, s.cord? ref with
  | some b, some c =>
    match c.gathers[i]? with
    | none => s
    | some a =>
      match a.target s ref.core b.ctx with
      | .error cause =>
        let s := touch s ref.core true b.ctx a.addr
        let s := if cause = cDataErr then logData s ref.core b.ctx b.index (a.addr % 2 ^ 32) 0 else s
        s.setCord ref (rejoin (parkLate (c.dropAccess i) a cause))
      | .ok t =>
        let s := touch s ref.core true b.ctx a.addr
        let s := if a.op.reads then noteTarget s a.size t else s
        let ag : Agent := .cord ref.core b.id ref.cord
        let eye : Eye := ⟨ag, a.plain⟩
        let old := targetRead (if a.op.isAtom then s else s.seenBy eye) a.size t
        let s := if a.op.reads then s.saw eye (.glob t) a.size a.op.isAtom (acqScope a.acq a.scope) else s
        let s := if a.acq then s.order (Wrote.acquire ag a.scope) else s
        let s := if a.acq && a.rel then s.order (Wrote.release ag a.scope s.clock) else s
        let ws := (List.range (a.size / 4)).map (fun j => (BitVec.ofNat 32 (leNat ((old.drop (4 * j)).take 4)) : Word))
        let (s, ws) := match a.op with
          | .load => (s, ws)
          | .store l => ((targetWrite s l t).wroteAt ag (.glob t) a.size a.kind, [])
          | .atom op x cmp => ((targetWrite s (natLe 4 (atomNew op (ws.headD 0) x cmp).toNat) t).wroteAt ag (.glob t) a.size a.kind, ws)
        let s := s.setCore ref.core (mendDst (s.core ref.core) c.slotNo c a)
        s.setCord ref (rejoin (wake (deliver (c.dropAccess i) a ws) a.lanes))
  | _, _ => s

/-- An access in flight of a cord takes place, with its line mates in ascending order, unless another comes first, of its cord or of
another: `ok` says which kinds
of access the event concerns. -/
def accessEvent (ref : CordRef) (i : Nat) (ok : AccessOp → Bool) (s : State) : State :=
  match s.block? ref.core ref.slot, s.cord? ref with
  | some b, some c =>
    match c.gathers[i]? with
    | none => s
    | some a =>
      let js := lineMates s ref.core b.ctx c i a
      let waits (j : Nat) : Bool := match c.gathers[j]? with
        | none => false
        | some x => earlierSame s ref.core b.ctx c js j x
      if !ok a.op || js.any waits || earlierOther s ref b.ctx a then s
      else (js.zipIdx.foldl (fun s x => perform ref (x.1 - x.2) s) s)
  | _, _ => s

/-- R26, R159: the data of a `gld` access arrives. -/
def execGatherDataArrival (c : CordRef) (i : Nat) (s : State) : Out :=
  .next { accessEvent c i (fun o => o == .load) s with stalled := [] }

/-- R160, R161: a `gst` or `gatom` access takes its place among the writes of its words. To other agents each word is performed at its home
by the first read that returns it, and by the releases that follow (R274, `Track.must`; log entry 10). -/
def execGatherPerformed (c : CordRef) (i : Nat) (s : State) : Out :=
  .next { accessEvent c i (fun o => o != .load) s with stalled := [] }

/-! ### Long-latency instructions (R61) -/

/-- A result that is owed can be given (R161). -/
def owedReady (c : Cord) : Owed → Bool
  | .gather id => !c.gathers.any (fun a => a.id == id)
  | _ => true

/-- Gives a result. -/
def giveOwed (c : Cord) : Owed → Cord
  | .v k key x => c.setLane k ((c.lane k).put key x)
  | .s key x => c.sput key x false
  | .q i x => c.setQ i x
  | .savedQ i x => { c with handler := c.handler.map (fun d => { d with savedQ := putQ d.savedQ i x }) }
  | .fpf f => { c with fpf := c.fpf ||| f }
  | .gather _ => c

/-- A long-latency instruction in flight completes: its results are written and the dependences on it end. -/
def execLongLatencyCompletion (c : CordRef) (i : Nat) (s : State) : Out :=
  match s.cord? c with
  | none => .next s
  | some x =>
    match x.inflight[i]? with
    | none => .next s
    | some f =>
      if !f.owed.all (owedReady x) then .next s
      else .next { s.setCord c (f.owed.foldl giveOwed { x with inflight := x.inflight.eraseIdx i }) with stalled := [] }

end Sys2Proof.Machine
end

