-- ==== Sys2Proof/Machine/Placement.lean ====
section
/-!
DEFINITION. Placement: footprints and fit (02_execution.md R35, R36), the choice of a launch and a core (13_queues.md R292, R293), the
start of a block (01_machine.md R14, R15), its exit (09_engines.md R237), and the write-back of local memory (11_memories.md R260).
-/

namespace Sys2Proof.Machine

/-! ### Fit (R35, R36) -/

/-- A footprint: lane-register budgets by cord, uniform registers per cord, scratchpad bytes, tiles, entries, channels. -/
structure Footprint where
  budgets : List Nat
  ubud : Nat
  spad : Nat
  tiles : Nat
  ops : Nat
  chans : Nat
  deriving DecidableEq, Repr

/-- What a fit allocates: block slot, quarter and position of each cord, allocation base, tiles and channels. -/
structure Fit where
  slot : Nat
  places : List (Nat × Nat)
  base : Nat
  tiles : List Nat
  chans : List Nat
  deriving DecidableEq, Repr

/-- The footprint of a launch's blocks. -/
def footprintOf (h : BitVec 1024) : Footprint :=
  { budgets := cordBudgets h, ubud := hUregs h, spad := hSpad h * 1024, tiles := hTiles h, ops := hOps h, chans := hChans h }

/-- The footprint of a task class (R296). -/
def taskFootprint (cls : Nat) : Footprint :=
  { budgets := [32 * 2 ^ (cls % 4)], ubud := 16, spad := [0, 4, 16, 64].getD (cls / 4 % 4) 0 * 1024, tiles := 0, ops := 0, chans := 0 }

/-- The quarters and positions of the cords on a core. -/
def takenPlaces (c : Core) : List (Nat × Nat) :=
  c.blocks.vals.flatMap (fun b => b.cords.vals.map (fun x => (x.quarter, x.pos)))

/-- Places cords one after another in the quarter with the fewest (R35), at its lowest free position (log entry 93, DESIGN CHOICE). -/
def placeCords : Nat → List (Nat × Nat) → Option (List (Nat × Nat))
  | 0, _ => some []
  | n + 1, l =>
    let count (q : Nat) : Nat := (l.filter (fun x => x.1 == q)).length
    let q := [1, 2, 3].foldl (fun q r => if count r < count q then r else q) 0
    match (List.range Config.cordsPerQuarter).find? (fun i => !l.contains (q, i)) with
    | none => none
    | some i => (placeCords n ((q, i) :: l)).map (fun r => (q, i) :: r)

/-- Scratchpad ranges in use: of resident blocks, and of blocks gone whose detached operations still hold them (R235). -/
def takenSp (c : Core) : List (Nat × Nat) :=
  (c.blocks.vals.map (fun b => (b.spbase, b.spbase + b.splen)))
    ++ ((c.ops.vals.filter (fun o => o.det.isSome && !o.state.finished)).map (fun o => (o.base, o.base + o.len)))

/-- The lowest free address for `n` bytes (R35). -/
def freeSp (c : Core) (n : Nat) : Option Nat :=
  let l := takenSp c
  leastOf ((0 :: l.map (·.2)).filter (fun a => decide (a + n ≤ Config.scratchBytes) && l.all (fun r => !overlap a (a + n) r.1 r.2)))

/-- The lowest-numbered free tiles. -/
def freeTiles (c : Core) : List Nat :=
  (List.range Config.tiles).filter (fun p => !c.blocks.vals.any (fun b => b.tiles.contains p)
    && !c.ops.vals.any (fun o => o.det.isSome && !o.state.finished && o.tile == some p))

/-- The lowest-numbered free channels. -/
def freeChans (c : Core) : List Nat :=
  (List.range Config.channels).filter (fun p => !c.blocks.vals.any (fun b => b.chans.contains p))

/-- Entries of the op table that count against the core: reservations, and entries that no resident block holds. -/
def takenOps (c : Core) : Nat :=
  (c.blocks.vals.map (·.ops)).foldl (· + ·) 0
    + (c.ops.vals.filter (fun o => !c.blocks.keys.any (fun sl => o.ofBlock sl))).length

/-- A footprint fits a core: what it would be allocated (R36). The block takes the lowest free slot (log entry 93, DESIGN CHOICE). -/
def fits (c : Core) (f : Footprint) : Option Fit :=
  let cords := c.blocks.vals.flatMap (fun b => b.cords.vals)
  let lregs := (cords.map (·.vbud)).foldl (· + ·) 0 + f.budgets.foldl (· + ·) 0
  let uregs := (cords.map (·.ubud)).foldl (· + ·) 0 + f.budgets.length * f.ubud
  if c.removed || Config.cordsPerCore < cords.length + f.budgets.length || Config.laneRegs < 32 * lregs
      || Config.uniformRegs < uregs || Config.opEntries < takenOps c + f.ops
      || (freeTiles c).length < f.tiles || (freeChans c).length < f.chans then none
  else
    match (List.range 32).find? (fun i => (c.blocks.get? i).isNone), placeCords f.budgets.length (takenPlaces c), freeSp c f.spad with
    | some slot, some places, some base =>
      some { slot := slot, places := places, base := base, tiles := (freeTiles c).take f.tiles, chans := (freeChans c).take f.chans }
    | _, _, _ => none

/-! ### Reserving -/

/-- Scratchpad that last belonged to another context is zeroed before a block of this one gets it (R254), which leaves no error in it
(R265). -/
def claimSp (c : Core) (ctx base n : Nat) : Core :=
  let ks := (List.range (n / 1024)).map (base / 1024 + ·)
  let foreign := ks.filter (fun k => match c.owner.get? k with
    | none => false
    | some x => x != ctx)
  let c := foreign.foldl (fun c k => mend c .scratchpad (1024 * k) 1024) c
  { c with spad := c.spad.filter (fun x => !foreign.contains (x.1 / 1024))
           owner := ks.foldl (fun t k => t.set k ctx) c.owner }

/-- Tiles that a block is granted hold +0 (R201, R258), with no error left (R265). -/
def claimTiles (c : Core) (ps : List Nat) : Core :=
  let c := ps.foldl (fun c p => mend c .accumulator (p * Config.tileBytes) Config.tileBytes) c
  { c with acc := c.acc.filter (fun x => !ps.contains (x.1 / Config.tileBytes))
           tiles := ps.foldl (fun t p => t.set p Tile.fresh) c.tiles }

/-- The registers of cords are all written (R14, R244, R329): no error is left in them (R265). -/
def mendCords (c : Core) (cords : List Cord) : Core :=
  cords.foldl (fun c x => mend (mend c .laneRegs (x.slotNo * 32768) 32768) .uniformRegs (x.slotNo * 256) 256) c

/-- Channels of a placed or restored block have new table entries, which leaves no error in them (R265, R306). -/
def mendChans (c : Core) (ps : List Nat) : Core := ps.foldl (fun c p => mend c .chanTable (8 * p) 8) c

/-- Channel entries at placement (R306). -/
def claimChans (c : Core) (slot base ring rbase : Nat) (ps : List Nat) : Core :=
  { mendChans c ps with chans := ps.zipIdx.foldl (fun t x => t.set x.1
      { base := base + 64 * rbase + x.2 * 4 * 2 ^ ring, lsize := ring, eos := false, slot := slot, head := 0, tail := 0 }) c.chans }

/-- The cords of a block as a fit places them, before their lanes are given. -/
def cordsOf (places : List (Nat × Nat)) (f : Nat → Cord) : Tab Cord :=
  Tab.ofList (places.zipIdx.map (fun x => (x.2, { f x.2 with quarter := x.1.1, pos := x.1.2 })))

/-- The role of a cord (R33). -/
def roleOf (h : BitVec 1024) (i : Nat) : Nat :=
  let ends := (List.range (hNrole h)).map (fun r => ((List.range (r + 1)).map (hRoleCords h)).foldl (· + ·) 0)
  (ends.filter (fun e => decide (e ≤ i))).length

/-- What blocks of a launch share, tasks too. -/
def launchBlock (l : Launch) : Block :=
  { Block.fresh with
    ctx := l.ctx, prio := l.prio, bhand := BitVec.ofNat 32 (hBhand l.header), ovtab := hOvtab l.header, det := pDet l.packet
    race := pRace l.packet || pDet l.packet, idem := pIdem l.packet, recomp := pRecomp l.packet, arg := pArg l.packet
    dq := (List.range 4).map (fun i => if bit (hDq l.header i) 15 then some (field (hDq l.header i) 0 13) else none) }

/-- The block of a rank as a fit places it. -/
def blockOf (s : State) (n : Nat) (l : Launch) (rank : Nat) (f : Footprint) (x : Fit) : Block :=
  { launchBlock l with
    launch := n, index := indexOfRank l rank, rank := rank, spbase := x.base, splen := f.spad, tiles := x.tiles
    chans := x.chans, ops := f.ops, lsize := hLsize l.header, fw := BitVec.ofNat 32 (hFw l.header), placed := s.serial, id := s.serial
    cords := cordsOf x.places (fun i =>
      let r := roleOf l.header i
      { Cord.fresh with
        role := if hNrole l.header = 0 then 0 else r, present := 0xFFFFFFFF, vbud := f.budgets.getD i 0, ubud := f.ubud
        entry := BitVec.ofNat 32 (if hNrole l.header = 0 then hEntry l.header else hRoleEntry l.header r) }) }

/-- Takes the resources of a fit. -/
def claim (c : Core) (ctx : Nat) (f : Footprint) (x : Fit) (ring rbase : Nat) : Core :=
  claimChans (claimTiles (claimSp c ctx x.base f.spad) x.tiles) x.slot x.base ring rbase x.chans

/-- The same in the state: the words of its scratchpad are another block's from now on (R254). -/
def claimAt (s : State) (core ctx : Nat) (f : Footprint) (x : Fit) (ring rbase : Nat) : State :=
  (s.setCore core (claim (s.core core) ctx f x ring rbase)).restartWords core x.base f.spad

/-- The base overlay of a launch on a core: its residency token, and its load where it is absent (R15, R301). The error names the
overlay's index where its entry is absent for good (R299), and the damaged entry of the table where that ends it (R265). The token clears
the record's evict mark, as that of an `ovlld` does (log entry 101, DESIGN CHOICE). -/
def holdBase (s : State) (core n : Nat) (l : Launch) : Except (Byte × Nat) (State × Nat) :=
  match (ovlTable s core l.ctx (hOvtab l.header) 256 0)[hBase l.header]? with
  | none => .error (match ovlDamage s core l.ctx (hOvtab l.header) with
    | some a => (cDataErr, a)
    | none => (cOvlAbsent, hBase l.header))
  | some e =>
    if l.bases.contains (core, e.caddr) then .ok (s, e.caddr)
    else if ovlUnfit (s.core core) l.ctx e then .error (cOvlAbsent, hBase l.header)
    else
      let s := if (resOf (s.core core) l.ctx e).isNone then beginLoad s core l.ctx e else s
      let s := s.setCore core (mapRes (s.core core) l.ctx e.caddr (fun r => { r with tokens := r.tokens + 1, evict := false }))
      .ok (s.setLaunch n { l with bases := (core, e.caddr) :: l.bases }, e.caddr)

/-- A block with its base overlay asked for; a base overlay that is absent for good, or whose table is damaged, ends it, at the context
rung (R299, R317), an uncorrectable error logged (R340). -/
def addBase (s : State) (core slot n : Nat) : State :=
  match s.launches.get? n with
  | none => s
  | some l => match holdBase (noteOvls s core l.ctx (hOvtab l.header)) core n l with
    | .error (e, a) =>
      let s := noteOvls s core l.ctx (hOvtab l.header)
      let blk := ((s.block? core slot).map (·.index)).getD 0
      baseFault (if e = cDataErr then logData s core l.ctx blk (a % 2 ^ 32) 0 else s) core slot a e
    | .ok (s, a) => match s.block? core slot with
      | none => s
      | some b => s.setBlock core slot { b with base := some a }

/-- The cluster's cores that task cords of a launch may use are those that its record names when its first block comes there (R297). -/
def noteCluster (l : Launch) (w : BitVec 256) (core : Nat) : Launch :=
  let cl := clusterOf core
  if (l.taskCores.get? cl).isSome then l
  else { l with
    taskCores := l.taskCores.set cl (((bindCores w).map (l.die * Config.coresPerDie + ·)).filter (fun c => clusterOf c == cl)) }

/-- A reservation has been made on a core: the record and the die note it (R292), and the next placement takes another number (R294). -/
def notePlaced (s : State) (d bind core q : Nat) (w : BitVec 256) : State :=
  let x := s.die d
  { s.setDie d { x with binds := x.binds.set bind (bSetLast w (core % Config.coresPerDie)), lastQ := q } with serial := s.serial + 1 }

/-- Places a block of a launch on a core (R37, R292); a rank that was flushed is placed again. -/
def reserveBlock (s : State) (n : Nat) (l : Launch) (core rank bind : Nat) (w : BitVec 256) (f : Footprint) (x : Fit) : State :=
  let s := claimAt s core l.ctx f x (hRing l.header) (hRbase l.header)
  let s := s.setBlock core x.slot (blockOf s n l rank f x)
  let l := { noteCluster l w core with
    next := if l.back.contains rank then l.next else l.next + 1, back := l.back.erase rank, woken := false }
  let s := notePlaced (s.setLaunch n l) l.die bind core l.queue w
  addBase s core x.slot n

/-! ### The choice (R292) -/

/-- A core lies in the partition of a queue. A queue of a partition that the record does not set up has the whole device (R339; log entry
65, DESIGN CHOICE). -/
def inPartition (s : State) (q core : Nat) : Bool :=
  match s.partitions.get? (qPart (queueOf s q)) with
  | none => true
  | some p => p.clusters.contains (clusterOf core)

/-- The cores that a launch may use, in the order the distributor tries them: round-robin from the one after the last (R292), within the
partition of its queue (R339). -/
def coreOrder (s : State) (l : Launch) (w : BitVec 256) : List Nat :=
  let cs := bindCores w
  (((cs.filter (fun c => decide (bLast w < c))) ++ (cs.filter (fun c => decide (c ≤ bLast w)))).map (l.die * Config.coresPerDie + ·)).filter
    (inPartition s l.queue)

/-- The caps of a bind record leave room for a block of `k` cords: those of its context on its cores within the partition (R292, R304,
R339). -/
def capsOk (s : State) (l : Launch) (w : BitVec 256) (k : Nat) : Bool :=
  let bs := ((coreOrder s l w).flatMap (fun c => (s.core c).blocks.vals)).filter (fun b => b.ctx == bCtx w)
  (bBcap w == 0 || decide (bs.length + 1 ≤ bBcap w))
    && (bCcap w == 0 || decide ((bs.map (fun b => b.cords.entries.length)).foldl (· + ·) k ≤ bCcap w))

/-- The lowest unplaced rank of a launch, if a rule of R333 does not hold it back. -/
def nextRank (l : Launch) : Option Nat :=
  match leastOf (if l.next < blockCount l then l.next :: l.back else l.back) with
  | none => none
  | some r => if pDet l.packet && r != 0 && !l.begun.contains (r - 1) then none else some r

/-- Where a block of a launch goes, among some cores in their order. -/
def blockCore (s : State) (n : Nat) (l : Launch) (w : BitVec 256) (f : Footprint) (cores : List Nat) : Option (Nat × Fit) :=
  if !capsOk s l w f.budgets.length then none
  else cores.findSome? (fun c =>
    if pSpread l.packet && (s.core c).blocks.vals.any (fun b => b.launch == n) then none
    else (fits (s.core c) f).map (fun x => (c, x)))

/-- Where the next block of a launch would go. -/
def findCore (s : State) (n : Nat) (l : Launch) (w : BitVec 256) (f : Footprint) : Option (Nat × Fit) :=
  blockCore s n l w f (coreOrder s l w)

/-- A launch has a saved block, which is restored before anything of it is placed (R329). -/
def hasSaved (s : State) (n : Nat) : Bool := s.saved.any (fun v => v.block.launch == n)

/-- Launches of one queue are placed in ring order (R292). -/
def firstOfQueue (s : State) (n : Nat) (l : Launch) : Bool :=
  !s.launches.entries.any (fun x => decide (x.1 < n) && x.2.queue == l.queue && !allPlaced x.2)

/-- A launch that may be placed now: not blocked, an unplaced block, a bind record, no saved block to restore first (R329). -/
def placeable (s : State) (d : Nat) (x : Nat × Launch) : Bool :=
  x.2.die == d && x.2.status == .placing && (nextRank x.2).isSome && (bindOf s x.2.queue).isSome && firstOfQueue s x.1 x.2
    && !hasSaved s x.1

/-- How far a queue lies after the one last served (R292). -/
def queueTurn (s : State) (d q : Nat) : Nat := (q + 2 * Config.queuesPerDie - (s.die d).lastQ - 1) % Config.queuesPerDie

/-- Whose turn it is (R292): a launch or a task cord, by its priority, whether it was blocked and may be tried again, its queue, and its
launch, which stands for its place in the ring. -/
structure Turn where
  prio : Nat
  woken : Bool
  queue : Nat
  launch : Nat
  deriving DecidableEq, Repr

/-- One turn comes before another (R292). -/
def Turn.before (s : State) (d : Nat) (x y : Turn) : Bool :=
  decide (y.prio < x.prio) || (x.prio == y.prio && ((x.woken && !y.woken)
    || (x.woken == y.woken && (decide (queueTurn s d x.queue < queueTurn s d y.queue)
      || (x.queue == y.queue && decide (x.launch < y.launch))))))

/-- The turn of a launch. -/
def launchTurn (x : Nat × Launch) : Turn := ⟨x.2.prio, x.2.woken, x.2.queue, x.1⟩

/-- One launch is chosen before another (R292). -/
def chosenFirst (s : State) (d : Nat) (x y : Nat × Launch) : Bool := (launchTurn x).before s d (launchTurn y)

/-- The launch that the distributor of a die chooses. -/
def chosenLaunch (s : State) (d : Nat) : Option (Nat × Launch) :=
  (s.launches.entries.filter (placeable s d)).foldl (fun m x => match m with
    | none => some x
    | some y => if chosenFirst s d x y then some x else some y) none

/-! ### Task cords (R297) -/

/-- A formed task cord that may be placed. -/
structure TaskPlace where
  cluster : Nat
  /-- Its position among the formed cords of the cluster. -/
  pos : Nat
  item : TaskItem
  /-- The launch, its bind record's number, and the record. -/
  launch : Launch
  bind : Nat
  record : BitVec 256
  woken : Bool
  deriving DecidableEq, Repr

/-- A formed cord that may be placed now: not blocked, with a bind record. A launch that a fault has ended, or that has a saved block,
places none (R325, R329). -/
def taskPlace (s : State) (cl pos : Nat) (t : TaskCord) : Option TaskPlace :=
  match t.items.head? with
  | none => none
  | some x => match s.launches.get? x.launch with
    | none => none
    | some l => match bindOf s l.queue with
      | none => none
      | some e =>
        if t.blocked || l.status == .failed || hasSaved s x.launch then none
        else some ⟨cl, pos, x, l, e.1, e.2, t.woken⟩

/-- Where a task cord goes: by R292, on the cores of its cluster that the launch has there. -/
def TaskPlace.core (s : State) (t : TaskPlace) : Option (Nat × Fit) :=
  let cores := t.launch.taskCores.get t.cluster []
  let last := t.launch.die * Config.coresPerDie + bLast t.record
  let order := (cores.filter (fun c => decide (last < c))) ++ (cores.filter (fun c => decide (c ≤ last)))
  blockCore s t.item.launch t.launch t.record (taskFootprint t.item.cls) order

/-- The turn of a task cord: its priority is its spawner's (R297). -/
def TaskPlace.turn (t : TaskPlace) : Turn := ⟨t.item.prio, t.woken, t.launch.queue, t.item.launch⟩

/-- The formed task cord that the distributor of a die chooses; of equal turns, the one formed first in the lowest-numbered cluster. -/
def placeableTask (s : State) (d : Nat) : Option TaskPlace :=
  ((List.range 8).flatMap (fun i => (s.cluster (d * 8 + i)).formed.zipIdx.filterMap (fun x => taskPlace s (d * 8 + i) x.2 x.1))).foldl
    (fun m x => match m with
      | none => some x
      | some y => if x.turn.before s d y.turn then some x else some y) none

/-- A task cord comes before the next block of a launch (R292); its own launch's block comes first (log entry 81, DESIGN CHOICE). -/
def TaskPlace.before (s : State) (d : Nat) (t : TaskPlace) (l : Nat × Launch) : Bool := t.turn.before s d (launchTurn l)

/-- A formed cord with its marks replaced. -/
def setFormed (s : State) (t : TaskPlace) (f : TaskCord → TaskCord) : State :=
  let c := s.cluster t.cluster
  s.setCluster t.cluster { c with formed := c.formed.modify t.pos f }

/-- The block of a formed cord. Its lanes are given at its start, as those of other blocks, from the items that it keeps. -/
def taskBlock (s : State) (l : Launch) (t : TaskItem) (n : Nat) (f : Footprint) (x : Fit) : Block :=
  { launchBlock l with
    launch := t.launch, prio := t.prio, spbase := x.base, splen := f.spad, placed := s.serial, id := s.serial
    task := some { depth := 0, sets := .empty }
    cords := cordsOf x.places (fun _ => { Cord.fresh with
      present := BitVec.ofNat 32 (2 ^ n - 1), vbud := f.budgets.getD 0 0, ubud := f.ubud, entry := t.entry }) }

/-! ### Starting lanes (R14, R19, R57, R244, R297) -/

/-- The generator state of a lane at its start (R57). -/
def seeded (seed : Nat) (wid : DWord) : DWord := BitVec.ofNat 64 seed ^^^ (wid * 0x9E3779B97F4A7C15)

/-- A lane at the start of its cord. -/
def startLane (seed : Nat) (entry : Word) (wid : DWord) (locbase : Nat) : Lane :=
  { Lane.absent with pc := entry, st := .run, rng := seeded seed wid, wid := wid, locbase := locbase }

/-- The restart record of a cord that has executed no `acrst` (R206). -/
def startRecord (c : Cord) : Restart :=
  { label := c.entry, regs := List.replicate (min 16 (winSize c.ubud)) 0, counts := .empty, skips := [], lanes := c.present }

/-- The lanes of a launch's cord (R28, R287). -/
def launchLanes (l : Launch) (b : Block) (i : Nat) (c : Cord) : Cord :=
  let w1 := fwW1 (hFw l.header)
  let lane (j : Nat) : Lane := startLane (pSeed l.packet) c.entry
    (BitVec.ofNat 64 (b.index * 2 ^ (5 + w1) + i * 32 + j))
    (wrap64 (pLoc l.packet + b.lsize * (32 * (b.index * hCords l.header + i) + j)))
  { c with
    lanes := Tab.ofList ((List.range 32).map (fun j => (j, lane j))), joinm := c.present, restart := startRecord c }

/-- The lanes of a task cord, from its items. -/
def taskLanes (l : Launch) (items : List TaskItem) (c : Cord) : Cord :=
  let lane (j : Nat) (t : TaskItem) : Lane :=
    let x := startLane (pSeed l.packet) c.entry (BitVec.ofNat 64 (t.wid.toNat * 32 + j)) 0
    { x with regs := (x.regs.set 2 (t.arg.setWidth 32)).set 3 (BitVec.ofNat 32 (t.arg.toNat / 2 ^ 32)) }
  let of (j : Nat) : Lane := match items[j]? with
    | none => Lane.absent
    | some t => lane j t
  { c with
    lanes := Tab.ofList ((List.range 32).map (fun j => (j, of j))), joinm := c.present, restart := startRecord c }

/-! ### Reservations as steps -/

/-- What a task block keeps of its items: the cord's depth is that of the deepest (R102, R297; log entry 69, DEDUCED). -/
def taskInfo (items : List TaskItem) : TaskInfo :=
  { depth := (items.map (·.depth)).foldl max 0
    sets := Tab.ofList (items.zipIdx.map (fun y => (y.2, (y.1.slice, y.1.setM)))) }

/-- Places a formed cord on a core; its lanes take their items at once. -/
def reserveTask (s : State) (t : TaskPlace) (core : Nat) (x : Fit) : State :=
  let c := s.cluster t.cluster
  let items := ((c.formed[t.pos]?).map (·.items)).getD []
  let f := taskFootprint t.item.cls
  let b := taskBlock s t.launch t.item items.length f x
  let b := { b with task := some (taskInfo items), cords := b.cords.map (fun _ c => taskLanes t.launch items c) }
  let s := s.setCluster t.cluster { c with formed := c.formed.eraseIdx t.pos }
  let s := claimAt s core t.launch.ctx f x 2 0
  let s := notePlaced (s.setBlock core x.slot b) t.launch.die t.bind core t.launch.queue t.record
  addBase s core x.slot t.item.launch

/-- A formed cord is placed, or blocked where no core fits (R292). -/
def placeTask (s : State) (t : TaskPlace) : Out :=
  match t.core s with
  | some (core, x) => woke (reserveTask s t core x)
  | none => woke (setFormed s t (fun c => { c with blocked := true, woken := false }))

/-- The next block of a launch is placed, or the launch is blocked where no core fits. -/
def placeNext (s : State) (n : Nat) (l : Launch) : Out :=
  match nextRank l, bindOf s l.queue with
  | some r, some e =>
    match findCore s n l e.2 (footprintOf l.header) with
    | some (core, x) => woke (reserveBlock s n l core r e.1 e.2 (footprintOf l.header) x)
    | none => woke (s.setLaunch n { l with status := .blocked, woken := false })
  | _, _ => .next s

/-- R292: the distributor makes one reservation: a formed task cord, or the next block of the launch it chooses. A co-resident launch has
a step of its own (R293), before which no other launch of its priority is served. -/
def execBlockReservation (die : Nat) (s : State) : Out :=
  match placeableTask s die, chosenLaunch s die with
  | none, none => .next s
  | some t, none => placeTask s t
  | none, some (n, l) => if pCores l.packet then .next s else placeNext s n l
  | some t, some (n, l) =>
    if t.before s die (n, l) then placeTask s t else if pCores l.packet then .next s else placeNext s n l

/-- Reserves every block of a co-resident launch in index order; none where one does not fit (R293). -/
def reserveAll (n : Nat) : Nat → State → Option State
  | 0, s => some s
  | fuel + 1, s => match s.launches.get? n with
    | none => none
    | some l =>
      if allPlaced l then some s
      else match nextRank l, bindOf s l.queue with
      | some r, some e => match findCore s n l e.2 (footprintOf l.header) with
        | none => none
        | some (core, x) => reserveAll n fuel (reserveBlock s n l core r e.1 e.2 (footprintOf l.header) x)
      | _, _ => none

/-- R293: all reservations of a co-resident launch, or none; a task cord whose turn comes first is placed before (R292). -/
def execCoResidentPlacement (launch : Nat) (s : State) : Out :=
  match s.launches.get? launch with
  | none => .next s
  | some l =>
    if !pCores l.packet || ((chosenLaunch s l.die).map (·.1) != some launch)
        || (placeableTask s l.die).any (fun t => t.before s l.die (launch, l)) then .next s
    else match reserveAll launch (32 * Config.coresPerDie + 1) s with
    | some s => woke s
    | none => woke (s.setLaunch launch { l with status := .blocked, woken := false })

/-- An overlay of a context is resident at a code address. -/
def residentAt (c : Core) (ctx a : Nat) : Bool := c.res.any (fun r => r.is ctx a && r.resident)

/-- Every overlay that a restored block's tokens and marked frames name is resident (R301). -/
def restoredReady (c : Core) (b : Block) : Bool :=
  b.resid.all (residentAt c b.ctx) && b.base.all (residentAt c b.ctx)
    && b.cords.vals.all (fun x => x.lanes.vals.all (fun l => l.frames.all (fun f => f.hold.all (residentAt c b.ctx))))

/-- The start of a block's cords: an acquire at system scope of the host's writes before the doorbell (R277), for a task cord one at
cluster scope of the `spawn` of each of its items (R297). -/
def hearStart (s : State) (core : Nat) (b : Block) (l : Launch) : State :=
  b.cords.entries.foldl (fun s x =>
    let me : Agent := .cord core b.id x.1
    if b.task.isSome then
      s.hear me .clu (x.2.lanes.vals.map (fun y => .task b.launch (BitVec.ofNat 64 (y.wid.toNat / 32))))
    else s.hear me .sys [.bell l.queue]) s

/-- The core initialises the cords of a placed block, every register of theirs (R14), and the block takes a status. -/
def initCords (s : State) (core slot : Nat) (b : Block) (l : Launch) (st : BlockStatus) : State :=
  let cords := if b.task.isSome then b.cords else b.cords.map (launchLanes l b)
  let s := hearStart (s.setCore core (mendCords (s.core core) cords.vals)) core b l
  s.setBlock core slot { b with status := st, cords := cords, drain := false }

/-- R14, R15: the core initialises a placed block's cords once the base overlay is resident; a restored block goes on. A block that is to
drain starts to (R327). -/
def execBlockStart (core slot : Nat) (s : State) : Out :=
  match s.block? core slot with
  | none => .next s
  | some b =>
    let on : BlockStatus := if b.drain then .draining else .running
    match b.status with
    | .reserved =>
      if !b.base.any (residentAt (s.core core) b.ctx) then .next s
      else match s.launches.get? b.launch with
      | none => .next s
      | some l =>
        woke (initCords s core slot b l on)
    | .restoring => if restoredReady (s.core core) b then woke (s.setBlock core slot { b with status := on, drain := false }) else .next s
    | _ => .next s

/-- R260: the path evicts its `i`-th line. -/
def execLocalLineWriteback (core i : Nat) (s : State) : Out :=
  if (s.core core).lines.length ≤ i then .next s else woke (evictLine s core i)

/-! ### Exit (R34, R237) -/

/-- A core is one that the bind record of a launch names, within its partition (R304, R339). -/
def bindsCore (s : State) (l : Launch) (core : Nat) : Bool :=
  l.die == dieOf core && inPartition s l.queue core && (match bindOf s l.queue with
    | none => false
    | some e => (bindCores e.2).contains (core % Config.coresPerDie))

/-- A block has exited or been saved on a core: launches and task cords blocked on it are tried again (R292). -/
def wakeLaunches (s : State) (core : Nat) : State :=
  let s := wakeTasks s (fun l => bindsCore s l core || l.taskCores.vals.any (·.contains core))
  let wakes (l : Launch) : Bool := l.status == .blocked && bindsCore s l core
  { s with launches := s.launches.map (fun _ l => if wakes l then { l with status := .placing, woken := true } else l) }

/-- Unfinished operations attached to a block (R237). -/
def attachedOps (c : Core) (slot : Nat) : List (Nat × OpEntry) :=
  c.ops.entries.filter (fun x => x.2.slot == slot && x.2.det.isNone && !x.2.state.finished)

/-- FAILED attached operations that no cord has been told of (R237). -/
def untold (c : Core) (slot : Nat) : List (Nat × OpEntry) :=
  c.ops.entries.filter (fun x => x.2.slot == slot && x.2.det.isNone && x.2.state == .failed && !x.2.rep)

/-- No cord of a block. -/
def noCord : Nat := 32

/-- Entries of a block that leaves its core: finished ones are collected, and those that run on are orphans, of no cord any longer. -/
def collectOps (c : Core) (slot : Nat) : Core :=
  let kept := c.ops.filter (fun _ o => !(o.ofBlock slot && o.state.finished))
  { c with ops := kept.map (fun _ o => if o.slot == slot then { o with adopted := false, cord := noCord } else o) }

/-- What the cords of a block have done is released through carriers. -/
def sendCords (s : State) (core : Nat) (b : Block) (sc : Scope) (ks : List Carrier) : State :=
  b.cords.keys.foldl (fun s i => s.send (.cord core b.id i) sc ks) s

/-- Gives back every resource of a block (R37, R237, R260, R301). What its cords have written comes before the completion record of the
launch (R17). -/
def freeBlock (s : State) (core slot : Nat) : State :=
  match s.block? core slot with
  | none => s
  | some b =>
    let s := sendCords (writeLines s core slot) core b .sys [.launch b.launch]
    let c := dropTokens (s.core core) b.ctx b.resid
    let c := collectOps c slot
    let frames := b.cords.vals.flatMap (fun x => x.lanes.vals.flatMap (·.frames))
    let c := dropHolds c b.ctx frames
    let c := b.cords.vals.foldl (fun c x => match x.calloWait with
      | none => c
      | some (a, ks) => freeEvicted (mapRes c b.ctx a (fun r => { r with holds := r.holds - ks.length }))) c
    let c := { c with
      blocks := c.blocks.erase slot, chans := c.chans.filter (fun _ x => x.slot != slot)
      tiles := c.tiles.filter (fun p _ => !b.tiles.contains p) }
    wakeLaunches (s.setCore core c) core

/-- No gather access of the block is in flight. -/
def gathersDone (b : Block) : Bool := b.cords.vals.all (fun c => c.gathers.isEmpty)

/-- No instance is open on the block's tiles. -/
def tilesClosed (c : Core) (b : Block) : Bool := b.tiles.all (fun p => (c.tile p).slots.isEmpty)

/-- A block that has exited or been ended frees its resources when its attached operations have finished (R237). -/
def blockDone (s : State) (core slot : Nat) (b : Block) : Bool :=
  (b.status == .ended || b.cords.vals.all Cord.exited) && (attachedOps (s.core core) slot).isEmpty && gathersDone b
    && tilesClosed (s.core core) b

/-- The failures of operations whose tokens were discarded are reported at the context rung, and end the launch (R237). -/
def reportFailed (s : State) (core : Nat) (b : Block) : State :=
  b.failed.foldl (fun s o =>
    failLaunch (faultEntry s b.ctx b.index (o.addr % 2 ^ 32) o.token.toNat core 2 o.cause.toNat) b.launch b.index o.cause) s

/-- Drops the residency tokens of an exited block whose loads have finished (R237). -/
def dropFinished (s : State) (core slot : Nat) : State :=
  match s.block? core slot with
  | none => s
  | some b =>
    let gone := b.resid.filter (residentAt (s.core core) b.ctx)
    let s := s.setBlock core slot { b with resid := b.resid.filter (fun a => !gone.contains a) }
    s.setCore core (dropTokens (s.core core) b.ctx gone)

/-- An exited block passes its ticket, unless a cord has: a release at device scope of what it has written (R68, R166). -/
def exitTicket (s : State) (core : Nat) (b : Block) : State :=
  let passed := (s.launches.get? b.launch).any (fun l => l.passed.contains b.rank || l.passing.contains b.rank)
  if passed then s else passTicket (sendCords s core b .dev [ticketOf b]) b

/-- R237: a block whose cords have exited passes its ticket, once its gathers are performed and its local lines written back (R68, R166,
R260), and drops the residency tokens whose loads have finished; when its attached operations have finished, its unreported failures are
reported and its resources become free. -/
def execBlockExit (core slot : Nat) (s : State) : Out :=
  match s.block? core slot with
  | none => .next s
  | some b =>
    let runs := b.status == .running || b.status == .draining
    let exited := runs && b.cords.vals.all Cord.exited && gathersDone b
    if !exited && b.status != .ended then .next s
    else
      let s := if exited then dropFinished (exitTicket (writeLines s core slot) core b) core slot else s
      if !blockDone s core slot b || (exited && !(untold (s.core core) slot).isEmpty) then woke s
      else
        let s := if exited then reportFailed s core b else s
        let s := match s.launches.get? b.launch with
          | none => s
          | some l => if b.task.isSome then s else s.setLaunch b.launch { l with gone := b.rank :: l.gone }
        woke (freeBlock s core slot)

end Sys2Proof.Machine
end

