-- ==== Sys2Proof/Machine/Ladder.lean ====
section
/-!
DEFINITION. The escalation ladder as steps: handler entry, time-outs, and the context rung (16_faults.md R318, R321 to R325).
-/

namespace Sys2Proof.Machine

/-- R318, R323: a cord with parked lanes, none running and none waiting for data, enters its handler; a fault raised in a handler
escalates (R321). -/
def execHandlerEntry (c : CordRef) (s : State) : Out :=
  match s.block? c.core c.slot, s.cord? c with
  | some b, some x =>
    if !b.status.issues || !wantsHandler x || entryWaits b x then .next s
    else woke (settleAt (takeFault s c) c.core c.slot)
  | _, _ => .next s

/-- The time-out of a cord's rung (R321, R322): a rung 0 or 1 handler is discarded and its fault goes to the next rung; a fault that the
context or the partition rung has not served goes to the rung above, which is logged (R340). HANDLER_TIMEOUT escalates, with the cause
that was served in sr.tval. -/
def cordTimeout (c : CordRef) (b : Block) (x : Cord) (s : State) : Out :=
  let late (x : Cord) (cause : Byte) : Cord := { x with cause := cHandlerTimeout, tval := cause.setWidth 32 }
  match x.handler, x.escalated with
  | some hd, _ =>
    let s := discardHandler s c
    match s.cord? c with
    | none => .next s
    | some y => woke (settleAt (offer 4 (s.setCord c (late y hd.cause)) c (hd.rung + 1)) c.core c.slot)
  | none, some r =>
    if r < 4 then
      let s := s.setCord c { late x x.cause with escalated := some (r + 1) }
      woke (logError s b.index x.cause.toNat 0 b.ctx c.core (r + 1) cHandlerTimeout.toNat)
    else .next s
  | none, none => .next s

/-- The slot that a saved operation's entry bears in the op table of its core: it belongs to no resident block (R315). -/
def noSlot : Nat := 32

/-- The time-out of a rung above the cord's, for a suspended operation that it has been told of and has not served (R322, R326);
while its block is saved, the time-out stands still (R330). -/
def opTimeout (core e : Nat) (o : OpEntry) (s : State) : Out :=
  let r := o.escalated.getD 2
  if o.state != .suspended || !o.told || decide (4 ≤ r) || o.slot == noSlot then .next s
  else woke (logError (setOp s core e { o with escalated := some (r + 1) }) o.blk o.cause.toNat o.token.toNat o.ctx core (r + 1)
    cHandlerTimeout.toNat)

/-- R321, R322: the service time-out of a rung expires; a cord that has exited has none (log entry 53, DEDUCED). -/
def execHandlerTimeout (src : RungSource) (s : State) : Out :=
  match src with
  | .cord c =>
    match s.block? c.core c.slot, s.cord? c with
    | some b, some x => if b.status.issues && !x.exited then cordTimeout c b x s else .next s
    | _, _ => .next s
  | .op core e =>
    match opAt s core e with
    | none => .next s
    | some o => opTimeout core e o s

/-- The block of an attached operation, when its cords have all exited (R237). -/
def exitedBlock (s : State) (core : Nat) (o : OpEntry) : Option Block :=
  match s.block? core o.slot with
  | none => none
  | some b => if o.det.isNone && b.status.issues && b.cords.vals.all Cord.exited then some b else none

/-- R324, R237: firmware writes a fault queue entry. A cord's fault ends its block and its launch, and is served by that; one that a cord
of a block already ended brings is written too. So does the failure of an operation of a block that has exited. A SUSPENDED
operation is only reported. -/
def execContextRung (src : RungSource) (s : State) : Out :=
  match src with
  | .cord c =>
    match s.block? c.core c.slot, s.cord? c with
    | some b, some x =>
      if x.escalated != some 2 || !(b.status.issues || b.status == .ended) then .next s
      else
        let s := faultEntry (s.setCord c { x with escalated := none }) b.ctx b.index x.tval.toNat 0 c.core 2 x.cause.toNat
        woke (endBlock s c.core c.slot x.cause)
    | _, _ => .next s
  | .op core e =>
    match opAt s core e with
    | none => .next s
    | some o =>
      let entry := faultEntry s o.ctx o.blk (o.addr % 2 ^ 32) o.token.toNat core 2 o.cause.toNat
      if o.state == .suspended && o.cause != 0 && !o.told then woke (setOp entry core e { o with told := true })
      else match exitedBlock s core o with
      | none => .next s
      | some b =>
        if o.state == .failed && !o.rep then woke (failLaunch (setOp entry core e { o with rep := true }) b.launch b.index o.cause)
        else .next s

end Sys2Proof.Machine
end

