-- ==== Sys2Proof/Machine/Preempt.lean ====
section
/-!
DEFINITION. Pre-emption, context save and restore (13_queues.md R294; 15_counters.md R315; 16_faults.md R327 to R332).
-/

namespace Sys2Proof.Machine

/-! ### The request (R294, R327) -/

/-- A block that waits for room which pre-emption may make: its die, its priority, and the cores that it may have (R294). -/
structure Waiting where
  die : Nat
  prio : Nat
  cores : List Nat
  deriving DecidableEq, Repr

/-- What waits at a launch's bind record, where that permits pre-emption; a launch that a fault has ended waits for nothing (R325). -/
def waitsAt (s : State) (l : Launch) (prio : Nat) (cores : BitVec 256 → List Nat) : Option Waiting :=
  match bindOf s l.queue with
  | none => none
  | some e => if bPre e.2 && l.status != .failed then some ⟨l.die, prio, cores e.2⟩ else none

/-- A blocked launch that acts under R294, on the cores that it may use (R339). -/
def launchWaits (s : State) (l : Launch) : Option Waiting :=
  if l.status == .blocked then waitsAt s l l.prio (coreOrder s l) else none

/-- A blocked task cord of a cluster does so too, at its spawner's priority, on the cores that its launch has there (R297). -/
def formedWaits (s : State) (cl : Nat) (t : TaskCord) : Option Waiting :=
  match t.items.head? with
  | none => none
  | some x => match s.launches.get? x.launch with
    | none => none
    | some l => if t.blocked then waitsAt s l x.prio (fun _ => l.taskCores.get cl []) else none

/-- Everything that waits for room. -/
def waiters (s : State) : List Waiting :=
  s.launches.vals.filterMap (launchWaits s) ++ s.clusters.entries.flatMap (fun c => c.2.formed.filterMap (formedWaits s c.1))

/-- Resident blocks on the cores that a waiting block may have. -/
def boundBlocks (s : State) (w : Waiting) : List (Nat × Nat × Block) :=
  w.cores.flatMap (fun c => (s.core c).blocks.entries.map (fun x => (c, x.1, x.2)))

/-- A placed block that no pre-emption has been requested of. -/
def Block.spared (b : Block) : Bool :=
  !b.drain && (match b.status with
    | .reserved | .running | .restoring => true
    | _ => false)

/-- The pre-emption of a block is in progress. -/
def Block.leaves (b : Block) : Bool :=
  b.drain || (match b.status with
    | .draining | .saving _ => true
    | _ => false)

/-- A block is the one to pre-empt for what waits: the lowest priority first, then the most recently placed, one at a time (R294;
log entry 48, DEDUCED). -/
def isVictim (s : State) (core slot : Nat) (b : Block) (w : Waiting) : Bool :=
  let bs := boundBlocks s w
  w.cores.contains core && b.spared && decide (b.prio < w.prio) && !bs.any (·.2.2.leaves)
    && bs.all (fun x => !x.2.2.spared || decide (b.prio < x.2.2.prio)
      || (b.prio == x.2.2.prio && (decide (x.2.2.placed < b.placed) || (x.1 == core && x.2.1 == slot))))

/-- P: the least sr.prog of the cords that have not exited (R327). -/
def progress (b : Block) : Nat :=
  (leastOf ((b.cords.vals.filter (fun c => !c.exited)).map (fun c => c.prog.toNat))).getD 65535

/-- The block is to be saved (R328); one that has not started is saved as it would start (log entry 48, DEDUCED). -/
def beginSave (s : State) (core slot : Nat) (b : Block) : State :=
  match b.status, s.launches.get? b.launch with
  | .reserved, some l => initCords s core slot b l (.saving false)
  | _, _ => s.setBlock core slot { b with status := .saving false, drain := false }

/-- The treatment of a block (R327): the rows in their order. A task cord has no block index to return, so row 3 leaves it out.
A block that has not started, or waits for its overlays, drains once it has. -/
def preempt (s : State) (core slot : Nat) (b : Block) : State :=
  let w := (bindOfBlock s b).map (·.2)
  let persist := match s.launches.get? b.launch with
    | none => false
    | some l => pPersist l.packet
  if b.cords.vals.any (fun c => c.handler.isSome) then beginSave s core slot b
  else if (w.map bDthr).getD 0 ≤ progress b && !persist then
    s.setBlock core slot (if b.status == .running then { b with status := .draining } else { b with drain := true })
  else if b.idem && b.task.isNone && decide (progress b < (w.map bRthr).getD 0) then
    cancelBlockOps (s.setBlock core slot { b with status := .saving true }) core slot
  else beginSave s core slot b

/-- R294, R327: the distributor requests the pre-emption of a block for a blocked launch or task cord. -/
def execPreemptRequest (core slot : Nat) (s : State) : Out :=
  match s.block? core slot with
  | none => .next s
  | some b =>
    if (waiters s).any (isVictim s core slot b) then woke (preempt s core slot b)
    else .next s

/-- R327: a draining block has not exited within its bound, and is saved. -/
def execDrainTimeout (core slot : Nat) (s : State) : Out :=
  match s.block? core slot with
  | none => .next s
  | some b => if b.status == .draining || b.drain then woke (beginSave s core slot b) else .next s

/-! ### Save (R328, R332) -/

/-- Entries of a block that a save takes along: the attached ones. -/
def savedOps (c : Core) (slot : Nat) : Tab OpEntry := c.ops.filter (fun _ o => o.slot == slot && o.det.isNone)

/-- An operation as the save leaves it (R227, R328): a pass that has not finished starts anew, and a replay operation its rows. -/
def atSave (c : Core) (o : OpEntry) : OpEntry :=
  let passDone := match o.pair with
    | none => true
    | some t => match c.ops.get? (entryOf t) with
      | none => true
      | some x => x.token != t || x.state.finished
  if o.state.finished then o
  else match o.kind with
  | .wnw => { o with state := .queued, started := false, cursor := 0, c := [], sel := [], repl := [], cert := 0, listed := false
                     cause := 0, addr := 0, ranges := o.ranges.take 1 }
  | .replay =>
    if passDone then { o with state := .queued, started := false, cursor := 0, cause := 0, addr := 0 }
    else { o with state := .queued, started := false, cursor := 0, c := [], sel := [], repl := [], listed := false, cause := 0, addr := 0
                  ranges := [] }
  | _ => o

/-- A saved operation's entry in the op table of its core, which keeps it (R315): it belongs to no resident block, and holds
nothing. -/
def frozen (o : OpEntry) : OpEntry := { o with slot := noSlot, ranges := [], tile := none, pause := true }

/-- Everything that a save waits for (R328). -/
def saveReady (c : Core) (slot : Nat) (b : Block) : Bool :=
  gathersDone b && b.cords.vals.all (fun x => x.inflight.isEmpty)
    && (savedOps c slot).vals.all (fun o => !saveAwaits o && !(o.state == .running && o.kind.engine == 0))
    && (b.recomp || b.tiles.zipIdx.all (fun x => (c.tile x.1).slots.all (fun i => !instReady c x.1 b x.2 i)))

/-- A cord as it is saved: the wait at a `callo` is repeated at restore (R170, R328), and an instruction not yet issued is fetched
again. -/
def savedCord (c : Cord) : Cord := { c with calloWait := none, next := none, fetched := none }

/-- An uncorrectable error in what the save reads: the scratchpad, the tiles, the channels or the registers of the block, with its place
in the array (R256, R265). -/
def saveBad (c : Core) (b : Block) : Option Nat :=
  let inRegs (e : ErrArray × Nat) (a : ErrArray) (n : Nat) : Bool :=
    e.1 == a && b.cords.vals.any (fun x => e.2 * 8 / n == x.slotNo)
  (c.bad.find? (fun e =>
    (e.1 == .scratchpad && overlap (e.2 * 8) (e.2 * 8 + 8) b.spbase (b.spbase + b.splen))
      || (e.1 == .accumulator && b.tiles.contains (e.2 * 8 / Config.tileBytes))
      || (e.1 == .chanTable && b.chans.contains e.2)
      || inRegs e .laneRegs (32 * 1024) || inRegs e .uniformRegs 256)).map (fun e => e.2 * 8)

/-- What the save reads counts the errors that the code corrects (R265, R311). -/
def noteSave (s : State) (core slot : Nat) (b : Block) : State :=
  let s := noteRead s core .scratchpad b.spbase b.splen
  let s := b.tiles.foldl (fun s p => noteRead s core .accumulator (p * Config.tileBytes) Config.tileBytes) s
  let s := b.chans.foldl (fun s p => noteRead s core .chanTable (8 * p) 8) s
  let s := (savedOps (s.core core) slot).keys.foldl (fun s e => noteRead s core .opTable (64 * e) 64) s
  b.cords.vals.foldl (fun s x =>
    noteRead (noteRead s core .laneRegs (x.slotNo * 32768) 32768) core .uniformRegs (x.slotNo * 256) 256) s

/-- The overlays that a block's tokens and marked frames name, by code address (R301). -/
def heldOverlays (b : Block) : List Nat :=
  (b.resid ++ (b.cords.vals.flatMap (fun c => c.lanes.vals.flatMap (·.frames))).filterMap (·.hold)).dedup

/-- The same as the saved context names them: with the index in the block's table, and the digest (R301). -/
def savedOverlays (c : Core) (b : Block) : List (Nat × Nat × BitVec 256) :=
  (heldOverlays b).filterMap (fun a => (c.res.find? (·.is b.ctx a)).bind (fun r =>
    (r.sharers.find? (fun x => x.1 == b.ctx && x.2.2 == a)).map (fun x => (a, x.2.1, r.digest))))

/-- Where the words of a saved block's scratchpad stand while it is saved: a place that no core has, by the block's own number. -/
def parkedPlace (b : Block) (a : Nat) : Place := .sp (Config.dies * Config.coresPerDie + b.id) a

/-- Words of the scratchpad of a block that leaves its core. -/
def parkPlace (core : Nat) (b : Block) : Place → Place
  | .sp c a => if c = core ∧ b.spbase ≤ a ∧ a < b.spbase + b.splen then parkedPlace b (a - b.spbase) else .sp c a
  | p => p

/-- Words of the scratchpad of a block that comes to a core. -/
def unparkPlace (n base : Nat) (b : Block) : Place → Place
  | .sp c a => if parkedPlace b a = .sp c a then .sp n (base + a) else .sp c a
  | p => p

/-- Saves a block: its context leaves the core, and its resources become free (R315, R328). -/
def saveBlock (s : State) (core slot : Nat) (b : Block) : State :=
  let s := noteSave (writeLines s core slot) core slot b
  let c := s.core core
  let ops := (savedOps c slot).map (fun _ o => atSave c o)
  let v : Saved :=
    { block := { b with cords := b.cords.map (fun _ x => savedCord x) }, core := core
      spad := c.spad.slice b.spbase (b.spbase + b.splen)
      tiles := b.tiles.map (fun p => (c.acc.slice (p * Config.tileBytes) ((p + 1) * Config.tileBytes), c.tile p))
      ops := ops, chans := b.chans.filterMap (fun p => c.chans.get? p), ovls := savedOverlays c b }
  let c := { c with ops := c.ops.map (fun e o => match ops.get? e with
    | none => if o.slot == slot then { o with adopted := false } else o
    | some x => frozen x) }
  let s := (freeBlock (s.setCore core c) core slot).moveAgents id id (parkPlace core b)
  { s with saved := s.saved ++ [v] }

/-- R332: a flushed block gives its resources back, and its index returns to the head of the launch's unplaced blocks. -/
def flushBlock (s : State) (core slot : Nat) (b : Block) : State :=
  let s := s.setCore core (dropInstances (s.core core) b.tiles)
  let s := match s.launches.get? b.launch with
    | none => s
    | some l => s.setLaunch b.launch { l with back := b.rank :: l.back }
  freeBlock s core slot

/-- R328, R332: a block that is being saved is saved when all that the save waits for has come; a flushed block is freed when its
operations have finished. A save that meets an uncorrectable error ends the block at the context rung (log entry 64, DESIGN CHOICE). -/
def execContextSave (core slot : Nat) (s : State) : Out :=
  match s.block? core slot with
  | none => .next s
  | some b =>
    match b.status with
    | .saving false =>
      if !saveReady (s.core core) slot b then .next s
      else match saveBad (s.core core) b with
      | some a => woke (logData (baseFault s core slot a cDataErr) core b.ctx b.index a 0)
      | none => woke (saveBlock s core slot b)
    | .saving true => if (attachedOps (s.core core) slot).isEmpty && gathersDone b then woke (flushBlock s core slot b) else .next s
    | _ => .next s

/-! ### Restore (R315, R329, R331) -/

/-- The footprint of a saved block. -/
def savedFootprint (b : Block) : Footprint :=
  { budgets := b.cords.vals.map (·.vbud), ubud := (b.cords.vals.head?.map (·.ubud)).getD 16, spad := b.splen, tiles := b.tiles.length
    ops := b.ops, chans := b.chans.length }

/-- A core without the entries that it keeps for a saved block, which the block takes again there (R315). -/
def withoutFrozen (c : Core) (v : Saved) : Core := { c with ops := c.ops.filter (fun e _ => (v.ops.get? e).isNone) }

/-- The entry of a context's table that a saved overlay names: its index, digest and code address (R301). -/
def savedEntry (s : State) (n ctx ovtab : Nat) (v : Nat × Nat × BitVec 256) : Option OvlEntry :=
  ((ovlTable s n ctx ovtab 256 0)[v.2.1]?).filter (fun e => e.caddr == v.1 && e.digest == v.2.2)

/-- A core can hold every overlay of a saved block: each is resident or loading there under its digest, or can be loaded (R299 to R301). -/
def overlaysFit (s : State) (n : Nat) (v : Saved) : Bool :=
  v.ovls.all (fun o => (savedEntry s n v.block.ctx v.block.ovtab o).any (fun e => !ovlUnfit (s.core n) v.block.ctx e))

/-- The scoreboard of a core has room for the ranges of a saved block's operations (R257, R329). -/
def rangesFit (c : Core) (v : Saved) : Bool :=
  decide (scoreCount c + (v.ops.vals.flatMap (·.ranges)).length ≤ Config.scoreboardEntries)

/-- The entry that the saving core keeps for a saved operation, if it has not been freed since (R315). -/
def keptEntry (s : State) (v : Saved) (e : Nat) (o : OpEntry) : Option OpEntry :=
  ((s.core v.core).ops.get? e).filter (fun f => f.token == o.token)

/-- The saved context with what has become of its operations meanwhile: reported (R324); or CANCELLED, since the operation of its
after-token did not finish DONE, and with no token to be waited for by collected too (R210, R211). -/
def toldSince (s : State) (v : Saved) : Saved :=
  let now (e : Nat) (o : OpEntry) : OpEntry := match keptEntry s v e o with
    | none => o
    | some f =>
      if f.state == .cancelled && o.state != .cancelled then { o with state := .cancelled, cursor := f.cursor, addr := f.addr, ranges := [] }
      else { o with told := o.told || f.told }
  { v with ops := (v.ops.filter (fun e o => (keptEntry s v e o).isSome)).map now }

/-- Where a saved block fits (R329). -/
def restoreCore (s : State) (v : Saved) (l : Launch) (w : BitVec 256) : Option (Nat × Fit) :=
  let v := toldSince s v
  if !capsOk s l w v.block.cords.entries.length then none
  else (coreOrder s l w).findSome? (fun n =>
    if !overlaysFit s n v || !rangesFit (s.core n) v then none
    else (fits (if n = v.core then withoutFrozen (s.core n) v else s.core n) (savedFootprint v.block)).map (fun x => (n, x)))

/-- A byte range moved from one allocation base to another. -/
def moveRange (lo hi : Nat) (r : SpRange) : SpRange := { r with lo := r.lo - lo + hi, hi := r.hi - lo + hi }

/-- New tokens by old ones (R315). -/
abbrev TokenMap := List (Word × Word)
def newToken (m : TokenMap) (t : Word) : Word := ((m.find? (fun x => x.1 == t)).map (·.2)).getD t

/-- A saved operation on its new core: block slot, ranges, tile and tokens (R329). An after-token that names no saved operation of the
block, a detached one or one already collected, names what it named. -/
def moveOp (v : Saved) (n : Nat) (m : TokenMap) (x : Fit) (o : OpEntry) : OpEntry :=
  let b := v.block
  let mine := o.afterCore == v.core && v.ops.vals.any (fun y => y.token == o.after)
  { o with
    slot := x.slot, base := x.base, ranges := o.ranges.map (moveRange b.spbase x.base), pause := false
    tile := o.tile.map (fun p => x.tiles.getD ((b.tiles.findIdx? (· == p)).getD 0) p)
    token := newToken m o.token, pair := o.pair.map (newToken m)
    after := if mine then newToken m o.after else o.after, afterCore := if mine then n else o.afterCore }

/-- Takes the saved entries on a core: the same ones on the saving core, new ones on another, with new tokens (R315). -/
def retakeOps (s : State) (v : Saved) (n : Nat) : State × List (Nat × Nat) × TokenMap :=
  if n = v.core then (s, v.ops.entries.map (fun x => (x.1, x.1)), [])
  else
    let s := s.setCore v.core (withoutFrozen (s.core v.core) v)
    v.ops.entries.foldl (fun acc x =>
      let (s, es, m) := acc
      match freeEntry (s.core n) with
      | none => acc
      | some e =>
        let (c, t) := allocEntry (s.core n) e
        (setOp (s.setCore n c) n e { x.2 with token := t, slot := noSlot }, (x.1, e) :: es, (x.2.token, t) :: m)) (s, [], [])

/-- What a cord has kept of an operation, on the block's new core: one that moves with the block is named by its new token there, and a
detached one, which does not, as before (R315, R328). -/
def Kept.move (m : TokenMap) (n : Nat) (k : Kept) : Kept :=
  if m.any (fun x => x.1 == k.token) then { k with token := newToken m k.token, core := n } else k

/-- A cord on its new core: place, and the tokens in registers whose hidden bit is set (R329). -/
def moveCord (m : TokenMap) (n : Nat) (x : Fit) (i : Nat) (c : Cord) : Cord :=
  let p := x.places.getD i (0, 0)
  { c with
    quarter := p.1, pos := p.2, kept := c.kept.map (Kept.move m n)
    sregs := c.sregs.map (fun k w => if c.stok.contains k then newToken m w else w) }

/-- A cord restarted from its restart record (R331; log entry 47, DEDUCED). -/
def restartCord (c : Cord) : Cord :=
  let r := c.restart
  let lane (k : Nat) (l : Lane) : Lane :=
    { l with
      st := if r.lanes.getLsbD k then .run else .exit, pc := if r.lanes.getLsbD k then r.label else l.pc, data := false
      served := false, frames := [Frame.base] }
  let c := { c with
    lanes := c.lanes.map lane, tcount := r.counts, skipAll := r.skips, uspill := [], handler := none, escalated := none
    barWait := .empty, barars := .empty, bflags := .empty, skipLeft := .empty, windows := [], kept := none, keptRed := none, next := none
    waits := none, fetched := none }
  r.regs.zipIdx.foldl (fun c x => c.setS 0 (16 + x.2) x.1) c

/-- Counts a block's tokens and holds again, and starts the load of an overlay that is missing (R301). -/
def retakeOverlay (core ctx ovtab : Nat) (s : State) (v : Nat × Nat × BitVec 256) (tokens holds : Nat) : State :=
  let s := match savedEntry s core ctx ovtab v with
    | none => s
    | some e => if (resOf (s.core core) ctx e).isNone && !ovlUnfit (s.core core) ctx e then beginLoad s core ctx e else s
  s.setCore core (mapRes (s.core core) ctx v.1 (fun r => { r with tokens := r.tokens + tokens, holds := r.holds + holds }))

/-- Open instances on a new core: their ranges, and the copies they wait for. -/
def moveTile (m : TokenMap) (lo hi : Nat) (t : Tile) : Tile :=
  { t with slots := t.slots.map (fun i => { i with arrivals := i.arrivals.map (fun a =>
      { a with ranges := a.ranges.map (moveRange lo hi), after := a.after.map (newToken m) }) }) }

/-- An open instance of a saved block on a tile has an arrival of this stamp. -/
def Saved.arrived (v : Saved) (p t : Nat) : Bool :=
  (v.block.tiles.zip v.tiles).any (fun y => y.1 == p && y.2.2.slots.any (fun i => i.arrivals.any (fun a => a.stamp == t)))

/-- The agents of a restored block under their new names. -/
def moveAgent (v : Saved) (n : Nat) (m : TokenMap) (x : Fit) : Agent → Agent
  | .cord c b i => if c = v.core ∧ b = v.block.id then .cord n b i else .cord c b i
  | .op c b t => if c = v.core ∧ b = v.block.id then .op n b (newToken m t) else .op c b t
  | .inst c p t =>
    if c = v.core ∧ v.arrived p t then .inst n (x.tiles.getD ((v.block.tiles.findIdx? (· == p)).getD 0) p) t else .inst c p t
  | a => a

/-- What carries the releases of a restored block, under its new name. -/
def moveCarrier (v : Saved) (n : Nat) (m : TokenMap) : Carrier → Carrier
  | .phase c b i j => if c = v.core ∧ b = v.block.id then .phase n b i j else .phase c b i j
  | .batch c b i j => if c = v.core ∧ b = v.block.id then .batch n b i j else .batch c b i j
  | .op c t => if c = v.core ∧ v.ops.vals.any (·.token == t) then .op n (newToken m t) else .op c t
  | k => k

/-- Restores a saved block on a core (R306, R315, R329, R331): all that it writes there leaves no error behind (R265). -/
def restoreBlock (s : State) (v₀ : Saved) (n : Nat) (x : Fit) : State :=
  let v := toldSince s v₀
  let b := v.block
  let f := savedFootprint b
  let (s, es, m) := retakeOps s v n
  let s := (s.dropWords n x.base f.spad).moveAgents (moveAgent v n m x) (moveCarrier v n m) (unparkPlace n x.base b)
  let c := mendChans (claimTiles (claimSp (s.core n) b.ctx x.base f.spad) x.tiles) x.chans
  let c := mendBoard (mend c .scratchpad x.base f.spad)
  let c := { c with spad := (c.spad.clear x.base (x.base + f.spad)).paste x.base v.spad }
  let c := if b.recomp then c
    else (x.tiles.zip v.tiles).foldl (fun c y =>
      ({ c with acc := c.acc.paste (y.1 * Config.tileBytes) y.2.1 } : Core).setTile y.1 (moveTile m b.spbase x.base y.2.2)) c
  let c := { c with
    chans := (x.chans.zip v.chans).foldl (fun t y => t.set y.1 { y.2 with slot := x.slot, base := y.2.base - b.spbase + x.base }) c.chans
    ops := es.foldl (fun t y => match v.ops.get? y.1 with
      | none => t
      | some o => t.set y.2 (moveOp v n m x o)) c.ops }
  let cords := b.cords.map (fun i c => let c := moveCord m n x i c; if b.recomp then restartCord c else c)
  let frames := cords.vals.flatMap (fun c => c.lanes.vals.flatMap (·.frames))
  let b' : Block := { b with
    placed := s.serial, cords := cords, spbase := x.base, tiles := x.tiles, chans := x.chans, status := .restoring
    barriers := if b.recomp then b.barriers.map (fun _ r => { r with phases := [] }) else b.barriers
    failed := b.failed.map (fun o => { o with slot := x.slot }) }
  let s := noteOvls ((s.setCore n (mendCords c cords.vals)).setBlock n x.slot b') n b.ctx b.ovtab
  let s := v.ovls.foldl (fun s o => retakeOverlay n b.ctx b.ovtab s o (b.resid.filter (· == o.1)).length
    (frames.filter (fun f => f.hold == some o.1)).length) s
  let s := { s with saved := s.saved.erase v₀, serial := s.serial + 1 }
  let s := match s.launches.get? b.launch, bindOfBlock s b with
    | some l, some e => s.setLaunch b.launch (noteCluster l e.2 n)
    | _, _ => s
  addBase s n x.slot b.launch

/-- Something waits on a die for which blocks are being pre-empted, one at a time, and that may have room when they are gone (R294). -/
def clearsRoom (s : State) (d : Nat) (w : Waiting) : Bool :=
  w.die == d && (boundBlocks s w).any (fun x => decide (x.2.2.prio < w.prio) && (x.2.2.spared || x.2.2.leaves))

/-- A launch or a task cord is tried before a saved block of a launch: of higher priority, or of the same and awake (R292); and a blocked
one of higher priority keeps its turn while blocks are pre-empted for it (R294; log entry 48, DEDUCED). -/
def restoreYields (s : State) (d : Nat) (l : Launch) : Bool :=
  let first (t : Turn) : Bool := decide (l.prio < t.prio) || (l.prio == t.prio && t.woken)
  ((chosenLaunch s d).map launchTurn).any first || ((placeableTask s d).map (·.turn)).any first
    || (waiters s).any (fun x => decide (l.prio < x.prio) && clearsRoom s d x)

/-- A saved block with the core it fits, and its priority. -/
def restoreChoice (s : State) (d : Nat) (v : Saved) : Option (Nat × Saved × Nat × Fit) :=
  match s.launches.get? v.block.launch with
  | none => none
  | some l =>
    if l.die != d || restoreYields s d l then none
    else match bindOf s l.queue with
    | none => none
    | some e => (restoreCore s v l e.2).map (fun y => (l.prio, v, y.1, y.2))

/-- The saved block that the distributor of a die restores next: of the highest priority, the first saved (R292, R329). -/
def restorable (s : State) (d : Nat) : Option (Saved × Nat × Fit) :=
  ((s.saved.filterMap (restoreChoice s d)).foldl (fun m x => match m with
    | none => some x
    | some y => if y.1 < x.1 then some x else some y) none).map (·.2)

/-- R329: the distributor restores a saved block. -/
def execContextRestore (die : Nat) (s : State) : Out :=
  match restorable s die with
  | none => .next s
  | some (v, n, x) => woke (restoreBlock s v n x)

end Sys2Proof.Machine
end

