-- ==== Sys2Proof/Machine/Firmware.lean ====
section
/-!
DEFINITION. What firmware writes: combine trees (14_tables.md R305), the tables and registers with no row of their own (R303, R307,
R324, R296; 17_outside.md R338, R341; 15_counters.md R316), and the invalidation of translations (14_tables.md R310).
-/

namespace Sys2Proof.Machine

/-! ### Combine trees (R305) -/

/-- A tree with one of its bytes written. -/
def Tree.write (t : Tree) : TreeWrite → Tree
  | .byte n b => if n < Config.coresPerDie then { t with routers := t.routers.set n b } else t
  | .timeout w => { t with timeout := w }

/-- The operation is a reduction of a kind on a tree, and has not finished. -/
def onTree (sys : Bool) (tree : Nat) (o : OpEntry) : Bool :=
  !o.state.finished && redTree (opCtl o) == tree && (match o.kind with
    | .mred _ => !sys
    | .coll _ => sys
    | _ => false)

/-- A collective on the tree that waits at issue, its checks made, is noted to have been cut (R222, R305). -/
def cutKept (sys : Bool) (tree : Nat) (c : Cord) : Cord :=
  if c.keptRed = some (sys, tree, false) then { c with keptRed := some (sys, tree, true) } else c

/-- Ends FAILED with TIMEOUT every unfinished reduction of a core on a tree, started or not, and then cancels what waits for them (R305,
R210). -/
def failOn (sys : Bool) (tree core : Nat) (s : State) : State :=
  let hit := (opsOf (s.core core)).filter (fun x => onTree sys tree x.2)
  let s := hit.foldl (fun s x => match opAt s core x.1 with
    | none => s
    | some o => if onTree sys tree o then endOne s core x.1 { o with cause := cTimeout, addr := noMember } .failed else s) s
  cancelAfter core (2 * Config.opEntries) (hit.map (·.2.token)) s

/-- The unfinished reductions of some cores on a tree end FAILED, and those that wait at issue are cut, of saved blocks too (R222, R305,
R328). -/
def failTree (s : State) (cores : List Nat) (sys : Bool) (tree : Nat) : State :=
  let cut (b : Block) : Block := { b with cords := b.cords.map (fun _ c => cutKept sys tree c) }
  let s : State := { s with
    cores := s.cores.map (fun n c => if cores.contains n then { c with blocks := c.blocks.map (fun _ b => cut b) } else c)
    saved := s.saved.map (fun v => if cores.contains v.core then { v with block := cut v.block } else v) }
  cores.foldl (fun s c => failOn sys tree c s) s

/-- Writes a byte or the time-out of a die's tree: its reductions fail and are forgotten. -/
def writeTree (s : State) (d tree : Nat) (w : TreeWrite) : State :=
  let s := failTree s (s.cores.keys.filter (fun c => dieOf c == d)) false tree
  let x := s.die d
  s.setDie d { x with trees := x.trees.set tree ((x.trees.get tree Tree.fresh).write w), reds := x.reds.filter (fun r => r.tree != tree) }

/-- Writes a byte or the time-out of a system tree. -/
def writeSysTree (s : State) (tree : Nat) (w : TreeWrite) : State :=
  let s := failTree s s.cores.keys true tree
  { s with sysTrees := s.sysTrees.set tree ((s.sysTrees.get tree Tree.fresh).write w)
           sysReds := s.sysReds.filter (fun r => r.tree != tree) }

/-- R305: firmware writes a tree. A tree number above 15 names no tree; firmware that has not been checked does not run (R342). -/
def execCombineTreeWrite (owner : TreeOwner) (tree : Nat) (w : TreeWrite) (s : State) : Out :=
  if s.mgmt.boot != .up || decide (16 ≤ tree) then .next s
  else match owner with
  | .die d => if d < Config.dies then woke (writeTree s d tree w) else .next s
  | .system => woke (writeSysTree s tree w)

/-! ### Other tables and registers -/

/-- A write of a register of R341: a locked one keeps its value, and the write is logged. -/
def lockedWrite (s : State) (f : Mgmt → Mgmt) : State :=
  if s.mgmt.locked then logError s 0 0 0 0 0 7 0 else { s with mgmt := f s.mgmt }

/-- A queue number that the device has. -/
def queueExists (q : Nat) : Bool := decide (q < Config.dies * Config.queuesPerDie)

/-- R303 and the rules of the tables written: the write of one table entry or register (log entry 33, DEDUCED). -/
def execFirmwareRegisterWrite (w : FwWrite) (s : State) : Out :=
  if s.mgmt.boot != .up then .next s
  else match w with
  | .queueDescriptor q d => if queueExists q then woke (setQueue s q { queueOf s q with desc := d }) else .next s
  | .contextRoot n a => woke (s.setCtx n { s.ctx n with root := a })
  | .contextPart n p => woke (s.setCtx n { s.ctx n with part := p })
  | .faultRing n a size => woke (s.setCtx n { s.ctx n with faultBase := a, faultSize := size, faultHead := 0 })
  | .overflowRing n size => woke (s.setCtx n { s.ctx n with overflowSize := size })
  | .peerLinks p l => if p < 16 then woke { s with peerLinks := s.peerLinks.set p l } else .next s
  | .fabric n l => if n < 64 then woke { s with selfDev := n, wires := l } else .next s
  | .clearLineError d line =>
    if d < Config.dies then woke (s.setDie d { s.die d with lost := (s.die d).lost.filter (· != line) }) else .next s
  | .linkMask m => woke (cutReductions { s with mgmt := { s.mgmt with linkMask := s.mgmt.linkMask &&& m } })
  | .powerCeiling x => woke (lockedWrite s (fun g => { g with ceiling := min x Config.powerMax }))
  | .dmaWindow i base len r wr =>
    if i < 16 then woke (lockedWrite s (fun g => { g with windows := g.windows.set i ⟨base, len, r, wr⟩ })) else .next s
  | .perfSelect core i ev =>
    if core < Config.dies * Config.coresPerDie && i < 8 then
      let c := s.core core
      woke (s.setCore core { c with perf := c.perf.set i (ev, (c.perf.get i (0, 0)).2) })
    else .next s

/-! ### Invalidation (R310) -/

/-- A TLB entry overlaps a range of a context. -/
def TlbEntry.meets (ctx lo hi : Nat) (e : TlbEntry) : Bool :=
  e.ctx == ctx && overlap (e.page * 2 ^ e.bits) ((e.page + 1) * 2 ^ e.bits) lo hi

/-- An access of a context in flight overlaps a range. -/
def inRangeAccess (lo hi : Nat) (a : Access) : Bool := overlap a.addr (a.addr + a.size) lo hi

/-- Performs the accesses of a cord in flight, in their order, up to the last in some whole pages (R310 step 3). -/
def drainCord (ref : CordRef) (lo hi : Nat) : Nat → State → State
  | 0, s => s
  | fuel + 1, s => match s.cord? ref with
    | none => s
    | some c => match c.gathers.findIdx? (inRangeAccess lo hi) with
      | none => s
      | some _ => drainCord ref lo hi fuel (accessEvent ref 0 (fun _ => true) s)

/-- Every resident cord of a context. -/
def ctxCords (s : State) (ctx : Nat) : List CordRef :=
  s.cores.entries.flatMap (fun c => c.2.blocks.entries.flatMap (fun b =>
    if b.2.ctx == ctx then b.2.cords.keys.map (fun i => ⟨c.1, b.1, i⟩) else []))

/-- Writes back the lines of the local-memory path in a range, whose stores used the old mapping (R260, R310). -/
def drainLines (s : State) (core ctx lo hi : Nat) : State :=
  let hit (l : LocalLine) : Bool := l.ctx == ctx && overlap (l.addr * 64) (l.addr * 64 + 64) lo hi
  let s := ((s.core core).lines.filter hit).foldl (fun s l => writeLine s core l) s
  let c := s.core core
  s.setCore core { c with lines := c.lines.filter (fun l => !hit l) }

/-- R310: firmware invalidates the translations of a context from `lo` up to `hi`. Accesses already translated are performed; the
handshake is one step, in which no access waits. -/
def execTlbInvalidate (ctx lo hi : Nat) (s : State) : Out :=
  if s.mgmt.boot != .up then .next s else
  let page := 2 ^ levelBits 0
  let s := (ctxCords s ctx).foldl (fun s r => drainCord r (lo / page * page) (ceilTo hi page) Config.gatherLimit s) s
  let s := s.cores.keys.foldl (fun s c => drainLines s c ctx lo hi) s
  let keep (l : List TlbEntry) : List TlbEntry := l.filter (fun e => !e.meets ctx lo hi)
  woke { s with
    cores := s.cores.map (fun _ c => { c with etlb := keep c.etlb, gtlb := keep c.gtlb })
    dies := s.dies.map (fun _ d => { d with tlb := keep d.tlb }) }

end Sys2Proof.Machine
end

