-- ==== Sys2Proof/Machine/LaneAlu.lean ====
section
/-!
DEFINITION. The integer, logic, packed, compare, predicate and address instructions of the lane set (06_lane_ops.md R108
to R118, R130). Each computes per active lane, or once with the uniform assertion (R60, R105).
-/

namespace Sys2Proof.Machine

/-! ### The operations on words, shared with the uniform set (R136) -/

/-- Sum or difference of two values of a type, wrapped or clamped (R108). -/
def addSub (ty : Ty) (sat sub : Bool) (x y : Nat) : Nat :=
  satInt ty sat (if sub then bitsInt ty x - bitsInt ty y else bitsInt ty x + bitsInt ty y)

/-- `imul` (R108). -/
def wMul (x y : Word) : Word := x * y
/-- `imulhs` (R108). -/
def wMulHs (x y : Word) : Word := BitVec.ofInt 32 (x.toInt * y.toInt / 2 ^ 32)
/-- `imulhn` (R108). -/
def wMulHn (x y : Word) : Word := BitVec.ofNat 32 (x.toNat * y.toNat / 2 ^ 32)
/-- `imad` (R108): exact before wrap or clamp. -/
def wMad (ty : Ty) (sat : Bool) (x y z : Word) : Word :=
  let t := orInt32 ty
  BitVec.ofNat 32 (satInt t sat (bitsInt t x.toNat * bitsInt t y.toNat + bitsInt t z.toNat))
def wMins (x y : Word) : Word := if x.toInt ≤ y.toInt then x else y
def wMaxs (x y : Word) : Word := if x.toInt ≤ y.toInt then y else x
def wMinn (x y : Word) : Word := if x.toNat ≤ y.toNat then x else y
def wMaxn (x y : Word) : Word := if x.toNat ≤ y.toNat then y else x
/-- `iabs` (R108). -/
def wAbs (sat : Bool) (x : Word) : Word := BitVec.ofNat 32 (satInt .s32 sat (x.toInt.natAbs : Int))
/-- `ineg` (R108). -/
def wNeg (sat : Bool) (x : Word) : Word := BitVec.ofNat 32 (satInt .s32 sat (-x.toInt))

/-- Register shifts take bits [7:0] of the amount (R109). -/
def wShl (x : Word) (n : Nat) : Word := if 32 ≤ n then 0 else x <<< n
def wShrl (x : Word) (n : Nat) : Word := if 32 ≤ n then 0 else x >>> n
def wShra (x : Word) (n : Nat) : Word := x.sshiftRight (min n 31)
def shiftOf (y : Word) : Nat := field y.toNat 0 8

/-- Number of ones (R109). -/
def wPopc (x : Word) : Word := BitVec.ofNat 32 (bitsFrom x.toNat 0 32).length
/-- Number of leading zeros (R109). -/
def wClz (x : Word) : Word := if x = 0 then 32 else BitVec.ofNat 32 (31 - x.toNat.log2)
/-- Bits reversed (R109). -/
def wBrev (x : Word) : Word := x.reverse

/-- `bfx` (R110). -/
def wBfx (sx : Bool) (pos width : Nat) (x : Word) : Word :=
  let f := field x.toNat pos width
  if sx then BitVec.ofInt 32 (sxInt f width) else BitVec.ofNat 32 f
/-- `bfi` (R110). -/
def wBfi (pos width : Nat) (d x : Word) : Word :=
  let mask : Word := BitVec.ofNat 32 ((2 ^ width - 1) * 2 ^ pos)
  (d &&& ~~~mask) ||| ((x <<< pos) &&& mask)

/-- Applies an operation to both 16-bit elements (R111). -/
def each16 (f : Nat → Nat → Nat) (x y : Word) : Word := pack2 (f (elem x 16 0) (elem y 16 0)) (f (elem x 16 1) (elem y 16 1))
/-- `vadd2`, `vsub2` on an element (R111). -/
def addSub16 (ty : Ty) (sat sub : Bool) (x y : Nat) : Nat := addSub (if ty == .none then .n16 else ty) sat sub x y
def min16 (ty : Ty) (x y : Nat) : Nat := if bitsInt ty x ≤ bitsInt ty y then x else y
def max16 (ty : Ty) (x y : Nat) : Nat := if bitsInt ty x ≤ bitsInt ty y then y else x

/-- One add-compare-select (R112): the survivor and the decision. -/
def acs (ty : Ty) (x y : Nat) : Nat × Bool := if bitsInt ty y < bitsInt ty x then (y, true) else (x, false)

/-- `perm` (R130). -/
def wPerm (a b c : Word) : Word :=
  let bytes := natLe 4 a.toNat ++ natLe 4 b.toNat
  BitVec.ofNat 32 (leNat ((List.range 4).map (fun i =>
    let s := field c.toNat (4 * i) 4
    let x := bytes.getD (s % 8) 0
    if bit s 3 then (if x.getLsbD 7 then 0xFF else 0) else x)))

/-! ### Shapes of lane instructions -/

/-- Writes one register computed from the source lane. -/
def lane1 (i : Instr) (g : Guard) (u : Bool) (d : Reg) (f : Nat → Lane → Word) (s : State) : Out :=
  laneOp i g u (fun bud a l => l.setV bud d.toNat (f bud a)) s

/-- One source register. -/
def laneA (i : Instr) (o : O2) (f : Word → Word) (s : State) : Out :=
  lane1 i o.gd o.u o.d (fun bud a => f (a.v bud o.a.toNat)) s

/-- Two source registers. -/
def laneAB (i : Instr) (o : O3) (f : Word → Word → Word) (s : State) : Out :=
  lane1 i o.gd o.u o.d (fun bud a => f (a.v bud o.a.toNat) (a.v bud o.b.toNat)) s

/-- One source register and an immediate. -/
def laneAI (i : Instr) (o : OI2) (f : Word → Word → Word) (s : State) : Out :=
  lane1 i o.gd o.u o.d (fun bud a => f (a.v bud o.a.toNat) o.imm) s

/-- One source register and a shift amount. -/
def laneSh (i : Instr) (o : OSh) (f : Word → Nat → Word) (s : State) : Out :=
  lane1 i o.gd o.u o.d (fun bud a => f (a.v bud o.a.toNat) o.amt.toNat) s

/-- The words of a 64-bit value, the low one first (R47). -/
def words64 (x : Nat) : List Word := [BitVec.ofNat 32 x, BitVec.ofNat 32 (x / 2 ^ 32)]

/-- `iadd` and `isub` (R108). -/
def laneAddSub (i : Instr) (o : O3T) (sub : Bool) (s : State) : Out :=
  if o.ty.is64 then
    laneOp i o.gd o.u (fun bud a l => l.setVs bud o.d.toNat
      (words64 (addSub o.ty o.sat sub (a.v64 bud o.a.toNat).toNat (a.v64 bud o.b.toNat).toNat))) s
  else lane1 i o.gd o.u o.d (fun bud a =>
    BitVec.ofNat 32 (addSub (orInt32 o.ty) o.sat sub (a.v bud o.a.toNat).toNat (a.v bud o.b.toNat).toNat)) s

/-! ### Meanings -/

/-- R108. -/
def execNop (o : ONop) (s : State) : Out := laneOp (.nop o) o.gd o.u (fun _ _ l => l) s
def execMov (o : O2) (s : State) : Out := laneA (.mov o) o (fun x => x) s
def execMovi (o : OI1) (s : State) : Out := lane1 (.movi o) o.gd o.u o.d (fun _ _ => o.imm) s
def execIadd (o : O3T) (s : State) : Out := laneAddSub (.iadd o) o false s
def execIsub (o : O3T) (s : State) : Out := laneAddSub (.isub o) o true s
def execIaddi (o : OI2) (s : State) : Out := laneAI (.iaddi o) o (· + ·) s
def execImul (o : O3) (s : State) : Out := laneAB (.imul o) o wMul s
def execImulhs (o : O3) (s : State) : Out := laneAB (.imulhs o) o wMulHs s
def execImulhn (o : O3) (s : State) : Out := laneAB (.imulhn o) o wMulHn s
def execImad (o : O4T) (s : State) : Out :=
  lane1 (.imad o) o.gd o.u o.d (fun bud a => wMad o.ty o.sat (a.v bud o.a.toNat) (a.v bud o.b.toNat) (a.v bud o.c.toNat)) s
def execImins (o : O3) (s : State) : Out := laneAB (.imins o) o wMins s
def execIminn (o : O3) (s : State) : Out := laneAB (.iminn o) o wMinn s
def execImaxs (o : O3) (s : State) : Out := laneAB (.imaxs o) o wMaxs s
def execImaxn (o : O3) (s : State) : Out := laneAB (.imaxn o) o wMaxn s
def execIabs (o : O2T) (s : State) : Out := lane1 (.iabs o) o.gd o.u o.d (fun bud a => wAbs o.sat (a.v bud o.a.toNat)) s
def execIneg (o : O2T) (s : State) : Out := lane1 (.ineg o) o.gd o.u o.d (fun bud a => wNeg o.sat (a.v bud o.a.toNat)) s

/-- R109. -/
def execAnd (o : O3) (s : State) : Out := laneAB (.and o) o (· &&& ·) s
def execOr (o : O3) (s : State) : Out := laneAB (.or o) o (· ||| ·) s
def execXor (o : O3) (s : State) : Out := laneAB (.xor o) o (· ^^^ ·) s
def execAndn (o : O3) (s : State) : Out := laneAB (.andn o) o (fun x y => x &&& ~~~y) s
def execAndi (o : OI2) (s : State) : Out := laneAI (.andi o) o (· &&& ·) s
def execOri (o : OI2) (s : State) : Out := laneAI (.ori o) o (· ||| ·) s
def execXori (o : OI2) (s : State) : Out := laneAI (.xori o) o (· ^^^ ·) s
def execShl (o : O3) (s : State) : Out := laneAB (.shl o) o (fun x y => wShl x (shiftOf y)) s
def execShrl (o : O3) (s : State) : Out := laneAB (.shrl o) o (fun x y => wShrl x (shiftOf y)) s
def execShra (o : O3) (s : State) : Out := laneAB (.shra o) o (fun x y => wShra x (shiftOf y)) s
def execShli (o : OSh) (s : State) : Out := laneSh (.shli o) o wShl s
def execShrli (o : OSh) (s : State) : Out := laneSh (.shrli o) o wShrl s
def execShrai (o : OSh) (s : State) : Out := laneSh (.shrai o) o wShra s
def execBfx (o : OBf) (s : State) : Out :=
  lane1 (.bfx o) o.gd o.u o.d (fun bud a => wBfx o.sx o.pos.toNat (o.wm1.toNat + 1) (a.v bud o.a.toNat)) s
/-- R110: the bits of d outside the field are those of each lane's own d (log entry 9, DEDUCED). -/
def execBfi (o : OBf) (s : State) : Out :=
  laneOp (.bfi o) o.gd o.u (fun bud a l => l.setV bud o.d.toNat
    (wBfi o.pos.toNat (o.wm1.toNat + 1) (l.v bud o.d.toNat) (a.v bud o.a.toNat))) s
def execPopc (o : O2) (s : State) : Out := laneA (.popc o) o wPopc s
def execClz (o : O2) (s : State) : Out := laneA (.clz o) o wClz s
def execBrev (o : O2) (s : State) : Out := laneA (.brev o) o wBrev s

/-- The guard that is always true. -/
def always : Guard := ⟨7, false⟩

/-- R116: every lane of the executing set writes; the guard field is the selector. -/
def execSel (o : OSel) (s : State) : Out :=
  lane1 (.sel o) always o.u o.d (fun bud a => if a.guard o.sel then a.v bud o.a.toNat else a.v bud o.b.toNat) s
/-- R117. -/
def execLea (o : OLea) (s : State) : Out :=
  laneOp (.lea o) o.gd o.u (fun bud a l =>
    let idx := a.v bud o.b.toNat
    let x : DWord := (if o.sx then idx.signExtend 64 else idx.setWidth 64) <<< o.shift.toNat
    l.setVs bud o.d.toNat (words64 (a.v64 bud o.a.toNat + x).toNat)) s

/-- R111. -/
def laneEach16 (i : Instr) (o : O3) (f : Nat → Nat → Nat) (s : State) : Out := laneAB i o (each16 f) s
def execVadd2 (o : O3T) (s : State) : Out :=
  lane1 (.vadd2 o) o.gd o.u o.d (fun bud a => each16 (addSub16 o.ty o.sat false) (a.v bud o.a.toNat) (a.v bud o.b.toNat)) s
def execVsub2 (o : O3T) (s : State) : Out :=
  lane1 (.vsub2 o) o.gd o.u o.d (fun bud a => each16 (addSub16 o.ty o.sat true) (a.v bud o.a.toNat) (a.v bud o.b.toNat)) s
def execVmax2s (o : O3) (s : State) : Out := laneEach16 (.vmax2s o) o (max16 .s16) s
def execVmax2n (o : O3) (s : State) : Out := laneEach16 (.vmax2n o) o (max16 .n16) s
def execVmin2s (o : O3) (s : State) : Out := laneEach16 (.vmin2s o) o (min16 .s16) s
def execVmin2n (o : O3) (s : State) : Out := laneEach16 (.vmin2n o) o (min16 .n16) s
/-- R112. -/
def execVacs2 (o : OAcs) (s : State) : Out :=
  laneOp (.vacs2 o) o.gd o.u (fun bud a l =>
    let va := a.v bud o.a.toNat
    let vb := a.v bud o.b.toNat
    let vc := a.v bud o.c.toNat
    let step (i : Nat) : Nat × Bool := acs o.ty (addSub o.ty true false (elem va 16 i) (elem vb 16 i))
      (addSub o.ty true false (elem va 16 (1 - i)) (elem vc 16 i))
    ((l.setV bud o.d.toNat (pack2 (step 0).1 (step 1).1)).setP o.pd.toNat (step 0).2).setP (o.pd.toNat + 1) (step 1).2) s

/-- R113. -/
def execIcmp (o : OCmp) (s : State) : Out :=
  laneOp (.icmp o) o.gd o.u (fun bud a l => l.setP o.pd.toNat
    (if o.ty.is64 then cmpInt o.ty o.cond (a.v64 bud o.a.toNat).toNat (a.v64 bud o.b.toNat).toNat
     else cmpInt o.ty o.cond (a.v bud o.a.toNat).toNat (a.v bud o.b.toNat).toNat)) s
/-- R114. -/
def execPlog (o : OPlog) (s : State) : Out :=
  laneOp (.plog o) o.gd o.u (fun _ a l => l.setP o.pd.toNat (logPred o.op (a.pred o.pa.toNat) (a.pred o.pb.toNat))) s
/-- R115: bit 7 reads 1. -/
def execPmovTov (o : OPmov) (s : State) : Out :=
  lane1 (.pmovTov o) o.gd o.u o.r (fun _ a => ((1 : BitVec 1) ++ a.p).setWidth 32) s
/-- R115. -/
def execPmovFrv (o : OPmov) (s : State) : Out :=
  laneOp (.pmovFrv o) o.gd o.u (fun bud a l => { l with p := (a.v bud o.r.toNat).setWidth 7 }) s

/-- R118. -/
def execRng (o : O1) (s : State) : Out :=
  laneOp (.rng o) o.gd false (fun bud _ l =>
    let (g, r) := draw l.rng
    { l with rng := g }.setV bud o.d.toNat r) s

/-- R130. -/
def execPerm (o : O4) (s : State) : Out :=
  lane1 (.perm o) o.gd o.u o.d (fun bud a => wPerm (a.v bud o.a.toNat) (a.v bud o.b.toNat) (a.v bud o.c.toNat)) s

end Sys2Proof.Machine
end

