-- ==== Sys2Proof/Machine/LaneFloat.lean ====
section
/-!
DEFINITION. The floating-point, conversion and cross-lane instructions of the lane set (06_lane_ops.md R120 to R135).
-/

namespace Sys2Proof.Machine

/-! ### Shapes -/

/-- A rounded operation that writes one register: `f` takes the operand lane and the draws (R56, R120). -/
def laneRound (i : Instr) (g : Guard) (u : Bool) (d : Reg) (rnd : Rnd) (n : Nat)
    (f : Nat → Lane → Lane → List Word → Word × Flags) (s : State) : Out :=
  laneFlagOp i g u (fun bud a l =>
    let (l, r) := lookDraws rnd n l
    let (x, fl) := f bud a l r
    (l.setV bud d.toNat x, fl)) s

/-- A binary FP32 operation. -/
def laneF3 (i : Instr) (o : OF3) (f : Fmt → Rnd → Word → Bool → Nat → Nat → Nat × Flags) (s : State) : Out :=
  laneRound i o.gd o.u o.d o.rnd 1 (fun bud a _ r =>
    let (x, fl) := f .f32 o.rnd (r.headD 0) o.sat (a.v bud o.a.toNat).toNat (a.v bud o.b.toNat).toNat
    (BitVec.ofNat 32 x, fl)) s

/-- An operation on two elements of a half-width format (R123). -/
def laneHalf (i : Instr) (g : Guard) (u : Bool) (d : Reg) (rnd : Rnd) (f : Nat → Lane → Nat → Word → Nat × Flags)
    (s : State) : Out :=
  laneRound i g u d rnd 2 (fun bud a _ r =>
    let x := f bud a 0 (r.getD 0 0)
    let y := f bud a 1 (r.getD 1 0)
    (pack2 x.1 y.1, x.2 ||| y.2)) s

/-- A function that approximates: its result and flags come at completion (R61, R124). -/
def laneApprox (i : Instr) (o : OFn) (fn : ApproxFn) (s : State) : Out :=
  issue i (fun h s =>
    let act := h.active o.gd
    let bud := h.cord.vbud
    let src (k : Nat) : Lane := h.cord.lane (if o.u then act.headD k else k)
    let one (k : Nat) : Lane × List Owed :=
      let (l, r) := lookDraws o.rnd 1 (h.cord.lane k)
      let (x, fl) := approx fn o.rnd (r.headD 0) ((src k).v bud o.a.toNat).toNat
      (l, [.v k (place bud l.frame.vb o.d.toNat) (BitVec.ofNat 32 x), .fpf fl])
    let c := h.cord.onLanes act (fun k _ => (one k).1)
    .did { s := s.setCord h.ref c
           fl := [{ left := look h.cord o.la, uses := uses i, owed := act.flatMap (fun k => (one k).2) }] }) s

/-! ### Floating-point arithmetic -/

/-- R120. -/
def execFadd (o : OF3) (s : State) : Out := laneF3 (.fadd o) o fpAdd s
def execFsub (o : OF3) (s : State) : Out := laneF3 (.fsub o) o fpSub s
def execFmul (o : OF3) (s : State) : Out := laneF3 (.fmul o) o fpMul s
def execFfma (o : OF4) (s : State) : Out :=
  laneRound (.ffma o) o.gd o.u o.d o.rnd 1 (fun bud a _ r =>
    let (x, fl) := fpFma .f32 o.rnd (r.headD 0) o.sat (a.v bud o.a.toNat).toNat (a.v bud o.b.toNat).toNat
      (a.v bud o.c.toNat).toNat
    (BitVec.ofNat 32 x, fl)) s
/-- R121. -/
def laneFBits (i : Instr) (g : Guard) (u : Bool) (d a b : Reg) (f : Nat → Nat → Nat) (s : State) : Out :=
  lane1 i g u d (fun bud l => BitVec.ofNat 32 (f (l.v bud a.toNat).toNat (l.v bud b.toNat).toNat)) s
def execFmin (o : OF3) (s : State) : Out := laneFBits (.fmin o) o.gd o.u o.d o.a o.b (fpMinMax .f32 false) s
def execFmax (o : OF3) (s : State) : Out := laneFBits (.fmax o) o.gd o.u o.d o.a o.b (fpMinMax .f32 true) s
def execFabs (o : OF2) (s : State) : Out := laneFBits (.fabs o) o.gd o.u o.d o.a 0 (fun x _ => fpSign .f32 false x) s
def execFneg (o : OF2) (s : State) : Out := laneFBits (.fneg o) o.gd o.u o.d o.a 0 (fun x _ => fpSign .f32 true x) s
/-- R122. -/
def execFcmp (o : OCmp) (s : State) : Out :=
  laneOp (.fcmp o) o.gd o.u (fun bud a l => l.setP o.pd.toNat
    (cmpFp .f32 o.cond (a.v bud o.a.toNat).toNat (a.v bud o.b.toNat).toNat)) s

/-- R124, R125. -/
def execFrcp (o : OFn) (s : State) : Out := laneApprox (.frcp o) o .rcp s
def execFrsq (o : OFn) (s : State) : Out := laneApprox (.frsq o) o .rsq s
def execFsqrt (o : OFn) (s : State) : Out := laneApprox (.fsqrt o) o .sqrt s
def execFexp2 (o : OFn) (s : State) : Out := laneApprox (.fexp2 o) o .exp2 s
def execFlog2 (o : OFn) (s : State) : Out := laneApprox (.flog2 o) o .log2 s

/-- R123. -/
def execHfma2 (o : OF4) (s : State) : Out :=
  laneHalf (.hfma2 o) o.gd o.u o.d o.rnd (fun bud l i r =>
    fpFma (Fmt.ofTy o.ty) o.rnd r o.sat (elem (l.v bud o.a.toNat) 16 i) (elem (l.v bud o.b.toNat) 16 i)
      (elem (l.v bud o.c.toNat) 16 i)) s
def execHadd2 (o : OHadd) (s : State) : Out :=
  laneHalf (.hadd2 o) o.gd o.u o.d o.rnd (fun bud l i r =>
    fpAdd (Fmt.ofTy o.ty) o.rnd r o.sat (elem (l.v bud o.a.toNat) 16 i) (elem (l.v bud o.b.toNat) 16 i)) s

/-! ### Conversion and classification -/

/-- R126: a narrow destination keeps the other bits of each lane's d. -/
def execCvt (o : OCvt) (s : State) : Out :=
  laneFlagOp (.cvt o) o.gd o.u (fun bud a l =>
    let (l, r) := lookDraws o.rnd 1 l
    let x := if o.t2.is64 then (a.v64 bud o.a.toNat).toNat else elem (a.v bud o.a.toNat) o.t2.width 0
    let (y, fl) := convert o.t1 o.t2 o.rnd (r.headD 0) o.sat x
    let l := if o.t1.is64 then l.setVs bud o.d.toNat (words64 y)
      else l.setV bud o.d.toNat (setElem (l.v bud o.d.toNat) o.t1.width o.el.toNat y)
    (l, fl)) s

/-- R127. -/
def execPk4 (o : OPk) (s : State) : Out :=
  laneFlagOp (.pk4 o) o.gd o.u (fun bud a l =>
    let (l, r) := lookDraws o.rnd 2 l
    let cv (x r : Word) : Nat × Flags :=
      if o.ty == .q4 then q4Round (elem (a.v bud o.c.toNat) 8 0) o.rnd r (Fmt.f32.decode x.toNat)
      else convert o.ty .f32 o.rnd r o.sat x.toNat
    let p := cv (a.v bud o.a.toNat) (r.getD 0 0)
    let q := cv (a.v bud o.b.toNat) (r.getD 1 0)
    let w := o.ty.width
    let d := setElem (setElem (l.v bud o.d.toNat) w (2 * o.j.toNat) p.1) w (2 * o.j.toNat + 1) q.1
    (l.setV bud o.d.toNat d, p.2 ||| q.2)) s

/-- R128: the exact value of an element in FP32, or the extended integer. -/
def widen (t2 : Ty) (scale x : Nat) : Word :=
  if t2 == .q4 then BitVec.ofNat 32 (roundNum .f32 .rn 0 false false (q4Decode scale x)).1
  else if isFloat t2 then BitVec.ofNat 32 (roundNum .f32 .rn 0 false false ((Fmt.ofTy t2).decode x)).1
  else BitVec.ofInt 32 (bitsInt t2 x)
def execUpk (o : OUpk) (s : State) : Out :=
  lane1 (.upk o) o.gd o.u o.d (fun bud a =>
    widen o.t2 (elem (a.v bud o.b.toNat) 8 0) (elem (a.v bud o.a.toNat) o.t2.width o.el.toNat)) s

/-- R129. -/
def execFpclass (o : OCls) (s : State) : Out :=
  lane1 (.fpclass o) o.gd o.u o.d (fun bud a =>
    (1 : Word) <<< classOf (Fmt.ofTy o.ty) (elem (a.v bud o.a.toNat) o.ty.width 0)) s

/-! ### Cross-lane instructions -/

/-- Writes one register of every lane of the contributing set (R131). -/
def crossLane (i : Instr) (g : Guard) (f : Here → List Nat → Nat → Lane → Lane) (s : State) : Out :=
  issue i (fun h s => .did { s := s.setCord h.ref (h.cord.onLanes (h.active g) (f h (h.active g))) }) s

/-- The source lane of `shfl`, if it lies in 0 to 31 (R132). -/
def shflSrc (mode : ShflMode) (k m : Nat) : Option Nat :=
  match mode with
  | .idx => some m
  | .up => if m ≤ k then some (k - m) else none
  | .down => if k + m ≤ 31 then some (k + m) else none
  | .xor => some (Nat.xor k m)

/-- R132. -/
def execShfl (o : OShfl) (s : State) : Out :=
  crossLane (.shfl o) o.gd (fun h act k l =>
    let src := (shflSrc o.mode k (field (h.v k o.b).toNat 0 5)).filter (fun j => act.contains j)
    l.setV h.cord.vbud o.d.toNat (h.v (src.getD k) o.a)) s

/-- R133. -/
def execVote (o : OVote) (s : State) : Out :=
  crossLane (.vote o) o.gd (fun h act _ l =>
    let p (j : Nat) : Bool := (h.cord.lane j).pred (o.a.toNat % 8)
    match o.mode with
    | .any => l.setP (o.d.toNat % 8) (act.any p)
    | .all => l.setP (o.d.toNat % 8) (act.all p)
    | .ballot => l.setV h.cord.vbud o.d.toNat (BitVec.ofNat 32 (maskOf (act.filter p)))
    | .eq => l.setP (o.d.toNat % 8) (act.all (fun j => h.v j o.a == h.v (act.headD 0) o.a))) s

/-- One combination of `lred` or `lscan` (R134). -/
def combine (op : RedOp) (ty : Ty) (rnd : Rnd) (x y : Word) : Word × Flags :=
  if ty == .f32 then
    match op with
    | .min => (BitVec.ofNat 32 (fpMinMax .f32 false x.toNat y.toNat), 0)
    | .max => (BitVec.ofNat 32 (fpMinMax .f32 true x.toNat y.toNat), 0)
    | _ =>
      let (z, fl) := fpAdd .f32 rnd 0 false x.toNat y.toNat
      (BitVec.ofNat 32 z, fl)
  else
    match op with
    | .add => (x + y, 0)
    | .min => (if ty.isSigned then wMins x y else wMinn x y, 0)
    | .max => (if ty.isSigned then wMaxs x y else wMaxn x y, 0)
    | .and => (x &&& y, 0)
    | .or => (x ||| y, 0)
    | .xor => (x ^^^ y, 0)

/-- A result that no combination has made, as it is written (R43). -/
def canonTy (ty : Ty) (x : Word) : Word := if ty == .f32 then canon32 x else x

/-- One level of the tree over adjacent positions (R134). -/
def treeLevel (f : Word → Word → Word × Flags) : List (Option Word) → List (Option Word) × Flags
  | a :: b :: r =>
    let (t, fl) := treeLevel f r
    match a, b with
    | some x, some y => let (z, g) := f x y; (some z :: t, fl ||| g)
    | some x, none => (some x :: t, fl)
    | none, y => (y :: t, fl)
  | l => (l, 0)

/-- The pairwise tree over 2^n positions (R134). -/
def treeReduce (f : Word → Word → Word × Flags) : Nat → List (Option Word) → Option Word × Flags
  | 0, l => (l.headD none, 0)
  | n + 1, l =>
    let (t, fl) := treeLevel f l
    let (x, g) := treeReduce f n t
    (x, fl ||| g)

/-- R134. -/
def execLred (o : ORed) (s : State) : Out :=
  issue (.lred o) (fun h s =>
    let act := h.active o.gd
    let xs := (List.range 32).map (fun k => if act.contains k then some (h.v k o.a) else none)
    let (x, fl) := treeReduce (combine o.op o.ty o.rnd) 5 xs
    let c := h.cord.onLanes act (fun _ l => l.setV h.cord.vbud o.d.toNat (canonTy o.ty (x.getD 0)))
    .did { s := s.setCord h.ref { c with fpf := c.fpf ||| fl } }) s

/-- The running results of a scan in lane order, and its flags (R135). -/
def scanFrom (f : Word → Word → Word × Flags) (acc : Word) : List (Nat × Word) → List (Nat × Word) × Flags
  | [] => ([], 0)
  | (k, x) :: r =>
    let (y, fl) := f acc x
    let (t, g) := scanFrom f y r
    ((k, y) :: t, fl ||| g)

/-- R135. -/
def execLscan (o : ORed) (s : State) : Out :=
  issue (.lscan o) (fun h s =>
    match (h.active o.gd).map (fun k => (k, h.v k o.a)) with
    | [] => .did { s := s }
    | (k, x) :: r =>
      let (t, fl) := scanFrom (combine o.op o.ty o.rnd) x r
      let c := ((k, canonTy o.ty x) :: t).foldl (fun c e => c.setLane e.1 ((c.lane e.1).setV h.cord.vbud o.d.toNat e.2)) h.cord
      .did { s := s.setCord h.ref { c with fpf := c.fpf ||| fl } }) s

end Sys2Proof.Machine
end

