-- ==== Sys2Proof/Machine/Outside.lean ====
section
/-!
DEFINITION. The outside world: the power alarm, sensors and scrubbing (08_contraction.md R191; 11_memories.md R265; 17_outside.md R340),
the mesh and the links (R265, R337, R338), the host port and the peers (R334 to R336; 12_ordering.md R277).
-/

namespace Sys2Proof.Machine

/-! ### Power and sensors (R191, R340) -/

/-- R191, R340: the measured power has passed 95 % of the ceiling, and every core is in narrowed mode. -/
def execPowerAlarm (s : State) : Out :=
  if 100 * s.mgmt.power ≤ 95 * s.mgmt.ceiling then .next s else woke { s with mgmt := { s.mgmt with alarm := true } }

/-- R340: the measured power has fallen below 90 %. -/
def execPowerAlarmClear (s : State) : Out :=
  if 90 * s.mgmt.ceiling ≤ 100 * s.mgmt.power then .next s else woke { s with mgmt := { s.mgmt with alarm := false } }

/-- R340: a temperature for each die, a current for each rail, and the power. -/
def execSensorSample (temps : List Nat) (p : PowerSample) (s : State) : Out :=
  woke { s with mgmt := { s.mgmt with temps := temps.take Config.dies, currents := p.currents, power := p.watts } }

/-! ### Scrubbing (R265) -/

/-- The corrected words of some stacks are written again, and counted; each word that the code cannot correct is logged (R340). -/
def scrub (s : State) (which : Nat → Bool) : State :=
  let hit (e : Nat × Bool) : Bool := e.2 && which (plinthOf (e.1 * 32))
  let counts := (s.hbmErr.filter hit).foldl (fun (t : Tab Word) e =>
    t.set (plinthOf (e.1 * 32)) (satInc (t.get (plinthOf (e.1 * 32)) 0))) s.corrected
  let s : State := { s with hbmErr := s.hbmErr.filter (fun e => !hit e), corrected := counts }
  (s.hbmErr.filter (fun e => !e.2 && which (plinthOf (e.1 * 32)))).foldl (fun s e =>
    logData s (hbmDie (e.1 * 32) * Config.coresPerDie) 0 0 (e.1 * 32 % 2 ^ 32) 0) s

/-- R265: the patrol scrub of a stack. -/
def execPatrolScrub (stack : Nat) (s : State) : Out := woke (scrub s (· == stack))

/-! ### The mesh and the links (R265, R337, R338) -/

/-- A transfer of an operation is damaged for good: a reduction fails (R317), any other operation suspends (R221). Its address is a free
value (log entry 2, DESIGN CHOICE). -/
def meshError (s : State) (core e : Nat) (o : OpEntry) : State :=
  let (x, s) := s.free
  let o := { o with cause := cDataErr, addr := x.toNat }
  if o.kind.engine = 1 then failUnit s core e o cDataErr x.toNat
  else
    let s := logData s core o.ctx o.blk (x.toNat % 2 ^ 32) o.token.toNat
    setOp s core e { o with state := .suspended, told := false, escalated := none }

/-- R265: a flit of a RUNNING operation fails its parity check, or gets through. After four tries more the operation has DATA_ERR
and the device rung resets the device. -/
def execMeshFlitRetry (core entry : Nat) (ok : Bool) (s : State) : Out :=
  match opAt s core entry with
  | none => .next s
  | some o =>
    let k := core * Config.opEntries + entry
    let n := s.flitRetries.get k 0 + 1
    if o.state != .running then .next s
    else if ok then woke { s with flitRetries := s.flitRetries.erase k }
    else if n ≤ 4 then woke { s with flitRetries := s.flitRetries.set k n }
    else
      let s := meshError { s with flitRetries := s.flitRetries.erase k } core entry o
      let s := logError s o.blk 0 o.token.toNat o.ctx core 4 cDataErr.toNat
      woke { s with agenda := s.agenda ++ [.event .deviceReset] }

/-- A link that the mask enables. -/
def linkUp (s : State) (link : Nat) : Bool := s.mgmt.linkMask.getLsbD link

/-- R337: a flit fails its CRC, or gets through. A flit that has failed and been replayed eight times leaves the link to retrain
(log entry 49, DEDUCED). -/
def execLinkFlitReplay (link : Nat) (ok : Bool) (s : State) : Out :=
  if !linkUp s link then .next s
  else
    let n := s.linkReplays.get link 0
    if 9 ≤ n then .next s
    else if ok then woke { s with linkReplays := s.linkReplays.erase link }
    else woke { s with linkReplays := s.linkReplays.set link (n + 1) }

/-- R337: a link retrains after its replays; one that fails leaves the mask, which is logged (R340), and reductions that use it
fail (R338). -/
def execLinkRetrain (link : Nat) (ok : Bool) (s : State) : Out :=
  if !linkUp s link || s.linkReplays.get link 0 < 9 then .next s
  else
    let s := { s with linkReplays := s.linkReplays.erase link }
    if ok then woke s
    else
      let m := s.mgmt.linkMask &&& ~~~(1#24 <<< link)
      woke (cutReductions (logError { s with mgmt := { s.mgmt with linkMask := m } } 0 link 0 0 0 7 0))

/-- R334: the host link trains to a width and a rate that the attachment supports. -/
def execCxlLinkTraining (width rate : Nat) (ide : Bool) (s : State) : Out :=
  if (width == 16 || width == 8 || width == 4) && (rate == 128 || rate == 64 || rate == 32) then
    woke { s with mgmt := { s.mgmt with cxlWidth := width, cxlRate := rate, cxlIde := ide } }
  else .next s

/-! ### Accesses from outside (R277, R335) -/

/-- What an access answers. -/
def setAnswer (s : State) (l : List Byte) : State := { s with mgmt := { s.mgmt with answer := l } }

/-- A read that meets a damaged word is not answered, and the error is logged (R340). -/
def outsideLost (s : State) (a : Nat) : State := setAnswer (logError s 0 (a % 2 ^ 32) 0 0 0 7 cDataErr.toNat) []

/-- What an access of an agent outside answers, and the state after it. Bytes beyond the device's memory, and damaged ones, are not
answered. Of itself it orders nothing: the releases of the host are its doorbells (R277; log entry 10, DESIGN CHOICE). -/
def outsideAccess (x : Agent) (s : State) : OutsideAccess → State
  | .read a n =>
    if Config.hbmBytes < a + n then setAnswer s []
    else if lineLost s a n then outsideLost s a
    else
      let s := (noteTarget s n (.hbm a)).saw ⟨x, true⟩ (.glob (.hbm a)) n true none
      setAnswer s (targetRead s n (.hbm a))
  | .write a l => if Config.hbmBytes < a + l.length then s else (targetWrite s l (.hbm a)).wrote x (.glob (.hbm a)) l.length .plain
  | .add a v =>
    if Config.hbmBytes < a + 4 then setAnswer s []
    else if lineLost s a 4 then outsideLost s a
    else
      let s := (noteTarget s 4 (.hbm a)).saw ⟨x, false⟩ (.glob (.hbm a)) 4 true none
      let old := targetRead s 4 (.hbm a)
      let s := (targetWrite s (natLe 4 (BitVec.ofNat 32 (leNat old) + v).toNat) (.hbm a)).wrote x (.glob (.hbm a)) 4 (.atomic none)
      setAnswer s old

/-- R335: a host access over CXL.mem is performed at the word's home. In recovery mode the port is closed (R342). -/
def execHostMemAccess (a : OutsideAccess) (s : State) : Out :=
  if s.mgmt.boot == .recovery then .next s else woke (outsideAccess .host s a)

/-- R277, R338: an access of a peer that an enabled link reaches. -/
def execPeerAccess (peer : Nat) (a : OutsideAccess) (s : State) : Out :=
  if s.mgmt.boot == .recovery || !peerUp s peer then .next s else woke (outsideAccess (.peer peer) s a)

end Sys2Proof.Machine
end

