-- ==== Sys2Proof/Machine/Signature.lean ====
section
/-!
DEFINITION. SLH-DSA-SHAKE-256s, which signs images and measurements (00_scope.md R1; 17_outside.md R342, R343). The spec names the
scheme and FIPS 205 and describes nothing of it: it is taken from that standard (log entry 15, PRESUMED). Security strings are of
32 bytes, the hypertree has 8 layers of 256 leaves, a one-time key has 67 chains of 16 links, and 22 trees of 2^14 leaves carry the
few-time key.
-/

namespace Sys2Proof.Machine.Slh

/-- A security string. -/
abbrev Str := List Byte

/-- A number in `n` bytes, the highest first. -/
def natBe (n x : Nat) : Str := (natLe n x).reverse

/-- The number that bytes give, the highest first. -/
def beNat (l : Str) : Nat := leNat l.reverse

/-- A place in the hypertree: a layer, a tree of the layer, and a leaf of the tree. -/
structure Leaf where
  layer : Nat
  tree : Nat
  leaf : Nat
  deriving DecidableEq, Repr

/-- The 32-byte address of a use: its type number, then three words that the type gives meaning to. -/
def Leaf.address (p : Leaf) (kind a b c : Nat) : Str :=
  natBe 4 p.layer ++ natBe 12 p.tree ++ natBe 4 kind ++ natBe 4 a ++ natBe 4 b ++ natBe 4 c

/-- The tweaked hash of an input under a public seed. -/
def hash (seed adr x : Str) : Str := shake 32 (seed ++ adr ++ x)

/-- Splits bytes into strings of 32. -/
def strings : Nat → Str → List Str
  | 0, _ => []
  | n + 1, l => l.take 32 :: strings n (l.drop 32)

/-! ### One-time keys -/

/-- The 67 chain positions of a message: its 64 half bytes, then 12 bits of checksum. -/
def digits (m : Str) : List Nat :=
  let ds := m.flatMap (fun b => [b.toNat / 16, b.toNat % 16])
  let sum := ds.foldl (fun z d => z + (15 - d)) 0
  ds ++ [sum / 256 % 16, sum / 16 % 16, sum % 16]

/-- Goes along chain `i` of a one-time key by `n` links, from link `j`. -/
def chain (seed : Str) (p : Leaf) (i : Nat) : Nat → Nat → Str → Str
  | 0, _, x => x
  | n + 1, j, x => chain seed p i n (j + 1) (hash seed (p.address 0 p.leaf i j) x)

/-- The one-time public key whose chain ends are given. -/
def chainsKey (seed : Str) (p : Leaf) (ends : List Str) : Str := hash seed (p.address 1 p.leaf 0 0) ends.flatten

/-- The one-time public key that a signature of a message leads to. -/
def keyOfChains (seed : Str) (p : Leaf) (sig : List Str) (m : Str) : Str :=
  chainsKey seed p ((sig.zip (digits m)).zipIdx.map (fun e => chain seed p e.2 (15 - e.1.2) e.1.2 e.1.1))

/-- The secret start of a chain. -/
def chainStart (seed secret : Str) (p : Leaf) (i : Nat) : Str := hash seed (p.address 5 p.leaf i 0) secret

/-- The one-time signature of a message. -/
def signChains (seed secret : Str) (p : Leaf) (m : Str) : List Str :=
  (digits m).zipIdx.map (fun e => chain seed p e.2 e.1 0 (chainStart seed secret p e.2))

/-- The one-time public key of a leaf. -/
def leafKey (seed secret : Str) (p : Leaf) : Str :=
  chainsKey seed p ((List.range 67).map (fun i => chain seed p i 15 0 (chainStart seed secret p i)))

/-! ### Trees of hashes -/

/-- Climbs a tree from node `i` of height `z`, with its siblings on the way: `adr` gives the address of a node by height and number. -/
def climb (seed : Str) (adr : Nat → Nat → Str) : Nat → Nat → Str → List Str → Str
  | _, _, x, [] => x
  | z, i, x, y :: ys =>
    climb seed adr (z + 1) (i / 2) (hash seed (adr (z + 1) (i / 2)) (if i % 2 = 0 then x ++ y else y ++ x)) ys

/-- Node `i` of height `z` over the leaves that `leaf` gives. -/
def node (seed : Str) (adr : Nat → Nat → Str) (leaf : Nat → Str) : Nat → Nat → Str
  | 0, i => leaf i
  | z + 1, i => hash seed (adr (z + 1) i) (node seed adr leaf z (2 * i) ++ node seed adr leaf z (2 * i + 1))

/-- The siblings that leaf `i` meets on its way up `n` levels. -/
def siblings (seed : Str) (adr : Nat → Nat → Str) (leaf : Nat → Str) (n i : Nat) : List Str :=
  (List.range n).map (fun z => node seed adr leaf z (i / 2 ^ z ^^^ 1))

/-- Addresses of the nodes of a tree of the hypertree. -/
def Leaf.treeNode (p : Leaf) (z i : Nat) : Str := p.address 2 0 z i

/-- Addresses of the nodes of the few-time trees below a leaf. -/
def Leaf.fewNode (p : Leaf) (z i : Nat) : Str := p.address 3 p.leaf z i

/-- The leaf of the next layer above a tree. -/
def Leaf.up (p : Leaf) : Leaf := { layer := p.layer + 1, tree := p.tree / 256, leaf := p.tree % 256 }

/-- The root that `n` layers of a signature lead to. -/
def hyperRoot (seed : Str) : Nat → Leaf → Str → List Str → Str
  | 0, _, m, _ => m
  | n + 1, p, m, sig =>
    let root := climb seed p.treeNode 0 p.leaf (keyOfChains seed p (sig.take 67) m) ((sig.drop 67).take 8)
    hyperRoot seed n p.up root (sig.drop 75)

/-- The signature of a message through `n` layers. -/
def hyperSign (seed secret : Str) : Nat → Leaf → Str → List Str
  | 0, _, _ => []
  | n + 1, p, m =>
    let key (i : Nat) : Str := leafKey seed secret { p with leaf := i }
    signChains seed secret p m ++ siblings seed p.treeNode key 8 p.leaf
      ++ hyperSign seed secret n p.up (node seed p.treeNode key 8 0)

/-! ### Few-time keys -/

/-- The leaf that a digest picks in each of the 22 few-time trees, numbered through all of them. -/
def picks (md : Str) : List Nat :=
  (List.range 22).map (fun i => i * 2 ^ 14 + beNat md / 2 ^ (312 - 14 * (i + 1)) % 2 ^ 14)

/-- The key of the few-time trees from their roots. -/
def fewKey (seed : Str) (p : Leaf) (roots : List Str) : Str := hash seed (p.address 4 p.leaf 0 0) roots.flatten

/-- The few-time public key that a signature of a digest leads to. -/
def keyOfFew (seed : Str) (p : Leaf) (sig : List Str) (md : Str) : Str :=
  fewKey seed p ((picks md).zipIdx.map (fun e =>
    let part := (sig.drop (15 * e.2)).take 15
    climb seed p.fewNode 0 e.1 (hash seed (p.fewNode 0 e.1) (part.headD [])) part.tail))

/-- The secret of a few-time leaf. -/
def fewSecret (seed secret : Str) (p : Leaf) (i : Nat) : Str := hash seed (p.address 6 p.leaf 0 i) secret

/-- The few-time signature of a digest. -/
def signFew (seed secret : Str) (p : Leaf) (md : Str) : List Str :=
  (picks md).flatMap (fun i =>
    fewSecret seed secret p i :: siblings seed p.fewNode (fun j => hash seed (p.fewNode 0 j) (fewSecret seed secret p j)) 14 i)

/-! ### Signatures -/

/-- What a signature of a message is about: the digest for the few-time trees, and the leaf they hang from. -/
def target (r seed root m : Str) : Str × Leaf :=
  let d := shake 47 (r ++ seed ++ root ++ m)
  (d.take 39, { layer := 0, tree := beNat ((d.drop 39).take 7) % 2 ^ 56, leaf := beNat (d.drop 46) % 256 })

/-- A message as it is signed, with an empty context. -/
def framed (m : Str) : Str := [0, 0] ++ m

/-- A signature is good for a message under a public key: the seed and the root. -/
def verify (key m sig : Str) : Bool :=
  let seed := key.take 32
  let root := (key.drop 32).take 32
  let parts := strings 931 sig
  let (md, p) := target (parts.headD []) seed root (framed m)
  key.length == 64 && sig.length == 29792 &&
    hyperRoot seed 8 p (keyOfFew seed p (parts.tail.take 330) md) (parts.drop 331) == root

/-- The signature of a message under a private key (secret seed, secret of the randomiser, public seed and root) with added
randomness of 32 bytes. -/
def sign (key rnd m : Str) : Str :=
  let secret := key.take 32
  let seed := (key.drop 64).take 32
  let root := (key.drop 96).take 32
  let r := shake 32 ((key.drop 32).take 32 ++ rnd ++ framed m)
  let (md, p) := target r seed root (framed m)
  let few := signFew seed secret p md
  r ++ few.flatten ++ (hyperSign seed secret 8 p (keyOfFew seed p few md)).flatten

end Sys2Proof.Machine.Slh
end

