-- ==== Sys2Proof/Machine/Manage.lean ====
section
/-!
DEFINITION. Partitions, reset and boot, updates, measurements and the counters that the host reads (17_outside.md R339 to R343;
16_faults.md R326; 15_counters.md R311, R316).
-/

namespace Sys2Proof.Machine

/-! ### Partition reset (R326, R339) -/

/-- The cores of a partition's clusters (R5). -/
def partCores (p : Partition) : List Nat := p.clusters.flatMap (fun cl => (List.range 8).map (8 * cl + ·))

/-- A launch has a block on one of these cores. -/
def launchOn (s : State) (cores : List Nat) (n : Nat) : Bool :=
  cores.any (fun c => (s.core c).blocks.vals.any (fun b => b.launch == n))

/-- The launches in a partition: of its queues, or with a block in it. -/
def partLaunches (s : State) (n : Nat) (p : Partition) : List (Nat × Launch) :=
  s.launches.entries.filter (fun x => qPart (queueOf s x.2.queue) == n || launchOn s (partCores p) x.1)

/-- Blocks of a launch with a cord whose fault reached the context rung: index and cause. -/
def rungFaults (s : State) (n : Nat) : List (Nat × Byte) :=
  s.cores.vals.flatMap (fun c => (c.blocks.vals.filter (fun b => b.launch == n)).flatMap (fun b =>
    (b.cords.vals.filter (fun x => x.escalated.isSome)).map (fun x => (b.index, x.cause))))

/-- The cause and the failing block of a launch that a reset completes: those of the fault that ended it, or of a fault that waits
at a rung; where there is neither, free values (log entry 2, DESIGN CHOICE). -/
def resetCause (s : State) (n : Nat) (l : Launch) : Byte × Nat × State :=
  let fs := rungFaults s n
  if l.status == .failed then (l.cause, l.fblk.getD 0, s)
  else match leastOf (fs.map (·.1)) with
  | some b => (((fs.find? (fun x => x.1 == b)).map (·.2)).getD 0, b, s)
  | none =>
    let (x, s) := s.free
    let (y, s) := s.free
    (x.setWidth 8, y.toNat, s)

/-- A launch completes with status 2 (R326): its saved blocks and its tasks go. -/
def killLaunch (s : State) (n : Nat) (l : Launch) : State :=
  let (cause, blk, s) := resetCause s n l
  let s := writeRecord s l.die l.ctx (pCrec l.packet) 2 cause.toNat 0 blk
  let s := dropTasks s n
  { s with launches := s.launches.erase n, saved := s.saved.filter (fun v => v.block.launch != n) }

/-- A core as a partition reset leaves it (R339): counters of errors and of performance, and op generations, stay (log entry 32, DEDUCED). -/
def clearCore (c : Core) : Core := { Core.fresh with gens := c.gens, ce := c.ce, perf := c.perf, removed := c.removed }

/-- A queue without packets, errors and waits. -/
def clearQueue (q : Queue) : Queue := { q with head := 0, tail := 0, errors := 0, waiting := false, bad := false, soft := [] }

/-- A die without the queues and reductions of a partition. -/
def clearDie (n d : Nat) (cores : List Nat) (x : Die) : Die :=
  { x with
    queues := x.queues.map (fun _ q => if qPart q == n then clearQueue q else q)
    reds := x.reds.filter (fun r => !r.own.keys.any (fun k => cores.contains (d * Config.coresPerDie + k))) }

/-- Resets a partition: its launches complete with status 2, its cores, queues and event bits are cleared, its stacks scrubbed. -/
def resetPartition (s : State) (n : Nat) (p : Partition) : State :=
  let cores := partCores p
  let s := (partLaunches s n p).foldl (fun s x => killLaunch s x.1 x.2) s
  let s := { s with
    cores := s.cores.map (fun c x => if cores.contains c then clearCore x else x)
    ctxs := s.ctxs.map (fun _ x => if x.part == n then { x with overflow := .empty } else x)
    clusters := s.clusters.map (fun c x => if p.clusters.contains c then { x with events := .empty, tasks := [], formed := [] } else x)
    dies := s.dies.map (fun d x => clearDie n d cores x)
    sysReds := s.sysReds.filter (fun r => !r.members.any (fun m => cores.contains m.1))
    tracks := s.tracks.filter (fun t => !t.place.core?.any cores.contains) }
  scrub s (fun k => p.hbms.contains k)

/-- R326, R339: firmware resets a partition. -/
def execPartitionReset (p : Nat) (s : State) : Out :=
  match s.partitions.get? p with
  | none => .next s
  | some x => woke (resetPartition s p x)

/-- R339, R342: staged firmware of the sequencing harts replaces theirs, at a reset of the partition. -/
def execPartitionUpdate (p : Nat) (s : State) : Out :=
  match s.partitions.get? p, s.mgmt.staged with
  | some x, some img => woke (resetPartition { s with mgmt := { s.mgmt with hartFw := img, staged := none } } p x)
  | _, _ => .next s

/-- A core leaves service: no bind record and no tree names it (R339). -/
def removeCore (s : State) (core : Nat) : State :=
  let d := dieOf core
  let n := core % Config.coresPerDie
  let s := (s.die d).trees.keys.foldl (fun s t =>
    writeTree s d t (.byte n ((((s.die d).trees.get t Tree.fresh).at n) &&& 0x7F))) s
  let x := s.die d
  let s := s.setDie d { x with binds := x.binds.map (fun _ w => w &&& ~~~((1 : BitVec 256) <<< (192 + n))) }
  s.setCore core { s.core core with removed := true }

/-- R339: a failed core gives its place to its cluster's spare, at a reset of the partition; the second failed core of a cluster
leaves service. -/
def execPartitionRepair (p core : Nat) (s : State) : Out :=
  match s.partitions.get? p with
  | none => .next s
  | some x =>
    let cl := clusterOf core
    if !x.clusters.contains cl then .next s
    else
      let s := resetPartition s p x
      if (s.cluster cl).spare.isSome then woke (removeCore s core)
      else woke (s.setCluster cl { s.cluster cl with spare := some core })

/-! ### Reset and boot (R326, R342) -/

/-- R326: the management controller resets the device. Its memory, what lies outside it, the error log, and the model's own clock
and counter stay (log entry 17, DESIGN CHOICE). -/
def execDeviceReset (s : State) : Out :=
  .next { State.reset with
    hbm := s.hbm, hbmErr := s.hbmErr, host := s.host, peers := s.peers, mgmt := { Mgmt.fresh with log := s.mgmt.log }
    clock := s.clock, freeCtr := s.freeCtr }

/-- The signature of an image is good under the Berusk key in ROM (R342). -/
def goodImage (i : Image) : Bool := Slh.verify Config.romKey i.body i.sig

/-- The configuration record that an image's body holds (R342; log entry 15, DESIGN CHOICE). -/
def readRecord (body : List Byte) : ConfigRecord :=
  { partitions := Config.recordPartitions body, ceiling := Config.recordCeiling body, windows := Config.recordWindows body
    remaps := Config.recordRemaps body }

/-- What the configuration record sets at boot (R339, R341, R342). -/
def applyRecord (s : State) (r : ConfigRecord) : State :=
  { s with
    partitions := Tab.ofList ((r.partitions.take 8).zipIdx.map (fun x => (x.2, { clusters := x.1.1, hbms := x.1.2 })))
    clusters := r.remaps.foldl (fun t x => t.set x.1 { t.get x.1 Cluster.fresh with spare := some x.2 }) s.clusters
    mgmt := { s.mgmt with
      record := r, ceiling := min r.ceiling Config.powerMax, locked := true
      windows := Tab.ofList ((r.windows.take 16).zipIdx.map (fun x => (x.2, ⟨x.1.1, x.1.2.1, x.1.2.2.1, x.1.2.2.2⟩))) } }

/-- R342: the boot ROM checks the firmware and the configuration record, and applies the record; where one fails, the device stays in
recovery mode. -/
def execDeviceBoot (mgmt harts : Image) (record sig : List Byte) (s : State) : Out :=
  if s.mgmt.boot != .reset then .next s
  else if goodImage mgmt && goodImage harts && goodImage ⟨record, sig⟩ then
    woke (applyRecord { s with mgmt := { s.mgmt with boot := .up, mgmtFw := mgmt, hartFw := harts, recordImg := ⟨record, sig⟩ } }
      (readRecord record))
  else woke { s with mgmt := { s.mgmt with boot := .recovery } }

/-- R342: an update is staged through the mailbox and checked. -/
def execFirmwareUpdateStage (img : Image) (s : State) : Out :=
  if goodImage img then woke { s with mgmt := { s.mgmt with staged := some img } } else .next s

/-! ### Measurements (R343) -/

/-- The bytes measured at index 5: the partitions and the link-enable mask (log entry 18, DESIGN CHOICE). -/
def layoutBytes (s : State) : List Byte :=
  s.partitions.entries.flatMap (fun x => natLe 1 x.1 ++ natLe 1 x.2.clusters.length ++ x.2.clusters.flatMap (natLe 1)
      ++ natLe 1 x.2.hbms.length ++ x.2.hbms.flatMap (natLe 1))
    ++ natLe 3 s.mgmt.linkMask.toNat

/-- The bytes measured at an index. -/
def measured (s : State) (i : Nat) : Option (List Byte) :=
  if i = 1 then some Config.bootRom
  else if i = 2 then some s.mgmt.mgmtFw.body
  else if i = 3 then some s.mgmt.hartFw.body
  else if i = 4 then some s.mgmt.recordImg.body
  else if i = 5 then some (layoutBytes s)
  else none

/-- The kind of what an index measures: the ROM, firmware, the device's layout or a configuration (log entry 18, PRESUMED). -/
def measureKind (i : Nat) : Nat := if i = 1 then 0 else if i ≤ 3 then 1 else if i = 4 then 3 else 2

/-- The measurement block of an index, with its digest of 256 bits. -/
def measureBlock (s : State) (i : Nat) : Option (List Byte) :=
  (measured s i).map (fun l => natLe 1 i ++ natLe 1 1 ++ natLe 2 35 ++ natLe 1 (measureKind i) ++ natLe 2 32 ++ shake256 l)

/-- The bytes of a text. -/
def asciiOf (t : String) : List Byte := t.toList.map (fun c => BitVec.ofNat 8 c.toNat)

/-- What a signature of measurements stands over besides the digest of the response (log entry 18, PRESUMED). -/
def attestPrefix : List Byte :=
  (List.replicate 4 (asciiOf "dmtf-spdm-v1.3.*")).flatten ++ List.replicate 6 0 ++ asciiOf "responder-measurements signing"

/-- A response without its signature: header, blocks, nonce, no opaque data, the requester's context (log entry 18, PRESUMED). -/
def measureBody (s : State) (idx : List Nat) (nonce context : List Byte) : List Byte :=
  let blocks := idx.filterMap (measureBlock s)
  let rec_ := blocks.flatten
  [0x13, 0x60, 0, 0] ++ natLe 1 blocks.length ++ natLe 3 rec_.length ++ rec_ ++ nonce.take 32 ++ natLe 2 0 ++ context.take 8

/-- 32 bytes of randomness for a signature, free values (log entry 2, DESIGN CHOICE). -/
def randomBytes (s : State) : List Byte × State :=
  (List.range 4).foldl (fun x _ => let (w, t) := x.2.free; (x.1 ++ natLe 8 w.toNat, t)) ([], s)

/-- Bytes of the certificate chain, as a response gives them (log entry 18, PRESUMED). -/
def certificateBody (off len : Nat) : List Byte :=
  let l := (Config.deviceCerts.drop off).take len
  [0x13, 0x02, 0, 0] ++ natLe 2 l.length ++ natLe 2 (Config.deviceCerts.length - off - l.length) ++ l

/-- R343: the signed response, whose digests are taken at one instant, or part of the certificate chain. -/
def execGetMeasurements (q : AttestRequest) (nonce : List Byte) (s : State) : Out :=
  match q with
  | .measurements idx context =>
    let body := measureBody s idx nonce context
    let (rnd, s) := randomBytes s
    woke { s with mgmt := { s.mgmt with mailbox := body ++ Slh.sign Config.deviceKey rnd (attestPrefix ++ shake256 body) } }
  | .certificate off len => woke { s with mgmt := { s.mgmt with mailbox := certificateBody off len } }

/-! ### Counters (R311, R316, R340) -/

/-- Events whose counts the spec does not tell from what it fixes: clocks of several kinds (log entry 7, DESIGN CHOICE). -/
def countFree (ev : Nat) : Bool := ev == 5 || ev == 6 || ev == 10

/-- R316: the host reads a performance counter through the management controller. -/
def execPerfCounterRead (core i : Nat) (s : State) : Out :=
  if i < 8 && core < Config.dies * Config.coresPerDie then
    let (ev, n) := (s.core core).perf.get i (0, 0)
    if countFree ev then
      let (x, s) := s.free
      woke { s with mgmt := { s.mgmt with mailbox := natLe 6 x.toNat } }
    else woke { s with mgmt := { s.mgmt with mailbox := natLe 6 n.toNat } }
  else .next s

/-- R340: the host reads an error counter. -/
def execErrorCounterRead (c : ErrCounter) (s : State) : Out :=
  let answer (l : List Byte) : Out := woke { s with mgmt := { s.mgmt with mailbox := l } }
  match c with
  | .correctable core array => answer (natLe 4 ((s.core core).ce.get array 0).toNat)
  | .stack n => answer (natLe 4 (s.corrected.get n 0).toNat)
  | .queue q => answer (natLe 2 (queueOf s q).errors.toNat)
  | .suppressed p => answer (natLe 4 (s.suppressed.get p 0).toNat)
  | .midLevel d => answer (natLe 4 ((s.die d).ce.get 0 0).toNat)
  | .queueArray d => answer (natLe 4 ((s.die d).ce.get 1 0).toNat)

end Sys2Proof.Machine
end

