-- ==== Sys2Proof/Machine/Special.lean ====
section
/-!
DEFINITION. Special registers (05_encoding.md R102, R103; 06_lane_ops.md R119; 10_registers.md R248 to R251), and the system
instructions that act on the cord alone (09_engines.md R239 to R242).
-/

namespace Sys2Proof.Machine

/-! ### Reading (R102, R103) -/

/-- Field f1 to f5 of a block's index, low 32 bits (R28, R30): fields above f1 are cut from the block index. -/
def fieldOf (h : Here) (i : Nat) : Word :=
  let fw := h.block.fw.toNat
  let w (j : Nat) : Nat := field fw (3 + 6 * (j - 2)) 6
  if h.block.task.isSome then 0
  else if i = 1 then BitVec.ofNat 32 h.ref.cord
  else
    let lo := ((List.range (i - 2)).map (fun j => w (j + 2))).foldl (· + ·) 0
    BitVec.ofNat 32 (field h.block.index lo (w i))

/-- State code (R18). -/
def LaneState.code : LaneState → Nat
  | .run => 0 | .wait => 1 | .park => 2 | .exit => 3

/-- The lane state of a code (R18). -/
def LaneState.ofCode : Nat → LaneState
  | 0 => .run | 1 => .wait | 2 => .park | _ => .exit

/-- The state that sr.state, sr.runm and sr.parkm show: in handler mode the saved one (R319). -/
def shownState (l : Lane) : LaneState := if l.handles then l.savedSt else l.st

/-- The lanes shown in a state, as a mask. -/
def shownMask (c : Cord) (st : LaneState) : Word := BitVec.ofNat 32 (maskOf (c.lanesWith (fun l => shownState l == st)))

/-- sr.mode (R248). -/
def modeWord (h : Here) : Word :=
  let b (x : Bool) (i : Nat) : Nat := if x then 2 ^ i else 0
  BitVec.ofNat 32 (b h.cord.handler.isSome 8 + b h.block.recomp 4 + b h.block.idem 3 + b h.cord.lkdis 2
    + b (h.block.race || h.block.det) 1 + b h.block.det 0)

/-- The value of special register `i` in lane `k` (R102). sr.depth of a task cord is that of its deepest item (R297; log entry
69, DEDUCED). -/
def readSr (s : State) (h : Here) (k i : Nat) : Word :=
  let l := h.cord.lane k
  let b := h.block
  let c := h.cord
  let n (x : Nat) : Word := BitVec.ofNat 32 x
  match i with
  | 0x00 => n k
  | 0x01 => n h.ref.cord
  | 0x02 => if b.task.isSome then 0 else n b.index
  | 0x03 => if b.task.isSome then 0 else n (b.index / 2 ^ 32)
  | 0x04 => l.wid.setWidth 32
  | 0x05 => n (l.wid.toNat / 2 ^ 32)
  | 0x06 => n (field l.wid.toNat 0 5)
  | 0x07 => fieldOf h 1
  | 0x08 => fieldOf h 2
  | 0x09 => fieldOf h 3
  | 0x0A => fieldOf h 4
  | 0x0B => fieldOf h 5
  | 0x0C => b.fw
  | 0x0D => n c.role
  | 0x0E => if b.det then 0xFFFFFFFF else n h.ref.core
  | 0x0F => c.icount
  | 0x10 => if l.handles then l.savedPc else n h.addr
  | 0x11 => n (shownState l).code
  | 0x12 => shownMask c .run
  | 0x13 => shownMask c .park
  | 0x14 => c.joinm
  | 0x15 => modeWord h
  | 0x16 => c.fpf.setWidth 32
  | 0x17 => l.rng.setWidth 32
  | 0x18 => n (l.rng.toNat / 2 ^ 32)
  | 0x19 => c.hvec
  | 0x1A => c.cause.setWidth 32
  | 0x1B => c.tval
  | 0x1C => c.tile
  | 0x1D => c.tile2
  | 0x1E => c.prog.setWidth 32
  | 0x1F => if s.mgmt.alarm then 1 else 0
  | 0x20 => n b.spbase
  | 0x21 => n b.splen
  | 0x22 => n (maskOf b.tiles)
  | 0x23 => n b.arg
  | 0x24 => n (field b.arg 32 20)
  | 0x25 => n l.locbase
  | 0x26 => n ((b.task.map (·.depth)).getD 0)
  | _ => 0

/-- R103: a per-lane value comes from each lane itself; with the uniform assertion, from the lowest-numbered active lane. -/
def execSrd (o : OSrd) (s : State) : Out :=
  issue (.srd o) (fun h s =>
    let act := h.active o.gd
    let c := h.cord.onLanes act (fun k l =>
      l.setV h.cord.vbud o.d.toNat (readSr s h (if o.u then act.headD k else k) o.idx.toNat))
    .did { s := s.setCord h.ref c }) s

/-- R103. Of a value that lanes hold apart it reads that of the lowest-numbered lane of the executing set (R251). -/
def execSsrd (o : OSrd) (s : State) : Out :=
  issue (.ssrd o) (fun h s => .did { s := s.setCord h.ref (h.setS o.d (readSr s h (h.set.headD 0) o.idx.toNat)) }) s

/-! ### Writing -/

/-- A cord after `sswr` (R103): bits that ignore writes keep their values. -/
def writeSr (c : Cord) (i : Nat) (x : Word) : Cord :=
  match i with
  | 0x15 => { c with lkdis := x.getLsbD 2 }
  | 0x16 => { c with fpf := x.setWidth 5 }
  | 0x19 => { c with hvec := x &&& 0xFFFFFFFC }
  | 0x1C => { c with tile := x &&& 0x000FFFFF }
  | 0x1D => { c with tile2 := x &&& 0x0FFF0FFF }
  | 0x1E => { c with prog := x.setWidth 16 }
  | _ => c

/-- R103, R119. -/
def execSswr (o : OSwr) (s : State) : Out :=
  cordOp (.sswr o) (fun h => writeSr h.cord o.idx.toNat (h.s o.a)) s

/-- The cord runs no handler: `swr` and `hret` raise PRIV (R317). -/
def noHandler (h : Here) : Bool := h.cord.handler.isNone

/-- R239: each active lane writes its own saved PC, saved state or join bit. A misaligned PC parks that lane. -/
def execSwr (o : OSwr) (s : State) : Out :=
  issueP (.swr o) noHandler (fun h s =>
    let act := h.active o.gd
    let bad := if o.idx = 0x10 then act.filter (fun k => (h.v k o.a).toNat % 4 != 0) else []
    let good := act.filter (fun k => !bad.contains k)
    let put (k : Nat) (l : Lane) : Lane :=
      if o.idx = 0x10 then { l with savedPc := h.v k o.a }
      else if o.idx = 0x11 then { l with savedSt := .ofCode (field (h.v k o.a).toNat 0 2), savedData := false }
      else l
    let c := h.cord.onLanes good put
    let bits : Word := BitVec.ofNat 32 (maskOf (good.filter (fun k => (h.v k o.a).getLsbD 0)))
    let mine : Word := BitVec.ofNat 32 (maskOf good)
    let c := if o.idx = 0x14 then { c with joinm := (c.joinm &&& ~~~mine) ||| bits } else c
    .did { s := s.setCord h.ref c, park := bad.map (fun k => (k, cAlign, h.v k o.a)) }) s

/-! ### Traps and the return from a handler -/

/-- R147. -/
def execTrap (o : OTrap) (s : State) : Out :=
  issue (.trap o) (fun h s => .did {
    s := s, park := (h.active o.gd).map (fun k => (k, cSwTrap, o.code.setWidth 32)) }) s

/-- R147. -/
def execBrk (o : OG) (s : State) : Out :=
  issue (.brk o) (fun h s => .did {
    s := s, park := (h.active o.gd).map (fun k => (k, cBrk, BitVec.ofNat 32 h.addr)) }) s

/-- R241. -/
def execStrap (o : OTrap) (s : State) : Out := issue (.strap o) (fun h s => parkSet h s cSwTrap (o.code.setWidth 32)) s

/-- R241. -/
def execSbrk (o : OG) (s : State) : Out := issue (.sbrk o) (fun h s => parkSet h s cBrk (BitVec.ofNat 32 h.addr)) s

/-- R84, R317: a word that is no instruction parks the executing set with ILLEGAL, sr.tval the first word. -/
def execNotAnInstruction (w : Word) (s : State) : Out :=
  issue (.notAnInstruction w) (fun h s => parkSet h s cIllegal w) s

/-- `hret` waits for the cord's gather accesses and for every result still owed, so that none reaches what it restores (R61, R320, R333; log
entry 8, DEDUCED). -/
def returnWaits (c : Cord) : Bool := !c.gathers.isEmpty || !c.inflight.isEmpty

/-- R240, R320: the return from handler mode, at its first execution, for the whole cord. A fill that fails is a fault of the
handler (R321). -/
def execHret (o : OBrx) (s : State) : Out :=
  issueP (.hret o) noHandler (fun h s =>
    if returnWaits h.cord then .hold
    else match leaveHandler s h.ref (h.s o.a) with
    | .ok s => .did { s := settleAt s h.ref.core h.ref.slot, stay := h.set }
    | .error e =>
      let s := touchFault s h.ref.core e
      match e.tval with
      | some x => parkSet h s e.cause x
      | none => parkSetFree h s e.cause) s

/-- R242: the cord is not eligible on the next clock; its wait since its last issue counts from 0 again, as every issue makes it do. -/
def execYield (o : OG) (s : State) : Out :=
  issue (.yield o) (fun h s => .did { s := s.setCord h.ref { h.cord with rest := some (s.clock + 1) } }) s

end Sys2Proof.Machine
end

