-- ==== Sys2Proof/Machine/Uniform.lean ====
section
/-!
DEFINITION. The arithmetic of the uniform set (06_lane_ops.md R136, R137): the operations of the lane set, computed once on
s registers and q predicates.
-/

namespace Sys2Proof.Machine

/-- Writes one s register. -/
def uni1 (i : Instr) (d : Reg) (f : Here → Word) (s : State) : Out := cordOp i (fun h => h.setS d (f h)) s

/-- One source register. -/
def uniA (i : Instr) (o : O2) (f : Word → Word) (s : State) : Out := uni1 i o.d (fun h => f (h.s o.a)) s

/-- Two source registers. -/
def uniAB (i : Instr) (o : O3) (f : Word → Word → Word) (s : State) : Out := uni1 i o.d (fun h => f (h.s o.a) (h.s o.b)) s

/-- One source register and an immediate. -/
def uniAI (i : Instr) (o : OI2) (f : Word → Word → Word) (s : State) : Out := uni1 i o.d (fun h => f (h.s o.a) o.imm) s

/-- The cord with consecutive s registers written, the least significant word first (R47). -/
def Cord.setSs (c : Cord) (base r : Nat) : List Word → Cord
  | [] => c
  | x :: xs => Cord.setSs (c.setS base r x) base (r + 1) xs

/-- `sadd` and `ssub`. -/
def uniAddSub (i : Instr) (o : O3T) (sub : Bool) (s : State) : Out :=
  cordOp i (fun h =>
    if o.ty.is64 then
      h.cord.setSs h.sbase o.d.toNat (words64 (addSub o.ty o.sat sub (h.s64 o.a).toNat (h.s64 o.b).toNat))
    else h.setS o.d (BitVec.ofNat 32 (addSub (orInt32 o.ty) o.sat sub (h.s o.a).toNat (h.s o.b).toNat))) s

def execSnop (o : ONop) (s : State) : Out := cordOp (.snop o) (fun h => h.cord) s
def execSmov (o : O2) (s : State) : Out := uniA (.smov o) o (fun x => x) s
def execSmovi (o : OI1) (s : State) : Out := uni1 (.smovi o) o.d (fun _ => o.imm) s
def execSadd (o : O3T) (s : State) : Out := uniAddSub (.sadd o) o false s
def execSsub (o : O3T) (s : State) : Out := uniAddSub (.ssub o) o true s
def execSaddi (o : OI2) (s : State) : Out := uniAI (.saddi o) o (· + ·) s
def execSmul (o : O3) (s : State) : Out := uniAB (.smul o) o wMul s
def execSmad (o : O4T) (s : State) : Out := uni1 (.smad o) o.d (fun h => wMad o.ty o.sat (h.s o.a) (h.s o.b) (h.s o.c)) s
def execSmins (o : O3) (s : State) : Out := uniAB (.smins o) o wMins s
def execSmaxs (o : O3) (s : State) : Out := uniAB (.smaxs o) o wMaxs s
def execSminn (o : O3) (s : State) : Out := uniAB (.sminn o) o wMinn s
def execSmaxn (o : O3) (s : State) : Out := uniAB (.smaxn o) o wMaxn s
def execSand (o : O3) (s : State) : Out := uniAB (.sand o) o (· &&& ·) s
def execSor (o : O3) (s : State) : Out := uniAB (.sor o) o (· ||| ·) s
def execSxor (o : O3) (s : State) : Out := uniAB (.sxor o) o (· ^^^ ·) s
def execSandi (o : OI2) (s : State) : Out := uniAI (.sandi o) o (· &&& ·) s
def execSori (o : OI2) (s : State) : Out := uniAI (.sori o) o (· ||| ·) s
def execSshl (o : O3) (s : State) : Out := uniAB (.sshl o) o (fun x y => wShl x (shiftOf y)) s
def execSshrl (o : O3) (s : State) : Out := uniAB (.sshrl o) o (fun x y => wShrl x (shiftOf y)) s
def execSshra (o : O3) (s : State) : Out := uniAB (.sshra o) o (fun x y => wShra x (shiftOf y)) s
def execSshli (o : OSh) (s : State) : Out := uni1 (.sshli o) o.d (fun h => wShl (h.s o.a) o.amt.toNat) s
def execSshrli (o : OSh) (s : State) : Out := uni1 (.sshrli o) o.d (fun h => wShrl (h.s o.a) o.amt.toNat) s
def execScmp (o : OCmp) (s : State) : Out :=
  cordOp (.scmp o) (fun h => h.cord.setQ o.pd.toNat
    (if o.ty.is64 then cmpInt o.ty o.cond (h.s64 o.a).toNat (h.s64 o.b).toNat
     else cmpInt o.ty o.cond (h.s o.a).toNat (h.s o.b).toNat)) s
def execSplog (o : OPlog) (s : State) : Out :=
  cordOp (.splog o) (fun h => h.cord.setQ o.pd.toNat (logPred o.op (h.cord.qat o.pa.toNat) (h.cord.qat o.pb.toNat))) s
/-- R137: always writes. -/
def execSsel (o : OSel) (s : State) : Out :=
  uni1 (.ssel o) o.d (fun h => if h.cord.guard o.sel then h.s o.a else h.s o.b) s
def execSpopc (o : O2) (s : State) : Out := uniA (.spopc o) o wPopc s

end Sys2Proof.Machine
end

