-- ==== Sys2Proof/Machine/Dispatch.lean ====
section
/-!
DEFINITION. The meaning of every instruction and event of opcode_table.json: one arm for each constructor of `Instr`.
-/

namespace Sys2Proof.Machine

def exec (i : Instr) (s : State) : Host.Outcome State Fault Refusal :=
  match i with
  | .nop o => Sys2Proof.Machine.execNop o s
  | .mov o => Sys2Proof.Machine.execMov o s
  | .movi o => Sys2Proof.Machine.execMovi o s
  | .iadd o => Sys2Proof.Machine.execIadd o s
  | .isub o => Sys2Proof.Machine.execIsub o s
  | .iaddi o => Sys2Proof.Machine.execIaddi o s
  | .imul o => Sys2Proof.Machine.execImul o s
  | .imulhs o => Sys2Proof.Machine.execImulhs o s
  | .imulhn o => Sys2Proof.Machine.execImulhn o s
  | .imad o => Sys2Proof.Machine.execImad o s
  | .imins o => Sys2Proof.Machine.execImins o s
  | .iminn o => Sys2Proof.Machine.execIminn o s
  | .imaxs o => Sys2Proof.Machine.execImaxs o s
  | .imaxn o => Sys2Proof.Machine.execImaxn o s
  | .iabs o => Sys2Proof.Machine.execIabs o s
  | .ineg o => Sys2Proof.Machine.execIneg o s
  | .and o => Sys2Proof.Machine.execAnd o s
  | .or o => Sys2Proof.Machine.execOr o s
  | .xor o => Sys2Proof.Machine.execXor o s
  | .andn o => Sys2Proof.Machine.execAndn o s
  | .andi o => Sys2Proof.Machine.execAndi o s
  | .ori o => Sys2Proof.Machine.execOri o s
  | .xori o => Sys2Proof.Machine.execXori o s
  | .shl o => Sys2Proof.Machine.execShl o s
  | .shrl o => Sys2Proof.Machine.execShrl o s
  | .shra o => Sys2Proof.Machine.execShra o s
  | .shli o => Sys2Proof.Machine.execShli o s
  | .shrli o => Sys2Proof.Machine.execShrli o s
  | .shrai o => Sys2Proof.Machine.execShrai o s
  | .bfx o => Sys2Proof.Machine.execBfx o s
  | .bfi o => Sys2Proof.Machine.execBfi o s
  | .popc o => Sys2Proof.Machine.execPopc o s
  | .clz o => Sys2Proof.Machine.execClz o s
  | .brev o => Sys2Proof.Machine.execBrev o s
  | .sel o => Sys2Proof.Machine.execSel o s
  | .lea o => Sys2Proof.Machine.execLea o s
  | .vadd2 o => Sys2Proof.Machine.execVadd2 o s
  | .vsub2 o => Sys2Proof.Machine.execVsub2 o s
  | .vmax2s o => Sys2Proof.Machine.execVmax2s o s
  | .vmax2n o => Sys2Proof.Machine.execVmax2n o s
  | .vmin2s o => Sys2Proof.Machine.execVmin2s o s
  | .vmin2n o => Sys2Proof.Machine.execVmin2n o s
  | .vacs2 o => Sys2Proof.Machine.execVacs2 o s
  | .icmp o => Sys2Proof.Machine.execIcmp o s
  | .plog o => Sys2Proof.Machine.execPlog o s
  | .pmovTov o => Sys2Proof.Machine.execPmovTov o s
  | .pmovFrv o => Sys2Proof.Machine.execPmovFrv o s
  | .rng o => Sys2Proof.Machine.execRng o s
  | .srd o => Sys2Proof.Machine.execSrd o s
  | .fadd o => Sys2Proof.Machine.execFadd o s
  | .fsub o => Sys2Proof.Machine.execFsub o s
  | .fmul o => Sys2Proof.Machine.execFmul o s
  | .ffma o => Sys2Proof.Machine.execFfma o s
  | .fmin o => Sys2Proof.Machine.execFmin o s
  | .fmax o => Sys2Proof.Machine.execFmax o s
  | .fabs o => Sys2Proof.Machine.execFabs o s
  | .fneg o => Sys2Proof.Machine.execFneg o s
  | .fcmp o => Sys2Proof.Machine.execFcmp o s
  | .frcp o => Sys2Proof.Machine.execFrcp o s
  | .frsq o => Sys2Proof.Machine.execFrsq o s
  | .fsqrt o => Sys2Proof.Machine.execFsqrt o s
  | .fexp2 o => Sys2Proof.Machine.execFexp2 o s
  | .flog2 o => Sys2Proof.Machine.execFlog2 o s
  | .hfma2 o => Sys2Proof.Machine.execHfma2 o s
  | .hadd2 o => Sys2Proof.Machine.execHadd2 o s
  | .cvt o => Sys2Proof.Machine.execCvt o s
  | .pk4 o => Sys2Proof.Machine.execPk4 o s
  | .upk o => Sys2Proof.Machine.execUpk o s
  | .fpclass o => Sys2Proof.Machine.execFpclass o s
  | .perm o => Sys2Proof.Machine.execPerm o s
  | .shfl o => Sys2Proof.Machine.execShfl o s
  | .vote o => Sys2Proof.Machine.execVote o s
  | .lred o => Sys2Proof.Machine.execLred o s
  | .lscan o => Sys2Proof.Machine.execLscan o s
  | .bra o => Sys2Proof.Machine.execBra o s
  | .braLong o => Sys2Proof.Machine.execBraLong o s
  | .brx o => Sys2Proof.Machine.execBrx o s
  | .call o => Sys2Proof.Machine.execCall o s
  | .callLong o => Sys2Proof.Machine.execCallLong o s
  | .callx o => Sys2Proof.Machine.execCallx o s
  | .callo o => Sys2Proof.Machine.execCallo o s
  | .ret o => Sys2Proof.Machine.execRet o s
  | .exit o => Sys2Proof.Machine.execExit o s
  | .rjoin => Sys2Proof.Machine.execRjoin s
  | .frame o => Sys2Proof.Machine.execFrame o s
  | .trap o => Sys2Proof.Machine.execTrap o s
  | .brk o => Sys2Proof.Machine.execBrk o s
  | .ld8 o => Sys2Proof.Machine.execLd8 o s
  | .ld16 o => Sys2Proof.Machine.execLd16 o s
  | .ld32 o => Sys2Proof.Machine.execLd32 o s
  | .ld64 o => Sys2Proof.Machine.execLd64 o s
  | .ld128 o => Sys2Proof.Machine.execLd128 o s
  | .st8 o => Sys2Proof.Machine.execSt8 o s
  | .st16 o => Sys2Proof.Machine.execSt16 o s
  | .st32 o => Sys2Proof.Machine.execSt32 o s
  | .st64 o => Sys2Proof.Machine.execSt64 o s
  | .st128 o => Sys2Proof.Machine.execSt128 o s
  | .atom o => Sys2Proof.Machine.execAtom o s
  | .gld32 o => Sys2Proof.Machine.execGld32 o s
  | .gld64 o => Sys2Proof.Machine.execGld64 o s
  | .gst32 o => Sys2Proof.Machine.execGst32 o s
  | .gst64 o => Sys2Proof.Machine.execGst64 o s
  | .gatom o => Sys2Proof.Machine.execGatom o s
  | .gprf o => Sys2Proof.Machine.execGprf o s
  | .ctr o => Sys2Proof.Machine.execCtr o s
  | .ctrskip o => Sys2Proof.Machine.execCtrskip o s
  | .acz o => Sys2Proof.Machine.execAcz o s
  | .acrd o => Sys2Proof.Machine.execAcrd o s
  | .acwr o => Sys2Proof.Machine.execAcwr o s
  | .acdrain o => Sys2Proof.Machine.execAcdrain o s
  | .acaxpy o => Sys2Proof.Machine.execAcaxpy o s
  | .acrst o => Sys2Proof.Machine.execAcrst o s
  | .spawn o => Sys2Proof.Machine.execSpawn o s
  | .swr o => Sys2Proof.Machine.execSwr o s
  | .snop o => Sys2Proof.Machine.execSnop o s
  | .smov o => Sys2Proof.Machine.execSmov o s
  | .smovi o => Sys2Proof.Machine.execSmovi o s
  | .sadd o => Sys2Proof.Machine.execSadd o s
  | .ssub o => Sys2Proof.Machine.execSsub o s
  | .saddi o => Sys2Proof.Machine.execSaddi o s
  | .smul o => Sys2Proof.Machine.execSmul o s
  | .smad o => Sys2Proof.Machine.execSmad o s
  | .smins o => Sys2Proof.Machine.execSmins o s
  | .smaxs o => Sys2Proof.Machine.execSmaxs o s
  | .sminn o => Sys2Proof.Machine.execSminn o s
  | .smaxn o => Sys2Proof.Machine.execSmaxn o s
  | .sand o => Sys2Proof.Machine.execSand o s
  | .sor o => Sys2Proof.Machine.execSor o s
  | .sxor o => Sys2Proof.Machine.execSxor o s
  | .sandi o => Sys2Proof.Machine.execSandi o s
  | .sori o => Sys2Proof.Machine.execSori o s
  | .sshl o => Sys2Proof.Machine.execSshl o s
  | .sshrl o => Sys2Proof.Machine.execSshrl o s
  | .sshra o => Sys2Proof.Machine.execSshra o s
  | .sshli o => Sys2Proof.Machine.execSshli o s
  | .sshrli o => Sys2Proof.Machine.execSshrli o s
  | .scmp o => Sys2Proof.Machine.execScmp o s
  | .splog o => Sys2Proof.Machine.execSplog o s
  | .ssel o => Sys2Proof.Machine.execSsel o s
  | .spopc o => Sys2Proof.Machine.execSpopc o s
  | .sld32 o => Sys2Proof.Machine.execSld32 o s
  | .sst32 o => Sys2Proof.Machine.execSst32 o s
  | .sld64 o => Sys2Proof.Machine.execSld64 o s
  | .sst64 o => Sys2Proof.Machine.execSst64 o s
  | .ssrd o => Sys2Proof.Machine.execSsrd o s
  | .sswr o => Sys2Proof.Machine.execSswr o s
  | .sbra o => Sys2Proof.Machine.execSbra o s
  | .sbraLong o => Sys2Proof.Machine.execSbraLong o s
  | .sbrx o => Sys2Proof.Machine.execSbrx o s
  | .bar o => Sys2Proof.Machine.execBar o s
  | .barar o => Sys2Proof.Machine.execBarar o s
  | .barwt o => Sys2Proof.Machine.execBarwt o s
  | .fence o => Sys2Proof.Machine.execFence o s
  | .tktwait o => Sys2Proof.Machine.execTktwait o s
  | .tktpass o => Sys2Proof.Machine.execTktpass o s
  | .evset o => Sys2Proof.Machine.execEvset o s
  | .evclr o => Sys2Proof.Machine.execEvclr o s
  | .evwait o => Sys2Proof.Machine.execEvwait o s
  | .qpop o => Sys2Proof.Machine.execQpop o s
  | .qpush o => Sys2Proof.Machine.execQpush o s
  | .chput o => Sys2Proof.Machine.execChput o s
  | .chget o => Sys2Proof.Machine.execChget o s
  | .cheos o => Sys2Proof.Machine.execCheos o s
  | .cpyIn o => Sys2Proof.Machine.execCpyIn o s
  | .cpyOut o => Sys2Proof.Machine.execCpyOut o s
  | .cpyCk o => Sys2Proof.Machine.execCpyCk o s
  | .cpyCkc o => Sys2Proof.Machine.execCpyCkc o s
  | .cpyIna o => Sys2Proof.Machine.execCpyIna o s
  | .cpyOuta o => Sys2Proof.Machine.execCpyOuta o s
  | .cpygat o => Sys2Proof.Machine.execCpygat o s
  | .mred o => Sys2Proof.Machine.execMred o s
  | .coll o => Sys2Proof.Machine.execColl o s
  | .wnw o => Sys2Proof.Machine.execWnw o s
  | .ovlld o => Sys2Proof.Machine.execOvlld o s
  | .ovlrel o => Sys2Proof.Machine.execOvlrel o s
  | .ovlevict o => Sys2Proof.Machine.execOvlevict o s
  | .opwait o => Sys2Proof.Machine.execOpwait o s
  | .optest o => Sys2Proof.Machine.execOptest o s
  | .opseal o => Sys2Proof.Machine.execOpseal o s
  | .opwaitb o => Sys2Proof.Machine.execOpwaitb o s
  | .opcancel o => Sys2Proof.Machine.execOpcancel o s
  | .opdetach o => Sys2Proof.Machine.execOpdetach o s
  | .opstat o => Sys2Proof.Machine.execOpstat o s
  | .opprio o => Sys2Proof.Machine.execOpprio o s
  | .opadopt o => Sys2Proof.Machine.execOpadopt o s
  | .hret o => Sys2Proof.Machine.execHret o s
  | .yield o => Sys2Proof.Machine.execYield o s
  | .strap o => Sys2Proof.Machine.execStrap o s
  | .sbrk o => Sys2Proof.Machine.execSbrk o s
  | .idleQ o => Sys2Proof.Machine.execIdleQ o s
  | .idleEv o => Sys2Proof.Machine.execIdleEv o s
  | .doorbell q v => Sys2Proof.Machine.execDoorbell q v s
  | .deviceQueueDoorbell q v => Sys2Proof.Machine.execDeviceQueueDoorbell q v s
  | .launchPacket q => Sys2Proof.Machine.execLaunchPacket q s
  | .registerHeader q => Sys2Proof.Machine.execRegisterHeader q s
  | .bindRecordWrite die idx w => Sys2Proof.Machine.execBindRecordWrite die idx w s
  | .combineTreeWrite owner tree w => Sys2Proof.Machine.execCombineTreeWrite owner tree w s
  | .firmwareRegisterWrite w => Sys2Proof.Machine.execFirmwareRegisterWrite w s
  | .tlbInvalidate ctx lo hi => Sys2Proof.Machine.execTlbInvalidate ctx lo hi s
  | .blockReservation die => Sys2Proof.Machine.execBlockReservation die s
  | .coResidentPlacement launch => Sys2Proof.Machine.execCoResidentPlacement launch s
  | .blockStart core slot => Sys2Proof.Machine.execBlockStart core slot s
  | .blockExit core slot => Sys2Proof.Machine.execBlockExit core slot s
  | .launchCompletion launch => Sys2Proof.Machine.execLaunchCompletion launch s
  | .longLatencyCompletion c idx => Sys2Proof.Machine.execLongLatencyCompletion c idx s
  | .gatherDataArrival c idx => Sys2Proof.Machine.execGatherDataArrival c idx s
  | .handlerEntry c => Sys2Proof.Machine.execHandlerEntry c s
  | .handlerTimeout src => Sys2Proof.Machine.execHandlerTimeout src s
  | .contextRung src => Sys2Proof.Machine.execContextRung src s
  | .opStart core entry => Sys2Proof.Machine.execOpStart core entry s
  | .opFinish core entry => Sys2Proof.Machine.execOpFinish core entry s
  | .opSuspend core entry => Sys2Proof.Machine.execOpSuspend core entry s
  | .opReplay core entry => Sys2Proof.Machine.execOpReplay core entry s
  | .opEndFailed core entry => Sys2Proof.Machine.execOpEndFailed core entry s
  | .contractionGroup core tile idx => Sys2Proof.Machine.execContractionGroup core tile idx s
  | .mredPacketArrival die tree id router => Sys2Proof.Machine.execMredPacketArrival die tree id router s
  | .mredTimeout die tree id router => Sys2Proof.Machine.execMredTimeout die tree id router s
  | .collPacketArrival tree id pkt => Sys2Proof.Machine.execCollPacketArrival tree id pkt s
  | .collTimeout tree id missing => Sys2Proof.Machine.execCollTimeout tree id missing s
  | .overlayDigestCheck core rec => Sys2Proof.Machine.execOverlayDigestCheck core rec s
  | .codePageReload core page ok => Sys2Proof.Machine.execCodePageReload core page ok s
  | .ticketFrontierUpdate launch => Sys2Proof.Machine.execTicketFrontierUpdate launch s
  | .taskCordFormation die cluster => Sys2Proof.Machine.execTaskCordFormation die cluster s
  | .taskReadyTimeout die cluster => Sys2Proof.Machine.execTaskReadyTimeout die cluster s
  | .preemptRequest core slot => Sys2Proof.Machine.execPreemptRequest core slot s
  | .drainTimeout core slot => Sys2Proof.Machine.execDrainTimeout core slot s
  | .contextSave core slot => Sys2Proof.Machine.execContextSave core slot s
  | .contextRestore die => Sys2Proof.Machine.execContextRestore die s
  | .deviceReset => Sys2Proof.Machine.execDeviceReset s
  | .powerAlarm => Sys2Proof.Machine.execPowerAlarm s
  | .powerAlarmClear => Sys2Proof.Machine.execPowerAlarmClear s
  | .sensorSample temps p => Sys2Proof.Machine.execSensorSample temps p s
  | .patrolScrub stack => Sys2Proof.Machine.execPatrolScrub stack s
  | .meshFlitRetry core entry ok => Sys2Proof.Machine.execMeshFlitRetry core entry ok s
  | .linkFlitReplay link ok => Sys2Proof.Machine.execLinkFlitReplay link ok s
  | .linkRetrain link ok => Sys2Proof.Machine.execLinkRetrain link ok s
  | .cxlLinkTraining width rate ide => Sys2Proof.Machine.execCxlLinkTraining width rate ide s
  | .hostMemAccess a => Sys2Proof.Machine.execHostMemAccess a s
  | .peerAccess peer a => Sys2Proof.Machine.execPeerAccess peer a s
  | .localLineWriteback core idx => Sys2Proof.Machine.execLocalLineWriteback core idx s
  | .partitionReset p => Sys2Proof.Machine.execPartitionReset p s
  | .partitionUpdate p => Sys2Proof.Machine.execPartitionUpdate p s
  | .partitionRepair p core => Sys2Proof.Machine.execPartitionRepair p core s
  | .deviceBoot mgmt harts record sig => Sys2Proof.Machine.execDeviceBoot mgmt harts record sig s
  | .firmwareUpdateStage img => Sys2Proof.Machine.execFirmwareUpdateStage img s
  | .getMeasurements q nonce => Sys2Proof.Machine.execGetMeasurements q nonce s
  | .perfCounterRead core idx => Sys2Proof.Machine.execPerfCounterRead core idx s
  | .errorCounterRead c => Sys2Proof.Machine.execErrorCounterRead c s
  | .notAnInstruction w => Sys2Proof.Machine.execNotAnInstruction w s
  | .unitBoundary core entry => Sys2Proof.Machine.execUnitBoundary core entry s
  | .gatherPerformed c idx => Sys2Proof.Machine.execGatherPerformed c idx s

end Sys2Proof.Machine
end

