-- ==== Sys2Proof/Machine/Fetch.lean ====
section
/-!
DEFINITION. Fetch and decode (01_machine.md R11; 05_encoding.md R72, R84 to R86), and what one move does.
-/

namespace Sys2Proof.Machine

/-- What fetch finds for a cord. -/
inductive Fetched where
  /-- The cord has nothing to issue: it waits, or its code page is being reloaded (R265). -/
  | waits
  /-- A word of the instruction lies on a page that is not resident, at this code address (R11, R86). -/
  | absent (addr : Nat)
  /-- The words of the instruction, the second 0 where it has one. -/
  | found (w0 w1 : Word)
  deriving DecidableEq, Repr

/-- The code address after a first word. -/
def nextWord (a : Nat) : Nat := (a + 4) % 2 ^ 32

/-- The instruction that two words hold; a word that is no instruction is itself issued (R83 to R85). -/
def decoded (w0 w1 : Word) : Instr :=
  match decode w0 w1 with
  | .ok i => i
  | .error _ => .notAnInstruction w0

/-- Fetches at a code address of a context. -/
def fetchAt (s : State) (core ctx a : Nat) : Fetched :=
  if (damagedFetch s core ctx a).isSome then .waits
  else match codeWord s core ctx a with
  | none => .absent a
  | some w0 =>
    if lengthOf w0 = 4 then .found w0 0
    else match codeWord s core ctx (nextWord a) with
      | none => .absent (nextWord a)
      | some w1 => .found w0 w1

/-- The words that a cord has fetched and that stand at its issue address (R302). -/
def Here.held (h : Here) : Option (Word × Word) := (h.cord.fetched.filter (fun x => x.1 == h.addr)).map (·.2)

/-- Fetches the next instruction of the cord at `State.cur`, once: while it waits to issue its words are not fetched again (R302). -/
def fetch (s : State) : Fetched :=
  match here s with
  | none => .waits
  | some h =>
    if !h.block.status.issues || h.set.isEmpty then .waits
    else match h.held with
      | some w => .found w.1 w.2
      | none => fetchAt s h.ref.core h.block.ctx h.addr

/-- The cord at `State.cur` has fetched the words at its issue address. -/
def noteFetched (s : State) (w0 w1 : Word) : State :=
  match here s with
  | none => s
  | some h => s.setCord s.cur { h.cord with fetched := some (h.addr, w0, w1) }

/-- R11, R84, R86: the executing set parks with CODE_ABSENT, its PCs on the first word. -/
def codeAbsent (a : Nat) (s : State) : Out :=
  issue (.notAnInstruction 0) (fun h s => parkSet h s cCodeAbsent (BitVec.ofNat 32 a)) s

/-- The cord `c` issues its next instruction; a word that is none is itself issued (R83 to R85). -/
def issueNext (c : CordRef) (s : State) : Out :=
  let s := { s with cur := c }
  match fetch s with
  | .waits => .next (s.stall c)
  | .absent a => codeAbsent a s
  | .found w0 w1 => exec (decoded w0 w1) (noteFetched s w0 w1)

end Sys2Proof.Machine
end

