-- ==== Sys2Proof/Machine/Schedule.lean ====
section
/-!
DEFINITION. Which move comes next (log entry 1, DESIGN CHOICE): the moves that the agenda lists, in their order; when it lists none, the
first act of another agent that would change the state, in a fixed order; then an issue; then a time-out. In each quarter the cord
issues that 02_execution.md R38 chooses, and 01_machine.md R9 shares the uniform pipe.
-/

namespace Sys2Proof.Machine

/-! ### Acts of the agents -/

/-- What serves a fault that has reached a rung above the context's (R326). -/
def rungEvents (s : State) (core : Nat) (rung : Option Nat) : List Instr :=
  match rung with
  | some 3 => (partitionOf s core).toList.map .partitionReset
  | some 4 => [.deviceReset]
  | _ => []

/-- Acts that concern one cord. -/
def cordEvents (s : State) (r : CordRef) (c : Cord) : List Instr :=
  (List.range c.inflight.length).map (.longLatencyCompletion r)
    ++ (List.range c.gathers.length).flatMap (fun i => [.gatherDataArrival r i, .gatherPerformed r i])
    ++ (if wantsHandler c then [.handlerEntry r] else [])
    ++ (if c.escalated == some 2 then [.contextRung (.cord r)] else rungEvents s r.core c.escalated)

/-- A SUSPENDED operation's next unit would not fault. -/
def replayWorks (s : State) (core e : Nat) (o : OpEntry) : Bool :=
  match workUnit s core e o with
  | .fault .. => false
  | _ => true

/-- Acts that concern one operation. Firmware replays a suspended operation whose fault has been cured, and ends any other FAILED
(log entry 34, DESIGN CHOICE). -/
def opEvents (s : State) (core e : Nat) (o : OpEntry) : List Instr :=
  match o.state with
  | .queued => [.opStart core e]
  | .running => [.unitBoundary core e, .opFinish core e, .opSuspend core e]
  | .suspended =>
    if o.cause != 0 && !o.told then [.contextRung (.op core e)]
    else if o.escalated.isSome then rungEvents s core o.escalated
    else if replayWorks s core e o then [.opReplay core e] else [.opEndFailed core e]
  | .failed => [.contextRung (.op core e)]
  | _ => []

/-- Acts that concern one block. -/
def blockEvents (s : State) (core slot : Nat) (b : Block) : List Instr :=
  b.cords.entries.flatMap (fun x => cordEvents s ⟨core, slot, x.1⟩ x.2)
    ++ (match b.status with
      | .reserved | .restoring => [.blockStart core slot]
      | .running | .draining => if b.cords.vals.all Cord.exited then [.blockExit core slot] else []
      | .ended => [.blockExit core slot]
      | .saving _ => [.contextSave core slot])

/-- Code pages that a cord waits for, damaged. -/
def damagedPages (s : State) (core : Nat) (b : Block) : List Nat :=
  b.cords.vals.filterMap (fun c => (c.issueAddr.bind (damagedFetch s core b.ctx)).bind (fun a =>
    (codeEntry s core b.ctx a).map (·.spage)))

/-- The act that concerns a load: its end, or what firmware does of one that is suspended without an operation: it replays it if its next
page can be read, and ends it otherwise (R308; log entry 34, DESIGN CHOICE). -/
def loadEvent (s : State) (core i : Nat) (r : Residency) : Instr :=
  if r.susp.isNone then .overlayDigestCheck core i
  else match loadPage s core r with
  | .ok _ => .opReplay core (512 + i)
  | .error _ => .opEndFailed core (512 + i)

/-- Acts that concern one core. -/
def coreEvents (s : State) (n : Nat) (c : Core) : List Instr :=
  c.blocks.entries.flatMap (fun x => blockEvents s n x.1 x.2)
    ++ c.ops.entries.flatMap (fun x => opEvents s n x.1 x.2)
    ++ c.tiles.entries.flatMap (fun x => (List.range x.2.slots.length).map (.contractionGroup n x.1))
    ++ (c.res.zipIdx.filter (fun x => !x.1.resident)).map (fun x => loadEvent s n x.2 x.1)
    ++ c.blocks.vals.flatMap (fun b => (damagedPages s n b).map (fun p => .codePageReload n p true))

/-- Acts that concern one die: its reductions, its queues, and its distributor. As everywhere here, an act that cannot change the
state is left out where that is seen at once. -/
def dieEvents (s : State) (d : Nat) (x : Die) : List Instr :=
  x.reds.flatMap (fun r => (List.range Config.coresPerDie).map (.mredPacketArrival d r.tree r.id))
    ++ x.queues.entries.flatMap (fun q => if qFill q.2 = 0 then [] else [.registerHeader q.1, .launchPacket q.1])
    ++ (if s.saved.isEmpty then [] else [.contextRestore d])
    ++ (if s.launches.entries.isEmpty then [] else [.blockReservation d])

/-- Acts that concern launches. -/
def launchEvents (s : State) : List Instr :=
  (s.launches.entries.filter (fun l => !l.2.passing.isEmpty)).map (fun l => .ticketFrontierUpdate l.1)
    ++ (s.launches.entries.filter (fun l => pCores l.2.packet)).map (fun l => .coResidentPlacement l.1)
    ++ (s.launches.entries.filter (fun l => allPlaced l.2)).map (fun l => .launchCompletion l.1)

/-- Requests of pre-emption, while something waits for room. -/
def preemptEvents (s : State) : List Instr :=
  if (waiters s).isEmpty then []
  else s.cores.entries.flatMap (fun c => c.2.blocks.keys.map (.preemptRequest c.1))

/-- Every act that an agent may make of itself, in the fixed order. -/
def agentEvents (s : State) : List Instr :=
  s.cores.entries.flatMap (fun c => coreEvents s c.1 c.2)
    ++ s.sysReds.map (fun r => .collPacketArrival r.tree r.id none)
    ++ (s.clusters.entries.filter (fun c => !c.2.tasks.isEmpty)).map (fun c => .taskCordFormation (c.1 / 8) (c.1 % 8))
    ++ s.dies.entries.flatMap (fun d => dieEvents s d.1 d.2)
    ++ launchEvents s ++ preemptEvents s ++ (if s.mgmt.alarm then [.powerAlarmClear] else [.powerAlarm])

/-- The time-outs, which come when nothing else can. -/
def lateEvents (s : State) : List Instr :=
  s.clusters.entries.flatMap (fun c => (List.range c.2.tasks.length).map (fun i => .taskReadyTimeout (c.1 / 8) (c.1 % 8 + 8 * i)))
    ++ s.dies.entries.flatMap (fun d => d.2.reds.flatMap (fun r =>
        (List.range Config.coresPerDie).map (.mredTimeout d.1 r.tree r.id)))
    ++ s.cores.entries.flatMap (fun c => c.2.blocks.entries.flatMap (fun b =>
        .drainTimeout c.1 b.1 :: b.2.cords.keys.map (fun i => .handlerTimeout (.cord ⟨c.1, b.1, i⟩)))
      ++ c.2.ops.keys.map (fun e => .handlerTimeout (.op c.1 e)))

/-- An act changes the state, the model's own notes of waits and of free values apart. -/
def changes (s : State) (e : Instr) : Bool :=
  match exec e s with
  | .next t => decide ({ t with stalled := s.stalled, freeCtr := s.freeCtr } ≠ s)
  | _ => false

/-! ### Issue arbitration (R9, R38) -/

/-- A cord's next instruction is one of the uniform set (R72). -/
def offersUniform (s : State) (r : CordRef) : Bool :=
  match here { s with cur := r } with
  | none => false
  | some h => ((h.held.map (·.1)).orElse (fun _ => codeWord s r.core h.block.ctx h.addr)).any (fun w => w.getLsbD 31)

/-- A cord that may issue: where it stands, its priority and quarter, and the clock of its last issue. -/
structure Eligible where
  ref : CordRef
  prio : Nat
  quarter : Nat
  last : Nat
  /-- Its next instruction is one of the uniform set. -/
  uni : Bool
  deriving DecidableEq, Repr

/-- A cord may issue: a lane in RUN, not found waiting since the state last changed, and no `yield` of the clock before (R38, R242). -/
def mayIssue (s : State) (r : CordRef) (b : Block) (c : Cord) : Bool :=
  b.status.issues && c.issueAddr.isSome && !s.stalled.contains r && c.rest != some s.clock

/-- The cords of a core that may issue, by block slot and cord index. -/
def eligible (s : State) (core : Nat) : List Eligible :=
  (s.core core).blocks.entries.flatMap (fun b => b.2.cords.entries.filterMap (fun x =>
    let r : CordRef := ⟨core, b.1, x.1⟩
    if mayIssue s r b.2 x.2 then some ⟨r, b.2.prio, x.2.quarter, x.2.last, offersUniform s r⟩ else none))

/-- One cord of a quarter is chosen before another: priority, then the longest wait, then the order of the list (R38). -/
def Eligible.before (x y : Eligible) : Bool := decide (y.prio < x.prio) || (x.prio == y.prio && decide (x.last < y.last))

/-- The first of some cords in an order. -/
def firstBy (f : Eligible → Eligible → Bool) (l : List Eligible) : Option Eligible :=
  l.foldl (fun m x => match m with
    | none => some x
    | some y => if f x y then some x else some y) none

/-- The cord that a quarter of a core chooses for an instruction of the lane set, or of the uniform set: it may issue one of each on a
clock (R8, R38). -/
def quarterChoice (s : State) (core q : Nat) (uni : Bool) : Option Eligible :=
  firstBy Eligible.before ((eligible s core).filter (fun x => x.quarter == q && x.uni == uni))

/-- The cord has waited longer; the order of the list, by quarter, decides between equals (R9). -/
def Eligible.longer (x y : Eligible) : Bool := decide (x.last < y.last)

/-- The cord that the uniform pipe of a core takes: of those that the quarters offer, the one that has waited longest (R9). -/
def pipeChoice (s : State) (core : Nat) : Option Eligible :=
  firstBy Eligible.longer ((List.range 4).filterMap (fun q => quarterChoice s core q true))

/-- The cords of a core that may issue next: one of each quarter to its vector pipe, and one to the uniform pipe. -/
def coreChoices (s : State) (core : Nat) : List Eligible :=
  (List.range 4).filterMap (fun q => quarterChoice s core q false) ++ (pipeChoice s core).toList

/-- The cord that issues when the quarter of `c` is to issue an instruction of the set that `c` offers: the quarter's choice for its vector
pipe (R38), or the cord that R9 lets into the uniform pipe first. -/
def issuer (s : State) (c : CordRef) : Option CordRef :=
  match s.cord? c with
  | none => none
  | some x => (if offersUniform s c then pipeChoice s c.core else quarterChoice s c.core x.quarter false).map (·.ref)

/-- The cord of the device that issues of itself: of the quarters' choices the one that has waited longest. -/
def chosenCord (s : State) : Option CordRef :=
  (firstBy Eligible.longer (s.cores.keys.flatMap (coreChoices s))).map (·.ref)

/-- A cord rests for this clock, after a `yield` (R242). -/
def resting (s : State) : Bool :=
  s.cores.vals.any (fun c => c.blocks.vals.any (fun b => b.cords.vals.any (fun x => x.rest == some s.clock)))

/-! ### The next move -/

/-- The move when the agenda lists none; none when nothing can happen. -/
def defaultMove (s : State) : Option Move :=
  match (agentEvents s).find? (changes s) with
  | some e => some (.event e)
  | none => match chosenCord s with
    | some r => some (.issue r)
    | none => if resting s then none else ((lateEvents s).find? (changes s)).map .event

/-- The next move, and the state it acts on: one more move has been made, and the agenda is one shorter. -/
def nextMove (s : State) : Option Move × State :=
  match s.agenda with
  | m :: r => (some m, { s with agenda := r, clock := s.clock + 1 })
  | [] => (defaultMove { s with clock := s.clock + 1 }, { s with clock := s.clock + 1 })

/-- An agent that reads and may see older bytes: a cord of a block that has not ended, an unfinished operation, or an arrival at a complete
contraction instance, whose operand reads come when it runs (R64, R266). -/
def reads (s : State) : Agent → Bool
  | .cord c b i => (s.core c).blocks.vals.any (fun x => x.id == b && x.status != .ended && (x.cords.get? i).isSome)
  | .op c b t => (s.core c).ops.vals.any (fun o => o.token == t && o.owner == b && !o.state.finished)
  | .inst c p n => (s.core c).blocks.vals.any (fun b => b.tiles.zipIdx.any (fun t => t.1 == p && ((s.core c).tile p).slots.any (fun i =>
      i.arrivals.any (fun a => a.stamp == n) && instComplete b t.2 i)))
  | _ => false

/-- What an agent sees at once: a word, or one operand byte of a contraction (R266, R281). -/
def seesSize : Agent → Nat
  | .inst .. => 1
  | _ => 4

/-- The store has the place. -/
def Place.exists_ (n : Nat) : Place → Bool
  | .sp c a => decide (c < Config.dies * Config.coresPerDie) && decide (a + n ≤ Config.scratchBytes)
  | .glob (.hbm a) => decide (a + n ≤ Config.hbmBytes)
  | .glob _ => true

/-- An agent may pick what it sees at a place: one word, or one byte. -/
def pickOk (s : State) (a : Agent) (p : Place) : Bool := reads s a && p.addr % seesSize a == 0 && p.exists_ (seesSize a)

/-- What a move does: the quarter of a cord issues, another agent acts, the writes of a word are told apart, or an
agent picks the write up to which it sees a place (R268, R272). -/
def runMove : Move → State → Out
  | .issue c, s => match issuer s c with
    | none => .next s
    | some r => issueNext r s
  | .event e, s => exec e s
  | .track p, s => .next (if p.addr % 4 == 0 && p.exists_ 4 then s.track p else s)
  | .pick a p n, s => .next (if pickOk s a p then s.pick a p (seesSize a) n else s)

/-- The move is made; with none, time passes. -/
def runNext (s : State) : Out :=
  match nextMove s with
  | (some m, t) => runMove m t
  | (none, t) => .next t

/-! ### Placing an instruction -/

/-- Where a program stands that is loaded from outside (log entry 20, DESIGN CHOICE): its code address, and the code-store page. -/
def loadAddr : Nat := 0x1000

/-- The cord that runs a loaded program: 32 lanes in RUN at its address. -/
def loadedCord : Cord :=
  { Cord.fresh with
    lanes := Tab.ofList ((List.range 32).map (fun j => (j, { Lane.absent with pc := BitVec.ofNat 32 loadAddr, st := .run })))
    joinm := 0xFFFFFFFF, present := 0xFFFFFFFF, vbud := 64, ubud := 64, entry := BitVec.ofNat 32 loadAddr
    restart := { label := BitVec.ofNat 32 loadAddr, regs := List.replicate 16 0, counts := .empty, skips := [], lanes := 0xFFFFFFFF } }

/-- The block that runs a loaded program. -/
def loadedBlock : Block :=
  { Block.fresh with
    status := .running, cords := Tab.empty.set 0 loadedCord, splen := 65536, tiles := [0, 1, 2, 3], chans := [0, 1], ops := 16
    lsize := 4096 }

/-- The state with the bytes of a program in core 0's code store, a block that runs it, and its issue as the next move. -/
def loadProgram (s : State) (l : List Byte) : State :=
  let c := s.core 0
  let c := { c with
    blocks := c.blocks.set 0 loadedBlock, code := c.code.write 0 l
    map := { ctx := 0, cpage := loadAddr / Config.pageBytes, ovl := 0, spage := 0 } :: c.map }
  { s.setCore 0 c with agenda := .issue ⟨0, 0, 0⟩ :: s.agenda }

end Sys2Proof.Machine
end

