-- ==== Sys2Proof/Machine/Step.lean ====
section
/-!
DEFINITION. One step of the device: the next move, made (log entry 1, DESIGN CHOICE).
-/

namespace Sys2Proof.Machine

/-- One step. -/
def step (s : State) : Host.Outcome State Fault Refusal := runNext s

/-- `s` with an instruction, given by its bits, stored where the next step fetches (log entry 20, DESIGN CHOICE). -/
def State.withFetchWord (s : State) (nbits w : Nat) : State := loadProgram s (tableBytes nbits w)

end Sys2Proof.Machine
end

