-- ==== Sys2Proof/Safety.lean ====
section
/-!
DEFINITION. The terms in which claims about the machine are stated: which cord executes an instruction now (02_execution.md
R20 to R23, 04_idioms.md R61, 05_encoding.md R80, R84), what an issue leaves behind and what it leaves alone, and the
canonical form of every store.
-/

namespace Sys2Proof.Machine

/-! ### The canonical form of the stores -/

/-- Every store of a core is in canonical form. -/
def Core.memOk (c : Core) : Bool := c.spad.wf && c.acc.wf && c.code.wf

/-- Every store of a saved context is in canonical form. -/
def Saved.memOk (v : Saved) : Bool := v.spad.wf && v.tiles.all (fun t => t.1.wf)

/-- Every store of the device is in canonical form, so that equal stores are equal data. -/
def State.memOk (s : State) : Bool :=
  s.hbm.wf && s.host.wf && s.peers.vals.all (fun m => m.wf) && s.cores.vals.all Core.memOk && s.saved.all Saved.memOk

/-! ### Who executes -/

/-- The cord at `State.cur` once the lookahead windows that the issue of `i` closes are closed (R26). -/
def issuing (i : Instr) (h : Here) : Here :=
  { h with cord := closeWindows h.cord h.addr (uses i), set := (closeWindows h.cord h.addr (uses i)).execSet }

/-- The cord that `h` describes issues `i` at `s`: it stands at `State.cur` in a block that runs, has a lane in RUN
at the issue address, and nothing holds the issue back: no dependence on an instruction in flight (R61), no order to wait for
(R269), no parked lane at a holding point (R27). -/
structure Issues (i : Instr) (s : State) (h : Here) : Prop where
  stands : ∃ h₀, here s = some h₀ ∧ h₀.block.status.issues = true ∧ h₀.set ≠ [] ∧ h = issuing i h₀
  lanes : h.cord.issueAddr = some h.addr
  parked : isHolding i = true → h.cord.unserved = false
  latency : latencyHolds h.cord h.addr (uses i) = false
  flags : flagsHold h.cord i = false
  order : orderHolds h.cord i = false

/-- The issued instruction executes: its guard is true where it is of the uniform set (R80), its registers are in range (R246),
no release of its own waits for a gather (R269), and nothing it reads has a soft error (R265). -/
structure Executes (i : Instr) (s : State) (h : Here) : Prop extends Issues i s h where
  guard : guardOn h.cord i = true
  range : badReg h.cord (uses i) = none
  release : relEntry i = true → h.cord.gathers = []
  sound : (s.core h.ref.core).bad = []

/-- An instruction that the cord may not execute here: `swr` and `hret` outside a handler, `gatom`, and `atom` in the armature space,
of a deterministic block (R317, R333). -/
def privileged (i : Instr) (h : Here) : Bool :=
  match i with
  | .swr _ | .hret _ => h.cord.handler.isNone
  | .gatom _ => h.block.det
  | .atom o => h.block.det && o.space == .arm
  | _ => false

/-- The state as an operation finds it: the windows that the issue closes are closed (R26). -/
def opened (s : State) (h : Here) : State := s.setCord h.ref h.cord

/-- The code address that follows an instruction. -/
def Here.after (h : Here) (i : Instr) : Word := BitVec.ofNat 32 (h.addr + sizeOf' i)

/-- A lane that goes on to the next instruction. -/
def Here.next (h : Here) (i : Instr) (l : Lane) : Lane := { l with pc := h.after i }

/-! ### What an issue leaves behind -/

/-- An instruction that may send lanes elsewhere than to the next one (R139, R142 to R144). -/
def sends : Instr → Bool
  | .bra _ | .braLong _ | .brx _ | .sbra _ | .sbraLong _ | .sbrx _ | .call _ | .callLong _ | .callx _ | .callo _ | .ret _ => true
  | _ => false

/-- The address that follows the issue in code order, for windows and lookahead; none where it sent a lane elsewhere, or called or returned
(R26, R61). -/
def Here.follow (h : Here) (i : Instr) (c : Cord) : Option Word :=
  let left (k : Nat) : Bool := (c.lane k).pc != h.after i || (c.lane k).frames.length != (h.cord.lane k).frames.length
  if sends i && h.set.any (fun k => (c.lane k).st == .run && left k) then none else some (h.after i)

/-- A cord before and after an issue, but for its lanes: one more instruction counted (R245), one issue less left to everything in
flight (R61) and `fl` joined to it, and every other register and table of the cord as in `x`. -/
def Counted (h : Here) (i : Instr) (clock : Nat) (fl : List InFlight) (x c : Cord) : Prop :=
  c = { x.count (h.follow i c) h.set clock fl [] with lanes := c.lanes }

/-- A lane that did not execute keeps its registers, predicates, frames and identity; only a rejoin may move it on (R24). -/
def Resting (x c : Lane) : Prop := c = { x with pc := c.pc, st := c.st, data := c.data }

/-- Everything outside the cord at `r` that an instruction without an effect on memory leaves alone. -/
structure Apart (r : CordRef) (s t : State) : Prop where
  cords : ∀ q, q ≠ r → t.cord? q = s.cord? q
  spad : ∀ n, (t.core n).spad = (s.core n).spad
  acc : ∀ n, (t.core n).acc = (s.core n).acc
  code : ∀ n, (t.core n).code = (s.core n).code
  map : ∀ n, (t.core n).map = (s.core n).map
  res : ∀ n, (t.core n).res = (s.core n).res
  ops : ∀ n, (t.core n).ops = (s.core n).ops
  gens : ∀ n, (t.core n).gens = (s.core n).gens
  chans : ∀ n, (t.core n).chans = (s.core n).chans
  tiles : ∀ n, (t.core n).tiles = (s.core n).tiles
  lines : ∀ n, (t.core n).lines = (s.core n).lines
  hbm : t.hbm = s.hbm
  host : t.host = s.host
  peers : t.peers = s.peers
  clusters : t.clusters = s.clusters
  dies : t.dies = s.dies
  ctxs : t.ctxs = s.ctxs
  saved : t.saved = s.saved
  mgmt : t.mgmt = s.mgmt
  /-- No further word's writes are told apart, and while none are there is no data race to note (R272). -/
  tracks : s.tracks = [] → t.tracks = [] ∧ t.raced = s.raced

/-- Every byte of every store but the registers of cords. -/
structure SameMemory (s t : State) : Prop where
  spad : ∀ n a, (t.core n).spad.get a = (s.core n).spad.get a
  acc : ∀ n a, (t.core n).acc.get a = (s.core n).acc.get a
  code : ∀ n a, (t.core n).code.get a = (s.core n).code.get a
  hbm : ∀ a, t.hbm.get a = s.hbm.get a
  host : ∀ a, t.host.get a = s.host.get a
  peers : ∀ p a, (t.peers.get p []).get a = (s.peers.get p []).get a

/-- The state with other TLB entries and counters of corrected errors of its dies, and with the lines that the local-memory paths of its
cores hold: what reads leave behind beside their data (R260, R265, R309). -/
structure Reads (r : CordRef) (s t : State) : Prop where
  cords : ∀ q, q ≠ r → t.cord? q = s.cord? q
  spad : ∀ n, (t.core n).spad = (s.core n).spad
  acc : ∀ n, (t.core n).acc = (s.core n).acc
  code : ∀ n, (t.core n).code = (s.core n).code
  map : ∀ n, (t.core n).map = (s.core n).map
  res : ∀ n, (t.core n).res = (s.core n).res
  ops : ∀ n, (t.core n).ops = (s.core n).ops
  gens : ∀ n, (t.core n).gens = (s.core n).gens
  chans : ∀ n, (t.core n).chans = (s.core n).chans
  tiles : ∀ n, (t.core n).tiles = (s.core n).tiles
  /-- Lines may come in; none of them holds a written byte. -/
  lines : ∀ n, ∃ l, (t.core n).lines = (s.core n).lines ++ l ∧ ∀ x ∈ l, x.bytes = .empty
  hbm : t.hbm = s.hbm
  host : t.host = s.host
  peers : t.peers = s.peers
  clusters : t.clusters = s.clusters
  dies : ∀ d, t.die d = { s.die d with tlb := (t.die d).tlb, ce := (t.die d).ce }
  ctxs : t.ctxs = s.ctxs
  saved : t.saved = s.saved
  mgmt : t.mgmt = s.mgmt
  /-- No further word's writes are told apart, and while none are there is no data race to note (R272). -/
  tracks : s.tracks = [] → t.tracks = [] ∧ t.raced = s.raced

/-! ### The shapes of results -/

/-- The lane that lane `k` computes from: itself, or the lowest-numbered active lane with the uniform assertion (R60). -/
def Here.giver (h : Here) (g : Guard) (u : Bool) (k : Nat) : Nat := if u then (h.active g).headD k else k

/-- Its registers. -/
def Here.source (h : Here) (g : Guard) (u : Bool) (k : Nat) : Lane := h.cord.lane (if u then (h.active g).headD k else k)

/-- The lanes that access memory: the active ones, or with the uniform assertion the lowest-numbered of them (R60). -/
def Here.doers (h : Here) (g : Guard) (u : Bool) : List Nat := if u then (h.active g).take 1 else h.active g

/-- Instruction `i` completes at `s` with its own effect, and touches nothing but its cord: the cord's own registers become those of
`x`, each lane of the executing set becomes what `lane` gives, `fl` is left in flight, and every other lane rests. -/
def Completes (i : Instr) (s : State) (h : Here) (x : Cord) (lane : Nat → Lane) (fl : List InFlight) : Prop :=
  ∃ t c, exec i s = .next t ∧ t.cord? h.ref = some c ∧ Apart h.ref s t ∧ Counted h i s.clock fl x c ∧
    (∀ k ∈ h.set, c.lane k = lane k) ∧ ∀ k, k ∉ h.set → Resting (h.cord.lane k) (c.lane k)

/-- Instruction `i` completes at `s` with its own effect on the rest of the machine: outside its cord the state is that of `m`. The
cord is as `Completes` says. -/
def CompletesAs (i : Instr) (s : State) (h : Here) (m : State) (x : Cord) (lane : Nat → Lane) (fl : List InFlight) : Prop :=
  ∃ t c, exec i s = .next t ∧ t.cord? h.ref = some c ∧ Apart h.ref m t ∧ Counted h i s.clock fl x c ∧
    (∀ k ∈ h.set, c.lane k = lane k) ∧ ∀ k, k ∉ h.set → Resting (h.cord.lane k) (c.lane k)

/-- The same, where `P` says what is left outside the cord. -/
def CompletesWith (i : Instr) (s : State) (h : Here) (x : Cord) (lane : Nat → Lane) (fl : List InFlight) (P : State → Prop) : Prop :=
  ∃ t c, exec i s = .next t ∧ t.cord? h.ref = some c ∧ Counted h i s.clock fl x c ∧
    (∀ k ∈ h.set, c.lane k = lane k) ∧ (∀ k, k ∉ h.set → Resting (h.cord.lane k) (c.lane k)) ∧ P t

/-- The tile that an operand names, free of everything that an instruction on it waits for (R180, R181, R194, R219); a cord write
waits for the writes of other cords before it too (R182). -/
def tileFree (s : State) (h : Here) (n : TileN) (w : Bool) (p : Nat) : Prop :=
  physTile h.block n.toNat = some p ∧ tileWaits (s.core h.ref.core) h.ref.slot h.ref.cord p = false ∧
    tileBusy (s.core h.ref.core) p = false ∧ tileBegun ((s.core h.ref.core).tile p) none = false ∧
    (w = true → writeBefore (s.core h.ref.core) p h.block n.toNat h.ref.cord s.clock = false)

/-- An event happens at `s`, and leaves `t` but for the notes of who has found a wait unfinished. -/
def Happens (e : Instr) (s t : State) : Prop := exec e s = .next { t with stalled := [] }

/-- The instruction completes, and `f` gives each lane of the executing set with a true guard: from the lane register budget, the
lane that the operands come from, and the lane itself. The cord's sr.fpf gains `fl`; nothing else changes. -/
def LaneResult (i : Instr) (g : Guard) (u : Bool) (f : Nat → Lane → Lane → Lane) (fl : Here → Flags) : Prop :=
  ∀ s h, Executes i s h → Completes i s h { h.cord with fpf := h.cord.fpf ||| fl h }
    (fun k => h.next i (if (h.cord.lane k).guard g then f h.cord.vbud (h.source g u k) (h.cord.lane k) else h.cord.lane k)) []

/-- Instruction `i` raises a fault at `s`: the lanes `ks` park with their PCs on it and nothing of them changes else, sr.cause and
sr.tval take `cause` and `tval`, the other lanes of the executing set go on as `lane` gives, and nothing outside the cord changes
(R27, R84, R149). -/
def Faults (i : Instr) (s : State) (h : Here) (ks : List Nat) (lane : Nat → Lane) (cause : Byte) (tval : Word) : Prop :=
  ∃ t c, exec i s = .next t ∧ t.cord? h.ref = some c ∧ Apart h.ref s t ∧
    Counted h i s.clock [] { h.cord with cause := cause, tval := tval, gfault := c.gfault } c ∧
    (∀ k ∈ ks, c.lane k = { h.cord.lane k with st := .park, data := false, served := false }) ∧
    (∀ k ∈ h.set, k ∉ ks → c.lane k = lane k) ∧ ∀ k, k ∉ h.set → c.lane k = h.cord.lane k

/-- The same, where sr.tval is left to no rule. -/
def FaultsFree (i : Instr) (s : State) (h : Here) (ks : List Nat) (cause : Byte) : Prop :=
  ∃ tval, Faults i s h ks (fun k => h.next i (h.cord.lane k)) cause tval

/-- No flag. -/
def noFlags (_ : Here) : Flags := 0

/-- The flags of an operation over lanes: those of every active lane (R58). -/
def laneFlags (g : Guard) (u : Bool) (f : Nat → Lane → Lane → Lane × Flags) (h : Here) : Flags :=
  (h.active g).foldl (fun x k => x ||| (f h.cord.vbud (h.source g u k) (h.cord.lane k)).2) 0

/-- The instruction completes, and `f` gives each active lane and the flags that it sets. -/
def LaneFlagResult (i : Instr) (g : Guard) (u : Bool) (f : Nat → Lane → Lane → Lane × Flags) : Prop :=
  LaneResult i g u (fun n a l => (f n a l).1) (laneFlags g u f)

/-- A lane with register d written from registers a and b of the source lane. -/
def writes3 (o : O3) (f : Word → Word → Word) (n : Nat) (a l : Lane) : Lane :=
  l.setV n o.d.toNat (f (a.v n o.a.toNat) (a.v n o.b.toNat))

/-- A lane with register d written from register a of the source lane. -/
def writes2 (o : O2) (f : Word → Word) (n : Nat) (a l : Lane) : Lane := l.setV n o.d.toNat (f (a.v n o.a.toNat))

/-- A lane with register d written from register a of the source lane and the immediate. -/
def writesI (o : OI2) (f : Word → Word → Word) (n : Nat) (a l : Lane) : Lane :=
  l.setV n o.d.toNat (f (a.v n o.a.toNat) o.imm)

/-- A lane with register d written from register a of the source lane and the shift amount. -/
def writesSh (o : OSh) (f : Word → Nat → Word) (n : Nat) (a l : Lane) : Lane :=
  l.setV n o.d.toNat (f (a.v n o.a.toNat) o.amt.toNat)

/-- A shift by an amount of bits [7:0] of a register: 32 or more gives 0, or the sign in every bit (R109). -/
def shiftBy (f : Word → Nat → Word) (x y : Word) : Word := f x (y.toNat % 256)

/-- The instruction completes, and the cord's own registers become those of `f`; nothing else changes. -/
def CordResult (i : Instr) (f : Here → Cord) : Prop :=
  ∀ s h, Executes i s h → Completes i s h (f h) (fun k => h.next i (h.cord.lane k)) []

/-- The value of a finite number. -/
def numVal (s : Bool) (m : Nat) (e : Int) : ℚ := (if s then -1 else 1) * m * (2 : ℚ) ^ e

/-- `y` is an exact value rounded once, however the value is written down (R45, R52); a zero has the sign `z` (R44). -/
def RoundedOnce (f : Fmt) (mode : Rnd) (r : Word) (sat : Bool) (x : ℚ) (z : Bool) (y : Nat × Flags) : Prop :=
  (x = 0 → y = (f.signed z 0, 0)) ∧ ∀ s m e, m ≠ 0 → numVal s m e = x → y = roundNum f mode r sat false (.fin s m e)

/-- Position `i` of the pairwise tree of R134 at a level, over the positions that `x` fills, and the flags of its roundings: an absent
partner adds none. -/
def pairTree (f : Word → Word → Word × Flags) (x : Nat → Option Word) : Nat → Nat → Option Word × Flags
  | 0, i => (x i, 0)
  | n + 1, i =>
    let a := pairTree f x n i
    let b := pairTree f x n (i + 2 ^ n)
    match a.1, b.1 with
    | some y, some z => (some (f y z).1, a.2 ||| b.2 ||| (f y z).2)
    | some y, none => (some y, a.2 ||| b.2)
    | none, z => (z, a.2 ||| b.2)

/-- The frame that a call pushes (R140, R141, R142): the return address, no registers of its own yet, and the window bases moved on by
the caller's sizes. -/
def calleeFrame (h : Here) (ret : Word) (hold : Option Nat) (l : Lane) : Frame :=
  { ret := some ret, vf := 0, sf := 0, vb := slideBase (ringSize h.cord.vbud) l.frame.vb l.frame.vf
    sb := slideBase (ringSize h.cord.ubud) l.frame.sb l.frame.sf, hold := hold, spill := none }

end Sys2Proof.Machine
end

