-- ==== Sys2Proof/Certificates/Slice0/Obligations.lean ====
section
/-!
DEFINITION. The statements about the machine that are to be proved. Each formalises rules of the spec that its docstring names.
-/

open Sys2Proof Sys2Proof.Machine

/-! ### Integer arithmetic of the lane set -/

/-- R108, R109, R104, R105: moves and logic give each active lane its result, d = v0 writes nothing, and nothing else changes. `sel`
writes in every lane of the executing set, since its guard field selects (R116). -/
def Obligations.LaneMoveAndLogic : Prop :=
  (∀ o, LaneResult (.nop o) o.gd o.u (fun _ _ l => l) noFlags) ∧
  (∀ o, LaneResult (.mov o) o.gd o.u (writes2 o id) noFlags) ∧
  (∀ o, LaneResult (.movi o) o.gd o.u (fun n _ l => l.setV n o.d.toNat o.imm) noFlags) ∧
  (∀ o, LaneResult (.and o) o.gd o.u (writes3 o (fun x y => x &&& y)) noFlags) ∧
  (∀ o, LaneResult (.or o) o.gd o.u (writes3 o (fun x y => x ||| y)) noFlags) ∧
  (∀ o, LaneResult (.xor o) o.gd o.u (writes3 o (fun x y => x ^^^ y)) noFlags) ∧
  (∀ o, LaneResult (.andn o) o.gd o.u (writes3 o (fun x y => x &&& ~~~y)) noFlags) ∧
  (∀ o, LaneResult (.andi o) o.gd o.u (writesI o (fun x y => x &&& y)) noFlags) ∧
  (∀ o, LaneResult (.ori o) o.gd o.u (writesI o (fun x y => x ||| y)) noFlags) ∧
  (∀ o, LaneResult (.xori o) o.gd o.u (writesI o (fun x y => x ^^^ y)) noFlags) ∧
  ∀ o, LaneResult (.sel o) ⟨7, false⟩ o.u
    (fun n a l => l.setV n o.d.toNat (if a.guard o.sel then a.v n o.a.toNat else a.v n o.b.toNat)) noFlags

/-- R108: sums, differences and products of the exact operand values, wrapped to the type or clamped with `.sat`; with a 64-bit
type the operands are pairs. -/
def Obligations.LaneAddAndMultiply : Prop :=
  let sum (ty : Ty) (sat : Bool) (x : Int) : Word := BitVec.ofNat 32 (satInt (if ty == .none then .n32 else ty) sat x)
  let val (ty : Ty) (x : Word) : Int := bitsInt (if ty == .none then .n32 else ty) x.toNat
  let pair (l : Lane) (n d : Nat) (x : Nat) : Lane :=
    (l.setV n d (BitVec.ofNat 32 x)).setV n (d + 1) (BitVec.ofNat 32 (x / 2 ^ 32))
  (∀ o, o.ty.is64 = false → LaneResult (.iadd o) o.gd o.u (fun n a l =>
    l.setV n o.d.toNat (sum o.ty o.sat (val o.ty (a.v n o.a.toNat) + val o.ty (a.v n o.b.toNat)))) noFlags) ∧
  (∀ o, o.ty.is64 = true → LaneResult (.iadd o) o.gd o.u (fun n a l => pair l n o.d.toNat
    (satInt o.ty o.sat (bitsInt o.ty (a.v64 n o.a.toNat).toNat + bitsInt o.ty (a.v64 n o.b.toNat).toNat))) noFlags) ∧
  (∀ o, o.ty.is64 = false → LaneResult (.isub o) o.gd o.u (fun n a l =>
    l.setV n o.d.toNat (sum o.ty o.sat (val o.ty (a.v n o.a.toNat) - val o.ty (a.v n o.b.toNat)))) noFlags) ∧
  (∀ o, o.ty.is64 = true → LaneResult (.isub o) o.gd o.u (fun n a l => pair l n o.d.toNat
    (satInt o.ty o.sat (bitsInt o.ty (a.v64 n o.a.toNat).toNat - bitsInt o.ty (a.v64 n o.b.toNat).toNat))) noFlags) ∧
  (∀ o, LaneResult (.iaddi o) o.gd o.u (writesI o (fun x y => x + y)) noFlags) ∧
  (∀ o, LaneResult (.imul o) o.gd o.u (writes3 o (fun x y => x * y)) noFlags) ∧
  (∀ o, LaneResult (.imulhs o) o.gd o.u (writes3 o (fun x y => BitVec.ofInt 32 (x.toInt * y.toInt / 2 ^ 32))) noFlags) ∧
  (∀ o, LaneResult (.imulhn o) o.gd o.u (writes3 o (fun x y => BitVec.ofNat 32 (x.toNat * y.toNat / 2 ^ 32))) noFlags) ∧
  (∀ o, LaneResult (.imad o) o.gd o.u (fun n a l => l.setV n o.d.toNat
    (sum o.ty o.sat (val o.ty (a.v n o.a.toNat) * val o.ty (a.v n o.b.toNat) + val o.ty (a.v n o.c.toNat)))) noFlags) ∧
  (∀ o, LaneResult (.iabs o) o.gd o.u
    (fun n a l => l.setV n o.d.toNat (sum .s32 o.sat ((a.v n o.a.toNat).toInt.natAbs : Int))) noFlags) ∧
  ∀ o, LaneResult (.ineg o) o.gd o.u (fun n a l => l.setV n o.d.toNat (sum .s32 o.sat (-(a.v n o.a.toNat).toInt))) noFlags

/-- R46: the integer types: their widths; two's complement when signed and plain binary when natural; and what an exact integer
becomes. Without `.sat` it wraps: the bits are its residue modulo 2 to the width. With `.sat` (R53) the value of the bits is the nearest
value of the type. -/
def Obligations.IntegerTypes : Prop :=
  ([Ty.s8, .n8, .s16, .n16, .s32, .n32, .s64, .n64].map Ty.width = [8, 8, 16, 16, 32, 32, 64, 64]) ∧
  ∀ ty : Ty, ty.isInt = true →
    (∀ w : Nat, w < 2 ^ ty.width →
      bitsInt ty w = if ty.isSigned && decide (2 ^ (ty.width - 1) ≤ w) then (w : Int) - 2 ^ ty.width else w) ∧
    ∀ x : Int,
      satInt ty false x < 2 ^ ty.width ∧ (satInt ty false x : Int) = x % 2 ^ ty.width ∧
      bitsInt ty (satInt ty true x) =
        (if ty.isSigned then max (-(2 ^ (ty.width - 1))) (min (2 ^ (ty.width - 1) - 1) x) else max 0 (min (2 ^ ty.width - 1) x))

/-- R108 to R110, R117: minima, maxima and shifts; bit counts, bit fields, and the 64-bit address sum. A register amount of a shift is
bits [7:0]; an amount of 32 or more gives 0, and 32 copies of the sign for `shra`. `bfi` keeps the bits of d outside the field; that with
the uniform assertion these are each lane's own is the model's choice (log entry 9). -/
def Obligations.LaneShiftsAndBitFields : Prop :=
  (let put64 (l : Lane) (n d : Nat) (x : DWord) : Lane := (l.setV n d (x.setWidth 32)).setV n (d + 1) (x.extractLsb' 32 32)
   let ones (n : Nat) : Word := BitVec.ofNat 32 (2 ^ n - 1)
   (∀ o, LaneResult (.bfx o) o.gd o.u (fun n a l => l.setV n o.d.toNat
     (let x := ((a.v n o.a.toNat) >>> o.pos.toNat) &&& ones (o.wm1.toNat + 1)
      if o.sx && x.getLsbD o.wm1.toNat then x ||| ~~~ones (o.wm1.toNat + 1) else x)) noFlags) ∧
   (∀ o, LaneResult (.bfi o) o.gd o.u (fun n a l => l.setV n o.d.toNat
     ((l.v n o.d.toNat &&& ~~~(ones (o.wm1.toNat + 1) <<< o.pos.toNat)) |||
       ((a.v n o.a.toNat &&& ones (o.wm1.toNat + 1)) <<< o.pos.toNat))) noFlags) ∧
   (∀ o, LaneResult (.popc o) o.gd o.u (writes2 o (fun x => BitVec.ofNat 32
     ((List.range 32).countP (fun j => x.getLsbD j)))) noFlags) ∧
   (∀ o, LaneResult (.clz o) o.gd o.u (writes2 o (fun x => x.clz)) noFlags) ∧
   (∀ o, LaneResult (.brev o) o.gd o.u (writes2 o (fun x => x.reverse)) noFlags) ∧
   ∀ o, LaneResult (.lea o) o.gd o.u (fun n a l => put64 l n o.d.toNat (a.v64 n o.a.toNat +
     (if o.sx then (a.v n o.b.toNat).signExtend 64 else (a.v n o.b.toNat).setWidth 64) <<< o.shift.toNat)) noFlags) ∧
  (let left (x : Word) (n : Nat) : Word := if n < 32 then x <<< n else 0
   let right (x : Word) (n : Nat) : Word := if n < 32 then x >>> n else 0
   let signed (x : Word) (n : Nat) : Word := x.sshiftRight (min n 31)
   (∀ o, LaneResult (.imins o) o.gd o.u (writes3 o (fun x y => if x.sle y then x else y)) noFlags) ∧
   (∀ o, LaneResult (.imaxs o) o.gd o.u (writes3 o (fun x y => if x.sle y then y else x)) noFlags) ∧
   (∀ o, LaneResult (.iminn o) o.gd o.u (writes3 o (fun x y => if x.ule y then x else y)) noFlags) ∧
   (∀ o, LaneResult (.imaxn o) o.gd o.u (writes3 o (fun x y => if x.ule y then y else x)) noFlags) ∧
   (∀ o, LaneResult (.shl o) o.gd o.u (writes3 o (shiftBy left)) noFlags) ∧
   (∀ o, LaneResult (.shrl o) o.gd o.u (writes3 o (shiftBy right)) noFlags) ∧
   (∀ o, LaneResult (.shra o) o.gd o.u (writes3 o (shiftBy signed)) noFlags) ∧
   (∀ o, LaneResult (.shli o) o.gd o.u (writesSh o left) noFlags) ∧
   (∀ o, LaneResult (.shrli o) o.gd o.u (writesSh o right) noFlags) ∧
   ∀ o, LaneResult (.shrai o) o.gd o.u (writesSh o signed) noFlags)

/-- R130: `perm` builds byte i of d from the byte of {b, a} that bits [2:0] of its selector name, or from that byte's sign in every
bit; bits [31:16] of c are ignored, and its imm11 holds 0. -/
def Obligations.PermuteBytes : Prop :=
  (∀ o, LaneResult (.perm o) o.gd o.u
    (fun n a l => l.setV n o.d.toNat (wPerm (a.v n o.a.toNat) (a.v n o.b.toNat) (a.v n o.c.toNat))) noFlags) ∧
  (∀ (a b c : Word) (i : Nat), i < 4 →
    let sel := c.toNat / 16 ^ i % 16
    let x : Byte := ((b ++ a : DWord).extractLsb' (8 * (sel % 8)) 8)
    (wPerm a b c).extractLsb' (8 * i) 8 = if sel < 8 then x else if x.msb then 0xFF else 0) ∧
  (∀ a b c : Word, wPerm a b c = wPerm a b (c &&& 0xFFFF)) ∧
  ∀ o e, encode (.perm o) = some e → e.first.extractLsb' 23 9 = 0b01_1001000 ∧ ∃ w, e.second = some w ∧ w.extractLsb' 0 11 = 0

/-- R111, R112: each 16-bit element alone; `vacs2` adds, compares strictly and selects, and writes its two decisions. -/
def Obligations.LanePacked : Prop :=
  let el (x : Word) (i : Nat) : Nat := x.toNat / 2 ^ (16 * i) % 2 ^ 16
  let both (f : Nat → Nat → Nat) (x y : Word) : Word :=
    BitVec.ofNat 32 (f (el x 0) (el y 0) % 2 ^ 16 + f (el x 1) (el y 1) % 2 ^ 16 * 2 ^ 16)
  let ty (t : Ty) : Ty := if t == .none then .n16 else t
  (∀ o, LaneResult (.vadd2 o) o.gd o.u (fun n a l => l.setV n o.d.toNat (both (fun x y =>
    satInt (ty o.ty) o.sat (bitsInt (ty o.ty) x + bitsInt (ty o.ty) y)) (a.v n o.a.toNat) (a.v n o.b.toNat))) noFlags) ∧
  (∀ o, LaneResult (.vsub2 o) o.gd o.u (fun n a l => l.setV n o.d.toNat (both (fun x y =>
    satInt (ty o.ty) o.sat (bitsInt (ty o.ty) x - bitsInt (ty o.ty) y)) (a.v n o.a.toNat) (a.v n o.b.toNat))) noFlags) ∧
  (∀ o, LaneResult (.vmax2s o) o.gd o.u (writes3 o (both (fun x y => if sxInt x 16 ≤ sxInt y 16 then y else x))) noFlags) ∧
  (∀ o, LaneResult (.vmax2n o) o.gd o.u (writes3 o (both max)) noFlags) ∧
  (∀ o, LaneResult (.vmin2s o) o.gd o.u (writes3 o (both (fun x y => if sxInt x 16 ≤ sxInt y 16 then x else y))) noFlags) ∧
  (∀ o, LaneResult (.vmin2n o) o.gd o.u (writes3 o (both min)) noFlags) ∧
  ∀ o, LaneResult (.vacs2 o) o.gd o.u (fun n a l =>
    let sat (x y : Nat) : Nat := satInt o.ty true (bitsInt o.ty x + bitsInt o.ty y)
    let va := a.v n o.a.toNat
    let x (i : Nat) : Nat := sat (el va i) (el (a.v n o.b.toNat) i)
    let y (i : Nat) : Nat := sat (el va (1 - i)) (el (a.v n o.c.toNat) i)
    let win (i : Nat) : Bool := decide (bitsInt o.ty (y i) < bitsInt o.ty (x i))
    let out (i : Nat) : Nat := if win i then y i else x i
    ((l.setV n o.d.toNat (BitVec.ofNat 32 (out 0 % 2 ^ 16 + out 1 % 2 ^ 16 * 2 ^ 16))).setP o.pd.toNat (win 0)).setP
      (o.pd.toNat + 1) (win 1)) noFlags

/-- R113, R114, R115, R122: comparisons and predicate logic write one predicate of each active lane, and `pmov` moves all seven.
A write of p7 is discarded (R104). -/
def Obligations.LanePredicates : Prop :=
  (∀ o, o.ty.is64 = false → LaneResult (.icmp o) o.gd o.u (fun n a l => l.setP o.pd.toNat
    (let x := bitsInt o.ty (a.v n o.a.toNat).toNat
     let y := bitsInt o.ty (a.v n o.b.toNat).toNat
     condHolds o.cond (decide (x < y)) (decide (x = y)))) noFlags) ∧
  (∀ o, o.ty.is64 = true → LaneResult (.icmp o) o.gd o.u (fun n a l => l.setP o.pd.toNat
    (let x := bitsInt o.ty (a.v64 n o.a.toNat).toNat
     let y := bitsInt o.ty (a.v64 n o.b.toNat).toNat
     condHolds o.cond (decide (x < y)) (decide (x = y)))) noFlags) ∧
  (∀ o, LaneResult (.fcmp o) o.gd o.u (fun n a l => l.setP o.pd.toNat
    (let x := Fmt.f32.decode (a.v n o.a.toNat).toNat
     let y := Fmt.f32.decode (a.v n o.b.toNat).toNat
     if x.isNan || y.isNan then o.cond == .ne || o.cond == .un else condHolds o.cond (x.lt y) (x.eq y))) noFlags) ∧
  (∀ o, LaneResult (.plog o) o.gd o.u (fun _ a l => l.setP o.pd.toNat
    (let x := a.pred o.pa.toNat
     let y := a.pred o.pb.toNat
     match o.op with
     | .and => x && y
     | .or => x || y
     | .xor => x ^^ y
     | .andn => x && !y)) noFlags) ∧
  (∀ o, LaneResult (.pmovTov o) o.gd o.u (fun n a l => l.setV n o.r.toNat (BitVec.ofNat 32 (128 + a.p.toNat))) noFlags) ∧
  ∀ o, LaneResult (.pmovFrv o) o.gd o.u (fun n a l => { l with p := (a.v n o.r.toNat).setWidth 7 }) noFlags

/-- R104, R244: v0 and s0 read 0 and p7 and q7 read true whatever is written to them; every other register and predicate in range
reads what was written last, and a write leaves every other register number of the same frame alone. -/
def Obligations.ConstantRegisters : Prop :=
  (∀ (n : Nat) (l : Lane) (x : Word), (l.setV n 0 x) = l ∧ l.v n 0 = 0) ∧
  (∀ (l : Lane) (x : Bool), l.setP 7 x = l ∧ l.pred 7 = true) ∧
  (∀ (c : Cord) (b : Nat) (x : Word), (c.setS b 0 x) = c ∧ c.s b 0 = 0) ∧
  (∀ (c : Cord) (x : Bool), c.setQ 7 x = c ∧ c.qat 7 = true) ∧
  (∀ (n r q : Nat) (l : Lane) (x : Word), 0 < r → inRange n r = true → inRange n q = true →
    (l.setV n r x).v n q = if q = r then x else l.v n q) ∧
  (∀ (i j : Nat) (l : Lane) (x : Bool), i < 7 → (l.setP i x).pred j = if j = i then x else l.pred j) ∧
  (∀ (r q b : Nat) (c : Cord) (x : Word), 0 < r → inRange c.ubud r = true → inRange c.ubud q = true →
    (c.setS b r x).s b q = if q = r then x else c.s b q) ∧
  ∀ (i j : Nat) (c : Cord) (x : Bool), i < 7 → (c.setQ i x).qat j = if j = i then x else c.qat j

/-! ### Floating point -/

/-- R120, R121, R44, R45, R56, R58: an FP32 result is the exact one rounded once, with one draw of each lane's own generator in the mode
`.sr` and none else; the flags of every active lane join sr.fpf. On finite operands the exact one is the rational sum, difference, product,
or product and sum, of their values; a zero has the sign of R44. Minima, maxima and sign changes set no flag. Of two numbers `fmin` gives
the lesser and `fmax` the greater, a zero with a sign below one without, and of a number and NaN the number. -/
def Obligations.LaneFloat : Prop :=
  let round (o : OF3) (f : Fmt → Rnd → Word → Bool → Nat → Nat → Nat × Flags) (n : Nat) (a l : Lane) : Lane × Flags :=
    let (l', r) := lookDraws o.rnd 1 l
    let x := f .f32 o.rnd (r.headD 0) o.sat (a.v n o.a.toNat).toNat (a.v n o.b.toNat).toNat
    (l'.setV n o.d.toNat (BitVec.ofNat 32 x.1), x.2)
  let bits (d : Reg) (f : Lane → Nat → Nat) (n : Nat) (a l : Lane) : Lane := l.setV n d.toNat (BitVec.ofNat 32 (f a n))
  (∀ o, LaneFlagResult (.fadd o) o.gd o.u (round o fpAdd)) ∧
  (∀ o, LaneFlagResult (.fsub o) o.gd o.u (round o fpSub)) ∧
  (∀ o, LaneFlagResult (.fmul o) o.gd o.u (round o fpMul)) ∧
  (∀ o, LaneFlagResult (.ffma o) o.gd o.u (fun n a l =>
    let (l', r) := lookDraws o.rnd 1 l
    let x := fpFma .f32 o.rnd (r.headD 0) o.sat (a.v n o.a.toNat).toNat (a.v n o.b.toNat).toNat (a.v n o.c.toNat).toNat
    (l'.setV n o.d.toNat (BitVec.ofNat 32 x.1), x.2))) ∧
  (∀ o, LaneResult (.fmin o) o.gd o.u
    (bits o.d (fun a n => fpMinMax .f32 false (a.v n o.a.toNat).toNat (a.v n o.b.toNat).toNat)) noFlags) ∧
  (∀ o, LaneResult (.fmax o) o.gd o.u
    (bits o.d (fun a n => fpMinMax .f32 true (a.v n o.a.toNat).toNat (a.v n o.b.toNat).toNat)) noFlags) ∧
  (∀ o, LaneResult (.fabs o) o.gd o.u (bits o.d (fun a n => fpSign .f32 false (a.v n o.a.toNat).toNat)) noFlags) ∧
  (∀ o, LaneResult (.fneg o) o.gd o.u (bits o.d (fun a n => fpSign .f32 true (a.v n o.a.toNat).toNat)) noFlags) ∧
  (∀ (mx : Bool) (a b : Nat),
    let x := Fmt.f32.decode a
    let y := Fmt.f32.decode b
    let m (mx : Bool) := fpMinMax .f32 mx a b
    (x.isNan = true → m mx = if y.isNan then 0x7FC00000 else b) ∧
    (x.isNan = false → y.isNan = true → m mx = a) ∧
    (x.isNan = false → y.isNan = false → m mx = a ∨ m mx = b) ∧
    (∀ s, x = .inf s → y.isNan = false → y ≠ .inf s → m mx = if mx = s then b else a) ∧
    (∀ s, y = .inf s → x.isNan = false → x ≠ .inf s → m mx = if mx = s then a else b) ∧
    ∀ s k e t n i, x = .fin s k e → y = .fin t n i →
      (numVal s k e < numVal t n i ∨ (k = 0 ∧ n = 0 ∧ s = true ∧ t = false) → m false = a ∧ m true = b) ∧
      (numVal t n i < numVal s k e ∨ (k = 0 ∧ n = 0 ∧ t = true ∧ s = false) → m false = b ∧ m true = a)) ∧
  ∀ (f : Fmt) (mode : Rnd) (r : Word) (sat : Bool) (a b s t m n : _) (e k : Int), f.decode a = .fin s m e → f.decode b = .fin t n k →
    let x := numVal s m e
    let y := numVal t n k
    let zero (p q : Bool) : Bool := if p = q then p else mode == .rd
    RoundedOnce f mode r sat (x + y) (zero s t) (fpAdd f mode r sat a b) ∧
    RoundedOnce f mode r sat (x - y) (zero s (!t)) (fpSub f mode r sat a b) ∧
    RoundedOnce f mode r sat (x * y) (s ^^ t) (fpMul f mode r sat a b) ∧
    ∀ c u m' e', f.decode c = .fin u m' e' →
      RoundedOnce f mode r sat (x * y + numVal u m' e') (zero (s ^^ t) u) (fpFma f mode r sat a b c)

/-- R42, R52, R58: a value that a format holds rounds to its own encoding in every mode, with no flag. Rounding to nearest takes the
multiple of the spacing that is nearest, the even one of two equally near, and is inexact just when it moves the value. -/
def Obligations.Rounding : Prop :=
  (∀ f ∈ [Fmt.f32, .bf16, .f16, .e5m2, .e4m3], ∀ (mode : Rnd) (r : Word) (w : Nat), w < 2 ^ (1 + f.eb + f.mb) →
    (f.decode w).isNan = false → roundNum f mode r false false (f.decode w) = (w, 0)) ∧
  ∀ (r : Word) (neg : Bool) (m : Nat) (e q : Int), e ≤ q →
    let d : Int := 2 ^ (q - e).toNat
    let n := roundAt .rn r neg m e q
    2 * ((m : Int) - n.1 * d).natAbs ≤ d ∧ (2 * (((m : Int) - n.1 * d).natAbs : Int) = d → n.1 % 2 = 0) ∧
    (n.2.1 = true ↔ (m : Int) ≠ n.1 * d)

/-- R56, R123, R126 to R129: packed half-width arithmetic (whose sums and products are those of LaneFloat) draws for element 0 and then 1;
a conversion into part of a register keeps its other bits, and rounds the value of its source once, to the format or to an integer, or,
from one integer type to another, wraps or clamps it; unpacking, which gives the value of the element in FP32 or as an integer of 32 bits,
and classification, which sets the bit of the class of R129, set no flag. That `cvt` and `pk4` with the uniform assertion keep each lane's
own other bits of d is the model's choice (log entry 9). -/
def Obligations.LaneHalfAndConvert : Prop :=
  let half (d : Reg) (rnd : Rnd) (f : Nat → Lane → Nat → Word → Nat × Flags) (n : Nat) (a l : Lane) : Lane × Flags :=
    let (l', r) := lookDraws rnd 2 l
    let x := f n a 0 (r.getD 0 0)
    let y := f n a 1 (r.getD 1 0)
    (l'.setV n d.toNat (pack2 x.1 y.1), x.2 ||| y.2)
  (∀ o, LaneFlagResult (.hfma2 o) o.gd o.u (half o.d o.rnd (fun n a i r => fpFma (Fmt.ofTy o.ty) o.rnd r o.sat
    (elem (a.v n o.a.toNat) 16 i) (elem (a.v n o.b.toNat) 16 i) (elem (a.v n o.c.toNat) 16 i)))) ∧
  (∀ o, LaneFlagResult (.hadd2 o) o.gd o.u (half o.d o.rnd (fun n a i r => fpAdd (Fmt.ofTy o.ty) o.rnd r o.sat
    (elem (a.v n o.a.toNat) 16 i) (elem (a.v n o.b.toNat) 16 i)))) ∧
  (∀ o, o.t1.is64 = false → LaneFlagResult (.cvt o) o.gd o.u (fun n a l =>
    let (l', r) := lookDraws o.rnd 1 l
    let y := convert o.t1 o.t2 o.rnd (r.headD 0) o.sat
      (if o.t2.is64 then (a.v64 n o.a.toNat).toNat else elem (a.v n o.a.toNat) o.t2.width 0)
    (l'.setV n o.d.toNat (setElem (l'.v n o.d.toNat) o.t1.width o.el.toNat y.1), y.2))) ∧
  (∀ o, o.t1.is64 = true → LaneFlagResult (.cvt o) o.gd o.u (fun n a l =>
    let (l', r) := lookDraws o.rnd 1 l
    let y := convert o.t1 o.t2 o.rnd (r.headD 0) o.sat
      (if o.t2.is64 then (a.v64 n o.a.toNat).toNat else elem (a.v n o.a.toNat) o.t2.width 0)
    ((l'.setV n o.d.toNat (BitVec.ofNat 32 y.1)).setV n (o.d.toNat + 1) (BitVec.ofNat 32 (y.1 / 2 ^ 32)), y.2))) ∧
  (∀ o, LaneFlagResult (.pk4 o) o.gd o.u (fun n a l =>
    let (l', r) := lookDraws o.rnd 2 l
    let one (x r : Word) : Nat × Flags :=
      if o.ty == .q4 then q4Round (elem (a.v n o.c.toNat) 8 0) o.rnd r (Fmt.f32.decode x.toNat)
      else convert o.ty .f32 o.rnd r o.sat x.toNat
    let x := one (a.v n o.a.toNat) (r.getD 0 0)
    let y := one (a.v n o.b.toNat) (r.getD 1 0)
    (l'.setV n o.d.toNat (setElem (setElem (l'.v n o.d.toNat) o.ty.width (2 * o.j.toNat) x.1) o.ty.width (2 * o.j.toNat + 1) y.1),
     x.2 ||| y.2))) ∧
  (∀ o, LaneResult (.upk o) o.gd o.u (fun n a l => l.setV n o.d.toNat
    (widen o.t2 (elem (a.v n o.b.toNat) 8 0) (elem (a.v n o.a.toNat) o.t2.width o.el.toNat))) noFlags) ∧
  (∀ o, LaneResult (.fpclass o) o.gd o.u (fun n a l => l.setV n o.d.toNat
    (BitVec.ofNat 32 (2 ^ classOf (Fmt.ofTy o.ty) (elem (a.v n o.a.toNat) o.ty.width 0)))) noFlags) ∧
  (∀ (ty : Ty) (scale x : Nat), ty ∈ [Ty.bf16, .f16, .e5m2, .e4m3, .q4] → x < 2 ^ ty.width → scale < 256 →
    let y := Fmt.f32.decode (widen ty scale x).toNat
    let v := if ty = .q4 then q4Decode scale x else (Fmt.ofTy ty).decode x
    (v.isNan = true → widen ty scale x = 0x7FC00000) ∧ (∀ s, v = .inf s → y = .inf s) ∧
    ∀ s m e, v = .fin s m e → ∃ n k, y = .fin s n k ∧ numVal s n k = numVal s m e) ∧
  (∀ ty ∈ [Ty.s8, .s16], ∀ scale x, x < 2 ^ ty.width → (widen ty scale x).toInt = bitsInt ty x) ∧
  (∀ ty ∈ [Ty.n8, .n16], ∀ scale x, x < 2 ^ ty.width → (widen ty scale x).toNat = x) ∧
  (∀ ty ∈ [Ty.f32, .bf16, .f16, .e5m2, .e4m3], ∀ x : Nat,
    let f := Fmt.ofTy ty
    let c := classOf f x
    (f.decode x = .nan → c = 8) ∧ (∀ s, f.decode x = .inf s → c = if s then 0 else 7) ∧
    ∀ s m e, f.decode x = .fin s m e →
      let normal : Bool := x / 2 ^ f.mb % 2 ^ f.eb != 0
      c = match s, m == 0, normal with
        | true, true, _ => 3
        | false, true, _ => 4
        | true, false, false => 2
        | false, false, false => 5
        | true, false, true => 1
        | false, false, true => 6) ∧
  ∀ (t1 t2 : Ty) (mode : Rnd) (r : Word) (sat : Bool) (x : Nat),
    (∀ s m e, isFloat t2 = true → (Fmt.ofTy t2).decode x = .fin s m e →
      (isFloat t1 = true → RoundedOnce (Fmt.ofTy t1) mode r sat (numVal s m e) s (convert t1 t2 mode r sat x)) ∧
      (isFloat t1 = false → (numVal s m e = 0 → convert t1 t2 mode r sat x = (0, 0)) ∧
        ∀ t n k, n ≠ 0 → numVal t n k = numVal s m e →
          let y := roundAt mode r t n k 0
          let z : Int := if t then -(y.1 : Int) else y.1
          let c := max (intRange t1).1 (min (intRange t1).2 z)
          convert t1 t2 mode r sat x = ((c % 2 ^ t1.width).toNat, if c = z then (if y.2.1 then 0b00001 else 0) else 0b10001))) ∧
    (isFloat t2 = false →
      (isFloat t1 = true → RoundedOnce (Fmt.ofTy t1) mode r sat (bitsInt t2 x) false (convert t1 t2 mode r sat x)) ∧
      (isFloat t1 = false → convert t1 t2 mode r sat x = (satInt t1 sat (bitsInt t2 x), 0)))

/-- R61, R124, R125: a function that approximates leaves its results in flight, one for each active lane, and gives them and their
flags when it completes. Only the draws of `.sr` are made at issue. Special operands give the results and flags of R125. A reciprocal, a root
and the reciprocal of one are formed to 60 bits or more, cut, with the exact value's remainder folded in below them, and rounded once; 2^a
of an integer and log2 of a power of two are exact. A long-latency instruction that owes no gather result completes:
what it owes is written, in order, and it leaves the cord's list; nothing else of the cord changes. -/
def Obligations.LaneApproximate : Prop :=
  (let result (fn : ApproxFn) (mk : OFn → Instr) : Prop := ∀ o s h, Executes (mk o) s h →
     let draws (k : Nat) := lookDraws o.rnd 1 (h.cord.lane k)
     let y (k : Nat) := approx fn o.rnd ((draws k).2.headD 0) ((h.source o.gd o.u k).v h.cord.vbud o.a.toNat).toNat
     Completes (mk o) s h h.cord (fun k => h.next (mk o) (if (h.cord.lane k).guard o.gd then (draws k).1 else h.cord.lane k))
       [{ left := look h.cord o.la, uses := uses (mk o)
          owed := (h.active o.gd).flatMap (fun k =>
            [.v k (place h.cord.vbud (h.cord.lane k).frame.vb o.d.toNat) (BitVec.ofNat 32 (y k).1), .fpf (y k).2]) }]
   result .rcp .frcp ∧ result .rsq .frsq ∧ result .sqrt .fsqrt ∧ result .exp2 .fexp2 ∧ result .log2 .flog2) ∧
  (∀ (mode : Rnd) (r : Word) (a : Nat),
     let f (fn : ApproxFn) := approx fn mode r a
     let inf (s : Bool) : Nat := if s then 0xFF800000 else 0x7F800000
     let zero (s : Bool) : Nat := if s then 0x80000000 else 0
     let invalid : Nat × Flags := (0x7FC00000, 0b10000)
     (Fmt.f32.decode a = .nan → ∀ fn, f fn = (0x7FC00000, 0)) ∧
     (∀ s, Fmt.f32.decode a = .inf s → f .rcp = (zero s, 0) ∧ f .rsq = (if s then invalid else (0, 0)) ∧
       f .sqrt = (if s then invalid else (inf false, 0)) ∧ f .exp2 = ((if s then 0 else inf false), 0) ∧
       f .log2 = if s then invalid else (inf false, 0)) ∧
     (∀ s e, Fmt.f32.decode a = .fin s 0 e → f .rcp = (inf s, 0b01000) ∧ f .rsq = (inf s, 0b01000) ∧ f .sqrt = (zero s, 0) ∧
       f .exp2 = (0x3F800000, 0) ∧ f .log2 = (inf true, 0b01000)) ∧
     ∀ s m e, Fmt.f32.decode a = .fin s m e → m ≠ 0 →
       let v := numVal s m e
       (s = true → f .rsq = invalid ∧ f .sqrt = invalid ∧ f .log2 = invalid) ∧
       (128 ≤ v → f .exp2 = (inf false, 0b00101)) ∧
       (∃ (n : Nat) (k : Int), 2 ^ 60 ≤ n ∧ n * (2 : ℚ) ^ k ≤ 1 / |v| ∧ 1 / |v| < (n + 1) * (2 : ℚ) ^ k ∧
         f .rcp = roundNum .f32 mode r false false (if n * (2 : ℚ) ^ k = 1 / |v| then .fin s n k else .fin s (2 * n + 1) (k - 1))) ∧
       (s = false → ∃ (n : Nat) (k : Int), 2 ^ 60 ≤ n ∧ (n * (2 : ℚ) ^ k) ^ 2 ≤ v ∧ v < ((n + 1) * (2 : ℚ) ^ k) ^ 2 ∧
         f .sqrt = roundNum .f32 mode r false false (if (n * (2 : ℚ) ^ k) ^ 2 = v then .fin s n k else .fin s (2 * n + 1) (k - 1))) ∧
       (s = false → ∃ (n : Nat) (k : Int), 2 ^ 60 ≤ n ∧ (n * (2 : ℚ) ^ k) ^ 2 ≤ 1 / v ∧ 1 / v < ((n + 1) * (2 : ℚ) ^ k) ^ 2 ∧
         f .rsq = roundNum .f32 mode r false false (if (n * (2 : ℚ) ^ k) ^ 2 = 1 / v then .fin s n k else .fin s (2 * n + 1) (k - 1))) ∧
       (∀ j : Int, v = j → -149 ≤ j → j ≤ 127 → f .exp2 = roundNum .f32 mode r false false (.fin false 1 j)) ∧
       ∀ j : Int, v = (2 : ℚ) ^ j → f .log2 = roundNum .f32 mode r false false (.fin (decide (j < 0)) j.natAbs 0)) ∧
  (∀ (s : State) (r : CordRef) (c : Cord) (i : Nat) (f : InFlight), s.cord? r = some c → c.inflight[i]? = some f →
     (∀ id, .gather id ∈ f.owed → ∀ a ∈ c.gathers, a.id ≠ id) →
     ∃ t, exec (.longLatencyCompletion r i) s = .next t ∧ Apart r s t ∧
       t.cord? r = some (f.owed.foldl giveOwed { c with inflight := c.inflight.eraseIdx i }))

/-! ### Random draws and special registers -/

/-- R55: each lane has a 64-bit generator state, which sr.rnglo and sr.rnghi hold; one draw, as `rng` makes it, advances the state and
gives the upper 32 bits of the new one. -/
def Obligations.RandomDraw : Prop :=
  let next (x : DWord) : DWord := x * 0x5851F42D4C957F2D + 0x14057B7EF767814F
  (∀ o, LaneResult (.rng o) o.gd false
    (fun n _ l => { l with rng := next l.rng }.setV n o.d.toNat ((next l.rng).extractLsb' 32 32)) noFlags) ∧
  ∀ s h k, readSr s h k 0x18 ++ readSr s h k 0x17 = (h.cord.lane k).rng

/-- R18, R19, R28, R30, R102, R103, R119, R244, R245, R248, R251, R319: a special register is read per lane by `srd`, or once with the
uniform assertion, and by `ssrd` into s[d]; and what each special register holds. In a handler sr.pc, sr.state, sr.runm and sr.parkm show
what the handler's entry saved of a lane. What sr.depth of a task cord with items of several depths holds is log entry 69. -/
def Obligations.SpecialRegisterReads : Prop :=
  ((∀ o s h, Executes (.srd o) s h → Completes (.srd o) s h h.cord (fun k => h.next (.srd o)
     (if (h.cord.lane k).guard o.gd then (h.cord.lane k).setV h.cord.vbud o.d.toNat
       (readSr s h (if o.u then (h.active o.gd).headD k else k) o.idx.toNat) else h.cord.lane k)) []) ∧
   ∀ o s h, Executes (.ssrd o) s h →
     Completes (.ssrd o) s h (h.cord.setS h.sbase o.d.toNat (readSr s h (h.set.headD 0) o.idx.toNat))
       (fun k => h.next (.ssrd o) (h.cord.lane k)) []) ∧
  (∀ (s : State) (h : Here) (k : Nat),
     let l := h.cord.lane k
     let sr := readSr s h k
     sr 0x00 = BitVec.ofNat 32 k ∧ sr 0x01 = BitVec.ofNat 32 h.ref.cord ∧ sr 0x04 = l.wid.setWidth 32 ∧
     sr 0x05 = l.wid.extractLsb' 32 32 ∧ sr 0x06 = BitVec.ofNat 32 (l.wid.toNat % 32) ∧ sr 0x0C = h.block.fw ∧
     sr 0x0D = BitVec.ofNat 32 h.cord.role ∧ sr 0x0F = h.cord.icount ∧ sr 0x14 = h.cord.joinm ∧
     sr 0x16 = h.cord.fpf.setWidth 32 ∧ sr 0x17 = l.rng.setWidth 32 ∧ sr 0x18 = l.rng.extractLsb' 32 32 ∧
     sr 0x19 = h.cord.hvec ∧ sr 0x1A = h.cord.cause.setWidth 32 ∧ sr 0x1B = h.cord.tval ∧ sr 0x1C = h.cord.tile ∧
     sr 0x1D = h.cord.tile2 ∧ sr 0x1E = h.cord.prog.setWidth 32 ∧ sr 0x1F = (if s.mgmt.alarm then 1 else 0) ∧
     sr 0x20 = BitVec.ofNat 32 h.block.spbase ∧ sr 0x21 = BitVec.ofNat 32 h.block.splen ∧
     (h.block.det = false → sr 0x0E = BitVec.ofNat 32 h.ref.core) ∧ (h.block.det = true → sr 0x0E = 0xFFFFFFFF) ∧
     (l.handles = true → sr 0x10 = l.savedPc) ∧ (l.handles = false → sr 0x10 = BitVec.ofNat 32 h.addr)) ∧
  ∀ (s : State) (h : Here) (k : Nat),
     let l := h.cord.lane k
     let b := h.block
     let sr := readSr s h k
     let w (j : Nat) : Nat := (b.fw.extractLsb' (3 + 6 * j) 6).toNat
     let shown (l : Lane) : LaneState := if l.handles then l.savedSt else l.st
     let mask (i : Nat) (st : LaneState) : Prop := ∀ j, j < 32 → (sr i).getLsbD j = (h.cord.lanes.get? j).any (fun l => shown l == st)
     (b.task = none → sr 0x03 ++ sr 0x02 = BitVec.ofNat 64 b.index ∧ sr 0x07 = BitVec.ofNat 32 h.ref.cord ∧
       sr 0x08 = BitVec.ofNat 32 (b.index % 2 ^ w 0) ∧ sr 0x09 = BitVec.ofNat 32 (b.index / 2 ^ w 0 % 2 ^ w 1) ∧
       sr 0x0A = BitVec.ofNat 32 (b.index / 2 ^ (w 0 + w 1) % 2 ^ w 2) ∧
       sr 0x0B = BitVec.ofNat 32 (b.index / 2 ^ (w 0 + w 1 + w 2) % 2 ^ w 3) ∧ sr 0x26 = 0) ∧
     (∀ t, b.task = some t → (∀ i ∈ [0x02, 0x03, 0x07, 0x08, 0x09, 0x0A, 0x0B], sr i = 0) ∧ sr 0x26 = BitVec.ofNat 32 t.depth) ∧
     sr 0x11 = (match shown l with
       | .run => 0
       | .wait => 1
       | .park => 2
       | .exit => 3) ∧
     mask 0x12 .run ∧ mask 0x13 .park ∧
     (∀ j, j < 32 → (sr 0x15).getLsbD j = (match j with
       | 0 => b.det
       | 1 => b.race || b.det
       | 2 => h.cord.lkdis
       | 3 => b.idem
       | 4 => b.recomp
       | 8 => h.cord.handler.isSome
       | _ => false)) ∧
     (∀ j, j < 32 → (sr 0x22).getLsbD j = b.tiles.contains j) ∧
     sr 0x23 = BitVec.ofNat 32 b.arg ∧ sr 0x24 = BitVec.ofNat 32 (b.arg / 2 ^ 32 % 2 ^ 20) ∧ sr 0x25 = BitVec.ofNat 32 l.locbase

/-- R58, R102, R103, R248 to R250: `sswr` writes the register, and bits that ignore writes keep their values. -/
def Obligations.SpecialRegisterWrites : Prop :=
  ∀ o : OSwr,
    (o.idx = 0x15 → CordResult (.sswr o) (fun h => { h.cord with lkdis := (h.s o.a).getLsbD 2 })) ∧
    (o.idx = 0x16 → CordResult (.sswr o) (fun h => { h.cord with fpf := (h.s o.a).setWidth 5 })) ∧
    (o.idx = 0x19 → CordResult (.sswr o) (fun h => { h.cord with hvec := h.s o.a &&& 0xFFFFFFFC })) ∧
    (o.idx = 0x1C → CordResult (.sswr o) (fun h => { h.cord with tile := h.s o.a &&& 0x000FFFFF })) ∧
    (o.idx = 0x1D → CordResult (.sswr o) (fun h => { h.cord with tile2 := h.s o.a &&& 0x0FFF0FFF })) ∧
    (o.idx = 0x1E → CordResult (.sswr o) (fun h => { h.cord with prog := (h.s o.a).setWidth 16 }))

/-! ### What holds of every issue -/

/-- R80, R84, R246, R317, R333: an instruction of the uniform set whose guard is false has no effect beyond sending the executing
set on. One that the cord may not execute, and would in some lane, parks the whole executing set with PRIV, and has no other effect; so
does one that names a register above the range of the cord's budgets, with REG_RANGE and the register's number. That of several such
registers sr.tval names the first in the order of its fields is the model's choice (log entry 61). -/
def Obligations.IssueChecks : Prop :=
  (∀ i s h, Issues i s h → guardOn h.cord i = false →
     Completes i s h h.cord (fun k => h.next i (h.cord.lane k)) []) ∧
  (∀ i s h, Issues i s h → guardOn h.cord i = true → privileged i h = true → actors h i ≠ [] → FaultsFree i s h h.set 0x02) ∧
  (∀ i s h r, Issues i s h → guardOn h.cord i = true → privileged i h = false ∨ actors h i = [] → badReg h.cord (uses i) = some r →
     Faults i s h h.set (fun k => h.next i (h.cord.lane k)) 0x03 (BitVec.ofNat 32 r))

/-! ### Control flow -/

/-- R22, R23, R75, R138, R139, R149: branches. Each active lane of a lane-set branch goes to its target and the others go on; a branch of
the uniform set sends every lane of the executing set. A misaligned target raises ALIGN before anything is fetched: of the lane-set
form only in the lanes whose own targets are misaligned, of the uniform form in the whole executing set. -/
def Obligations.Branches : Prop :=
  let dest (h : Here) (off : Int) : Word := BitVec.ofInt 32 (h.addr + 4 * off)
  let some_ (i : Instr) (g : Guard) (tgt : Here → Nat → Word) (s : State) (h : Here) : Prop :=
    Completes i s h h.cord (fun k =>
      if (h.cord.lane k).guard g then { h.cord.lane k with pc := tgt h k } else h.next i (h.cord.lane k)) []
  let all (i : Instr) (tgt : Here → Word) (s : State) (h : Here) : Prop :=
    Completes i s h h.cord (fun k => { h.cord.lane k with pc := tgt h }) []
  (∀ o s h, Executes (.bra o) s h → some_ (.bra o) o.gd (fun h _ => dest h o.off.toInt) s h) ∧
  (∀ o s h, Executes (.braLong o) s h → some_ (.braLong o) o.gd (fun h _ => dest h o.off.toInt) s h) ∧
  (∀ o s h, Executes (.brx o) s h → (∀ k ∈ h.active o.gd, (h.v k o.a).toNat % 4 = 0) →
    some_ (.brx o) o.gd (fun h k => h.v k o.a) s h) ∧
  (∀ o s h, Executes (.sbra o) s h → all (.sbra o) (fun h => dest h o.off.toInt) s h) ∧
  (∀ o s h, Executes (.sbraLong o) s h → all (.sbraLong o) (fun h => dest h o.off.toInt) s h) ∧
  (∀ o s h, Executes (.sbrx o) s h → (h.s o.a).toNat % 4 = 0 → all (.sbrx o) (fun h => h.s o.a) s h) ∧
  (∀ o s h, Executes (.brx o) s h →
    let bad := (h.active o.gd).filter (fun k => (h.v k o.a).toNat % 4 != 0)
    bad ≠ [] → Faults (.brx o) s h bad (fun k =>
      if (h.cord.lane k).guard o.gd then { h.cord.lane k with pc := h.v k o.a } else h.next (.brx o) (h.cord.lane k))
      0x04 (h.v (bad.headD 0) o.a)) ∧
  ∀ o s h, Executes (.sbrx o) s h → (h.s o.a).toNat % 4 ≠ 0 →
    Faults (.sbrx o) s h h.set (fun k => h.next (.sbrx o) (h.cord.lane k)) 0x04 (h.s o.a)

/-- R62, R140 to R142, R246, R247: `frame` gives the current frame of every lane of the executing set its sizes, and raises
REG_RANGE where one is above the visible range. A call that needs no spill pushes each active lane's link slot, slides its windows and
sends it to its target. The address after the call is the return address. A call of one lane that spills a frame writes the frame's
registers and its link slot to the lane's local area, from its end down, and of a uniform frame to the lowest present lane's, from its start
up; one of a lane frame that finds no room there, and one beyond depth 4,095, parks the lane with REG_RANGE, one of a uniform frame the
whole executing set, and a misaligned target of `callx` parks the lane with ALIGN while the others call. Which frames a call spills, with the
frame at depth 0 among the newest eight, is log entries 52 and 94, and that frames of one depth and window base are one uniform frame log
entry 95; that sr.tval of `frame` is the size is log entry 31; that a uniform frame's link slot is that of the lane whose call spills it is
log entry 84. -/
def Obligations.Calls : Prop :=
  (let dest (h : Here) (off : Int) : Word := BitVec.ofInt 32 (h.addr + 4 * off)
   let owes (h : Here) : Prop := h.cord.inflight ≠ [] ∨ h.cord.gathers ≠ []
   let link (l : Lane) (i : Nat) (f : Frame) : List Byte := natLe 4 (f.ret.getD 0).toNat ++ natLe 4 (if i = 0 then 0 else
     match l.frameAt (i - 1) with
     | none => 0
     | some g => g.vf + 256 * g.sf)
   let does (i : Instr) (g : Guard) (tgt : Here → Nat → Word) (good : Here → Prop) : Prop :=
     (∀ s h k j f, Executes i s h → good h → h.active g = [k] → ¬owes h → (h.cord.lane k).calls < 4095 →
       vSpills h.cord (h.cord.lane k) = [(j, f)] → uSpills h.cord (h.cord.lane k) = [] →
       f.vf ≤ ringSize h.cord.vbud →
       let l := h.cord.lane k
       let size := 4 * f.vf + 8
       let top := spillTop h.block l
       let va := l.locbase + (top - size)
       let room : Prop := size ≤ top ∧ ¬(k = lowLane h.cord ∧ top - size < uspillTop h.cord)
       (¬room → FaultsFree i s h [k] 0x03) ∧
       (room → rangeFault s h.ref.core false h.block.ctx va size true false = none →
         ∃ t c, exec i s = .next t ∧ t.cord? h.ref = some c ∧ (c.lane k).pc = tgt h k ∧ (c.lane k).regs = l.regs ∧
           (c.lane k).frames = calleeFrame h (h.after i) none l :: (l.setFrame j { f with spill := some (top - size) }).frames ∧
           localRead t h.ref.core h.block.ctx va size = (List.range f.vf).flatMap (fun n =>
             natLe 4 (l.at (16 + (f.vb + n) % ringSize h.cord.vbud)).toNat) ++ link l j f)) ∧
     (∀ s h k j f, Executes i s h → good h → h.active g = [k] → ¬owes h → (h.cord.lane k).calls < 4095 →
       vSpills h.cord (h.cord.lane k) = [] → uSpills h.cord (h.cord.lane k) = [(j, f)] →
       f.sf ≤ ringSize h.cord.ubud →
       let l := h.cord.lane k
       let size := 4 * f.sf + 8
       let low := h.cord.lane (lowLane h.cord)
       let off := uspillTop h.cord
       (spillTop h.block low < off + size → FaultsFree i s h h.set 0x03) ∧
       (off + size ≤ spillTop h.block low → rangeFault s h.ref.core false h.block.ctx (low.locbase + off) size true false = none →
         ∃ t c, exec i s = .next t ∧ t.cord? h.ref = some c ∧ (c.lane k).pc = tgt h k ∧ c.sregs = h.cord.sregs ∧
           (c.lane k).frames = calleeFrame h (h.after i) none l :: l.frames ∧ c.uspill = h.cord.uspill ++ [(j, f.sb, f.sf, off)] ∧
           localRead t h.ref.core h.block.ctx (low.locbase + off) size = (List.range f.sf).flatMap (fun n =>
             natLe 4 (h.cord.sat (16 + (f.sb + n) % ringSize h.cord.ubud)).toNat) ++ link l j f)) ∧
     ∀ s h, Executes i s h → good h → h.active g ≠ [] → (∀ k ∈ h.active g, 4095 ≤ (h.cord.lane k).calls) →
       (slideSpills h.cord (h.active g) = true → ¬owes h) → FaultsFree i s h (h.active g) 0x03
   (∀ o, does (.call o) o.gd (fun h _ => dest h o.off.toInt) (fun _ => True)) ∧
   (∀ o, does (.callLong o) o.gd (fun h _ => dest h o.off.toInt) (fun _ => True)) ∧
   (∀ o, does (.callx o) o.gd (fun h k => h.v k o.a) (fun h => ∀ k ∈ h.active o.gd, (h.v k o.a).toNat % 4 = 0)) ∧
   ∀ o s h, Executes (.callx o) s h →
     let bad := (h.active o.gd).filter (fun k => (h.v k o.a).toNat % 4 != 0)
     let ok := (h.active o.gd).filter (fun k => (h.v k o.a).toNat % 4 == 0)
     bad ≠ [] → slideSpills h.cord ok = false → (∀ k ∈ ok, (h.cord.lane k).calls < 4095) →
     Faults (.callx o) s h bad (fun k => if (h.cord.lane k).guard o.gd then { h.cord.lane k with
         pc := h.v k o.a, frames := calleeFrame h (h.after (.callx o)) none (h.cord.lane k) :: (h.cord.lane k).frames }
       else h.next (.callx o) (h.cord.lane k)) 0x04 (h.v (bad.headD 0) o.a)) ∧
  (let dest (h : Here) (off : Int) : Word := BitVec.ofInt 32 (h.addr + 4 * off)
   let fits (h : Here) (g : Guard) : Prop := slideSpills h.cord (h.active g) = false ∧
     ∀ k ∈ h.active g, (h.cord.lane k).calls < 4095
   let calls (i : Instr) (g : Guard) (tgt : Here → Nat → Word) (s : State) (h : Here) : Prop :=
     Completes i s h h.cord (fun k =>
       if (h.cord.lane k).guard g then { h.cord.lane k with
         pc := tgt h k, frames := calleeFrame h (h.after i) none (h.cord.lane k) :: (h.cord.lane k).frames }
       else h.next i (h.cord.lane k)) []
   (∀ o s h, Executes (.call o) s h → fits h o.gd → calls (.call o) o.gd (fun h _ => dest h o.off.toInt) s h) ∧
   (∀ o s h, Executes (.callLong o) s h → fits h o.gd → calls (.callLong o) o.gd (fun h _ => dest h o.off.toInt) s h) ∧
   ∀ o s h, Executes (.callx o) s h → fits h o.gd → (∀ k ∈ h.active o.gd, (h.v k o.a).toNat % 4 = 0) →
     calls (.callx o) o.gd (fun h k => h.v k o.a) s h) ∧
  (∀ o s h, Executes (.frame o) s h →
     (o.vf.toNat ≤ winSize h.cord.vbud → o.sf.toNat ≤ winSize h.cord.ubud →
       Completes (.frame o) s h h.cord (fun k => h.next (.frame o) { h.cord.lane k with
         frames := { (h.cord.lane k).frame with vf := o.vf.toNat, sf := o.sf.toNat } :: (h.cord.lane k).frames.tail }) []) ∧
     (winSize h.cord.vbud < o.vf.toNat →
       Faults (.frame o) s h h.set (fun k => h.next (.frame o) (h.cord.lane k)) 0x03 (o.vf.setWidth 32)) ∧
     (o.vf.toNat ≤ winSize h.cord.vbud → winSize h.cord.ubud < o.sf.toNat →
       Faults (.frame o) s h h.set (fun k => h.next (.frame o) (h.cord.lane k)) 0x03 (o.sf.setWidth 32)))

/-- R62, R142, R144, R247, R301: a return that needs no fill pops each active lane's frame, and with it the link slot, and goes to its
return address. A return of one lane whose caller's frame was spilled fills it first: the registers, the return address and the sizes of
the frame below are what its local area holds; so with the registers of a spilled uniform frame. A return from a frame that `callo` marked
drops one hold of its overlay. That a uniform fill takes back registers alone, each lane keeping its own link slots, is log entry 84, and
that frames of one depth and window base are one uniform frame log entry 95. A misaligned return address is ALIGN, with the address in
sr.tval (log entry 24). In the frame that a call makes, v(16+i) is the caller's v(16+vf+i) and s(16+i) its s(16+sf+i), to read and to
write, and registers 1 to 15 are the same. After any write of the callee to a windowed register, and the pop, each register of the
caller's frame reads as before, where the call spilled nothing. Lanes at depth 0 or in a handler's frame are another statement's. -/
def Obligations.Returns : Prop :=
  (∀ o s h, Executes (.ret o) s h → retFills h.cord (h.active o.gd) = false →
     (∀ k ∈ h.active o.gd, ∃ a : Word, (h.cord.lane k).frame.ret = some a ∧ a.toNat % 4 = 0 ∧ (h.cord.lane k).frame.hold = none) →
     Completes (.ret o) s h h.cord (fun k =>
       if (h.cord.lane k).guard o.gd then { h.cord.lane k with
         pc := (h.cord.lane k).frame.ret.getD 0, frames := (h.cord.lane k).frames.tail }
       else h.next (.ret o) (h.cord.lane k)) []) ∧
  (∀ o s h k g f rest a, Executes (.ret o) s h → h.active o.gd = [k] → h.cord.inflight = [] → h.cord.gathers = [] →
     (h.cord.lane k).frames = g :: f :: rest → g.ret = some a → a.toNat % 4 = 0 → g.hold = none →
     let l := h.cord.lane k
     let n := h.ref.core
     let word (va j : Nat) : Word := BitVec.ofNat 32 (leNat (((localRead s n h.block.ctx va (4 * j + 4)).drop (4 * j))))
     (∀ off, f.spill = some off → uSpilled h.cord rest.length f = none → f.vf ≤ ringSize h.cord.vbud →
       let va := l.locbase + off
       rangeFault s n false h.block.ctx va (4 * f.vf + 8) false true = none →
       let sizes := (word va (f.vf + 1)).toNat
       ∃ t c, exec (.ret o) s = .next t ∧ t.cord? h.ref = some c ∧ (c.lane k).pc = a ∧
         (∀ j, j < f.vf → (c.lane k).at (16 + (f.vb + j) % ringSize h.cord.vbud) = word va j) ∧
         (c.lane k).frames = { f with spill := none, ret := f.ret.map (fun _ => word va f.vf) } ::
           (match rest with
             | [] => []
             | x :: r => { x with
                 vf := sizes % 64, sf := sizes / 256 % 64, vb := slideBack (ringSize h.cord.vbud) f.vb (sizes % 64)
                 sb := slideBack (ringSize h.cord.ubud) f.sb (sizes / 256 % 64) } :: r)) ∧
     (∀ off, f.spill = none → uSpilled h.cord rest.length f = some off → f.sf ≤ ringSize h.cord.ubud →
       let va := (h.cord.lane (lowLane h.cord)).locbase + off
       rangeFault s n false h.block.ctx va (4 * f.sf + 8) false true = none →
       ∃ t c, exec (.ret o) s = .next t ∧ t.cord? h.ref = some c ∧ (c.lane k).pc = a ∧ (c.lane k).frames = f :: rest ∧
         (∀ j, j < f.sf → c.sat (16 + (f.sb + j) % ringSize h.cord.ubud) = word va j) ∧
         c.uspill = h.cord.uspill.filter (fun e => !(e.1 == rest.length && e.2.1 == f.sb)))) ∧
  (∀ o s h k a ov, Executes (.ret o) s h → h.active o.gd = [k] → retFills h.cord [k] = false → (h.cord.lane k).frame.ret = some a →
     a.toNat % 4 = 0 → (h.cord.lane k).frame.hold = some ov → (∀ r ∈ (s.core h.ref.core).res, r.evict = false) →
     ∃ t c, exec (.ret o) s = .next t ∧ t.cord? h.ref = some c ∧ (c.lane k).pc = a ∧
       (c.lane k).frames = (h.cord.lane k).frames.tail ∧ (t.core h.ref.core).res = (s.core h.ref.core).res.map (fun r =>
         if r.sharers.any (fun x => x.1 == h.block.ctx && x.2.2 == ov) then { r with holds := r.holds - 1 } else r)) ∧
  (∀ o s h, Executes (.ret o) s h → retFills h.cord (h.active o.gd) = false → h.active o.gd ≠ [] →
     (∀ k ∈ h.active o.gd, ∃ a : Word, (h.cord.lane k).frame.ret = some a ∧ a.toNat % 4 ≠ 0) →
     Faults (.ret o) s h (h.active o.gd) (fun k => h.next (.ret o) (h.cord.lane k)) 0x04
       ((h.cord.lane ((h.active o.gd).headD 0)).frame.ret.getD 0)) ∧
  ∀ (h : Here) (ret : Word) (hold : Option Nat) (l : Lane),
    let c := h.cord
    let nv := c.vbud
    let f := calleeFrame h ret hold l
    let callee : Lane := { l with frames := f :: l.frames }
    let pop (x : Lane) : Lane := { x with frames := x.frames.tail }
    (∀ r, r < 16 → callee.v nv r = l.v nv r ∧ c.s f.sb r = c.s l.frame.sb r ∧
      ∀ x, pop (callee.setV nv r x) = l.setV nv r x ∧ c.setS f.sb r x = c.setS l.frame.sb r x) ∧
    (∀ i, l.frame.vf + i < winSize nv → callee.v nv (16 + i) = l.v nv (16 + l.frame.vf + i) ∧
      ∀ x, pop (callee.setV nv (16 + i) x) = l.setV nv (16 + l.frame.vf + i) x) ∧
    (∀ i, l.frame.sf + i < winSize c.ubud → c.s f.sb (16 + i) = c.s l.frame.sb (16 + l.frame.sf + i) ∧
      ∀ x, c.setS f.sb (16 + i) x = c.setS l.frame.sb (16 + l.frame.sf + i) x) ∧
    (l.frames ≠ [] → l.frame.spill = none → vSpills c l = [] → ∀ r x q, 16 ≤ r → inRange nv r = true →
      16 ≤ q → q ≤ 15 + l.frame.vf → (pop (callee.setV nv r x)).v nv q = l.v nv q) ∧
    (l.frames ≠ [] → uSpilled c l.depth l.frame = none → uSpills c l = [] → ∀ r x q, 16 ≤ r → inRange c.ubud r = true →
      16 ≤ q → q ≤ 15 + l.frame.sf → (c.setS f.sb r x).s l.frame.sb q = c.s l.frame.sb q)

/-- R19, R24, R144 to R146: `exit`, and `ret` at depth 0, take each active lane to EXIT, the others go on, and no store changes. At an
`rjoin` every lane of the executing set waits, until each lane of sr.joinm waits at the same one or is in PARK or EXIT; then all that wait
there go on past it; so it is with every `rjoin` of the cord whose condition holds. An exit of a task's lanes is a release: it executes
when the cord has no gather access in flight. That `ret` in the frame of a handler is an `exit` too is the model's choice (log entry 13).
-/
def Obligations.ExitAndRejoin : Prop :=
  (let exits (i : Instr) (g : Guard) (s : State) (h : Here) : Prop :=
     ∃ t c, exec i s = .next t ∧ t.cord? h.ref = some c ∧ SameMemory s t ∧ c.icount = h.cord.icount + 1 ∧
       (∀ k ∈ h.set, if (h.cord.lane k).guard g then (c.lane k).st = .exit ∧ (c.lane k).regs = (h.cord.lane k).regs
         else c.lane k = h.next i (h.cord.lane k)) ∧
       ∀ k, k ∉ h.set → (c.lane k).regs = (h.cord.lane k).regs ∧ (c.lane k).p = (h.cord.lane k).p
   (∀ o s h, Executes (.exit o) s h → (h.block.task.isSome = true → h.cord.gathers = []) → exits (.exit o) o.gd s h) ∧
   ∀ o s h, Executes (.ret o) s h → (h.block.task.isSome = true → h.cord.gathers = []) → (∀ k ∈ h.active o.gd, (h.cord.lane k).frame.ret = none) → exits (.ret o) o.gd s h) ∧
  (∀ (c : Cord) (k : Nat), c.unserved = false → k < 32 → (c.lane k).st = .wait → (c.lane k).data = false →
     let met : Prop := ∀ j, j < 32 → c.joinm.getLsbD j = true →
       ((c.lane j).st = .wait ∧ (c.lane j).data = false ∧ (c.lane j).pc = (c.lane k).pc) ∨ (c.lane j).st = .park ∨ (c.lane j).st = .exit
     (met → (rejoin c).lane k = { c.toRun k with pc := (c.lane k).pc + 8 }) ∧ (¬met → (rejoin c).lane k = c.lane k)) ∧
  (∀ s h, Executes .rjoin s h → (∃ k ∈ h.set, h.cord.joinm.getLsbD k = true) →
     let there (k : Nat) : Prop := k ∈ h.set ∨
       ((h.cord.lane k).st = .wait ∧ (h.cord.lane k).data = false ∧ (h.cord.lane k).pc.toNat = h.addr)
     let all : Prop := ∀ j, j < 32 → h.cord.joinm.getLsbD j = true →
       there j ∨ (h.cord.lane j).st = .park ∨ (h.cord.lane j).st = .exit
     ∃ t c, exec .rjoin s = .next t ∧ t.cord? h.ref = some c ∧ Apart h.ref s t ∧ Counted h .rjoin s.clock [] h.cord c ∧
       (all → ∀ k, k < 32 → there k → c.lane k = { h.cord.toRun k with pc := h.after .rjoin }) ∧
       (¬all → ∀ k ∈ h.set, c.lane k = { h.cord.lane k with st := .wait, data := false }))

/-- R11, R84, R86, R147, R241, R317: traps, breakpoints and words that are no instruction park lanes: `trap` and `brk` the active lanes,
`strap`, `sbrk` and such a word the whole executing set, as does an instruction one of whose words is absent. sr.tval holds the code, the
address, the word, or the address of the absent word. -/
def Obligations.TrapsPark : Prop :=
  (∀ o s h, Executes (.trap o) s h → h.active o.gd ≠ [] →
    Faults (.trap o) s h (h.active o.gd) (fun k => h.next (.trap o) (h.cord.lane k)) 0x15 (o.code.setWidth 32)) ∧
  (∀ o s h, Executes (.brk o) s h → h.active o.gd ≠ [] →
    Faults (.brk o) s h (h.active o.gd) (fun k => h.next (.brk o) (h.cord.lane k)) 0x16 (BitVec.ofNat 32 h.addr)) ∧
  (∀ o s h, Executes (.strap o) s h →
    Faults (.strap o) s h h.set (fun k => h.next (.strap o) (h.cord.lane k)) 0x15 (o.code.setWidth 32)) ∧
  (∀ o s h, Executes (.sbrk o) s h →
    Faults (.sbrk o) s h h.set (fun k => h.next (.sbrk o) (h.cord.lane k)) 0x16 (BitVec.ofNat 32 h.addr)) ∧
  (∀ w s h, Executes (.notAnInstruction w) s h →
    Faults (.notAnInstruction w) s h h.set (fun k => h.next (.notAnInstruction w) (h.cord.lane k)) 0x01 w) ∧
  ∀ a s h, Executes (.notAnInstruction 0) s h → ∃ t c, codeAbsent a s = .next t ∧ t.cord? h.ref = some c ∧ Apart h.ref s t ∧
    c.cause = 0x08 ∧ c.tval = BitVec.ofNat 32 a ∧
    ∀ k ∈ h.set, c.lane k = { h.cord.lane k with st := .park, data := false, served := false }

/-! ### Across lanes, and the uniform set -/

/-- R43, R131 to R135: the contributing set C is the active lanes. `shfl` reads a source lane in C, else its own; `vote` gives every lane
of C one result; `lred` combines over a fixed pairwise tree in lane order, `lscan` in ascending order, and both set the flags of each
step. A NaN that they write is the canonical one, also where a lane contributes alone. -/
def Obligations.AcrossLanes : Prop :=
  let all (i : Instr) (g : Guard) (s : State) (h : Here) (x : Cord) (f : Nat → Lane → Lane) : Prop :=
    Completes i s h x (fun k => h.next i (if (h.cord.lane k).guard g then f k (h.cord.lane k) else h.cord.lane k)) []
  let canon (ty : Ty) (x : Word) : Word := if ty = .f32 ∧ (Fmt.f32.decode x.toNat).isNan = true then 0x7FC00000 else x
  (∀ o s h, Executes (.shfl o) s h → all (.shfl o) o.gd s h h.cord (fun k l =>
    let m : Int := ((h.v k o.b).toNat % 32 : Nat)
    let src : Int := match o.mode with
      | .idx => m
      | .up => (k : Int) - m
      | .down => (k : Int) + m
      | .xor => (Nat.xor k m.toNat : Nat)
    l.setV h.cord.vbud o.d.toNat
      (h.v (if 0 ≤ src ∧ src ≤ 31 ∧ src.toNat ∈ h.active o.gd then src.toNat else k) o.a))) ∧
  (∀ o s h, Executes (.vote o) s h → all (.vote o) o.gd s h h.cord (fun _ l =>
    let p (j : Nat) : Bool := (h.cord.lane j).pred (o.a.toNat % 8)
    let eq (j : Nat) : Bool := h.v j o.a == h.v ((h.active o.gd).headD 0) o.a
    match o.mode with
    | .any => l.setP (o.d.toNat % 8) ((h.active o.gd).any p)
    | .all => l.setP (o.d.toNat % 8) ((h.active o.gd).all p)
    | .ballot => l.setV h.cord.vbud o.d.toNat (BitVec.ofNat 32 (maskOf ((h.active o.gd).filter p)))
    | .eq => l.setP (o.d.toNat % 8) ((h.active o.gd).all eq))) ∧
  (∀ o s h, Executes (.lred o) s h →
    let y := pairTree (combine o.op o.ty o.rnd) (fun k => if k ∈ h.active o.gd then some (h.v k o.a) else none) 5 0
    all (.lred o) o.gd s h { h.cord with fpf := h.cord.fpf ||| y.2 }
      (fun _ l => l.setV h.cord.vbud o.d.toNat (canon o.ty (y.1.getD 0)))) ∧
  ∀ o s h, Executes (.lscan o) s h →
    let below (k : Nat) : List Nat := (h.active o.gd).filter (fun j => decide (j ≤ k))
    let f := combine o.op o.ty o.rnd
    let run (l : List Nat) : Word × Flags := l.tail.foldl (fun x j => ((f x.1 (h.v j o.a)).1, x.2 ||| (f x.1 (h.v j o.a)).2))
      (h.v (l.headD 0) o.a, 0)
    all (.lscan o) o.gd s h { h.cord with fpf := h.cord.fpf ||| (run (h.active o.gd)).2 }
      (fun k l => l.setV h.cord.vbud o.d.toNat
        (if (below k).length = 1 then canon o.ty (run (below k)).1 else (run (below k)).1))

/-- R105, R136, R137: the uniform set computes once on s registers what the lane set computes on v registers; nothing else changes but
s[d] or q[d]. -/
def Obligations.UniformArithmetic : Prop :=
  let sum (ty : Ty) (sat : Bool) (x : Int) : Word := BitVec.ofNat 32 (satInt (if ty == .none then .n32 else ty) sat x)
  let val (ty : Ty) (x : Word) : Int := bitsInt (if ty == .none then .n32 else ty) x.toNat
  let two (o : O3) (mk : O3 → Instr) (f : Word → Word → Word) : Prop :=
    CordResult (mk o) (fun h => h.cord.setS h.sbase o.d.toNat (f (h.s o.a) (h.s o.b)))
  let pair (h : Here) (d : Reg) (x : Nat) : Cord :=
    (h.cord.setS h.sbase d.toNat (BitVec.ofNat 32 x)).setS h.sbase (d.toNat + 1) (BitVec.ofNat 32 (x / 2 ^ 32))
  let left (x : Word) (n : Nat) : Word := if n < 32 then x <<< n else 0
  let right (x : Word) (n : Nat) : Word := if n < 32 then x >>> n else 0
  let op64 (o : O3T) (mk : O3T → Instr) (f : Int → Int → Int) : Prop :=
    (o.ty.is64 = false → CordResult (mk o) (fun h => h.cord.setS h.sbase o.d.toNat
      (sum o.ty o.sat (f (val o.ty (h.s o.a)) (val o.ty (h.s o.b)))))) ∧
    (o.ty.is64 = true → CordResult (mk o) (fun h => pair h o.d
      (satInt o.ty o.sat (f (bitsInt o.ty (h.s64 o.a).toNat) (bitsInt o.ty (h.s64 o.b).toNat)))))
  (∀ o, CordResult (.snop o) (fun h => h.cord)) ∧
  (∀ o, CordResult (.smov o) (fun h => h.cord.setS h.sbase o.d.toNat (h.s o.a))) ∧
  (∀ o, CordResult (.smovi o) (fun h => h.cord.setS h.sbase o.d.toNat o.imm)) ∧
  (∀ o, op64 o .sadd (· + ·)) ∧ (∀ o, op64 o .ssub (· - ·)) ∧
  (∀ o, CordResult (.saddi o) (fun h => h.cord.setS h.sbase o.d.toNat (h.s o.a + o.imm))) ∧
  (∀ o, two o .smul (· * ·)) ∧
  (∀ o, CordResult (.smad o) (fun h => h.cord.setS h.sbase o.d.toNat
    (sum o.ty o.sat (val o.ty (h.s o.a) * val o.ty (h.s o.b) + val o.ty (h.s o.c))))) ∧
  (∀ o, two o .smins (fun x y => if x.sle y then x else y)) ∧ (∀ o, two o .smaxs (fun x y => if x.sle y then y else x)) ∧
  (∀ o, two o .sminn (fun x y => if x.ule y then x else y)) ∧ (∀ o, two o .smaxn (fun x y => if x.ule y then y else x)) ∧
  (∀ o, two o .sand (· &&& ·)) ∧ (∀ o, two o .sor (· ||| ·)) ∧ (∀ o, two o .sxor (· ^^^ ·)) ∧
  (∀ o, CordResult (.sandi o) (fun h => h.cord.setS h.sbase o.d.toNat (h.s o.a &&& o.imm))) ∧
  (∀ o, CordResult (.sori o) (fun h => h.cord.setS h.sbase o.d.toNat (h.s o.a ||| o.imm))) ∧
  (∀ o, two o .sshl (shiftBy left)) ∧ (∀ o, two o .sshrl (shiftBy right)) ∧
  (∀ o, two o .sshra (shiftBy (fun x n => x.sshiftRight (min n 31)))) ∧
  (∀ o, CordResult (.sshli o) (fun h => h.cord.setS h.sbase o.d.toNat (left (h.s o.a) o.amt.toNat))) ∧
  (∀ o, CordResult (.sshrli o) (fun h => h.cord.setS h.sbase o.d.toNat (right (h.s o.a) o.amt.toNat))) ∧
  (∀ o, CordResult (.spopc o) (fun h => h.cord.setS h.sbase o.d.toNat
    (BitVec.ofNat 32 ((List.range 32).countP (fun j => (h.s o.a).getLsbD j))))) ∧
  (∀ o, CordResult (.ssel o) (fun h => h.cord.setS h.sbase o.d.toNat (if h.cord.guard o.sel then h.s o.a else h.s o.b))) ∧
  (∀ o, CordResult (.scmp o) (fun h => h.cord.setQ o.pd.toNat
    (let x := bitsInt o.ty (if o.ty.is64 then (h.s64 o.a).toNat else (h.s o.a).toNat)
     let y := bitsInt o.ty (if o.ty.is64 then (h.s64 o.b).toNat else (h.s o.b).toNat)
     condHolds o.cond (decide (x < y)) (decide (x = y))))) ∧
  ∀ o, CordResult (.splog o) (fun h => h.cord.setQ o.pd.toNat
    (let x := h.cord.qat o.pa.toNat
     let y := h.cord.qat o.pb.toNat
     match o.op with
     | .and => x && y
     | .or => x || y
     | .xor => x ^^ y
     | .andn => x && !y))

/-! ### Lane access to memory -/

/-- R60, R148, R150, R151, R153, R154: a load whose accesses are good and not held leaves its results in flight, each active lane's from
its own place, or from the first active lane's with `.uni`, as the cord sees it; what it sees of racing writes is log entry 10. Before a
local access the lines that it needs come into the path, where there is room beside those that are there, and otherwise for older ones,
which leave with what they hold written (log entry 75); outside the cord nothing else changes but TLB entries and counts of corrected
errors. A load to v0 of up to 32 bits reads nothing; in local memory it is a prefetch, which may also count and log a suppressed error. A
uniform load writes s[d], or the pair, from its place. That an element load with `.uni` keeps each lane's own other bytes of d is the
model's choice (log entry 9). -/
def Obligations.Loads : Prop :=
  (∀ (z : Nat) (mk : OLd → Instr), (z, mk) ∈ [(1, Instr.ld8), (2, .ld16), (4, .ld32), (8, .ld64), (16, .ld128)] →
     ∀ o s h, Executes (mk o) s h →
     let act := h.active o.gd
     let from_ := h.giver o.gd o.u
     let ea := laneEa h o.a o.imm
     let ks := h.doers o.gd o.u
     (¬(o.d = 0 ∧ z ≤ 4) → ∀ spot : Nat → Spot,
       (∀ k ∈ ks, resolve (opened s h) h k o.space (ea k) z false true o.acq = .ok (spot k)) →
       spotsHeld (opened s h) h false z (ks.map (fun k => (k, spot k))) = false →
       let m := bringSpots (opened s h) h z (ks.map (fun k => (k, spot k)))
       ∃ t c, exec (mk o) s = .next t ∧ t.cord? h.ref = some c ∧ Reads h.ref m t ∧ (∀ n, (t.core n).lines = (m.core n).lines) ∧
         Counted h (mk o) s.clock [{ left := look h.cord o.la, uses := uses (mk o), owed := act.flatMap (fun k =>
           owedV h.cord.vbud (h.cord.lane k) k o.d.toNat
             (loadWords o.mode z o.el.toNat (spotRead (m.seenBy ⟨h.agent, !o.acq⟩) z (spot (from_ k))) (h.v k o.d))) }] h.cord c ∧
         (∀ k ∈ h.set, c.lane k = h.next (mk o) (h.cord.lane k)) ∧ ∀ k, k ∉ h.set → Resting (h.cord.lane k) (c.lane k)) ∧
     (o.d = 0 → z ≤ 4 → (∀ k ∈ ks, (ea k).toNat % z = 0) →
       (o.space ≠ .loc → (∀ k ∈ ks, resolve (opened s h) h k o.space (ea k) z false false true ≠ .error cSpRange) →
         Completes (mk o) s h h.cord (fun k => h.next (mk o) (h.cord.lane k)) []) ∧
       (o.space = .loc →
         (s.core h.ref.core).lines.length + ks.length ≤ 256 → CompletesWith (mk o) s h h.cord (fun k => h.next (mk o) (h.cord.lane k)) []
           (fun t => Reads h.ref { s with mgmt := t.mgmt } t)))) ∧
  (∀ (s : State) (n slot ctx : Nat) (as : List Nat), as.Nodup →
     let old := (s.core n).lines
     let new := as.filter (fun a => !old.any (fun l => l.ctx == ctx && l.addr == a))
     let t := bringLines s n slot ctx as
     old.length + new.length ≤ 256 →
       t = { s with cores := t.cores } ∧ (∀ m, t.core m = { s.core m with lines := (t.core m).lines }) ∧
       (t.core n).lines = old ++ new.map (fun a => { slot := slot, ctx := ctx, addr := a, bytes := .empty }) ∧
       ∀ m, m ≠ n → (t.core m).lines = (s.core m).lines) ∧
  (∀ o s h p,
     let ea := h.s o.a + o.imm.signExtend 32
     let at_ (z : Nat) : Prop := resolve (opened s h) h 0 (if o.skw then .skw else .lin) ea z false true o.acq = .ok p ∧
       spotHeld (opened s h) false z p = false
     let word (z i : Nat) : Word := BitVec.ofNat 32 (leNat (((spotRead ((opened s h).seenBy ⟨h.agent, !o.acq⟩) z p).drop (4 * i)).take 4))
     (Executes (.sld32 o) s h → at_ 4 → Completes (.sld32 o) s h (h.cord.setS h.sbase o.d.toNat (word 4 0))
       (fun k => h.next (.sld32 o) (h.cord.lane k)) []) ∧
     (Executes (.sld64 o) s h → at_ 8 →
       Completes (.sld64 o) s h ((h.cord.setS h.sbase o.d.toNat (word 8 0)).setS h.sbase (o.d.toNat + 1) (word 8 1))
         (fun k => h.next (.sld64 o) (h.cord.lane k)) []))

/-- R47, R148, R151, R155: the words that a load gives its destination: little-endian words, or for 8 and 16 bits a zero-extended, a
sign-extended or an inserted value, the other bytes of the destination kept; and what each atomic operation leaves. -/
def Obligations.LoadedAndUpdatedValues : Prop :=
  (∀ (mode : LdMode) (n el : Nat) (l : List Byte) (old : Word), l.length = 4 * n → 0 < n →
    loadWords mode (4 * n) el l old = (List.range n).map (fun i => BitVec.ofNat 32 (leNat ((l.drop (4 * i)).take 4)))) ∧
  (∀ (z el : Nat) (l : List Byte) (old : Word), z = 1 ∨ z = 2 → l.length = z → el < 4 / z →
    loadWords .zx z el l old = [BitVec.ofNat 32 (leNat l)] ∧
    loadWords .sx z el l old = [BitVec.ofInt 32 (sxInt (leNat l) (8 * z))] ∧
    ∃ w : Word, loadWords .el z el l old = [w] ∧ ∀ j, j < 4 → w.extractLsb' (8 * j) 8 =
      if z * el ≤ j ∧ j < z * el + z then l.getD (j - z * el) 0 else old.extractLsb' (8 * j) 8) ∧
  ∀ old x d : Word,
    atomNew .add old x d = old + x ∧ (atomNew .mins old x d).toInt = min old.toInt x.toInt ∧
    (atomNew .minn old x d).toNat = min old.toNat x.toNat ∧ (atomNew .maxs old x d).toInt = max old.toInt x.toInt ∧
    (atomNew .maxn old x d).toNat = max old.toNat x.toNat ∧ atomNew .and old x d = old &&& x ∧
    atomNew .or old x d = old ||| x ∧ atomNew .xor old x d = old ^^^ x ∧ atomNew .xchg old x d = x ∧
    atomNew .cas old x d = (if old = d then x else old) ∧
    (atomNew .fadd old x d).toNat = (fpAdd .f32 .rn 0 false old.toNat x.toNat).1 % 2 ^ 32

/-- R148, R150, R152, R153, R154: a store whose accesses are good and not held writes each active lane's bytes at that lane's place, the
lanes in ascending order, after the lines of local memory that they need have come in; `sst` writes its cord's. In a scratchpad every byte
outside the stored ones reads as before, and a byte that several lanes store holds the highest-numbered lane's. -/
def Obligations.LaneStores : Prop :=
  (∀ (z : Nat) (mk : OSt → Instr), (z, mk) ∈ [(1, Instr.st8), (2, .st16), (4, .st32), (8, .st64), (16, .st128)] →
    ∀ o s h, Executes (mk o) s h → ∀ spot : Nat → Spot,
    let ks := h.doers o.gd o.u
    (∀ k ∈ ks, resolve (opened s h) h k o.space (laneEa h o.a o.imm k) z true false o.rel = .ok (spot k)) →
    spotsHeld (opened s h) h true z (ks.map (fun k => (k, spot k))) = false →
    CompletesAs (mk o) s h
      (ks.foldl (fun m k => spotWrite (touchSpot m z false (spot k)) h.ref.slot (storeBytes h o z k) (spot k))
        (bringSpots (opened s h) h z (ks.map (fun k => (k, spot k))))) h.cord
      (fun k => h.next (mk o) (h.cord.lane k)) []) ∧
  (∀ (z : Nat) (mk : OSt → Instr), (z, mk) ∈ [(1, Instr.st8), (2, .st16), (4, .st32), (8, .st64), (16, .st128)] →
    ∀ o s h, Executes (mk o) s h → ∀ spot : Nat → Spot,
    let ks := h.doers o.gd o.u
    (∀ k ∈ ks, resolve (opened s h) h k o.space (laneEa h o.a o.imm k) z true false o.rel = .ok (spot k)) →
    spotsHeld (opened s h) h true z (ks.map (fun k => (k, spot k))) = false → (z < 4 → z * (o.el.toNat + 1) ≤ 4) → s.memOk = true →
    ∃ t, exec (mk o) s = .next t ∧ ∀ n a,
      ((∀ k ∈ ks, ∀ p, spot k = .sp n p → a < p ∨ p + z ≤ a) → (t.core n).spad.get a = (s.core n).spad.get a) ∧
      ∀ k ∈ ks, ∀ p, spot k = .sp n p → p ≤ a → a < p + z →
        (∀ j ∈ ks, k < j → ∀ q, spot j = .sp n q → a < q ∨ q + z ≤ a) →
        (t.core n).spad.get a = (storeBytes h o z k).getD (a - p) 0) ∧
  ∀ (z : Nat) (mk : OSst → Instr), (z, mk) ∈ [(4, Instr.sst32), (8, .sst64)] → ∀ o s h, Executes (mk o) s h → ∀ p,
    resolve (opened s h) h 0 (if o.skw then .skw else .lin) (h.s o.a + o.imm.signExtend 32) z true false o.rel = .ok p →
    spotHeld (opened s h) true z p = false →
    CompletesAs (mk o) s h (spotWrite (opened s h) h.ref.slot
      ((List.range (z / 4)).flatMap (fun j => natLe 4 (h.s (o.b + BitVec.ofNat 6 j)).toNat)) p) h.cord
      (fun k => h.next (mk o) (h.cord.lane k)) []

/-- R155, R333: an atomic whose accesses are good and not held acts for its lanes in ascending order, each on what the lanes below it
have left; each active lane is owed the old word, with `.uni` all that of the one access. -/
def Obligations.LaneAtomics : Prop :=
  ∀ o s h, Executes (.atom o) s h → privileged (.atom o) h = false → ∀ spot : Nat → Spot,
    let act := h.active o.gd
    let ks := h.doers o.gd o.u
    (∀ k ∈ ks, resolve (opened s h) h k o.space (laneEa h o.a o.imm k) 4 true true true = .ok (spot k)) →
    spotsHeld (opened s h) h true 4 (ks.map (fun k => (k, spot k))) = false →
    let old (m : State) (k : Nat) : Word := BitVec.ofNat 32 (leNat (spotRead m 4 (spot k)))
    let does (x : State × List Owed) (k : Nat) : State × List Owed :=
      let m := touchSpot x.1 4 true (spot k)
      (spotWrite m h.ref.slot (natLe 4 (atomNew o.op (old m k) (h.v k o.b) (h.v k o.d)).toNat) (spot k),
       x.2 ++ (if o.u then act else [k]).map (fun j =>
         .v j (place h.cord.vbud (h.cord.lane j).frame.vb o.d.toNat) (old m k)))
    let y := ks.foldl does (bringSpots (opened s h) h 4 (ks.map (fun k => (k, spot k))), [])
    CompletesAs (.atom o) s h y.1 h.cord (fun k => h.next (.atom o) (h.cord.lane k))
      [{ left := look h.cord o.la, uses := uses (.atom o), owed := y.2 }]

/-- R27, R60, R148, R149, R154, R155: the lanes whose own accesses fault park, in every space, with the cause and the address of the
lowest-numbered, and with `.uni` every active lane for the one access; the others complete, and of a faulting lane's store or atomic nothing
is written. A uniform access that faults parks the executing set. -/
def Obligations.AccessFaultsPark : Prop :=
  let parks (i : Instr) (g : Guard) (u : Bool) (z : Nat) (w : Bool) (ea : Nat → Word) (res : Nat → Except Byte Spot) (s : State) (h : Here) :
      Prop :=
    let ks := h.doers g u
    let own := ks.filter (fun k => !(res k).isOk)
    let bad := if u then h.active g else own
    spotsHeld (opened s h) h w z (goodSpots (ks.map (fun k => (k, res k)))) = false → own ≠ [] → s.memOk = true →
    ∀ e, res (own.headD 0) = .error e →
    ∃ t c, exec i s = .next t ∧ t.cord? h.ref = some c ∧ c.cause = e ∧ c.tval = ea (own.headD 0) ∧
      (∀ k ∈ bad, c.lane k = { h.cord.lane k with st := .park, data := false, served := false }) ∧
      (∀ k ∈ h.set, k ∉ bad → c.lane k = h.next i (h.cord.lane k)) ∧
      ∀ n a, (w = true → ∀ k ∈ ks, ∀ p, res k = .ok (.sp n p) → a < p ∨ p + z ≤ a) →
        (t.core n).spad.get a = (s.core n).spad.get a
  (∀ (z : Nat) (mk : OSt → Instr), (z, mk) ∈ [(1, Instr.st8), (2, .st16), (4, .st32), (8, .st64), (16, .st128)] →
    ∀ o s h, Executes (mk o) s h → parks (mk o) o.gd o.u z true (laneEa h o.a o.imm)
      (fun k => resolve (opened s h) h k o.space (laneEa h o.a o.imm k) z true false o.rel) s h) ∧
  (∀ (z : Nat) (mk : OLd → Instr), (z, mk) ∈ [(1, Instr.ld8), (2, .ld16), (4, .ld32), (8, .ld64), (16, .ld128)] →
    ∀ o s h, Executes (mk o) s h → ¬(o.d = 0 ∧ z ≤ 4) → parks (mk o) o.gd o.u z false (laneEa h o.a o.imm)
      (fun k => resolve (opened s h) h k o.space (laneEa h o.a o.imm k) z false true o.acq) s h) ∧
  (∀ o s h, Executes (.atom o) s h → privileged (.atom o) h = false → parks (.atom o) o.gd o.u 4 true (laneEa h o.a o.imm)
    (fun k => resolve (opened s h) h k o.space (laneEa h o.a o.imm k) 4 true true true) s h) ∧
  (∀ (z : Nat) (mk : OSld → Instr), (z, mk) ∈ [(4, Instr.sld32), (8, .sld64)] → ∀ o s h e, Executes (mk o) s h →
    let ea := h.s o.a + o.imm.signExtend 32
    resolve (opened s h) h 0 (if o.skw then .skw else .lin) ea z false true o.acq = .error e →
    Faults (mk o) s h h.set (fun k => h.next (mk o) (h.cord.lane k)) e ea) ∧
  (∀ (z : Nat) (mk : OSst → Instr), (z, mk) ∈ [(4, Instr.sst32), (8, .sst64)] → ∀ o s h e, Executes (mk o) s h →
    let ea := h.s o.a + o.imm.signExtend 32
    resolve (opened s h) h 0 (if o.skw then .skw else .lin) ea z true false o.rel = .error e →
    Faults (mk o) s h h.set (fun k => h.next (mk o) (h.cord.lane k)) e ea) ∧
  ∀ s h k a z w rd ex,
    let b := h.block
    let res (sp : Space) := resolve s h k sp a z w rd ex
    (∀ sp, a.toNat % z ≠ 0 → res sp = .error cAlign) ∧
    (a.toNat % z = 0 → b.splen < a.toNat + z → res .lin = .error cSpRange) ∧
    (a.toNat % z = 0 → b.task.isSome ∨ b.lsize < a.toNat + z → res .loc = .error cSpRange) ∧
    (a.toNat % z = 0 → a.toNat + z ≤ b.splen → ex = false → raceFlag b h.ref.cord a.toNat = true → res .lin = .error cMmRace) ∧
    (a.toNat % z = 0 → a.toNat + z ≤ b.splen → (ex = true ∨ raceFlag b h.ref.cord a.toNat = false) → (s.core h.ref.core).bad = [] →
      res .lin = .ok (.sp h.ref.core (b.spbase + a.toNat)))

/-- R249, R255: the skewed placement of a declared tile keeps every byte of the tile inside the allocation, and no two bytes of it
share a place. -/
def Obligations.SkewedTileKeepsBytesApart : Prop :=
  ∀ (len : Nat) (t1 t2 : Word) (x y : Nat), tileDeclared len t1 t2 = true →
    x < tileRows t2 * tileLen t2 → y < tileRows t2 * tileLen t2 →
    tileBase t1 ≤ skew t1 x ∧ skew t1 x < len ∧ (skew t1 x = skew t1 y → x = y)

/-! ### Global memory through the gather unit -/

/-- R60, R158 to R162: a gather instruction with good addresses and room puts one access for each active lane in flight, or one for all
of them with `.uni`, and completes: a store is done for lookahead, an atomic waits for its old words, and a load's lanes run ahead for
as many issues as it says, or wait where it says none. `gprf`, and a `gld32` to v0, leave the cord as it was; of the rest they change
TLB entries, and damaged words they count and log. -/
def Obligations.GatherIssue : Prop :=
  let addr (h : Here) (a : Reg) (imm : BitVec 11) (k : Nat) : Nat := (h.v64 k a + imm.signExtend 64).toNat
  let good (h : Here) (g : Guard) (u : Bool) (z : Nat) (ad : Nat → Nat) : Prop :=
    (∀ k ∈ h.doers g u, ad k % z = 0 ∧ ad k < 2 ^ 52) ∧ h.cord.gathers.length + (h.doers g u).length ≤ 1024
  let access (s : State) (h : Here) (g : Guard) (u : Bool) (op : Nat → AccessOp) (ad : Nat → Nat) (z : Nat) (d : Reg) (n : Nat) (ord : Ordr)
      (late : Bool) (k : Nat) : Access :=
    let who := if u then h.active g else [k]
    { id := h.cord.gseq, lanes := who, op := op k, addr := ad k, size := z
      dst := who.map (fun j => (List.range n).map (fun i => place h.cord.vbud (h.cord.lane j).frame.vb (d.toNat + i)))
      pc := BitVec.ofNat 32 h.addr, late := late, acq := ord.acq, rel := ord.rel, scope := ord.scope, stamp := s.clock, outer := false }
  (∀ (z : Nat) (mk : OGld → Instr), (z, mk) ∈ [(4, Instr.gld32), (8, .gld64)] → ∀ o s h, Executes (mk o) s h → ¬(o.d = 0 ∧ z = 4) →
    good h o.gd o.u z (addr h o.a o.imm) →
    let acs (late : Bool) := (h.doers o.gd o.u).map
      (access s h o.gd o.u (fun _ => .load) (addr h o.a o.imm) z o.d (z / 4) ⟨o.acq, false, o.scope⟩ late)
    -- a window takes `look + 1` issues, the first of them this one
    (0 < look h.cord o.la → Completes (mk o) s h { h.cord with
      gathers := h.cord.gathers ++ acs false, gseq := h.cord.gseq + 1
      windows := h.cord.windows ++ [{ id := h.cord.gseq, left := look h.cord o.la + 1, dst := regs o.d (z / 4) }] }
      (fun k => h.next (mk o) (h.cord.lane k)) []) ∧
    (look h.cord o.la = 0 → ∃ t c, exec (mk o) s = .next t ∧ t.cord? h.ref = some c ∧ Apart h.ref s t ∧
      c.icount = h.cord.icount + 1 ∧ c.gathers.drop h.cord.gathers.length = acs true ∧
      ∀ k ∈ h.active o.gd, c.lane k = { h.next (mk o) (h.cord.lane k) with st := .wait, data := true })) ∧
  (∀ (z : Nat) (mk : OGst → Instr), (z, mk) ∈ [(4, Instr.gst32), (8, .gst64)] → ∀ o s h, Executes (mk o) s h →
    good h o.gd o.u z (addr h o.a o.imm) →
    Completes (mk o) s h { h.cord with
      gathers := h.cord.gathers ++ (h.doers o.gd o.u).map (access s h o.gd o.u
        (fun k => .store ((List.range (z / 4)).flatMap (fun j => natLe 4 (h.v k (o.b + BitVec.ofNat 6 j)).toNat)))
        (addr h o.a o.imm) z 0 0 ⟨false, o.rel, o.scope⟩ false)
      gseq := h.cord.gseq + 1 } (fun k => h.next (mk o) (h.cord.lane k)) []) ∧
  (∀ o s h, Executes (.gatom o) s h → h.block.det = false → good h o.gd o.u 4 (addr h o.a o.imm) →
    Completes (.gatom o) s h { h.cord with
      gathers := h.cord.gathers ++ (h.doers o.gd o.u).map (access s h o.gd o.u (fun k => .atom o.op (h.v k o.b) (h.v k o.d))
        (addr h o.a o.imm) 4 o.d 1 o.ord false)
      gseq := h.cord.gseq + 1 } (fun k => h.next (.gatom o) (h.cord.lane k))
      [{ left := look h.cord o.la, uses := uses (.gatom o), owed := [.gather h.cord.gseq] }]) ∧
  let prefetches (i : Instr) (s : State) (h : Here) : Prop :=
    CompletesWith i s h h.cord (fun k => h.next i (h.cord.lane k)) [] (fun t => Reads h.ref { s with mgmt := t.mgmt } t) ∧
    ((∀ va, translate (opened s h) h.ref.core true h.block.ctx va 64 false true ≠ .error cDataErr) →
      CompletesWith i s h h.cord (fun k => h.next i (h.cord.lane k)) [] (fun t => Reads h.ref s t))
  (∀ o s h, Executes (.gld32 o) s h → o.d = 0 → (∀ k ∈ h.doers o.gd o.u, addr h o.a o.imm k % 4 = 0) →
    h.cord.gathers.length + (h.doers o.gd o.u).length ≤ 1024 → prefetches (.gld32 o) s h) ∧
  ∀ o s h, Executes (.gprf o) s h → prefetches (.gprf o) s h

/-- R26, R158 to R161, R267, R277, R318, R336: an access in flight that no earlier one precedes takes place. Data goes into the
registers of its lanes that are not in EXIT, and a lane that waited for nothing else runs on; a store or an atomic changes the bytes at
its target, and a load reads what its cord sees; an access that faults in translation parks its lanes on the instruction and changes no byte:
of code that a handler has interrupted, as the state that the handler's end restores. Which accesses wait for which is log entry 10, and an
access of interrupted code log entry 8. The atomics of one instruction on one line of host memory take place together, in ascending order. -/
def Obligations.GatherAccesses : Prop :=
  (∀ s r i b c a, s.block? r.core r.slot = some b → s.cord? r = some c → c.gathers[i]? = some a →
    lineMates s r.core b.ctx c i a = [i] → earlierSame s r.core b.ctx c [i] i a = false → earlierOther s r b.ctx a = false → a.lanes.Nodup →
    let event : Instr := if a.op = .load then .gatherDataArrival r i else .gatherPerformed r i
    let tr := translate s r.core true b.ctx a.addr a.size (a.op != .load) (match a.op with
      | .store _ => false
      | _ => true)
    let word (l : List Byte) (j : Nat) : Word := BitVec.ofNat 32 (leNat ((l.drop (4 * j)).take 4))
    let gets (x y : Cord) (ws : List Word) : Prop :=
      (∀ k ds, (k, ds) ∈ a.lanes.zip a.dst → a.gone (x.lane k) = false →
        (y.lane k).regs = ((ds.zip ws).foldl (fun l z => l.put z.1 z.2) (x.lane k)).regs) ∧
      (∀ k, k ∉ a.lanes → (y.lane k).regs = (x.lane k).regs) ∧
      ∀ k ∈ a.lanes, (x.lane k).st = .wait → (x.lane k).data = true → (x.dropAccess i).owes k = false →
        (y.lane k).st = .run ∧ (y.lane k).pc = (x.lane k).pc
    let touched := touch s r.core true b.ctx a.addr
    (∀ t, tr = .ok t → ∃ m y, exec event s = .next m ∧ m.cord? r = some y ∧ y.gathers = c.gathers.eraseIdx i ∧
      (a.op = .load → Reads r s m ∧ gets c y ((List.range (a.size / 4)).map (word (targetRead (s.seenBy ⟨.cord r.core b.id r.cord, a.plain⟩) a.size t)))) ∧
      (∀ l, a.op = .store l → Apart r (targetWrite touched l t) m ∧ gets c y []) ∧
      ∀ op x d, a.op = .atom op x d →
        let old := (List.range (a.size / 4)).map (word (targetRead s a.size t))
        Apart r (targetWrite (noteTarget touched a.size t) (natLe 4 (atomNew op (old.headD 0) x d).toNat) t) m ∧ gets c y old) ∧
    ∀ e, tr = .error e → ∃ m y, exec event s = .next m ∧ m.cord? r = some y ∧ y.gathers = c.gathers.eraseIdx i ∧ SameMemory s m ∧
      ∀ k ∈ a.lanes, let l := c.lane k
        ((a.outer && l.handles) = false → l.st ≠ .exit → y.lane k = { l with pc := a.pc, st := .park, data := false, served := false }) ∧
        (a.outer = true → l.handles = true → l.savedSt ≠ .exit →
          (y.lane k).savedPc = a.pc ∧ (y.lane k).savedSt = .park ∧ (y.lane k).regs = l.regs)) ∧
  ∀ s r i b c a p, s.block? r.core r.slot = some b → s.cord? r = some c → c.gathers[i]? = some a → a.op.isAtom = true →
    a.target s r.core b.ctx = .ok (.host p) →
    let js := lineMates s r.core b.ctx c i a
    (∀ j ∈ js, ∀ x, c.gathers[j]? = some x → earlierSame s r.core b.ctx c js j x = false) → earlierOther s r b.ctx a = false →
    i ∈ js ∧ js.Pairwise (· < ·) ∧
    (∀ j ∈ js, ∃ x q, c.gathers[j]? = some x ∧ x.id = a.id ∧ x.target s r.core b.ctx = .ok (.host q) ∧ q / 64 = p / 64) ∧
    exec (.gatherPerformed r i) s = .next { js.zipIdx.foldl (fun m x => perform r (x.1 - x.2) m) s with stalled := [] }

/-! ### Tiles and contraction -/

/-- R181, R201, R202, R206: `acz` sets every element of its tile to +0 and clears its fault record; `acwr` writes the elements that its
active lanes name, the highest-numbered lane's value remaining; `acrd` owes each active lane the element it names; `acrst` records where
the cord would restart, once no register it records is owed (R61). That it records the skips for all too is the model's choice (log entry
47). -/
def Obligations.TileAccess : Prop :=
  let ready (s : State) (h : Here) (g : Guard) (n : TileN) (w : Bool) (p : Nat) : Prop := h.active g ≠ [] ∧ tileFree (opened s h) h n w p ∧
    tileRace h.block h.ref.cord ((s.core h.ref.core).tile p) = false
  let idx (h : Here) (k : Nat) (r : Reg) : Nat := (h.v k r).toNat % 4096
  (∀ o s h p, Executes (.acz o) s h → s.memOk = true → ready s h o.gd o.tile true p →
    CompletesWith (.acz o) s h h.cord (fun k => h.next (.acz o) (h.cord.lane k)) [] (fun t =>
      (∀ n a, (t.core n).acc.get a = if n = h.ref.core ∧ p * Config.tileBytes ≤ a ∧ a < (p + 1) * Config.tileBytes then 0
        else (s.core n).acc.get a) ∧
      ((t.core h.ref.core).tile p).fault = none ∧ ∀ n, (t.core n).spad = (s.core n).spad)) ∧
  (∀ o s h p, Executes (.acrd o) s h → ready s h o.gd o.tile false p → tileFault ((s.core h.ref.core).tile p) h.ref.cord = none →
    Completes (.acrd o) s h h.cord (fun k => h.next (.acrd o) (h.cord.lane k))
      [{ left := look h.cord o.la, uses := uses (.acrd o), owed := (h.active o.gd).map (fun k =>
          .v k (place h.cord.vbud (h.cord.lane k).frame.vb o.d.toNat)
            ((s.core h.ref.core).acc.word (p * Config.tileBytes + 4 * idx h k o.b))) }]) ∧
  (∀ o s h p, Executes (.acwr o) s h → s.memOk = true → ready s h o.gd o.tile true p →
    CompletesWith (.acwr o) s h h.cord (fun k => h.next (.acwr o) (h.cord.lane k)) [] (fun t =>
      (∀ e, e < 4096 → (t.core h.ref.core).acc.word (p * Config.tileBytes + 4 * e) =
        match ((h.active o.gd).filter (fun k => idx h k o.a == e)).getLast? with
        | none => (s.core h.ref.core).acc.word (p * Config.tileBytes + 4 * e)
        | some k => h.v k o.b) ∧
      (∀ n a, ¬(n = h.ref.core ∧ p * Config.tileBytes ≤ a ∧ a < (p + 1) * Config.tileBytes) →
        (t.core n).acc.get a = (s.core n).acc.get a) ∧
      ∀ n, (t.core n).spad = (s.core n).spad)) ∧
  ∀ o s h, Executes (.acrst o) s h → h.active o.gd ≠ [] →
    latencyHolds h.cord h.addr { Uses.none with sr := (List.range (min 16 (winSize h.cord.ubud))).map (16 + ·) } = false →
    Completes (.acrst o) s h { h.cord with restart :=
      { label := BitVec.ofInt 32 (h.addr + 4 * o.off.toInt)
        regs := (List.range (min 16 (winSize h.cord.ubud))).map (fun i => h.cord.s h.sbase (16 + i))
        counts := h.cord.tcount, skips := h.cord.skipAll
        lanes := BitVec.ofNat 32 (maskOf (h.cord.lanesWith (fun l => l.st != .exit))) } }
      (fun k => h.next (.acrst o) (h.cord.lane k)) []

/-- R176, R178 to R180, R183, R184, R187, R196 to R200: a `ctr` whose checks pass, and for which the tile has a slot, records its
cord's arrival with the active lanes as participants and does not wait for the sum; at block scope the cord's count of the tile goes
up, and at cord scope it is the tile's last cord write.
A `ctrskip` arrives without lanes, or, for all, once and for good. The array adds the groups of a complete instance into the tile one
after another, in ascending order, each operand byte as the instance sees it, and closes the instance after the last; no other store changes.
When the array starts is log entry 22, that an instance keeps the prio of its first arrival log entry 87, and what the operands of an arrival
show of racing writes log entry 10. -/
def Obligations.Contraction : Prop :=
  (let arrive (s : State) (h : Here) (p : Nat) (seq : Option Word) (prio : Nat) (a : Arrival) : State :=
     let t := (s.core h.ref.core).tile p
     (opened s h).setCore h.ref.core (((opened s h).core h.ref.core).setTile p
       (joinInstance (if seq = none then t.wrote h.block h.ref.cord else t) seq prio a))
   (∀ o s h p shape, Executes (.ctr o) s h → physTile h.block o.tile.toNat = some p →
     (o.scope = .blk → h.cord.skipAll.contains o.tile.toNat = false) →
     ctrShape h o (h.active o.gd) = .ok shape → shape.any (ctrBad o) = false →
     (o.scope ≠ .blk → tileRace h.block h.ref.cord ((s.core h.ref.core).tile p) = false) →
     let w := shape.getD 0
     let a := ctrArrival (opened s h) h o p w (h.active o.gd)
     a.parts.findSome? (partFault h.block h.ref.cord a) = none →
     let n := h.cord.tcount.get o.tile.toNat 0 + 1
     let seq := if o.scope = .blk then some n else none
     hasSlot ((s.core h.ref.core).tile p) seq = true →
     let y := reserveDraws h.cord { a with ranges := arrivalRanges h.block a }
     CompletesAs (.ctr o) s h (arrive s h p seq o.prio.toNat y.2)
       { h.cord with tcount := if o.scope = .blk then h.cord.tcount.set o.tile.toNat n else h.cord.tcount }
       (fun k => h.next (.ctr o) (y.1.lane k)) []) ∧
   (∀ o s h p, Executes (.ctrskip o) s h → physTile h.block o.tile.toNat = some p →
     h.cord.skipAll.contains o.tile.toNat = false → o.all = true →
     Completes (.ctrskip o) s h { h.cord with skipAll := o.tile.toNat :: h.cord.skipAll }
       (fun k => h.next (.ctrskip o) (h.cord.lane k)) []) ∧
   ∀ o s h p t n, Executes (.ctrskip o) s h → physTile h.block o.tile.toNat = some p →
     h.cord.skipAll.contains o.tile.toNat = false → o.all = false →
     let owed := (h.cord.skipLeft.get? h.addr).getD (if o.a = 0 then 1 else (h.s o.a).toNat)
     owed ≤ 8 → skipMany (skipArrival (opened s h) h p) owed ((s.core h.ref.core).tile p) (h.cord.tcount.get o.tile.toNat 0) = (t, n, 0) →
     CompletesAs (.ctrskip o) s h ((opened s h).setCore h.ref.core (((opened s h).core h.ref.core).setTile p t))
       { h.cord with tcount := h.cord.tcount.set o.tile.toNat n, skipLeft := h.cord.skipLeft.erase h.addr }
       (fun k => h.next (.ctrskip o) (h.cord.lane k)) []) ∧
  (∀ s n p k slot b j i g a ps rest, (s.core n).bad = [] → tileOwner (s.core n) p = some (slot, b, j) →
     ((s.core n).tile p).slots[k]? = some i → instReady (s.core n) p b j i = true → outranked (s.core n) p k = false → groupsLeft i = (g, a, ps) :: rest →
     ∃ t, exec (.contractionGroup n p k) s = .next t ∧
       (t.core n).acc = (applyGroup ((s.seenBy ⟨a.agent n p, true⟩).core n) p b.spbase a ps g).acc ∧
       ((t.core n).tile p).slots = (if rest = [] then ((s.core n).tile p).slots.eraseIdx k
         else ((s.core n).tile p).slots.set k { i with next := g + 1 }) ∧
       (∀ m, m ≠ n → t.core m = s.core m) ∧ (t.core n).spad = (s.core n).spad ∧ t.hbm = s.hbm ∧ t.host = s.host ∧ t.peers = s.peers)

/-- R48, R173, R174, R184 to R187: what a group adds. A lane's vectors begin at its own registers' offsets, or at a uniform offset and its
rank times the packed length; their elements lie one after another, in a row or down a column of the declared tile where the mode says so,
and a q4 element is a nibble under the scale byte that the descriptor gives for its rank and index. The group sum is NaN, or an infinity,
where a product is; otherwise the products, truncated toward zero at the place that the largest of them sets, are added as integers that
never leave the window. The sum goes into each element of the contribution by one rounding of the exact result, which never saturates;
INT8 products are added modulo 2^32; other elements of the tile stay. With stochastic accumulation the lowest-numbered participating lane
of each group records its generator at the arrival and moves on by one draw for each element, and no other lane's generator moves. -/
def Obligations.ContractionArithmetic : Prop :=
  let inf (s : Bool) : Word := if s then 0xFF800000 else 0x7F800000
  let value (s : Bool) (m : Nat) (e : Int) : ℚ := (if s then -1 else 1) * m * (2 : ℚ) ^ e
  (∀ (f : Nat) (ps : List Machine.Num),
     let units (q : Int) (p : Machine.Num) : Int := match p with
       | .fin s m e => (if s then -1 else 1) * ⌊(m : ℚ) * (2 : ℚ) ^ (e - q)⌋
       | _ => 0
     (Machine.Num.nan ∈ ps ∨ (Machine.Num.inf false ∈ ps ∧ Machine.Num.inf true ∈ ps) → groupSum f ps = .nan) ∧
     (∀ s, Machine.Num.nan ∉ ps → Machine.Num.inf s ∈ ps → Machine.Num.inf (!s) ∉ ps → groupSum f ps = .inf s) ∧
     ((∀ p ∈ ps, ∃ s e, p = .fin s 0 e) →
       (groupSum f ps = .fin true 0 0 ∨ groupSum f ps = .fin false 0 0) ∧
       (groupSum f ps = .fin true 0 0 ↔ ∀ p ∈ ps, ∃ e, p = .fin true 0 e)) ∧
     ∀ s m e, (∀ p ∈ ps, ∃ s m e, p = Machine.Num.fin s m e) → Machine.Num.fin s m e ∈ ps → m ≠ 0 →
       (∀ s' m' e', Machine.Num.fin s' m' e' ∈ ps → m' ≠ 0 → (m'.log2 : Int) + e' ≤ m.log2 + e) →
       let q : Int := m.log2 + e - f
       let sum := (ps.map (units q)).sum
       groupSum f ps = .fin (decide (sum < 0)) sum.natAbs q ∧ (ps.length ≤ 16 → sum.natAbs < 2 ^ (f + 5))) ∧
  (∀ (arnd : Nat) (r : Word) (f : Nat) (t : Word) (ps : List Machine.Num),
     let x := Fmt.f32.decode t.toNat
     let g := groupSum f ps
     (x.isNan = true ∨ g.isNan = true → addGroup arnd r f t ps = 0x7FC00000) ∧
     (∀ s, x = .inf s → g = .inf (!s) → addGroup arnd r f t ps = 0x7FC00000) ∧
     (∀ s, x = .inf s → g = .inf s ∨ (∃ s' m e, g = .fin s' m e) → addGroup arnd r f t ps = inf s) ∧
     (∀ s s' m e, g = .inf s → x = .fin s' m e → addGroup arnd r f t ps = inf s) ∧
     ∀ s m e s' m' e', x = .fin s m e → g = .fin s' m' e' → ∃ y n k, value y n k = value s m e + value s' m' e' ∧
       (n = 0 → (y = true ↔ s = true ∧ s' = true)) ∧
       addGroup arnd r f t ps = BitVec.ofNat 32 (roundNum .f32 (if arnd = 1 then .sr else .rn) r false true (.fin y n k)).1 ∧
       ((2 : ℚ) ^ 128 ≤ n * (2 : ℚ) ^ k → addGroup arnd r f t ps = inf y)) ∧
  (let int (x : Int) : Machine.Num := .fin (decide (x < 0)) x.natAbs 0
   ∀ (t : Word) (l : List (Int × Int)), addInts t (l.map (fun x => (Machine.Num.mul (int x.1) (int x.2)).1)) =
     t + BitVec.ofInt 32 ((l.map (fun x => x.1 * x.2)).sum)) ∧
  (∀ (c : Core) (p base : Nat) (a : Arrival) (ps : List Part) (g i j : Nat), c.acc.wf = true → i < 64 → j < 64 →
     let w := a.shape
     let m := if shapeTr w then j else i
     let n := if shapeTr w then i else j
     let rd (o : Nat) : Byte := c.spad.get (base + o)
     let prods := ps.map (fun x => (Machine.Num.mul (laneVec rd a x false m) (laneVec rd a x true n)).1)
     let rs := (draws (shapeM w * shapeN w) (if g % 2 = 0 then a.draw0 else a.draw1)).2
     let t := c.elemAt p i j
     (applyGroup c p base a ps g).elemAt p i j =
       if m < shapeM w ∧ n < shapeN w then
         if shapeFa w = 5 then addInts t prods
         else addGroup (shapeArnd w) (if shapeArnd w = 1 then rs.getD (m * shapeN w + n) 0 else 0) (windowF w) t prods
       else t) ∧
  (∀ (rd : Nat → Byte) (a : Arrival) (x : Part) (second : Bool) (i : Nat),
     let f := if second then shapeFb a.shape else shapeFa a.shape
     let mode := if second then a.bmode else a.amode
     let o := (if second then x.boff else x.aoff).toNat
     let z := if f = 1 ∨ f = 2 then 2 else 1
     let at_ (y : Nat) : Nat := match mode with
       | .row => y
       | _ => 32 * (a.tile.toNat % 2 ^ 20 / 32 + 64 * (y / 2048) + (y / 32 + y / 2048) % 64) + y % 32
     let byte (n : Nat) : Nat := (rd (at_ (match mode with
       | .col => o + i * (a.tile2.toNat % 2 ^ 12)
       | _ => o + i * z) + n)).toNat
     let v := laneVec rd a x second i
     (f = 1 → v = Fmt.bf16.decode (byte 0 + 256 * byte 1)) ∧ (f = 2 → v = Fmt.f16.decode (byte 0 + 256 * byte 1)) ∧
     (f = 3 → v = Fmt.e4m3.decode (byte 0)) ∧ (f = 4 → v = Fmt.e5m2.decode (byte 0)) ∧
     (f = 5 → ∃ s m, v = .fin s m 0 ∧ numVal s m 0 = ((if byte 0 < 128 then (byte 0 : Int) else (byte 0 : Int) - 256 : Int) : ℚ)) ∧
     (f = 6 → mode ≠ .col →
       let j := if second then 2 else 0
       let t := if a.shape.getLsbD 21 then 32 else 16
       let scale : Word := a.scale.getD j 0 + BitVec.ofNat 32 ((a.rank0 + x.lane) / t) * a.scale.getD (j + 1) 0 + BitVec.ofNat 32 (i / t)
       let pair := (rd (at_ (o + i / 2))).toNat
       v = q4Decode (rd scale.toNat).toNat (if i % 2 = 0 then pair % 16 else pair / 16))) ∧
  (∀ sb c : Nat, sb < 256 → c < 16 →
     let e : Int := (sb % 64 : Int) - 32
     let grid (l : List ℚ) : ℚ := (if c < 8 then 1 else -1) * l.getD (c % 8) 0
     let v : ℚ := match sb / 64 with
       | 0 => ((if c < 8 then (c : Int) else (c : Int) - 16 : Int) : ℚ)
       | 1 => grid [0, 0.5, 1, 1.5, 2, 3, 4, 6]
       | 2 => grid [0, 1 / 8, 1 / 4, 1 / 2, 1, 2, 4, 8]
       | _ => grid [0, 1, 2, 3, 4, 6, 8, 16]
     (sb % 64 = 63 → q4Decode sb c = .nan) ∧
     (sb % 64 ≠ 63 → ∃ s m k, q4Decode sb c = .fin s m k ∧ numVal s m k = v * (2 : ℚ) ^ e ∧ (64 ≤ sb → (s = true ↔ 8 ≤ c)))) ∧
  (∀ (s : State) (h : Here) (o : OCtr) (p : Nat) (w : Word) (act : List Nat),
     let a := ctrArrival s h o p w act
     let rank (k : Nat) : Nat := (if o.scope = .blk then 32 * h.ref.cord else 0) + k
     let len (f n : Nat) (mode : OpMode) : Nat :=
       let z := if f = 1 ∨ f = 2 then 2 else 1
       if mode = .col then z else if f = 6 then (n + 1) / 2 else n * z
     let start (r : Reg) (f n : Nat) (mode : OpMode) (k : Nat) : Word :=
       if o.map then h.s r + BitVec.ofNat 32 (rank k) * BitVec.ofNat 32 (len f n mode) else h.v k r
     (∀ k, a.rank0 + k = rank k) ∧ a.tile = h.cord.tile ∧ a.tile2 = h.cord.tile2 ∧ a.amode = o.amode ∧ a.bmode = o.bmode ∧
     (o.j ≠ 0 → ∀ i, i < 4 → a.scale.getD i 0 = h.s (BitVec.ofNat 6 (4 * o.j.toNat + i))) ∧
     a.parts = act.map (fun k => { lane := k, aoff := start o.a (shapeFa w) (shapeM w) o.amode k
                                   boff := start o.b (shapeFb w) (shapeN w) o.bmode k })) ∧
  ∀ (c : Cord) (a : Arrival), shapeArnd a.shape = 1 →
    let first (g : Nat) : Option Nat := ((a.parts.map (·.lane)).filter (fun k => k / 16 == g)).head?
    let y := reserveDraws c a
    (∀ g k, g < 2 → first g = some k →
      (y.1.lane k).rng = (draws (shapeM a.shape * shapeN a.shape) (c.lane k).rng).1 ∧
      (if g = 0 then y.2.draw0 else y.2.draw1) = (c.lane k).rng) ∧
    ∀ k, first 0 ≠ some k → first 1 ≠ some k → y.1.lane k = c.lane k

/-- R203 to R205: `acdrain` and `acaxpy`, which reads the region as its cord sees it (log entry 10), once their tile is free and their region
is good and not held, write each element of the region in row-major order and nothing else; with stochastic rounding the lowest-numbered
active lane makes one draw for each element. A drained element is the tile's, as it is, or rounded once to the format, or, of INT8 sums, the
32 bits or the low 8, with `.sat` clamped; `acaxpy` writes w − η·g, rounded once by a draw. What `.f32` gives of a NaN, and with `.sat` of an
infinity, is log entry 68. -/
def Obligations.Drains : Prop :=
  let good (s : State) (h : Here) (tile : TileN) (p : Nat) (skw : Bool) (ea : Word) (cnt z : Nat) (offs : List Nat) : Prop :=
    tileFree (opened s h) h tile false p ∧ tileRace h.block h.ref.cord ((s.core h.ref.core).tile p) = false ∧
    region h.block h.cord skw ea.toNat cnt z = .ok offs ∧ offs.all (fun o => !raceFlag h.block h.ref.cord o) = true ∧
    tileFault ((s.core h.ref.core).tile p) h.ref.cord = none ∧
    offs.all (fun o => !scoreHeld (s.core h.ref.core) true (h.block.spbase + o) z) = true
  let writes (s : State) (h : Here) (z : Nat) (offs vals : List Nat) : State :=
    (opened s h).setCore h.ref.core { (opened s h).core h.ref.core with
      spad := (offs.zip vals).foldl (fun m x => m.write (h.block.spbase + x.1) (natLe z x.2)) (s.core h.ref.core).spad }
  let drew (h : Here) (g : Guard) (sr : Bool) (n k : Nat) : Lane :=
    if sr && k == (h.active g).headD 0 then { h.cord.lane k with rng := (draws n (h.cord.lane k).rng).1 } else h.cord.lane k
  (∀ o s h p offs, Executes (.acdrain o) s h → h.active o.gd ≠ [] →
    let w := h.s o.b
    let n := shapeM w * shapeN w
    let z := o.ty.width / 8
    good s h o.tile p o.skw (h.s o.a + o.imm.signExtend 32) n z offs →
    let rs := if o.rnd = .sr then (draws n (h.cord.lane ((h.active o.gd).headD 0)).rng).2 else []
    CompletesAs (.acdrain o) s h (writes s h z offs ((List.range n).map (fun i =>
        drainElem o ((s.core h.ref.core).elemAt p (i / shapeN w) (i % shapeN w)) (rs.getD i 0))))
      h.cord (fun k => h.next (.acdrain o) (drew h o.gd (o.rnd == .sr) n k)) []) ∧
  (∀ o s h p offs, Executes (.acaxpy o) s h → h.active o.gd ≠ [] →
    let w := h.s o.b
    let n := shapeM w * shapeN w
    let z := o.ty.width / 8
    good s h o.tile p false (h.s o.a) n z offs →
    let rs := (draws n (h.cord.lane ((h.active o.gd).headD 0)).rng).2
    CompletesAs (.acaxpy o) s h (writes s h z offs (offs.zipIdx.map (fun x =>
        axpyElem o.ty o.sat (BitVec.ofNat 32 (leNat (((s.seenBy ⟨h.agent, true⟩).core h.ref.core).spad.read (h.block.spbase + x.1) z))) (h.s o.c)
          ((s.core h.ref.core).elemAt p (x.2 / shapeN w) (x.2 % shapeN w)) (rs.getD x.2 0))))
      h.cord (fun k => h.next (.acaxpy o) (drew h o.gd true n k)) []) ∧
  (∀ (o : ODrain) (x r : Word),
    (o.ty = .s32 → drainElem o x r = x.toNat) ∧
    (o.ty = .s8 → (drainElem o x r : Int) = (if o.sat then max (-128) (min 127 x.toInt) else x.toInt) % 256) ∧
    (o.ty = .f32 → (∀ s m e, Fmt.f32.decode x.toNat = .fin s m e → drainElem o x r = x.toNat) ∧
      (Fmt.f32.decode x.toNat = .nan → drainElem o x r = 0x7FC00000) ∧
      ∀ s, Fmt.f32.decode x.toNat = .inf s → drainElem o x r =
        (if s then 0x80000000 else 0) + if o.sat then 0x7F7FFFFF else 0x7F800000) ∧
    (o.ty ∈ [Ty.bf16, .f16, .e5m2, .e4m3] → ∀ s m e, Fmt.f32.decode x.toNat = .fin s m e →
      ∃ fl, RoundedOnce (Fmt.ofTy o.ty) o.rnd r o.sat (numVal s m e) s (drainElem o x r, fl))) ∧
  ∀ (ty : Ty) (sat : Bool) (w eta g r : Word) (s t u : Bool) (m n i : Nat) (e k j : Int),
    (Fmt.ofTy ty).decode w.toNat = .fin s m e → Fmt.f32.decode eta.toNat = .fin t n k → Fmt.f32.decode g.toNat = .fin u i j →
    ∃ fl, RoundedOnce (Fmt.ofTy ty) .sr r sat (numVal s m e - numVal t n k * numVal u i j) (s && !(t ^^ u))
      (axpyElem ty sat w eta g r, fl)

/-! ### Tasks -/

/-- R238, R296, R297: a `spawn` of lanes without faults, for whose items there is room, enqueues one item for each active lane in
ascending order, and counts it in the lane. The packing unit forms a cord of 32 ready items of one launch, entry and class, or, in a
deterministic launch, of fewer once the block that spawned them has exited; a time-out forms one of the group of any item that is ready,
if its launch is not deterministic. With no such items nothing happens. That of a deterministic launch's groups below 32 each holds the items
of one block is the model's choice (log entry 46), and so are that a spawn enqueues nothing until there is room for all its items (log entry
100) and how a time-out names its item (log entry 89). -/
def Obligations.Tasks : Prop :=
  (∀ o s h, Executes (.spawn o) s h →
    let act := h.active o.gd
    let depth : Nat := ((h.block.task.map (·.depth)).getD 0) + 1
    let item (k : Nat) : TaskItem :=
      { ctx := h.block.ctx, launch := h.block.launch, by_ := h.block.id
        rank := if h.block.task.isSome then none else some h.block.rank, entry := h.v k o.b, arg := h.v64 k o.a
        waitM := (h.v k o.c).setWidth 16, setM := (h.v k o.c).extractLsb' 16 16, slice := o.slice.toNat, cls := o.cls.toNat
        depth := depth, prio := h.block.prio
        wid := BitVec.ofNat 64 (((h.cord.lane k).wid.toNat * 256 + (h.cord.lane k).spawns.toNat) % 2 ^ 59) }
    depth ≤ 8 → sliceGranted s h.block o.slice.toNat = true → (∀ k ∈ act, (h.v k o.b).toNat % 4 = 0) →
    act.length ≤ taskRoom s h.block.ctx (clusterOf h.ref.core) →
    CompletesAs (.spawn o) s h (act.foldl (fun m k => enqueueTask m (clusterOf h.ref.core) (item k)) (opened s h)) h.cord
      (fun k => h.next (.spawn o) (if (h.cord.lane k).guard o.gd then { h.cord.lane k with spawns := (h.cord.lane k).spawns + 1 }
        else h.cord.lane k)) []) ∧
  ∀ (s : State) (d n : Nat),
    let c := s.cluster (d * 8 + n)
    let ready := c.tasks.filter (fun x => c.events.get x.slice 0 &&& x.waitM == x.waitM)
    let same (x y : TaskItem) : Bool := x.launch == y.launch && x.entry == y.entry && x.cls == y.cls
    let group (x : TaskItem) : List TaskItem := (ready.filter (same x)).take 32
    let spawned (x : TaskItem) : List TaskItem := (ready.filter (fun y => same x y && x.sameSpawner y)).take 32
    let forms (e : Instr) (l : List TaskItem) : Prop := ∃ t, exec e s = .next t ∧
      (t.cluster (d * 8 + n)).formed = c.formed ++ [⟨l, false, false⟩]
    let full (x : TaskItem) : Bool := (group x).length == 32
    let last (x : TaskItem) : Bool := itemDet s x && spawnerGone s x
    (∀ x ∈ ready, full x = true → ∃ y ∈ ready, full y = true ∧ forms (.taskCordFormation d n) (group y)) ∧
    (∀ x ∈ ready, (∀ y ∈ ready, full y = false) → last x = true →
      ∃ y ∈ ready, last y = true ∧ forms (.taskCordFormation d n) (spawned y)) ∧
    ((∀ x ∈ ready, full x = false ∧ last x = false) → exec (.taskCordFormation d n) s = .next s) ∧
    ∀ j, n < 8 →
      (∀ x, (ready.filter (fun y => !itemDet s y))[j]? = some x → forms (.taskReadyTimeout d (n + 8 * j)) (group x)) ∧
      ((ready.filter (fun y => !itemDet s y))[j]? = none → exec (.taskReadyTimeout d (n + 8 * j)) s = .next s)

/-! ### Handlers -/

/-- R318, R322, R323: a cord whose parked lanes wait for a handler, and that need not wait for a spill or, in a deterministic launch, for
gathers (log entry 8), enters the one its rung names: every lane not in EXIT saves its PC, state and predicates and runs from the vector,
in a frame of its own, at whatever depth, once the late data that it is owed have come; what is in flight stays the interrupted code's.
With no vector at rung 0 or 1 the context rung takes the fault. -/
def Obligations.HandlerEntry : Prop :=
  ∀ s r b x, s.block? r.core r.slot = some b → s.cord? r = some x → b.status.issues = true → x.handler = none →
    wantsHandler x = true → entryWaits b x = false →
    let ks := x.lanesWith (fun l => l.st != .exit)
    let enters (rung : Nat) (v : Word) : Prop := ∃ t c, exec (.handlerEntry r) s = .next t ∧ t.cord? r = some c ∧
      c.handler = some { rung := rung, savedQ := x.q, cause := x.cause } ∧ c.q = x.q ∧
      c.gathers = x.gathers.map (fun a => { a with outer := true }) ∧ ∀ k ∈ ks,
        (c.lane k).pc = v ∧ (c.lane k).st = (if x.owes k then .wait else .run) ∧ (c.lane k).savedPc = (x.lane k).pc ∧ (c.lane k).savedSt = (x.lane k).st ∧
        (c.lane k).savedP = (x.lane k).p ∧ (c.lane k).p = (x.lane k).p ∧ (c.lane k).regs = (x.lane k).regs ∧
        (c.lane k).frames.tail = (x.lane k).frames ∧ (c.lane k).frame.ret = none
    (slideSpills x ks = false →
      (x.hvec ≠ 0 → enters 0 x.hvec) ∧ (x.hvec = 0 → b.bhand ≠ 0 → enters 1 b.bhand)) ∧
    (x.hvec = 0 → b.bhand = 0 → ∃ t c, exec (.handlerEntry r) s = .next t ∧ t.cord? r = some c ∧ c.escalated = some 2 ∧
      ∀ k, c.lane k = x.lane k)

/-- R239, R240, R320: in a handler `swr` writes each active lane's own saved PC, saved state or join bit. `hret` takes every lane back:
PC and predicates as saved, the state as saved but for a lane in PARK whose bit of the operand is set, which runs, and a lane that
waited and stands at no `rjoin`; the q predicates come back and the cord leaves handler mode. That it waits for everything in flight first
is log entry 8. -/
def Obligations.HandlerReturn : Prop :=
  (∀ o s h, Executes (.swr o) s h → h.cord.handler.isSome = true →
    let put (x : Cord) (f : Nat → Lane → Lane) : Prop := Completes (.swr o) s h x
      (fun k => h.next (.swr o) (if (h.cord.lane k).guard o.gd then f k (h.cord.lane k) else h.cord.lane k)) []
    (o.idx = 0x10 → (∀ k ∈ h.active o.gd, (h.v k o.a).toNat % 4 = 0) → put h.cord (fun k l => { l with savedPc := h.v k o.a })) ∧
    (o.idx = 0x11 → put h.cord (fun k l =>
      { l with savedSt := .ofCode ((h.v k o.a).toNat % 4), savedData := false })) ∧
    (o.idx = 0x14 → ∃ m, put { h.cord with joinm := m } (fun _ l => l) ∧
      ∀ k, k < 32 → m.getLsbD k = if k ∈ h.active o.gd then (h.v k o.a).getLsbD 0 else h.cord.joinm.getLsbD k)) ∧
  ∀ o s h hd, Executes (.hret o) s h → h.cord.handler = some hd → h.cord.gathers = [] → h.cord.inflight = [] → h.cord.uspill = [] →
    (∀ l ∈ h.cord.lanes.vals, ∀ f ∈ l.frames, f.spill = none) →
    ∃ t c, exec (.hret o) s = .next t ∧ t.cord? h.ref = some c ∧ c.handler = none ∧ c.q = hd.savedQ ∧
      ∀ k, k < 32 → (h.cord.lane k).handles = true →
        let l := h.cord.lane k
        let back := { l with pc := l.savedPc, p := l.savedP, data := false, frames := l.toHandler.frames.tail }
        (l.savedSt = .run → c.lane k = { back with st := .run }) ∧
        (l.savedSt = .wait → atRjoin s h.ref.core h.block.ctx l.savedPc = false → c.lane k = { back with st := .run }) ∧
        (l.savedSt = .park → c.lane k = if (h.s o.a).getLsbD k then { back with st := .run }
          else { back with st := .park, served := true }) ∧
        (l.savedSt = .exit → (c.lane k).st = .exit)

/-- R317, R321 to R325, R237: when its service time-out expires a handler is discarded and its fault goes to the next rung, with
HANDLER_TIMEOUT and the cause it served: from a cord handler to the block handler, where there is one and its entry spills nothing, which
the lanes enter from the PCs, states and windows that the first handler saved, and else to the context rung; a higher rung passes it on
up, a suspended operation's too, but while its block is saved. The context rung reports a fault in the fault queue, where a DMA window
lets it, and ends its block and launch; a second fault of a block already ended is reported; a SUSPENDED operation is reported once, and
the failure of an operation of an exited block ends the launch. A cord that has exited has no time-out (log entry 53). -/
def Obligations.Escalation : Prop :=
  (∀ s r b x hd, s.block? r.core r.slot = some b → s.cord? r = some x → b.status.issues = true → x.exited = false →
    x.handler = some hd → (hd.rung = 1 ∨ hd.rung = 0 ∧ b.bhand = 0) →
    ∃ t c, exec (.handlerTimeout (.cord r)) s = .next t ∧ t.cord? r = some c ∧ c.handler = none ∧ c.escalated = some 2 ∧
      c.cause = 0x17 ∧ c.tval = hd.cause.setWidth 32) ∧
  (∀ s r b x hd, s.block? r.core r.slot = some b → s.cord? r = some x → b.status.issues = true → x.exited = false →
    x.handler = some hd → x.gathers = [] → hd.rung = 0 → b.bhand ≠ 0 →
    let y := x.onLanes (x.lanesWith (·.handles)) (fun _ l => { l with pc := l.savedPc, st := l.savedSt, frames := l.toHandler.frames.tail })
    let ks := y.lanesWith (fun l => l.st != .exit)
    slideSpills y ks = false →
    ∃ t c, exec (.handlerTimeout (.cord r)) s = .next t ∧ t.cord? r = some c ∧
      c.handler = some { rung := 1, savedQ := hd.savedQ, cause := 0x17 } ∧ c.cause = 0x17 ∧ c.tval = hd.cause.setWidth 32 ∧
      ∀ k ∈ ks, (c.lane k).pc = b.bhand ∧ (c.lane k).st = .run ∧ (c.lane k).frames.tail = (y.lane k).frames ∧
        (c.lane k).savedPc = (y.lane k).pc ∧ (c.lane k).savedSt = (y.lane k).st ∧ (c.lane k).regs = (x.lane k).regs) ∧
  (∀ s r b x n, s.block? r.core r.slot = some b → s.cord? r = some x → b.status.issues = true → x.exited = false →
    x.handler = none → x.escalated = some n → n < 4 →
    ∃ t, exec (.handlerTimeout (.cord r)) s = .next t ∧ t.mgmt.log ≠ [] ∧
      t.cord? r = some { x with escalated := some (n + 1), cause := 0x17, tval := x.cause.setWidth 32 }) ∧
  (∀ s n e o, (s.core n).ops.get? e = some o → o.state = .suspended → o.told = true → o.escalated.getD 2 < 4 →
    o.slot ≠ noSlot →
    ∃ t, exec (.handlerTimeout (.op n e)) s = .next t ∧ t.mgmt.log ≠ [] ∧
      (t.core n).ops.get? e = some { o with escalated := some (o.escalated.getD 2 + 1) }) ∧
  let told (s t : State) (ctx : Nat) : Prop :=
    let k := s.ctx ctx
    k.faultSize ≠ 0 → windowAllows s (k.faultBase + 32 * (k.faultHead % k.faultSize)) 32 true = true →
      (t.ctx ctx).faultHead = k.faultHead + 1
  let failed (s t : State) (n : Nat) (cause : Byte) : Prop := ∀ l, s.launches.get? n = some l →
    ∃ l', t.launches.get? n = some l' ∧ l'.status = .failed ∧ (l.status ≠ .failed → l'.cause = cause)
  (∀ s r b x, s.block? r.core r.slot = some b → s.cord? r = some x → x.escalated = some 2 →
    (b.status.issues = true → ∃ t y, exec (.contextRung (.cord r)) s = .next t ∧ t.block? r.core r.slot = some y ∧
      y.status = .ended ∧ told s t b.ctx ∧ failed s t b.launch x.cause) ∧
    (b.status = .ended → ∃ t, exec (.contextRung (.cord r)) s = .next t ∧ told s t b.ctx ∧
      t.cord? r = some { x with escalated := none })) ∧
  (∀ s n e o, (s.core n).ops.get? e = some o → o.state = .suspended → o.cause ≠ 0 → o.told = false →
    ∃ t, exec (.contextRung (.op n e)) s = .next t ∧ (t.core n).ops.get? e = some { o with told := true } ∧ told s t o.ctx) ∧
  ∀ s n e o b, (s.core n).ops.get? e = some o → o.state = .failed → o.rep = false → o.det = none →
    s.block? n o.slot = some b → b.status.issues = true → b.cords.vals.all Cord.exited = true →
    ∃ t, exec (.contextRung (.op n e)) s = .next t ∧ (t.core n).ops.get? e = some { o with rep := true } ∧ told s t o.ctx ∧
      failed s t b.launch o.cause

/-! ### Overlays -/

/-- R143, R228, R229, R265, R301, R302: a `callo` into a resident overlay that needs no spill calls it, its link slots marked and one hold
counted for each lane; into one that is absent and not loaded on demand it raises OVL_ABSENT with the label's address. The end of a load
whose code pages find room in the code map makes its record resident just when the digest of its pages is the table's, and else frees it.
`ovlrel` drops its token's hold once and collects a finished load; `ovlevict` marks a resident overlay. A damaged code page is loaded
again from its image. An overlay table that cannot be read is log entry 11, a load whose digest is wrong log entry 44. -/
def Obligations.Overlays : Prop :=
  (∀ o s h, Executes (.callo o) s h → h.active o.gd ≠ [] →
     let tgt := BitVec.ofInt 32 (h.addr + 4 * o.off.toInt)
     ∀ e, coveringOverlay (opened s h) h.ref.core h.block tgt.toNat = some e →
     (∀ r, resOf (s.core h.ref.core) h.block.ctx e = some r → r.resident = true → slideSpills h.cord (h.active o.gd) = false →
       (∀ k ∈ h.active o.gd, (h.cord.lane k).calls < 4095) →
       CompletesWith (.callo o) s h { h.cord with calloWait := none } (fun k => if (h.cord.lane k).guard o.gd then { h.cord.lane k with
             pc := tgt, frames := calleeFrame h (h.after (.callo o)) (some e.caddr) (h.cord.lane k) :: (h.cord.lane k).frames }
           else h.next (.callo o) (h.cord.lane k)) []
         (Reads h.ref (endCalloWait (addHolds (opened s h) h.ref.core h.block.ctx e.caddr (h.active o.gd).length) h))) ∧
     (resOf (s.core h.ref.core) h.block.ctx e = none → e.demand = false → h.cord.calloWait = none →
       ∃ t c, exec (.callo o) s = .next t ∧ t.cord? h.ref = some c ∧ Reads h.ref s t ∧
         Counted h (.callo o) s.clock [] { h.cord with cause := 0x09, tval := tgt, gfault := c.gfault } c ∧
         (∀ k ∈ h.active o.gd, c.lane k = { h.cord.lane k with st := .park, data := false, served := false }) ∧
         (∀ k ∈ h.set, k ∉ h.active o.gd → c.lane k = h.next (.callo o) (h.cord.lane k)) ∧
         ∀ k, k ∉ h.set → c.lane k = h.cord.lane k)) ∧
  ((∀ s n i r, (s.core n).res[i]? = some r → r.resident = false → r.susp = none → r.npages ≤ r.done →
     (loadOps (s.core n) r).any (fun x => x.2.state == .suspended) = false → mapRoom (r.npages * r.sharers.length) (s.core n) = true →
     ∃ t, exec (.overlayDigestCheck n i) s = .next t ∧
       (digestOf (imageBytes (s.core n) r) = r.digest → r.evict = false →
         ∃ x ∈ (t.core n).res, x.order = r.order ∧ x.resident = true ∧ x.pages = r.pages) ∧
       (digestOf (imageBytes (s.core n) r) ≠ r.digest → ∀ x ∈ (t.core n).res, x.order ≠ r.order)) ∧
   (∀ o s h x, Executes (.ovlrel o) s h → validToken (s.core h.ref.core) h.ref.slot (h.s o.a) = some x → x.kind = .ovlld →
     CompletesWith (.ovlrel o) s h h.cord (fun k => h.next (.ovlrel o) (h.cord.lane k)) [] (fun t =>
       (x.state.finished = true → (t.core h.ref.core).ops.get? (entryOf (h.s o.a)) = none) ∧
       (x.state.finished = false →
         (t.core h.ref.core).ops.get? (entryOf (h.s o.a)) = some { x with holds := false, auto := true }))) ∧
   (∀ o s h e r, Executes (.ovlevict o) s h → ovlAt (opened s h) h o.idx = some e →
     resOf (s.core h.ref.core) h.block.ctx e = some r → r.resident = true →
     CompletesWith (.ovlevict o) s h h.cord (fun k => h.next (.ovlevict o) (h.cord.lane k)) [] (fun t =>
       ∀ x ∈ (t.core h.ref.core).res, x.is h.block.ctx e.caddr = true → x.evict = true)) ∧
   ∀ s n p r l, s.memOk = true → badWord (s.core n) .codeStore (p * 4096) 4096 = true →
     (s.core n).res.find? (fun r => r.pages.contains p) = some r →
     engineRead s (loaderOf n r.ctx) ((r.image + ((r.pages.findIdx? (· == p)).getD 0) * 4096) % 2 ^ 64) 4096 = .ok l →
     ∃ t, exec (.codePageReload n p true) s = .next t ∧ (t.core n).code.read (p * 4096) 4096 = l ∧
       badWord (t.core n) .codeStore (p * 4096) 4096 = false)

/-! ### Barriers, tickets and events -/

/-- R67, R163, R164, R165, R170: a `bar` or a `barar` arrives once at its phase, and a count above 32 raises SHAPE with no arrival. A
`barar` goes on, and its flag is kept for `barwt`, which writes it once the phase has completed, or writes false with no `barar`
before. A `bar` whose phase is not complete keeps its PC and has not issued; it goes on with the last-arriver flag of that phase once it
is. A `fence` with nothing to wait for changes nothing. That an arrival which waits is kept with the address of its `bar` and the lanes that
made it, and that the cord issues nothing else meanwhile, is log entry 37. -/
def Obligations.Barriers : Prop :=
  let arrives (i : Instr) (s : State) (h : Here) (a : Reg) (bn : Nat) (waits : Nat → Cord → Prop) (goes : Nat → Bool → Cord → Prop) : Prop :=
    Executes i s h →
    let n := (h.s a).toNat % 64
    let r := h.block.barrier bn
    let j := arrivalPhase r h.ref.cord
    (32 < n → Faults i s h h.set (fun k => h.next i (h.cord.lane k)) 0x0B (h.s a)) ∧
    (n ≤ 32 → writesPending (s.core h.ref.core) h.ref.slot h.ref.cord h.block = false → j < 4 →
      ∀ p ps, (arriveAt r j h.ref.cord n).phases = p :: ps →
      ∃ t c, exec i s = .next t ∧ t.cord? h.ref = some c ∧ SameMemory s t ∧
        (phaseDone h.block p = false → waits (r.number + j) c ∧
          ∃ b, t.block? h.ref.core h.ref.slot = some b ∧ (b.barrier bn).phases = p :: ps) ∧
        (phaseDone h.block p = true → j = 0 → goes r.number (lastArriver h.block.det p == some h.ref.cord) c))
  let on (i : Instr) (h : Here) (c : Cord) : Prop := c.icount = h.cord.icount + 1 ∧ ∀ k ∈ h.set, c.lane k = h.next i (h.cord.lane k)
  (∀ o s h, h.arrived = none → arrives (.bar o) s h o.a o.bn.toNat
    (fun n c => c.icount = h.cord.icount ∧ c.q = h.cord.q ∧ (∀ k, c.lane k = h.cord.lane k) ∧
      c.barWait.get? h.addr = some ⟨h.set, o.bn.toNat, n, none⟩)
    (fun _ x c => on (.bar o) h c ∧ c.barWait.get? h.addr = none ∧ c.q = (h.cord.setQ o.qd.toNat x).q)) ∧
  (∀ o s h w x, Executes (.bar o) s h → h.arrived = some w → w.flag = some x →
    Completes (.bar o) s h ({ h.cord with barWait := h.cord.barWait.erase h.addr }.setQ o.qd.toNat x)
      (fun k => h.next (.bar o) (h.cord.lane k)) []) ∧
  (∀ o s h w, Executes (.bar o) s h → h.arrived = some w → w.flag = none →
    exec (.bar o) s = .next (((opened s h).waitHere h).stall h.ref)) ∧
  (∀ o s h, arrives (.barar o) s h o.a o.bn.toNat
    (fun n c => on (.barar o) h c ∧ c.barars.get? o.bn.toNat = some n ∧ c.bflags.get? o.bn.toNat = none)
    (fun n x c => on (.barar o) h c ∧ c.barars.get? o.bn.toNat = some n ∧ c.bflags.get? o.bn.toNat = some x)) ∧
  (∀ o s h, Executes (.barwt o) s h →
    let n := o.bn.toNat
    let done (x : Bool) : Prop := Completes (.barwt o) s h (h.cord.setQ o.qd.toNat x) (fun k => h.next (.barwt o) (h.cord.lane k)) []
    (h.cord.barars.get? n = none → done false) ∧
    ∀ p, h.cord.barars.get? n = some p →
      (p < (h.block.barrier n).number → done (h.cord.bflags.get n false)) ∧
      ((h.block.barrier n).number ≤ p → exec (.barwt o) s = .next (((opened s h).waitHere h).stall h.ref))) ∧
  ∀ o, CordResult (.fence o) (fun h => h.cord)

/-- R166, R167, R242, R243, R304, R313, R314, R325: `tktwait` goes on when the lower blocks of its group have passed, and raises TICKET
when one never will; a pass is seen after the launch's next frontier update; tasks wait for nothing (log entry 38). An event instruction
on a slice granted to its launch sets, clears or waits for event bits of its cluster, and raises PERM on any other. `yield` only gives up
its turn: its cord may not issue on the next clock. -/
def Obligations.TicketsAndEvents : Prop :=
  ((∀ o s h, Executes (.tktwait o) s h →
     let done : Prop := Completes (.tktwait o) s h h.cord (fun k => h.next (.tktwait o) (h.cord.lane k)) []
     (h.block.task.isSome = true → done) ∧
     ∀ l, s.launches.get? h.block.launch = some l → h.block.task = none →
       let low := lowerRanks l o.level.toNat h.block.rank
       ((∀ r ∈ low, r ∈ l.passed) → done) ∧
       ((∃ r ∈ low, neverPasses l r = true) → FaultsFree (.tktwait o) s h h.set 0x13)) ∧
   (∀ o s h, Executes (.tktpass o) s h →
     CompletesWith (.tktpass o) s h h.cord (fun k => h.next (.tktpass o) (h.cord.lane k)) [] (fun t => Apart h.ref s t ∧
       ∀ l, s.launches.get? h.block.launch = some l → h.block.task = none → ∃ l', t.launches.get? h.block.launch = some l' ∧
         l'.passed = l.passed ∧ (h.block.rank ∈ l'.passed ∨ h.block.rank ∈ l'.passing))) ∧
   ∀ s n l, s.launches.get? n = some l → l.passing ≠ [] → ∃ t, exec (.ticketFrontierUpdate n) s = .next t ∧
     t.launches.get? n = some { l with passed := l.passed ++ l.passing, passing := [] }) ∧
  (let ev (mk : OEv → Instr) (P : OEv → State → Here → BitVec 16 → BitVec 16 → Prop) : Prop := ∀ o s h, Executes (mk o) s h →
     (sliceGranted s h.block o.slice.toNat = true →
       P o s h ((h.s o.a).setWidth 16) ((s.cluster (clusterOf h.ref.core)).events.get o.slice.toNat 0)) ∧
     (sliceGranted s h.block o.slice.toNat = false → FaultsFree (mk o) s h h.set 0x07)
   let becomes (mk : OEv → Instr) (f : BitVec 16 → BitVec 16 → BitVec 16) (o : OEv) (s : State) (h : Here) (m x : BitVec 16) : Prop :=
     let c := s.cluster (clusterOf h.ref.core)
     CompletesAs (mk o) s h ((opened s h).setCluster (clusterOf h.ref.core) { c with events := c.events.set o.slice.toNat (f x m) })
       h.cord (fun k => h.next (mk o) (h.cord.lane k)) []
   ev .evset (becomes .evset (fun x m => x ||| m)) ∧ ev .evclr (becomes .evclr (fun x m => x &&& ~~~m)) ∧
   ev .evwait (fun o s h m x => x &&& m = m → Completes (.evwait o) s h h.cord (fun k => h.next (.evwait o) (h.cord.lane k)) []) ∧
   ev .idleEv (fun o s h m x => m = 0 ∨ x &&& m ≠ 0 →
     Completes (.idleEv o) s h h.cord (fun k => h.next (.idleEv o) (h.cord.lane k)) []) ∧
   (∀ o s h, Executes (.yield o) s h →
     Completes (.yield o) s h { h.cord with rest := some (s.clock + 1) } (fun k => h.next (.yield o) (h.cord.lane k)) []) ∧
   ∀ s r b c, c.rest = some s.clock → mayIssue s r b c = false)

/-! ### Device queues and channels -/

/-- R70, R168, R169, R243, R283, R303, R306, R312: on a bound device queue `qpop` takes the packet at the head into scratchpad, if there
is one, `qpush` puts one at the tail, unless the queue is full, and each writes its predicate; `idle` goes on once the queue holds a
packet. A `qpop` holds its 64 bytes in the scoreboard until it completes. An index that is not bound raises PERM; that it does so
whatever the address is the model's choice (log entry 41), and what a `qpush` sees of racing writes is log entry 10. On a channel of the block
`chput` puts a word at the tail of a ring with room, `chget` takes the one at the head, or finds the end token once the ring is empty, and
`cheos` sends the token, after which nothing more may be sent, no second token either: that, and a channel that the block lacks, raises
CHAN. -/
def Obligations.QueuesAndChannels : Prop :=
  (let spot (s : State) (h : Here) (a : Reg) (imm : BitVec 11) (w : Bool) (p : Spot) : Prop :=
     resolve (opened s h) h 0 .lin (h.s a + imm.signExtend 32) 64 w (!w) true = .ok p ∧ spotHeld (opened s h) w 64 p = false
   let at_ (x : Queue) (n : Word) : Nat := qRing x + 64 * (n.toNat % qSize x)
   (∀ o s h q, Executes (.idleQ o) s h → boundQueue h.block (h.s o.a) = some q → (queueOf s q).bad = false → qFill (queueOf s q) ≠ 0 →
     CompletesAs (.idleQ o) s h (noteQueue (opened s h) q) h.cord (fun k => h.next (.idleQ o) (h.cord.lane k)) []) ∧
   (∀ o s h q p, Executes (.qpop o) s h → boundQueue h.block (h.s o.b) = some q → spot s h o.a o.imm true p →
     let x := queueOf s q
     let fl (b : Bool) : List InFlight :=
       [{ left := look h.cord o.la, uses := uses (.qpop o), owed := [.q o.qd.toNat b], range := p.range true 64 }]
     x.bad = false → scoreCount ((opened s h).core h.ref.core) < 64 →
     (qFill x = 0 →
       CompletesAs (.qpop o) s h (noteQueue (opened s h) q) h.cord (fun k => h.next (.qpop o) (h.cord.lane k)) (fl false)) ∧
     ∀ l, qFill x ≠ 0 → dieRead (opened s h) (queueDie q) (qCtx x) (at_ x x.head) 64 = .ok l →
       CompletesAs (.qpop o) s h (noteQueue (noteDie (setQueue (spotWrite (opened s h) h.ref.slot l p) q { x with head := x.head + 1 })
         (queueDie q) (qCtx x) (at_ x x.head) 64) q) h.cord (fun k => h.next (.qpop o) (h.cord.lane k)) (fl true)) ∧
   (∀ o s h q p, Executes (.qpush o) s h → boundQueue h.block (h.s o.b) = some q → spot s h o.a o.imm false p →
     let x := queueOf s q
     let c (b : Bool) : Cord := h.cord.setQ o.qd.toNat b
     x.bad = false →
     (qFill x = qSize x → CompletesAs (.qpush o) s h (noteQueue (opened s h) q) (c false)
       (fun k => h.next (.qpush o) (h.cord.lane k)) []) ∧
     ∀ m, qFill x ≠ qSize x → dieWrite (opened s h) (queueDie q) (qCtx x) (at_ x x.tail) (spotRead ((opened s h).seenBy ⟨h.agent, true⟩) 64 p) h.agent = .ok m →
       CompletesAs (.qpush o) s h (noteQueue (setQueue (noteSpot m 64 p) q { x with tail := x.tail + 1 }) q) (c true)
         (fun k => h.next (.qpush o) (h.cord.lane k)) []) ∧
   (∀ o s h, Executes (.qpop o) s h → boundQueue h.block (h.s o.b) = none → FaultsFree (.qpop o) s h h.set 0x07) ∧
   (∀ o s h, Executes (.qpush o) s h → boundQueue h.block (h.s o.b) = none → FaultsFree (.qpush o) s h h.set 0x07) ∧
   ∀ o s h, Executes (.idleQ o) s h → boundQueue h.block (h.s o.a) = none → FaultsFree (.idleQ o) s h h.set 0x07) ∧
  (let chan (s : State) (h : Here) (n : ChanN) (p : Nat) (c : Channel) : Prop :=
     h.block.chans[n.toNat]? = some p ∧ (s.core h.ref.core).chans.get? p = some c
   let slot (c : Channel) (n : BitVec 16) : Nat := c.base + 4 * (n.toNat % 2 ^ c.lsize)
   let fl (i : Instr) (h : Here) (la : BitVec 4) (l : List Owed) : List InFlight := [{ left := look h.cord la, uses := uses i, owed := l }]
   (∀ o s h p c, Executes (.chput o) s h → chan s h o.ch p c → c.eos = false → (c.tail - c.head).toNat < 2 ^ c.lsize →
     scoreHeld (s.core h.ref.core) true (slot c c.tail) 4 = false →
     let k := (opened s h).core h.ref.core
     CompletesAs (.chput o) s h ((opened s h).setCore h.ref.core
       { k with spad := k.spad.setWord (slot c c.tail) (h.s o.a), chans := k.chans.set p { c with tail := c.tail + 1 } }) h.cord
       (fun k => h.next (.chput o) (h.cord.lane k)) []) ∧
   (∀ o s h p c, Executes (.chget o) s h → chan s h o.ch p c →
     let next (k : Nat) : Lane := h.next (.chget o) (h.cord.lane k)
     (c.tail = c.head → c.eos = true → Completes (.chget o) s h h.cord next (fl (.chget o) h o.la [.q o.qb.toNat true])) ∧
     (c.tail ≠ c.head → scoreHeld (s.core h.ref.core) false (slot c c.head) 4 = false →
       CompletesAs (.chget o) s h (setChan (opened s h) h.ref.core p { c with head := c.head + 1 }) h.cord next
         (fl (.chget o) h o.la [.s (place h.cord.ubud h.sbase o.a.toNat) ((s.core h.ref.core).spad.word (slot c c.head)),
           .q o.qb.toNat false]))) ∧
   (∀ o s h p c, Executes (.cheos o) s h → chan s h o.ch p c → c.eos = false →
     CompletesAs (.cheos o) s h (setChan (opened s h) h.ref.core p { c with eos := true }) h.cord
       (fun k => h.next (.cheos o) (h.cord.lane k)) []) ∧
   (∀ o s h p c, Executes (.chput o) s h → chan s h o.ch p c → c.eos = true → FaultsFree (.chput o) s h h.set 0x11) ∧
   (∀ o s h p c, Executes (.cheos o) s h → chan s h o.ch p c → c.eos = true → FaultsFree (.cheos o) s h h.set 0x11) ∧
   (∀ o s h, Executes (.chput o) s h → h.block.chans[o.ch.toNat]? = none → FaultsFree (.chput o) s h h.set 0x11) ∧
   (∀ o s h, Executes (.chget o) s h → h.block.chans[o.ch.toNat]? = none → FaultsFree (.chget o) s h h.set 0x11) ∧
   ∀ o s h, Executes (.cheos o) s h → h.block.chans[o.ch.toNat]? = none → FaultsFree (.cheos o) s h h.set 0x11)

/-! ### Child operations -/

/-- R207, R211, R213, R217 to R225, R228: an instruction that starts a child operation, its checks passed and room at hand, completes at
once: a QUEUED entry under the lowest free number holds its operands, s[d] the token, and the open batch an operation; `wnw` fills the two
lowest, and writes both tokens. An after-token that is not valid raises TOKEN_STALE, whatever the instruction. Four clauses are the
model's choices: that the checks are made once (log entry 29); what the replay operation of a pass holds (log entry 25); that an
instruction checks only the alignments and the races that its own entry lists, so that a raced destination, or a row address of `cpygat`,
is not checked (log entry 41); and which byte of a system tree makes the device a member (log entry 28). -/
def Obligations.OperationIssue : Prop :=
  let value (h : Here) (m : OpMods) : Word := match m.after with
    | none => 0
    | some r => h.s r
  let fresh (c : Core) (e : Nat) : Word := BitVec.ofNat 32 (nextGen (c.gens.get e 1) * 512 + e)
  let mayIssue (s : State) (h : Here) (m : OpMods) (n k : Nat) : Prop :=
    h.block.ops ≠ 0 ∧ h.cord.gathers = [] ∧ opRoom (s.core h.ref.core) h n k = true ∧ h.kept (value h m) = none ∧
    (m.after = none ∨ ∃ x, validToken (s.core h.ref.core) h.ref.slot (value h m) = some x ∧ x.state ≠ .failed ∧ x.state ≠ .cancelled)
  let issues (i : Instr) (s : State) (h : Here) (m : OpMods) (d : Reg) (k : Nat) (checks : Prop) (ent : OpEntry) : Prop :=
    Executes i s h → mayIssue s h m 1 k → checks → ∀ e, freeEntry (s.core h.ref.core) = some e →
    let t := fresh (s.core h.ref.core) e
    CompletesWith i s h { h.cord.setTok h.sbase d.toNat t with batchOpen := true } (fun k => h.next i (h.cord.lane k)) []
      (fun u => SameMemory s u ∧ (u.core h.ref.core).gens.get e 1 = nextGen ((s.core h.ref.core).gens.get e 1) ∧
        (u.core h.ref.core).ops.get? e = some { ent with token := t, auto := d == 0 } ∧
        ∀ j, j ≠ e → (u.core h.ref.core).ops.get? j = (s.core h.ref.core).ops.get? j)
  let quiet (h : Here) (off n : Nat) : Prop := (raceBad h off n).1 = false
  let long (l : Word) : Prop := l.toNat % 16 = 0 ∧ 0 < l.toNat ∧ l.toNat ≤ 1048576
  let ctl (w : Word) : Prop := 0 < chunkCount w ∧ chunkCount w ≤ 8192 ∧ w.toNat / 2 ^ 16 % 4 ≠ 3 ∧ w.toNat / 2 ^ 18 = 0
  let fits (h : Here) (off n : Nat) : Prop := off + n ≤ h.block.splen
  (∀ o s h,
    let a := (h.s o.a).toNat
    let b := (h.s64 o.b).toNat
    let l := h.s o.c
    issues (.cpyIn o) s h o.mods o.d 1 (long l ∧ a % 16 = 0 ∧ b % 16 = 0 ∧ fits h a l.toNat)
      { newOp s h (.cpy 0) o.mods o.ord with a := a, b := b, c := [l], ranges := [opRange h true a l.toNat] }) ∧
  (∀ o s h,
    let a := (h.s64 o.a).toNat
    let b := (h.s o.b).toNat
    let l := h.s o.c
    issues (.cpyOut o) s h o.mods o.d 1 (long l ∧ a % 16 = 0 ∧ b % 16 = 0 ∧ fits h b l.toNat ∧ quiet h b l.toNat)
      { newOp s h (.cpy 1) o.mods o.ord with a := a, b := b, c := [l], ranges := [opRange h false b l.toNat] }) ∧
  (∀ o s h,
    let a := (h.s o.a).toNat
    let b := (h.s64 o.b).toNat
    let w := h.s (o.c + 1)
    let n := 128 * chunkCount w * chunkZ w
    issues (.cpyCk o) s h o.mods o.d 1 (ctl w ∧ a % 16 = 0 ∧ b % 16 = 0 ∧ fits h a n)
      { newOp s h (.cpy 2) o.mods o.ord with a := a, b := b, c := [h.s o.c, w], ranges := [opRange h true a n] }) ∧
  (∀ o s h,
    let a := (h.s o.a).toNat
    let j := (h.s (o.a + 1)).toNat
    let b := (h.s64 o.b).toNat
    let w := h.s (o.c + 1)
    let n := 128 * chunkCount w * chunkZ w
    let m := 16 + 512 * chunkCount w
    issues (.cpyCkc o) s h o.mods o.d 2 (ctl w ∧ a % 16 = 0 ∧ j % 16 = 0 ∧ b % 16 = 0 ∧ fits h a n ∧ fits h j m)
      { newOp s h (.cpy 3) o.mods o.ord with
        a := a, b := b, c := [h.s o.c, w, h.s (o.a + 1)], ranges := [opRange h true a n, opRange h true j m] }) ∧
  (∀ o s h, issues (.cpyIna o) s h o.mods o.d 0 (tileCopyBad h s o.a (h.s o.c) (h.s64 o.b).toNat false = none)
    { newOp s h (.cpy 4) o.mods o.ord with
      b := (h.s64 o.b).toNat, c := [h.s o.c], tile := physTile h.block (o.a.toNat % 16) }) ∧
  (∀ o s h, issues (.cpyOuta o) s h o.mods o.d 0 (tileCopyBad h s o.b (h.s o.c) (h.s64 o.a).toNat true = none)
    { newOp s h (.cpy 5) o.mods o.ord with
      a := (h.s64 o.a).toNat, c := [h.s o.c], tile := physTile h.block (o.b.toNat % 16) }) ∧
  (∀ o s h,
    let a := (h.s o.a).toNat
    let q (i : Nat) : Word := h.s (o.c + BitVec.ofNat 6 i)
    let i := (q 0).toNat
    let n := (q 1).toNat
    let r := (q 2).toNat
    issues (.cpygat o) s h o.mods o.d 2 (0 < n ∧ n ≤ 65536 ∧ r % 16 = 0 ∧ 16 ≤ r ∧ r ≤ 4096 ∧ (q 3).toNat % 16 = 0 ∧
        fits h a (n * r) ∧ fits h i (4 * n) ∧ quiet h i (4 * n))
      { newOp s h .cpygat o.mods o.ord with
        a := a, b := (h.s64 o.b).toNat, c := [q 0, q 1, q 2, q 3]
        ranges := [opRange h false i (4 * n), opRange h true a (n * r)] }) ∧
  (∀ (o : OMred) (s : State) (h : Here),
    let a := (h.s o.a).toNat
    let b := (h.s o.b).toNat
    let w := h.s o.c
    let n := 4 * redCount w
    let checks : Prop := h.cord.keptRed = none ∧ w.toNat / 2 ^ 25 = 0 ∧ a % 4 = 0 ∧ b % 4 = 0 ∧ fits h a n ∧ fits h b n ∧ quiet h b n
    let ent (k : OpKind) : OpEntry :=
      { newOp s h k o.mods o.ord with a := a, b := b, c := [w], ranges := [opRange h false b n, opRange h true a n] }
    let tree := (s.die (h.ref.core / 64)).trees.get (redTree w) Tree.fresh
    issues (.mred o) s h o.mods o.d 2 (checks ∧ rtMem (tree.at (h.ref.core % 64)) = true) (ent (.mred o.fn)) ∧
    issues (.coll o) s h o.mods o.d 2 (checks ∧ rtMem (sysByte s (redTree w)) = true) (ent (.coll o.fn))) ∧
  (∀ o s h, Executes (.wnw o) s h → mayIssue s h o.mods 2 1 →
    let n := h.ref.core
    let a := (h.s o.a).toNat
    a % 16 = 0 → fits h a 64 → quiet h a 64 →
    let p := { newOp s h .wnw o.mods o.ord with a := a, b := (h.s64 o.b).toNat, ranges := [opRange h false a 64] }
    ∀ e f, freeEntry (s.core n) = some e → (List.range 512).find? (fun i => i != e && ((s.core n).ops.get? i).isNone) = some f →
      let t := fresh (s.core n) e
      let u := fresh (s.core n) f
      CompletesWith (.wnw o) s h { (h.cord.setTok h.sbase o.d.toNat t).setTok h.sbase o.c.toNat u with batchOpen := true }
        (fun k => h.next (.wnw o) (h.cord.lane k)) [] (fun v => SameMemory s v ∧
          (v.core n).ops.get? e = some { p with token := t, auto := o.d == 0, pair := some u } ∧
          (v.core n).ops.get? f = some { p with
            token := u, auto := o.c == 0, pair := some t, kind := .replay, prio := p.prio - 1, ordf := false, ranges := [] } ∧
          ∀ j, j ≠ e → j ≠ f → (v.core n).ops.get? j = (s.core n).ops.get? j)) ∧
  (∀ o s h x, Executes (.ovlld o) s h → mayIssue s h o.mods 1 0 → o.d ≠ 0 → ovlAt (opened s h) h o.idx = some x →
    ovlUnfit (s.core h.ref.core) h.block.ctx x = false → ∀ e, freeEntry (s.core h.ref.core) = some e →
    let t := fresh (s.core h.ref.core) e
    CompletesWith (.ovlld o) s h { h.cord.setTok h.sbase o.d.toNat t with batchOpen := true }
      (fun k => h.next (.ovlld o) (h.cord.lane k)) [] (fun u => SameMemory s u ∧ ∃ y, (u.core h.ref.core).ops.get? e = some y ∧
        y.kind = .ovlld ∧ y.caddr = x.caddr ∧ y.token = t ∧ y.holds = true ∧ (y.state = .queued ∨ y.state = .done))) ∧
  (let stale (i : Instr) (m : OpMods) : Prop := ∀ s h r, Executes i s h → m.after = some r → h.kept (h.s r) = none →
     validToken (s.core h.ref.core) h.ref.slot (h.s r) = none → Faults i s h h.set (fun k => h.next i (h.cord.lane k)) 0x0E (h.s r)
   (∀ mk ∈ [Instr.cpyIn, .cpyOut, .cpyCk, .cpyCkc, .cpyIna, .cpyOuta, .cpygat, .wnw], ∀ o : OCpy, stale (mk o) o.mods) ∧
   ∀ mk ∈ [Instr.mred, .coll], ∀ o : OMred, stale (mk o) o.mods) ∧
  ∀ o s h r, Executes (.ovlld o) s h → o.mods.after = some r → h.kept (h.s r) = none →
    validToken (s.core h.ref.core) h.ref.slot (h.s r) = none →
    ∃ t c, exec (.ovlld o) s = .next t ∧ t.cord? h.ref = some c ∧ SameMemory s t ∧ c.cause = 0x0E ∧ c.tval = h.s r ∧
      ∀ k ∈ h.set, c.lane k = { h.cord.lane k with st := .park, data := false, served := false }

/-- R208, R211, R216, R230 to R232: `opwait` goes on when its operation has finished, and collects it; a FAILED one parks the executing set
first, once, with the operation's cause and token. `optest` writes whether it has finished, and collects it too, but not a FAILED one.
`opseal` closes a batch that holds an operation, where fewer than 16 sealed ones are unfinished, and `opwaitb` goes on when the batches it
names are finished and no failure is untold; batches are told apart by the cord's count of seals. -/
def Obligations.OperationWaits : Prop :=
  let valid (s : State) (h : Here) (t : Word) (x : OpEntry) : Prop := validToken (s.core h.ref.core) h.ref.slot t = some x
  (∀ o s h x, Executes (.opwait o) s h → valid s h (h.s o.a) x → x.state.finished = true → h.kept (h.s o.a) = none →
    let t := h.s o.a
    let e := t.toNat % 512
    ((x.state ≠ .failed ∨ x.rep = true) →
      CompletesWith (.opwait o) s h h.cord (fun k => h.next (.opwait o) (h.cord.lane k)) []
        (fun u => SameMemory s u ∧ (u.core h.ref.core).ops.get? e = none)) ∧
    (x.state = .failed → x.rep = false → ∃ u c, exec (.opwait o) s = .next u ∧ u.cord? h.ref = some c ∧
      c.cause = x.cause ∧ c.tval = t ∧ (∀ k ∈ h.set, c.lane k = { h.cord.lane k with st := .park, data := false, served := false }) ∧
      (u.core h.ref.core).ops.get? e = some { x with rep := true })) ∧
  (∀ o s h x, Executes (.optest o) s h → valid s h (h.s o.a) x →
    CompletesWith (.optest o) s h (h.cord.setQ o.qd.toNat x.state.finished) (fun k => h.next (.optest o) (h.cord.lane k)) []
      (fun u => SameMemory s u ∧ (u.core h.ref.core).ops.get? ((h.s o.a).toNat % 512) =
        if x.state = .done ∨ x.state = .cancelled then none else some x)) ∧
  (∀ o s h, Executes (.opseal o) s h →
    let done (c : Cord) : Prop := Completes (.opseal o) s h c (fun k => h.next (.opseal o) (h.cord.lane k)) []
    (h.cord.batchOpen = false → done h.cord) ∧
    (h.cord.batchOpen = true → openSealed (s.core h.ref.core) h.ref h.cord < 16 →
      done { h.cord with batch := h.cord.batch + 1, batchOpen := false, seals := h.cord.seals + 1 }) ∧
    (h.cord.batchOpen = true → 16 ≤ openSealed (s.core h.ref.core) h.ref h.cord →
      exec (.opseal o) s = .next (((opened s h).waitHere h).stall h.ref))) ∧
  (∀ o s h, Executes (.opwaitb o) s h →
    let old (x : OpEntry) : Prop := o.n.toNat < h.cord.seals - x.bseq
    (∀ x ∈ cordOps (s.core h.ref.core) h.ref, old x.2 → x.2.state.finished = true ∧ (x.2.state = .failed → x.2.rep = true)) →
    (∀ x ∈ h.block.failed, x.cord = h.ref.cord → ¬old x) →
    Completes (.opwaitb o) s h h.cord (fun k => h.next (.opwaitb o) (h.cord.lane k)) []) ∧
  ∀ o s h, Executes (.opwait o) s h → h.kept (h.s o.a) = none → validToken (s.core h.ref.core) h.ref.slot (h.s o.a) = none →
    Faults (.opwait o) s h h.set (fun k => h.next (.opwait o) (h.cord.lane k)) 0x0E (h.s o.a)

/-- R210, R212, R233 to R236: `opcancel` ends a QUEUED operation at once and a RUNNING copy at its next unit, `opprio` and `opdetach`
change an unfinished one, `opstat` stores its fault record and writes s[d], collecting a finished one, and `opadopt` takes over an orphan
of the context on this core, or writes 0. The fault record has the fields and places of R212. Three clauses are the model's choices:
sr.tval of `opdetach` is the low word of the address (log entry 40); a fault record shows the state before the failure counts as told (log
entry 42); and a misaligned address comes before a finished operation (log entry 59). -/
def Obligations.OperationManagement : Prop :=
  let valid (s : State) (h : Here) (r : Reg) (x : OpEntry) : Prop := validToken (s.core h.ref.core) h.ref.slot (h.s r) = some x
  let at_ (h : Here) (u : State) (r : Reg) : Option OpEntry := (u.core h.ref.core).ops.get? ((h.s r).toNat % 512)
  let keeps (i : Instr) (s : State) (h : Here) (P : State → Prop) : Prop :=
    CompletesWith i s h h.cord (fun k => h.next i (h.cord.lane k)) [] P
  (∀ o s h x, Executes (.opcancel o) s h → valid s h o.a x →
    (x.state = .queued → keeps (.opcancel o) s h (fun u => ∀ y, at_ h u o.a = some y → y.state = .cancelled)) ∧
    (x.state = .running → x.kind.engine = 0 →
      keeps (.opcancel o) s h (fun u => SameMemory s u ∧ at_ h u o.a = some { x with cancel := true })) ∧
    (x.state.finished = true → keeps (.opcancel o) s h (fun u => SameMemory s u ∧ at_ h u o.a = some x))) ∧
  (∀ o s h x, Executes (.opdetach o) s h → valid s h o.a x →
    ((h.s64 o.b).toNat % 32 = 0 → x.state.finished = false → keeps (.opdetach o) s h (fun u => SameMemory s u ∧
      at_ h u o.a = some { x with det := some (h.s64 o.b).toNat, adopted := false })) ∧
    ((h.s64 o.b).toNat % 32 = 0 → x.state.finished = true →
      Faults (.opdetach o) s h h.set (fun k => h.next (.opdetach o) (h.cord.lane k)) 0x0E (h.s o.a)) ∧
    ((h.s64 o.b).toNat % 32 ≠ 0 → Faults (.opdetach o) s h h.set (fun k => h.next (.opdetach o) (h.cord.lane k)) 0x04
      ((h.s64 o.b).setWidth 32))) ∧
  (∀ o s h x p, Executes (.opprio o) s h → valid s h o.a x → p = (if x.state.finished then x.prio else o.p.toNat) →
    keeps (.opprio o) s h (fun u => SameMemory s u ∧ at_ h u o.a = some { x with prio := p })) ∧
  (∀ o s h x p, Executes (.opstat o) s h → s.memOk = true → valid s h o.b x →
    resolve (opened s h) h 0 .lin (h.s o.a) 32 true false false = .ok (.sp h.ref.core p) → scoreHeld (s.core h.ref.core) true p 32 = false →
    CompletesWith (.opstat o) s h (h.cord.setS h.sbase o.d.toNat (BitVec.ofNat 32 (leNat (x.record.take 4))))
      (fun k => h.next (.opstat o) (h.cord.lane k)) [] (fun u => (u.core h.ref.core).spad.read p 32 = x.record ∧
        (∀ n a, ¬(n = h.ref.core ∧ p ≤ a ∧ a < p + 32) → (u.core n).spad.get a = (s.core n).spad.get a) ∧
        at_ h u o.b = if x.state.finished then none else some x)) ∧
  (∀ o s h, Executes (.opadopt o) s h →
    let t := h.s o.a
    let e := t.toNat % 512
    let mine (x : OpEntry) : Prop := (h.s (o.a + 1)).toNat = h.ref.core ∧ x.token = t ∧ x.det.isSome = true ∧ x.adopted = false ∧
      x.state.finished = false ∧ x.ctx = h.block.ctx ∧ opCount (s.core h.ref.core) h.ref.slot < h.block.ops
    (∀ x, (s.core h.ref.core).ops.get? e = some x → mine x →
      CompletesWith (.opadopt o) s h { h.cord.setTok h.sbase o.d.toNat t with batchOpen := true }
        (fun k => h.next (.opadopt o) (h.cord.lane k)) [] (fun u => SameMemory s u ∧ (u.core h.ref.core).ops.get? e =
          some { x with
            adopted := true, slot := h.ref.slot, cord := h.ref.cord, batch := h.cord.batch, bseq := h.cord.seals })) ∧
    ((∀ x, (s.core h.ref.core).ops.get? e = some x → ¬mine x) →
      Completes (.opadopt o) s h (h.cord.setS h.sbase o.d.toNat 0) (fun k => h.next (.opadopt o) (h.cord.lane k)) [])) ∧
  ∀ x : OpEntry, x.prio < 4 → (∀ f, x.kind = .cpy f → f < 8) → x.cursor < 2 ^ 64 → x.addr < 2 ^ 64 →
    let bits (i n : Nat) : Nat := leNat x.record / 2 ^ i % 2 ^ n
    let red (t : RedTy) : Nat := if t = .f32 then 0 else 1
    let unit (e k f : Nat) : Prop := bits 16 4 = e ∧ bits 12 4 = k ∧ bits 0 3 = f
    x.record.length = 32 ∧ bits 224 32 = x.after.toNat ∧ bits 192 32 = x.batch.toNat ∧ bits 128 64 = x.addr ∧
    bits 32 32 = x.token.toNat ∧ bits 24 8 = x.cause.toNat ∧ bits 10 2 = x.prio ∧ bits 3 5 = 0 ∧
    bits 9 1 = (if x.det.isSome then 1 else 0) ∧ bits 8 1 = (if x.rep then 1 else 0) ∧
    bits 20 4 = (match x.state with
      | .queued => 0
      | .running => 1
      | .suspended => 2
      | .done => 3
      | .failed => 4
      | .cancelled => 5) ∧
    bits 64 64 = (match x.kind with
      | .cpy _ | .cpygat | .wnw | .replay => x.cursor
      | .mred _ | .coll _ => 0
      | .ovlld => if x.state = .suspended then x.cursor else 0) ∧
    match x.kind with
    | .cpy f => unit 0 0 f
    | .cpygat => unit 0 1 0
    | .mred t => unit 1 2 (red t)
    | .coll t => unit 1 3 (red t)
    | .wnw => unit 2 4 0
    | .replay => unit 2 5 0
    | .ovlld => unit 3 6 0

/-! ### Engines -/

/-- R209, R210, R214, R217, R221, R233, R317, R328: an operation whose start conditions hold, and before which its engine takes no other,
starts. A RUNNING one, when its engine serves it next, does a unit of its work, and becomes DONE with the last; at a unit boundary it is
CANCELLED where that was asked for, and SUSPENDED where its block is being saved (R328), but for a copy that a collective or a load waits
for (log entry 19); a unit that faults suspends it at its start, or ends it
FAILED, which the context rung is told of first, where a DMA window lets it (R317). System software replays a
SUSPENDED one or ends it, but not while its block is being saved. Which of several of one priority an engine serves next is log entry 77.
A unit of `cpy.in` that is not held copies up to 4 KiB from global memory to its place in the allocation, and moves the cursor on by as
much; nothing else of any scratchpad changes. -/
def Obligations.OperationProgress : Prop :=
  (∀ s n e o, (s.core n).ops.get? e = some o →
     let now (t : State) : Option OpEntry := (t.core n).ops.get? e
     let next : Prop := engineNext s n o.kind.engine = some e
     let ends (i : Instr) (st : OpState) : Prop := ∃ t, exec i s = .next t ∧ ∀ x, now t = some x → x.state = st
     (opReady s n o = true →
       (∀ x ∈ (s.core n).ops.vals, x.kind.engine = o.kind.engine → opReady s n x = true → chosenBefore x o = false) →
       ∃ t, exec (.opStart n e) s = .next t ∧ (∀ x, now t = some x → x.started = true ∧ x.state ≠ .queued) ∧
         ∀ f, o.kind = .cpy f → (s.core n).bad = [] → now t = some { o with state := .running, started := true }) ∧
     (o.state = .running →
       (o.cancel = true → ends (.unitBoundary n e) .cancelled) ∧
       (o.cancel = false → saveStops (s.core n) o = true → Happens (.unitBoundary n e) s (setOp s n e { o with state := .suspended })) ∧
       (o.cancel = false → saveStops (s.core n) o = false → next → ∀ t x, workUnit (served s n e o) n e o = .did t x false →
         Happens (.unitBoundary n e) s (setOp t n e x)) ∧
       (next → ∀ t x, workUnit (served s n e o) n e o = .did t x true → ends (.opFinish n e) .done) ∧
       (o.cancel = false → saveStops (s.core n) o = false → next → tokenless (s.core n) o = false → ∀ l c a, workUnit s n e o = .fault l false c a →
         ∃ t, exec (.opSuspend n e) s = .next t ∧
           now t = some { o with state := .suspended, cause := c, addr := a, told := false, escalated := none }) ∧
       (o.cancel = false → saveStops (s.core n) o = false → next → ∀ l c a, workUnit s n e o = .fault l true c a →
         ends (.opSuspend n e) .failed ∧
         ((c = 0x06 ∨ c = 0x07 ∨ c = 0x0F) → o.kind ≠ .ovlld → o.det = none → o.told = false →
           let k := s.ctx o.ctx
           k.faultSize ≠ 0 → windowAllows s (k.faultBase + 32 * (k.faultHead % k.faultSize)) 32 true = true →
           ∃ t, exec (.opSuspend n e) s = .next t ∧ (t.ctx o.ctx).faultHead = k.faultHead + 1))) ∧
     (o.state = .suspended → o.pause = false → opSaves (s.core n) o = false →
       (engineRoom (s.core n) o = true → ∃ t, exec (.opReplay n e) s = .next t ∧
         now t = some { o with state := .running, cause := 0, addr := 0, told := false, escalated := none }) ∧
       (o.kind ≠ .ovlld → ends (.opEndFailed n e) .failed))) ∧
  (∀ s n e o l, s.memOk = true → (s.core n).ops.get? e = some o → o.state = .running → o.cancel = false → saveStops (s.core n) o = false → o.kind = .cpy 0 → o.tile = none →
     engineNext s n 0 = some e → (s.core n).bad = [] →
     let total := (o.c.getD 0 0).toNat
     let m := min 4096 (total - o.cursor)
     o.cursor + m < total → writeHeld (s.core n) o (o.a + o.cursor) m = false →
     engineRead s (o.reader n) ((o.b + o.cursor) % 2 ^ 64) m = .ok l →
     ∃ t, exec (.unitBoundary n e) s = .next t ∧ (t.core n).spad.read (o.base + o.a + o.cursor) m = l ∧
       (t.core n).ops.get? e = some { o with cursor := o.cursor + m } ∧
       (∀ a, a < o.base + o.a + o.cursor ∨ o.base + o.a + o.cursor + m ≤ a → (t.core n).spad.get a = (s.core n).spad.get a) ∧
       ∀ k, k ≠ n → (t.core k).spad = (s.core k).spad)

/-- R222 to R224, R305: a router that holds its own packet and those of its live children sends their sum to its parent. The root writes
it to every member's destination, and the members finish DONE. Packets that do not match fail every member with SHAPE; a time-out, or a
tree whose bytes disagree, with TIMEOUT and the lowest-numbered missing member. Over Reed links the device does the same with its own
packet and its live child links', sends the result down, and passes failures on. Which byte of a system tree is a device's, and which
devices the links join, is log entry 28; that failures are passed down to the child links, and to the parent where nothing was sent, which
member a time-out names where the tree's bytes disagree, and when a failed reduction of the links is forgotten, is log entry 43. -/
def Obligations.Reductions : Prop :=
  let ended (o : OpEntry) (st : OpState) (cause : Byte) (a : Nat) : OpEntry :=
    { o with state := st, cause := cause, addr := a, ranges := [], cancel := false, pause := false, holds := o.holds && st == .done }
  -- what becomes of the members that wait for a reduction
  let gets (s u : State) (ms : List (Nat × Nat)) (ctl : Nat × Nat) (x : List Word) : Prop :=
    ∀ m ∈ ms, waitingMember u m ctl = none ∧ ∀ o, waitingMember s m ctl = some o → (s.core m.1).bad = [] →
      (o.det = none → o.auto = false → (u.core m.1).ops.get? m.2 = some (ended o .done o.cause o.addr)) ∧
      ((∀ k ∈ ms, k ≠ m → k.1 ≠ m.1) →
        (u.core m.1).spad.read (o.base + o.a) (4 * x.length) = x.flatMap (fun w => natLe 4 w.toNat))
  let fails (s u : State) (ms : List (Nat × Nat)) (ctl : Nat × Nat) (cause : Byte) (a : Nat) : Prop :=
    ∀ m ∈ ms, waitingMember u m ctl = none ∧ ∀ o, waitingMember s m ctl = some o → o.det = none → o.auto = false →
      (u.core m.1).ops.get? m.2 = some (ended o .failed cause a)
  (∀ s d tree id n r, s.memOk = true → redOf (s.die d) tree id = some r → r.failed = none →
    let t := (s.die d).trees.get tree Tree.fresh
    let want := (if rtMem (t.at n) then [r.own.get? n] else []) ++ (liveChildren t n).map (r.sent.get? ·)
    let late (k : Nat) : Prop := (k = n ∧ rtMem (t.at n) = true ∧ r.own.get? n = none) ∨
      ∃ c ∈ liveChildren t n, r.sent.get? c = none ∧ k ∈ membersBelow t 64 c
    (treeGood t = true → r.sent.get? n = none → membersBelow t 64 n ≠ [] → ∀ ps, want = ps.map some →
      (∀ x, combinePackets ps = some x → rtParent (t.at n) ≠ 0 →
        ∃ u, exec (.mredPacketArrival d tree id n) s = .next u ∧
          redOf (u.die d) tree id = some { r with sent := r.sent.set n x }) ∧
      (∀ x, combinePackets ps = some x → rtParent (t.at n) = 0 → resultHeld s r.members (tree, id) = false →
        ∃ u, exec (.mredPacketArrival d tree id n) s = .next u ∧ redOf (u.die d) tree id = none ∧
          gets s u r.members (tree, id) x.2) ∧
      (combinePackets ps = none →
        ∃ u, exec (.mredPacketArrival d tree id n) s = .next u ∧ fails s u r.members (tree, id) 0x0B 0)) ∧
    ((r.own.get? n).isSome = true ∨ (∃ m ∈ childRouters t n, (r.sent.get? m).isSome = true) →
      treeGood t = false ∨ (r.sent.get? n = none ∧ none ∈ want) →
      ∃ u a, exec (.mredTimeout d tree id n) s = .next u ∧ fails s u r.members (tree, id) 0x10 a ∧
        ∀ k, late k → (∀ j, late j → k ≤ j) → a = d * 64 + k)) ∧
  (∀ s tree id r, s.memOk = true → sysRedOf s tree id = some r → r.failed = none →
    let b := sysByte s tree
    let down (u : State) (fn : RedTy) (l : List Word) (f : Option (Byte × Nat)) : Prop :=
      ∀ k ∈ liveLinks s tree, (tree, id, ⟨k, fn, l, f⟩) ∈ u.linkOut
    let arrives (p : CollPacket) (P : State → Prop) : Prop := s.mgmt.linkMask.getLsbD p.link = true →
      ∃ u, exec (.collPacketArrival tree id (some p)) s = .next u ∧ P u
    let combines (P : State → Prop) : Prop := ∃ u, exec (.collPacketArrival tree id none) s = .next u ∧ P u
    (∀ p : CollPacket, p.link ∈ liveLinks s tree → r.children.get? p.link = none →
      (p.fail = none → arrives p (fun u => sysRedOf u tree id = some { r with children := r.children.set p.link (p.fn, p.elems) })) ∧
      ∀ c a, p.fail = some (c, a) → arrives p (fun u => fails s u r.members (tree, id) c a)) ∧
    (∀ p : CollPacket, p.link ∉ liveLinks s tree → p.link = rtParent b → 1 ≤ p.link → p.link ≤ 4 →
      (p.fail = none → r.sent = true → resultHeld s r.members (tree, id) = false →
        arrives p (fun u => sysRedOf u tree id = none ∧ gets s u r.members (tree, id) p.elems ∧ down u p.fn p.elems none)) ∧
      ∀ c a, p.fail = some (c, a) → arrives p (fun u => fails s u r.members (tree, id) c a ∧ down u .f32 [] (some (c, a)))) ∧
    (r.sent = false → rtParent b ≤ 4 → sysGood s tree = true → ∀ ps, ps ≠ [] →
      (if rtMem b then [r.own] else []) ++ (liveLinks s tree).map (r.children.get? ·) = ps.map some →
      (∀ x, combinePackets ps = some x → rtParent b ≠ 0 → combines (fun u => sysRedOf u tree id = some { r with sent := true } ∧
        u.linkOut = (tree, id, { link := rtParent b, fn := x.1, elems := x.2, fail := none }) :: s.linkOut)) ∧
      (∀ x, combinePackets ps = some x → rtParent b = 0 → resultHeld s r.members (tree, id) = false →
        combines (fun u => sysRedOf u tree id = none ∧ gets s u r.members (tree, id) x.2 ∧ down u x.1 x.2 none)) ∧
      (combinePackets ps = none → combines (fun u => fails s u r.members (tree, id) 0x0B 0 ∧ down u .f32 [] (some (0x0B, 0)) ∧
        (1 ≤ rtParent b → (tree, id, ⟨rtParent b, .f32, [], some (0x0B, 0)⟩) ∈ u.linkOut)))) ∧
    let want := (if rtMem b then [r.own] else []) ++ (liveLinks s tree).map (r.children.get? ·)
    let late (k : Nat) : Prop := (k = s.selfDev ∧ rtMem b = true ∧ r.own = none) ∨
      ∃ l ∈ liveLinks s tree, r.children.get? l = none ∧ k ∈ membersVia s tree l
    (r.own.isSome = true ∨ r.children.entries ≠ [] → sysGood s tree = false ∨ (r.sent = false ∧ none ∈ want) →
      ∀ m, ∃ u a, exec (.collTimeout tree id m) s = .next u ∧ fails s u r.members (tree, id) 0x10 a ∧
        (∀ k, late k → (∀ j, late j → k ≤ j) → a = k % 65536) ∧ ((∀ k, ¬late k) → a = m % 65536))) ∧
  (let add (t : RedTy) (a b : Word) : Word := match t with
     | .s32 => a + b
     | .f32 => BitVec.ofNat 32 (fpAdd .f32 .rn 0 false a.toNat b.toNat).1
   ∀ (t : RedTy) (x : List Word) (rs : List (RedTy × List Word)),
     ((∀ y ∈ rs, y.1 = t ∧ y.2.length = x.length) → combinePackets ((t, x) :: rs) = some (t, (List.range x.length).map (fun i =>
       rs.foldl (fun a y => add t a (y.2.getD i 0)) (if t = .f32 then canon32 (x.getD i 0) else x.getD i 0)))) ∧
     ((∃ y ∈ rs, y.1 ≠ t ∨ y.2.length ≠ x.length) → combinePackets ((t, x) :: rs) = none))

/-! ### The distributor -/

/-- R15, R16, R283 to R288, R295, R303, R304: a doorbell sets the tail of an enabled queue of its mode, where it is above the tail so far,
a release of the host's writes, or counts an error. A registration packet fills its header slot, or is refused where it breaks a limit
(reserved bits that are not 0, no bind record, a slot outside its range, a misaligned address); a launch packet that passes every check
starts a launch, one that fails a check is refused with a completion record, one that cannot be read or answered is dropped, counted and
reported, and all leave the queue; the order of the checks is log entry 45, and the codes that it gives for fw[31:27] log entry 62, for an
empty role 90, for ovtab and dq bits 91, and that ring and rbase are free where there is no channel 99. A packet that no bind record
matches waits, and the sequencing harts are told. A bind record's write keeps the distributor's own field, and wakes the packets that wait
on its die and the launches blocked on that record, before it or after. -/
def Obligations.LaunchQueues : Prop :=
  (∀ s q v,
    let x := queueOf s q
    let n : Word := v.setWidth 32
    let bell (e : Instr) (device : Bool) : Prop := s.mgmt.boot ≠ .recovery → qDevice x = device →
      let bad : Prop := qEnabled x = false ∨ v.toNat / 2 ^ 32 ≠ 0 ∨ qSize x < (n - x.head).toNat
      (bad → exec e s = .next (setQueue s q { x with errors := if x.errors = 0xFFFF then x.errors else x.errors + 1 })) ∧
      let top : Word := if (x.tail - x.head).toNat < (n - x.head).toNat then n else x.tail
      (¬bad → Happens e s (setQueue (s.send .host .sys [.bell q]) q { x with tail := top }))
    bell (.doorbell q v) false ∧ bell (.deviceQueueDoorbell q v) true) ∧
  (∀ s q p, headPacket s q = some (.ok p) → badCrec s (queueDie q) (qCtx (queueOf s q)) (pCrec p) = none →
    let x := queueOf s q
    let refused (t : State) (n : Nat) : Prop := ∃ w : DWord, ∀ m,
      dieWrite { takePacket (noteCrec s q p) q with freeCtr := s.freeCtr + 1 } (queueDie q) (qCtx x) (pCrec p) (recordBits 3 0 n 0 ++ natLe 8 w.toNat) (.die (queueDie q)) = .ok m →
        t = { m with stalled := [] }
    (pType p = 2 →
      let fails (n : Nat) : Prop := ∃ t, exec (.registerHeader q) s = .next t ∧ refused t n
      (packetReserved p = true → fails 4) ∧ (packetReserved p = false → bindOf s q = none → fails 1) ∧
      (packetReserved p = false → ∀ e, bindOf s q = some e → pSlot p < bHbase e.2 ∨ bHlast e.2 < pSlot p → fails 1)) ∧
    (pType p = 2 → packetReserved p = false → ∀ e, bindOf s q = some e → bHbase e.2 ≤ pSlot p → pSlot p ≤ bHlast e.2 →
      (pArg p % 128 ≠ 0 ∨ pLoc p % 256 ≠ 0 → ∃ t, exec (.registerHeader q) s = .next t ∧ refused t 7) ∧
      ∀ l, pArg p % 128 = 0 → pLoc p % 256 = 0 → dieRead s (queueDie q) (qCtx x) (pArg p) 128 = .ok l →
      ∃ t, exec (.registerHeader q) s = .next t ∧
        (t.die (queueDie q)).headers.get? (pSlot p) = some (BitVec.ofNat 1024 (leNat l)) ∧ (queueOf t q).head = x.head + 1) ∧
    (pType p = 1 → ∀ e, bindOf s q = some e →
      (∀ h, launchError s q p e.2 = .ok h → ∃ t l, exec (.launchPacket q) s = .next t ∧ (queueOf t q).head = x.head + 1 ∧
        t.nextLaunch = s.nextLaunch + 1 ∧ t.launches.get? s.nextLaunch = some l ∧ l.status = .placing ∧ l.header = h ∧
        l.packet = p ∧ l.queue = q ∧ l.ctx = qCtx x ∧ l.prio = qPrio x) ∧
      (∀ n, launchError s q p e.2 = .error n → ∃ t, exec (.launchPacket q) s = .next t ∧ refused t n)) ∧
    (pType p ≠ 1 → pType p ≠ 2 → ∃ t, exec (.launchPacket q) s = .next t ∧ refused t 4) ∧
    (pType p = 1 → bindOf s q = none →
      Happens (.launchPacket q) s (notify (setQueue (noteCrec s q p) q { x with waiting := true }) (queueDie q) (.unbound q)))) ∧
  (∀ s q, ((∃ c, headPacket s q = some (.error c)) ∨ ∃ p, headPacket s q = some (.ok p) ∧ pType p ≠ 2 ∧
      badCrec s (queueDie q) (qCtx (queueOf s q)) (pCrec p) ≠ none) →
    ∃ t, exec (.launchPacket q) s = .next t ∧ (t.die (queueDie q)).notices = .dropped q :: (s.die (queueDie q)).notices ∧
      (queueOf t q).head = (queueOf s q).head + 1 ∧
      (queueOf t q).errors = if (queueOf s q).errors = 0xFFFF then 0xFFFF else (queueOf s q).errors + 1) ∧
  ∀ s d i w, s.mgmt.boot = .up → d < 2 → i < 64 → ∃ t, exec (.bindRecordWrite d i w) s = .next t ∧
    (t.die d).binds.get? i = some (bSetLast w (bLast ((s.die d).binds.get i 0))) ∧
    (∀ x ∈ (t.die d).queues.vals, x.waiting = false) ∧
    ∀ n l, s.launches.get? n = some l → t.launches.get? n = some (
      if l.die = d ∧ l.status = .blocked ∧ (bindsTo s i l = true ∨ bindsTo t i l = true) then { l with status := .placing, woken := true }
      else l)

/-- R14, R15, R35 to R37, R57, R244, R286, R292, R293, R301, R339: the distributor reserves the next block of the launch it chooses on the
first core that fits, which its bind record names on its die and which lies in its queue's partition, its cords as R244 resets them, or
marks the launch blocked; a co-resident launch is placed whole or not at all. A placed block starts once its base overlay is resident,
with every lane at its entry point and its own identifier and generator state; one that is to drain does so from its start (log entry 48).
The lowest free slot of the core and the lowest free position of a quarter are log entry 93. A queue whose partition no record sets up has
the whole device (log entry 65). -/
def Obligations.Placement : Prop :=
  (∀ s d n l r e, placeableTask s d = none → chosenLaunch s d = some (n, l) → pCores l.packet = false →
    nextRank l = some r → bindOf s l.queue = some e →
    (∀ c x, findCore s n l e.2 (footprintOf l.header) = some (c, x) → ∃ t b, exec (.blockReservation d) s = .next t ∧
      t.block? c x.slot = some b ∧ b.launch = n ∧ b.rank = r ∧ b.ctx = l.ctx ∧ b.spbase = x.base ∧ b.tiles = x.tiles ∧
      c / 64 = l.die ∧ bit (bCores e.2) (c % 64) = true ∧ inPartition s l.queue c = true ∧ b.placed = s.serial ∧
      b.chans = x.chans ∧ b.splen = hSpad l.header * 1024 ∧ (b.status = .reserved ∨ b.status = .ended) ∧
      (b.status = .reserved → ∀ i y, b.cords.get? i = some y → y = { Cord.fresh with
        role := y.role, present := 0xFFFFFFFF, vbud := y.vbud, ubud := y.ubud, entry := y.entry, quarter := y.quarter, pos := y.pos })) ∧
    (findCore s n l e.2 (footprintOf l.header) = none →
      Happens (.blockReservation d) s (s.setLaunch n { l with status := .blocked, woken := false }))) ∧
  (∀ s n l, s.launches.get? n = some l → pCores l.packet = true → (chosenLaunch s l.die).map (·.1) = some n →
    placeableTask s l.die = none →
    (∀ t, reserveAll n 2049 s = some t → Happens (.coResidentPlacement n) s t) ∧
    (reserveAll n 2049 s = none →
      Happens (.coResidentPlacement n) s (s.setLaunch n { l with status := .blocked, woken := false }))) ∧
  ∀ s n sl b l, s.block? n sl = some b → b.status = .reserved → b.base.any (residentAt (s.core n) b.ctx) = true →
    s.launches.get? b.launch = some l → b.task = none → ∃ t y, exec (.blockStart n sl) s = .next t ∧ t.block? n sl = some y ∧
      y.status = (if b.drain then .draining else .running) ∧ ∀ i c, b.cords.get? i = some c → ∃ x, y.cords.get? i = some x ∧
        x = { c with lanes := x.lanes, joinm := c.present, restart := x.restart } ∧
        ∀ j, j < 32 →
          let wid : DWord := BitVec.ofNat 64 (b.index * 2 ^ (5 + hFw l.header % 8) + i * 32 + j)
          x.lanes.get? j = some { Lane.absent with
            pc := c.entry, st := .run, wid := wid, rng := BitVec.ofNat 64 (pSeed l.packet) ^^^ (wid * 0x9E3779B97F4A7C15)
            locbase := (pLoc l.packet + b.lsize * (32 * (b.index * hCords l.header + i) + j)) % 2 ^ 64 }

/-- R17, R166, R237, R253, R288, R294, R315, R325, R327 to R329, R332: a block that has exited passes its ticket, its local lines written
back, and once nothing of it is unfinished leaves its core. A launch with no block left and none to place is forgotten, and its completion
record holds status 1, or 2 with cause and failing block where a fault ended it. A block that is the victim for a blocked launch or task
cord is treated by the rows of R327, tried in their order; one that does not drain in time is saved. A save that waits for nothing more
takes the block off its core and keeps scratchpad, tiles and cords, a flush gives its rank back, and the distributor restores a saved
block where it fits, with its registers and tiles. Six clauses are the model's choices: tasks that have not run hold a launch open (log
entry 63), which block is the victim and what becomes of one that has not started (48), when a save stops the copies (19), a save with an
uncorrectable error (64), that a block of tasks is saved and never flushed (46), and the free stamp of a record (2). -/
def Obligations.BlockEndAndPreemption : Prop :=
  ((∀ s n sl b, s.block? n sl = some b → b.status = .running ∨ b.status = .draining → b.cords.vals.all Cord.exited = true →
     gathersDone b = true → ∃ t, exec (.blockExit n sl) s = .next t ∧ (∀ x ∈ (t.core n).lines, x.slot ≠ sl) ∧
       (∀ l, s.launches.get? b.launch = some l → b.task = none → ∃ l', t.launches.get? b.launch = some l' ∧
         (b.rank ∈ l'.passed ∨ b.rank ∈ l'.passing)) ∧
       (attachedOps (s.core n) sl = [] → tilesClosed (s.core n) b = true → untold (s.core n) sl = [] → t.block? n sl = none)) ∧
   ∀ s n l, s.memOk = true → s.launches.get? n = some l → allPlaced l = true →
     launchAlive (if l.status == .failed then dropTasks s n else s) n = false →
     ∃ t, exec (.launchCompletion n) s = .next t ∧ t.launches.get? n = none ∧
       ∀ a, dieTranslate s l.die l.ctx (pCrec l.packet) 32 true false = .ok a → ∃ x : DWord, targetRead t 32 a =
         (if l.status = .failed then natLe 4 (2 + l.cause.toNat * 256) ++ natLe 12 0 ++ natLe 8 (l.fblk.getD 0)
          else natLe 4 1 ++ natLe 12 0 ++ natLe 8 0) ++ natLe 8 x.toNat) ∧
  ((∀ s n sl b w, s.block? n sl = some b → w ∈ waiters s → isVictim s n sl b w = true →
     let becomes (st : BlockStatus) : Prop := ∃ t y, exec (.preemptRequest n sl) s = .next t ∧ t.block? n sl = some y ∧ y.status = st
     let r := (bindOfBlock s b).map (·.2)
     let handles : Bool := b.cords.vals.any (fun c => c.handler.isSome)
     let drains : Prop := (r.map bDthr).getD 0 ≤ progress b ∧ ∀ l, s.launches.get? b.launch = some l → pPersist l.packet = false
     let flushes : Prop := b.idem = true ∧ b.task = none ∧ progress b < (r.map bRthr).getD 0
     (handles = true → becomes (.saving false)) ∧ (handles = false → drains → b.status = .running → becomes .draining) ∧
     (handles = false → drains → b.status ≠ .running → ∃ t, exec (.preemptRequest n sl) s = .next t ∧
       t.block? n sl = some { b with drain := true }) ∧
     (handles = false → ¬drains → flushes → becomes (.saving true)) ∧
     (handles = false → ¬drains → ¬flushes → becomes (.saving false))) ∧
   (∀ b, (∀ c ∈ b.cords.vals, c.exited = false → progress b ≤ c.prog.toNat) ∧
     ∀ c ∈ b.cords.vals, c.exited = false → ∃ c ∈ b.cords.vals, c.exited = false ∧ progress b = c.prog.toNat) ∧
   (∀ s n sl b, s.block? n sl = some b → b.status = .draining ∨ b.drain = true → ∃ t y, exec (.drainTimeout n sl) s = .next t ∧
     t.block? n sl = some y ∧ y.status = .saving false) ∧
   (∀ s n sl b, s.block? n sl = some b → s.memOk = true → b.status = .saving false → saveReady (s.core n) sl b = true →
     (s.core n).bad = [] → ∃ t v, exec (.contextSave n sl) s = .next t ∧ t.block? n sl = none ∧ t.saved = s.saved ++ [v] ∧ v.core = n ∧
       v.block.launch = b.launch ∧ v.block.index = b.index ∧
       (∀ i c, b.cords.get? i = some c → v.block.cords.get? i = some { c with calloWait := none, next := none, fetched := none }) ∧
       (∀ a, a < b.splen → v.spad.get a = (s.core n).spad.get (b.spbase + a)) ∧
       ∀ (i p : Nat), b.tiles[i]? = some p → ∃ m, v.tiles[i]? = some (m, (s.core n).tile p) ∧
         ∀ a, a < 16384 → m.get a = (s.core n).acc.get (p * 16384 + a)) ∧
   (∀ s n sl b l, s.block? n sl = some b → b.status = .saving true → attachedOps (s.core n) sl = [] → gathersDone b = true →
     s.launches.get? b.launch = some l → ∃ t l', exec (.contextSave n sl) s = .next t ∧ t.block? n sl = none ∧
       t.launches.get? b.launch = some l' ∧ b.rank ∈ l'.back) ∧
   ∀ s d v n x, s.memOk = true → restorable s d = some (v, n, x) → ∃ t b, exec (.contextRestore d) s = .next t ∧ t.block? n x.slot = some b ∧
     b.launch = v.block.launch ∧ b.index = v.block.index ∧ b.spbase = x.base ∧ (b.status = .restoring ∨ b.status = .ended) ∧
     (∀ a, a < v.block.splen → (t.core n).spad.get (x.base + a) = v.spad.get a) ∧
     (v.block.recomp = false → b.status = .restoring →
       (∀ i c, v.block.cords.get? i = some c → ∃ y, b.cords.get? i = some y ∧
         y = { c with quarter := y.quarter, pos := y.pos, kept := y.kept, sregs := y.sregs } ∧
         (∀ k, k ∉ c.stok → y.sregs.get? k = c.sregs.get? k) ∧ (n = v.core → y.sregs = c.sregs)) ∧
       ((∀ y ∈ v.tiles, ∀ z ∈ y.1, z.1 < 16384) → ∀ (i p : Nat) y, x.tiles[i]? = some p → v.tiles[i]? = some y →
         ((t.core n).tile p).fault = y.2.fault ∧ ((t.core n).tile p).slots.length = y.2.slots.length ∧
         ∀ a, a < 16384 → (t.core n).acc.get (p * 16384 + a) = y.1.get a)))

/-! ### Firmware, management and the outside -/

/-- R260, R303, R305, R307, R310, R316, R324, R338, R339, R341, R342: firmware's writes of trees, which end every unfinished reduction on
the tree FAILED with TIMEOUT, of queue descriptors, context registers, the device's place among others (log entry 28), link masks and DMA
windows, locked registers keeping their values (log entry 33 for what else stays, and for the fault ring, whose write starts it anew); the
invalidation of a range's translations. That firmware does nothing in any state of boot but `up` is the model's choice (log entry 4). A
line of the local-memory path that is written back leaves it, and the bytes written to it stand in global memory, the others untouched. -/
def Obligations.FirmwareWrites : Prop :=
  (∀ s n w, s.mgmt.boot = .up → n < 16 →
    let ended (t : State) (mine : Nat → Bool) (sys : Bool) : Prop := ∀ c e o, mine c = true → (s.core c).ops.get? e = some o →
      onTree sys n o = true → o.det = none → o.auto = false → (t.core c).ops.get? e = some { o with
        state := .failed, cause := 0x10, addr := 2 ^ 64 - 1, ranges := [], cancel := false, pause := false, holds := false }
    (∀ d, d < 2 → ∃ t, exec (.combineTreeWrite (.die d) n w) s = .next t ∧
      (t.die d).trees.get? n = some (((s.die d).trees.get n Tree.fresh).write w) ∧ (∀ id, redOf (t.die d) n id = none) ∧
      ended t (fun c => c / 64 == d) false) ∧
    ∃ t, exec (.combineTreeWrite .system n w) s = .next t ∧
      t.sysTrees.get? n = some ((s.sysTrees.get n Tree.fresh).write w) ∧ (∀ id, sysRedOf t n id = none) ∧
      ended t (fun _ => true) true) ∧
  (∀ s, s.mgmt.boot = .up →
    let does (w : FwWrite) (P : State → Prop) : Prop := ∃ t, exec (.firmwareRegisterWrite w) s = .next t ∧ P t
    (∀ q d, q < 8192 → does (.queueDescriptor q d) (fun t => queueOf t q = { queueOf s q with desc := d })) ∧
    (∀ n a, does (.contextRoot n a) (fun t => t.ctx n = { s.ctx n with root := a })) ∧
    (∀ n p, does (.contextPart n p) (fun t => t.ctx n = { s.ctx n with part := p })) ∧
    (∀ n a z, does (.faultRing n a z) (fun t => t.ctx n = { s.ctx n with faultBase := a, faultSize := z, faultHead := 0 })) ∧
    (∀ n z, does (.overflowRing n z) (fun t => t.ctx n = { s.ctx n with overflowSize := z })) ∧
    (∀ p l, p < 16 → does (.peerLinks p l) (fun t => t.peerLinks.get? p = some l)) ∧
    (∀ n l, n < 64 → does (.fabric n l) (fun t => t.selfDev = n ∧ t.wires = l)) ∧
    (∀ d k, d < 2 → does (.clearLineError d k) (fun t => (t.die d).lost = (s.die d).lost.filter (· != k))) ∧
    (∀ m, does (.linkMask m) (fun t => t.mgmt.linkMask = s.mgmt.linkMask &&& m)) ∧
    (∀ x, does (.powerCeiling x) (fun t => t.mgmt.ceiling = if s.mgmt.locked then s.mgmt.ceiling else min x 2300)) ∧
    (∀ i b l r w, i < 16 → does (.dmaWindow i b l r w) (fun t => (s.mgmt.locked = true → t.mgmt.windows = s.mgmt.windows) ∧
      (s.mgmt.locked = false → t.mgmt.windows.get? i = some ⟨b, l, r, w⟩))) ∧
    ∀ n i ev, n < 128 → i < 8 → does (.perfSelect n i ev) (fun t =>
      (t.core n).perf.get? i = some (ev, ((s.core n).perf.get i (0, 0)).2))) ∧
  (∀ s ctx lo hi, s.mgmt.boot = .up → ∃ t, exec (.tlbInvalidate ctx lo hi) s = .next t ∧
    (∀ c ∈ t.cores.vals, (∀ e ∈ c.etlb, e.meets ctx lo hi = false) ∧ ∀ e ∈ c.gtlb, e.meets ctx lo hi = false) ∧
    ∀ d ∈ t.dies.vals, ∀ e ∈ d.tlb, e.meets ctx lo hi = false) ∧
  (∀ s, s.mgmt.boot ≠ .up → (∀ o n w, exec (.combineTreeWrite o n w) s = .next s) ∧ (∀ w, exec (.firmwareRegisterWrite w) s = .next s) ∧
    (∀ d i w, exec (.bindRecordWrite d i w) s = .next s) ∧ ∀ ctx lo hi, exec (.tlbInvalidate ctx lo hi) s = .next s) ∧
  ∀ s n i l, (s.core n).lines[i]? = some l → ∃ t, exec (.localLineWriteback n i) s = .next t ∧
    (t.core n).lines = (s.core n).lines.eraseIdx i ∧
    (s.memOk = true → (s.core n).bad = [] → l.bytes.keys.Pairwise (· < ·) → (∀ j ∈ l.bytes.keys, j < 64) →
      ∀ g, translate s n false l.ctx (l.addr * 64) 64 false false = .ok g →
        (∀ j x, l.bytes.get? j = some x → targetRead t 1 (g.plus j) = [x]) ∧
        ∀ a, g = .hbm a → ∀ b, (∀ j ∈ l.bytes.keys, b ≠ a + j) → t.hbm.get b = s.hbm.get b)

/-- R191, R248, R265, R311, R334 to R338, R340: the power alarm, which the measured power raises above 95 % of the ceiling and clears
below 90 %, and the sensors; a patrol scrub corrects the words of its stack that the code corrects, and counts each, the counter
saturating, and logs those that it cannot correct; flits are tried again, links retrain, and one that fails leaves the mask; the host and
the peers that a link reaches read, write and add to device memory, but for a damaged word, whose read is logged and not answered; and the
host reads counters. The model's choices in it are log entries 6, 7, 23 and 49, and for the accesses from outside log entry 50. -/
def Obligations.OutsideWorld : Prop :=
  (∀ s,
    (95 * s.mgmt.ceiling < 100 * s.mgmt.power → Happens .powerAlarm s { s with mgmt := { s.mgmt with alarm := true } }) ∧
    (100 * s.mgmt.power ≤ 95 * s.mgmt.ceiling → exec .powerAlarm s = .next s) ∧
    (100 * s.mgmt.power < 90 * s.mgmt.ceiling → Happens .powerAlarmClear s { s with mgmt := { s.mgmt with alarm := false } }) ∧
    (90 * s.mgmt.ceiling ≤ 100 * s.mgmt.power → exec .powerAlarmClear s = .next s) ∧
    ∀ a p, Happens (.sensorSample a p) s { s with mgmt := { s.mgmt with temps := a.take 2, currents := p.currents, power := p.watts } }) ∧
  (∀ s n, ∃ t, exec (.patrolScrub n) s = .next t ∧
    let hit (e : Nat × Bool) : Bool := e.2 && plinthOf (e.1 * 32) == n
    t.hbm = s.hbm ∧ t.hbmErr = s.hbmErr.filter (fun e => !hit e) ∧
    (t.corrected.get n 0).toNat = min (2 ^ 32 - 1) ((s.corrected.get n 0).toNat + (s.hbmErr.filter hit).length) ∧
    ((∃ e ∈ s.hbmErr, e.2 = false ∧ plinthOf (e.1 * 32) = n) → t.mgmt.log ≠ []) ∧
    ∀ k, k ≠ n → t.corrected.get k 0 = s.corrected.get k 0) ∧
  (∀ s n e o, (s.core n).ops.get? e = some o → o.state = .running →
    let k := n * 512 + e
    let tries := s.flitRetries.get k 0
    Happens (.meshFlitRetry n e true) s { s with flitRetries := s.flitRetries.erase k } ∧
    (tries < 4 → Happens (.meshFlitRetry n e false) s { s with flitRetries := s.flitRetries.set k (tries + 1) }) ∧
    (4 ≤ tries → ∃ t, exec (.meshFlitRetry n e false) s = .next t ∧ t.agenda = s.agenda ++ [.event .deviceReset] ∧
      ∀ x, (t.core n).ops.get? e = some x → x.state = .failed ∨ x.state = .suspended)) ∧
  (∀ s k, s.mgmt.linkMask.getLsbD k = true →
    let n := s.linkReplays.get k 0
    (n < 9 → Happens (.linkFlitReplay k true) s { s with linkReplays := s.linkReplays.erase k } ∧
      Happens (.linkFlitReplay k false) s { s with linkReplays := s.linkReplays.set k (n + 1) }) ∧
    (9 ≤ n → Happens (.linkRetrain k true) s { s with linkReplays := s.linkReplays.erase k } ∧
      ∃ t, exec (.linkRetrain k false) s = .next t ∧ t.mgmt.linkMask.getLsbD k = false ∧ t.mgmt.log ≠ [])) ∧
  (∀ s w r x, (w = 16 ∨ w = 8 ∨ w = 4) → (r = 128 ∨ r = 64 ∨ r = 32) → Happens (.cxlLinkTraining w r x) s
    { s with mgmt := { s.mgmt with cxlWidth := w, cxlRate := r, cxlIde := x } }) ∧
  (∀ s, s.mgmt.boot ≠ .recovery → s.memOk = true →
    let acts (e : OutsideAccess → Instr) (who : Agent) : Prop :=
      (∀ a n, a + n ≤ Config.hbmBytes → lineLost s a n = false →
        let m := (noteTarget s n (.hbm a)).saw ⟨who, true⟩ (.glob (.hbm a)) n true none
        Happens (e (.read a n)) s { m with mgmt := { s.mgmt with answer := s.hbm.read a n } }) ∧
      (∀ a n, a + n ≤ Config.hbmBytes → lineLost s a n = true →
        ∃ t, exec (e (.read a n)) s = .next t ∧ t.mgmt.answer = [] ∧ t.mgmt.log ≠ [] ∧ t.hbm = s.hbm) ∧
      (∀ a l, a + l.length ≤ Config.hbmBytes → ∃ t, exec (e (.write a l)) s = .next t ∧ t.hbm.read a l.length = l ∧
        ∀ b, b < a ∨ a + l.length ≤ b → t.hbm.get b = s.hbm.get b) ∧
      ∀ a x, a + 4 ≤ Config.hbmBytes → lineLost s a 4 = false → ∃ t, exec (e (.add a x)) s = .next t ∧
        t.hbm.word a = s.hbm.word a + x ∧ t.mgmt.answer = s.hbm.read a 4
    acts .hostMemAccess .host ∧ ∀ p, peerUp s p = true → acts (.peerAccess p) (.peer p)) ∧
  ∀ s,
    let answers (e : Instr) (l : List Byte) : Prop := Happens e s { s with mgmt := { s.mgmt with mailbox := l } }
    (∀ n i, i < 8 → n < 128 → countFree ((s.core n).perf.get i (0, 0)).1 = false →
      answers (.perfCounterRead n i) (natLe 6 ((s.core n).perf.get i (0, 0)).2.toNat)) ∧
    (∀ q, answers (.errorCounterRead (.queue q)) (natLe 2 (queueOf s q).errors.toNat)) ∧
    (∀ n a, answers (.errorCounterRead (.correctable n a)) (natLe 4 ((s.core n).ce.get a 0).toNat)) ∧
    (∀ k, answers (.errorCounterRead (.suppressed k)) (natLe 4 (s.suppressed.get k 0).toNat)) ∧
    (∀ d, answers (.errorCounterRead (.midLevel d)) (natLe 4 ((s.die d).ce.get 0 0).toNat)) ∧
    (∀ d, answers (.errorCounterRead (.queueArray d)) (natLe 4 ((s.die d).ce.get 1 0).toNat)) ∧
    ∀ k, answers (.errorCounterRead (.stack k)) (natLe 4 (s.corrected.get k 0).toNat)

/-- R326, R339, R342, R343: a partition reset completes the launches that have a block in the partition and clears its cores; an update and
a repair do so too. Boot brings the device up when every signature is good under the key in ROM, applies the configuration record of the
image that it checked, and locks the registers of R341; else it leaves the device in recovery. A device reset keeps device memory and the
error log (the model's choice, log entry 17), and a partition reset what log entry 32 says. Measurements are digests of the ROM, the
firmware images and the record, with the nonce, signed with fresh randomness; their layout is log entry 18, the keys and the record's
parts log entry 15, the ROM's bytes log entry 14. The certificate chain can be read. -/
def Obligations.ResetAndBoot : Prop :=
  (∀ s n p, s.partitions.get? n = some p →
    let cleared (e : Instr) (P : State → Prop) : Prop := ∃ t, exec e s = .next t ∧ P t ∧
      (∀ x ∈ partLaunches s n p, t.launches.get? x.1 = none) ∧
      ∀ c ∈ partCores p, (t.core c).blocks = .empty ∧ (t.core c).spad = [] ∧ (t.core c).acc = [] ∧ (t.core c).ops = .empty
    cleared (.partitionReset n) (fun t => ∀ e ∈ t.hbmErr, e.2 = true → plinthOf (e.1 * 32) ∉ p.hbms) ∧
    (∀ img, s.mgmt.staged = some img → cleared (.partitionUpdate n) (fun t => t.mgmt.hartFw = img ∧ t.mgmt.staged = none)) ∧
    ∀ c, clusterOf c ∈ p.clusters → cleared (.partitionRepair n c) (fun t =>
      if (s.cluster (clusterOf c)).spare = none then (t.cluster (clusterOf c)).spare = some c else (t.core c).removed = true)) ∧
  (∀ s a b body sig, s.mgmt.boot = .reset →
    let i : Image := ⟨body, sig⟩
    let good : Prop := ∀ x ∈ [a, b, i], Slh.verify Config.romKey x.body x.sig = true
    let r := readRecord i.body
    (good → ∃ t, exec (.deviceBoot a b body sig) s = .next t ∧ t.mgmt.boot = .up ∧ t.mgmt.locked = true ∧ t.mgmt.mgmtFw = a ∧
      t.mgmt.hartFw = b ∧ t.mgmt.recordImg = i ∧ t.mgmt.ceiling = min r.ceiling 2300 ∧
      (∀ (k : Nat) x, k < 8 → r.partitions[k]? = some x → t.partitions.get? k = some { clusters := x.1, hbms := x.2 }) ∧
      ∀ (k : Nat) x, k < 16 → r.windows[k]? = some x → t.mgmt.windows.get? k = some ⟨x.1, x.2.1, x.2.2.1, x.2.2.2⟩) ∧
    (¬good → Happens (.deviceBoot a b body sig) s { s with mgmt := { s.mgmt with boot := .recovery } })) ∧
  (∀ s i, (Slh.verify Config.romKey i.body i.sig = true →
      Happens (.firmwareUpdateStage i) s { s with mgmt := { s.mgmt with staged := some i } }) ∧
    (Slh.verify Config.romKey i.body i.sig = false → exec (.firmwareUpdateStage i) s = .next s)) ∧
  (∀ s, ∃ t, exec .deviceReset s = .next t ∧ t.hbm = s.hbm ∧ t.host = s.host ∧ t.mgmt.log = s.mgmt.log ∧ t.cores = .empty ∧
    t.launches = .empty ∧ t.mgmt.boot = .reset) ∧
  ∀ s,
    (∀ l x c, ∃ t rnd, exec (.getMeasurements (.measurements l c) x) s = .next t ∧ rnd.length = 32 ∧
      let body := measureBody s l x c
      let signature := Slh.sign Config.deviceKey rnd (attestPrefix ++ shake256 body)
      t = { s with freeCtr := t.freeCtr, stalled := [], mgmt := { s.mgmt with mailbox := body ++ signature } }) ∧
    (∀ y ∈ [(1, Config.bootRom), (2, s.mgmt.mgmtFw.body), (3, s.mgmt.hartFw.body), (4, s.mgmt.recordImg.body)],
      ∃ h, h.length = 7 ∧ measureBlock s y.1 = some (h ++ shake256 y.2)) ∧
    ∀ off len x,
      let part := (Config.deviceCerts.drop off).take len
      let rest := Config.deviceCerts.length - off - part.length
      let answer : List Byte := [0x13, 0x02, 0, 0] ++ natLe 2 part.length ++ natLe 2 rest ++ part
      Happens (.getMeasurements (.certificate off len) x) s { s with mgmt := { s.mgmt with mailbox := answer } }

/-! ### Words, steps and stores -/

/-- R72 to R77, R83, R85, R147: the worked encodings of the spec, decoded; the last three words are no instruction, each for its reason. -/
def Obligations.WorkedEncodings : Prop :=
  let t : Guard := ⟨7, false⟩
  let is (w0 w1 : Word) (i : Instr) : Prop := decode w0 w1 = .ok i ∧ encode i = some (wordsOf w0 w1)
  is 0x1812413C 0 (.fadd { gd := t, u := false, d := 9, a := 8, b := 9, ty := .none, rnd := .rn, sat := false, wide := false }) ∧
  is 0x019869DD 0 (.iadd { gd := t, u := true, d := 12, a := 13, b := 14, ty := .none, sat := false, wide := false }) ∧
  is 0x5582195C 0x282 (.icmp { gd := t, u := false, pd := 1, a := 3, b := 10, ty := .s32, cond := .lt }) ∧
  is 0x7110A01C 0x30000000 (.ld32 {
    gd := t, u := false, d := 8, a := 20, imm := 0, space := .lin, mode := .zx, el := 0, acq := false, scope := .lane, la := 3 }) ∧
  is 0x76803124 0x6800 (.gst32 { gd := ⟨1, false⟩, u := false, a := 6, b := 9, imm := 0, rel := true, scope := .dev, la := 0 }) ∧
  is 0xC104001C 0x33 (.smovi { gd := t, u := false, d := 2, imm := 0x33 }) ∧
  is 0x28040005 0 (.bra { hint := .none, gd := ⟨1, false⟩, off := 5 }) ∧
  is 0x681D2345 0 (.braLong { hint := .none, gd := t, off := 0x12345 }) ∧
  is 0 0 (.nop { gd := ⟨0, false⟩, u := false, wide := false }) ∧
  is 0x2C08001C 0 (.frame { vf := 4, sf := 0, wide := false }) ∧
  is 0x2B000008 0 (.exit { gd := ⟨2, false⟩, wide := false }) ∧
  is 0x6B80001C 0 .rjoin ∧
  is 0x6A00051C 0 (.callo { gd := t, off := 40 }) ∧
  is 0x6C80001C 0x2A (.trap { gd := t, code := 0x2A }) ∧
  decode 0x04800000 0 = .error .noExtension ∧ decode 0x80000001 0 = .error .reservedField ∧
  decode 0xFFFFFFFF 0 = .error .reservedOpcode

/-- R72 to R93: decoding and encoding agree. Every well-formed instruction that has words is read back from them, whatever word follows
a one-word form, and from their bytes, which take the length that its first word says; a word that decodes gives a well-formed
instruction that encodes to it, so no two instructions share a word and no bit is dropped. -/
def Obligations.DecodeEncode : Prop :=
  (∀ i e, i.wf = true → encode i = some e →
    (∀ w, (e.second = none ∨ e.second = some w) → decode e.first w = .ok i) ∧ lengthOf e.first = e.bytes.length ∧
      ∀ l, decodeBytes (e.bytes ++ l) = .ok (i, l)) ∧
  ∀ w0 w1 i, decode w0 w1 = .ok i → i.wf = true ∧ encode i = some (wordsOf w0 w1)

/-- R8, R9, R11, R20, R21, R38, R72, R83 to R86: a step whose move is the issue of a quarter lets the cord issue that the quarter chooses
for its lane-set instruction, or the cord that the uniform pipe takes first of those that the quarters choose for it: the choice is of the
highest priority, and of those the one that has waited longest. The step fetches at that cord's issue address, once until the cord issues,
and executes what it finds there: the instruction of the words, a word that is none, or the absence of one of its words. A step whose move
is an agent's act does that act. That the agenda names the moves is log entry 1, and that it may name the words whose writes are told
apart, and what a racing reader sees of them, is log entry 10. -/
def Obligations.StepRunsDecodedInstruction : Prop :=
  (∀ s m r, s.agenda = m :: r →
    let u : State := { s with agenda := r, clock := s.clock + 1 }
    (∀ e, m = .event e → step s = exec e u) ∧
    (∀ p, m = .track p → step s = .next (if p.addr % 4 = 0 ∧ p.exists_ 4 = true then u.track p else u)) ∧
    (∀ a p n, m = .pick a p n → step s = .next (if pickOk u a p = true then u.pick a p (seesSize a) n else u)) ∧
    (∀ c, m = .issue c → issuer u c = none → step s = .next u) ∧
    ∀ c k h, m = .issue c → issuer u c = some k →
      let t : State := { u with cur := k }
      here t = some h → h.block.status.issues = true → h.set ≠ [] →
      let word (a : Nat) : Option Word := codeWord s k.core h.block.ctx a
      let runs (w0 w1 : Word) : Prop := step s = exec (decoded w0 w1) (t.setCord k { h.cord with fetched := some (h.addr, w0, w1) })
      (∀ w, h.held = some w → runs w.1 w.2) ∧
      (h.held = none → damagedFetch s k.core h.block.ctx h.addr = none →
      (∀ w0, word h.addr = some w0 → lengthOf w0 = 4 → runs w0 0) ∧
      (∀ w0 w1, word h.addr = some w0 → lengthOf w0 = 8 → word ((h.addr + 4) % 2 ^ 32) = some w1 → runs w0 w1) ∧
      (word h.addr = none → step s = codeAbsent h.addr t) ∧
      ∀ w0, word h.addr = some w0 → lengthOf w0 = 8 → word ((h.addr + 4) % 2 ^ 32) = none →
        step s = codeAbsent ((h.addr + 4) % 2 ^ 32) t)) ∧
  (∀ w0 w1 i, decode w0 w1 = .ok i → decoded w0 w1 = i) ∧ (∀ w0 w1 x, decode w0 w1 = .error x → decoded w0 w1 = .notAnInstruction w0) ∧
  ∀ s n q u e, quarterChoice s n q u = some e → e ∈ eligible s n ∧ e.quarter = q ∧ e.uni = u ∧
    (∀ y ∈ eligible s n, y.quarter = q → y.uni = u → y.prio < e.prio ∨ (y.prio = e.prio ∧ e.last ≤ y.last)) ∧
    (u = false → ∀ c x, s.cord? c = some x → c.core = n → x.quarter = q → offersUniform s c = false → issuer s c = some e.ref) ∧
    (q < 4 → u = true → ∀ c x k, s.cord? c = some x → c.core = n → offersUniform s c = true → issuer s c = some k →
      ∃ p y, p < 4 ∧ quarterChoice s n p true = some y ∧ y.ref = k ∧ y.last ≤ e.last ∧ (y.last = e.last → p ≤ q))

/-- R15, R207, R244, R304, R311, R316, R326: reset. Nothing is placed, launched, queued or counted; every operation entry's generation is
1; every store is in canonical form. Two clauses are the model's choices: every byte of every store reads 0 (log entry 3), and the management
controller stands before boot, with nothing locked or logged (log entry 4). -/
def Obligations.ResetState : Prop :=
  let s := State.reset
  s.memOk = true ∧ s.mgmt.boot = .reset ∧ s.mgmt.locked = false ∧ s.mgmt.alarm = false ∧ s.mgmt.log = [] ∧ s.launches = .empty ∧
  s.saved = [] ∧ s.agenda = [] ∧
  (∀ n, (s.core n).blocks = .empty ∧ (s.core n).ops = .empty ∧ (s.core n).tiles = .empty ∧ (s.core n).chans = .empty ∧
    (s.core n).res = [] ∧ (s.core n).bad = [] ∧ (∀ e, (s.core n).gens.get e 1 = 1) ∧ (∀ i, (s.core n).perf.get i (0, 0) = (0, 0)) ∧
    ∀ a, (s.core n).spad.get a = 0 ∧ (s.core n).acc.get a = 0) ∧
  (∀ n x, (s.cluster n).events.get x 0 = 0 ∧ (s.cluster n).tasks = []) ∧
  (∀ q, (queueOf s q).head = 0 ∧ (queueOf s q).tail = 0 ∧ (queueOf s q).errors = 0 ∧ qEnabled (queueOf s q) = false) ∧
  (∀ d t, (s.die d).trees.get t Tree.fresh = Tree.fresh ∧ (s.die d).binds = .empty) ∧
  ∀ r a b, s.block? r a = none ∧ s.cord? ⟨r, a, b⟩ = none

/-- R47, R268, R270 to R272, R274, log entry 3: a store in canonical form reads back what was written last, and every other byte as
before; a word is its four bytes, the least significant first. Two stores in canonical form that read alike are equal. An agent that picks
nothing sees the stores as they are. One that picks the write before another agent's sees the bytes from before it where both accesses are
plain, or there has been a data race, which the read of such a write is; but for the writer itself, for an agent that has read the new
ones, and once the write happens before its read: of a word of scratchpad where an acquire of its own pairs with a release that follows
the write, by a flag or another carrier; of device memory where another agent has read the write, or a release that follows it is at a
scope that holds the reader (R274). That the agenda says which words are told apart and what a reader picks is log entry 10. -/
def Obligations.MemoryReadsBack : Prop :=
  (∀ (m : Mem) (a : Nat) (l : List Byte), m.wf = true → (m.write a l).read a l.length = l ∧
    ∀ b, (m.write a l).get b = if a ≤ b ∧ b < a + l.length then l.getD (b - a) 0 else m.get b) ∧
  (∀ (m : Mem) (lo hi b : Nat), m.wf = true →
    (m.clear lo hi).get b = (if lo ≤ b ∧ b < hi then 0 else m.get b) ∧
    (m.slice lo hi).get b = if lo + b < hi then m.get (lo + b) else 0) ∧
  (∀ (m x : Mem) (off b : Nat), m.wf = true → x.wf = true →
    (m.paste off x).get b = if off ≤ b ∧ x.get (b - off) ≠ 0 then x.get (b - off) else m.get b) ∧
  (∀ (m : Mem) (a : Nat) (w : Word), m.wf = true → (m.setWord a w).word a = w ∧
    ∀ i, i < 4 → (m.setWord a w).get (a + i) = w.extractLsb' (8 * i) 8) ∧
  (∀ m x : Mem, m.wf = true → x.wf = true → (∀ a, m.get a = x.get a) → m = x) ∧
  (∀ (s : State) (y : Eye), (∀ t ∈ s.tracks, ∀ p ∈ t.picks, p.who ≠ y.who) → s.seenBy y = s) ∧
  (∀ (s : State) (x y : Agent) (a : Nat) (w : Word) (k : WriteKind) (plain : Bool), s.memOk = true → x ≠ y → a % 4 = 0 →
    let p : Place := .glob (.hbm a)
    (∀ t ∈ s.tracks, t.place.meets 4 p 4 = false ∧ t.picks = []) →
    let old := s.hbm.read a 4
    let new := natLe 4 w.toNat
    let u : State := ({ s.track p with hbm := s.hbm.write a new } : State).wrote x p 4 k
    let sees (t : State) (z : Agent) : List Byte := ((t.pick z p 4 0).seenBy ⟨z, plain⟩).hbm.read a 4
    let late : Prop := s.raced = true ∨ (plain = true ∧ k = .plain)
    (u.seenBy ⟨y, plain⟩).hbm.read a 4 = new ∧ sees u y = (if late then old else new) ∧ sees u x = new ∧
    ((u.saw ⟨y, plain⟩ p 4 true none).raced = true ↔ late) ∧
    (∀ z, z ≠ x → sees (u.saw ⟨z, plain⟩ p 4 true none) y = new) ∧
    ∀ (rel acq : Scope) (c : Carrier), sees (u.send x rel [c]) y = (if within rel x y = false ∧ late then old else new) ∧
      sees ((u.send x rel [c]).hear y acq [c]) y = if within rel x y = false ∧ late then old else new) ∧
  ∀ (s : State) (n b b' i j a f : Nat) (w : Word), s.memOk = true → a % 4 = 0 → f % 4 = 0 → f ≠ a →
    let x : Agent := .cord n b i
    let y : Agent := .cord n b' j
    let p : Place := .sp n a
    x ≠ y → s.track? (.sp n f) = none → (∀ t ∈ s.tracks, t.place.meets 4 p 4 = false ∧ t.picks = []) →
    let old := (s.core n).spad.read a 4
    let new := natLe 4 w.toNat
    let m := s.track p
    let u : State := { (m.setCore n { m.core n with spad := (m.core n).spad.write a new }).wrote x p 4 .plain with clock := s.clock + 1 }
    let sees (t : State) : List Byte := (((t.pick y p 4 0).seenBy ⟨y, true⟩).core n).spad.read a 4
    sees u = old ∧ sees (u.saw ⟨y, true⟩ p 4 true none) = new ∧
    ∀ (rel acq : Scope) (c : Carrier), (∀ q v, c ≠ .word q v) →
      sees (u.send x rel [c]) = old ∧ sees ((u.send x rel [c]).hear y acq [c]) = (if pairs rel x acq y = true then new else old) ∧
      sees ((u.wrote x (.sp n f) 4 (.rel rel)).saw ⟨y, false⟩ (.sp n f) 4 true (some acq)) = if pairs rel x acq y = true then new else old

/-- Log entry 3: every step keeps every store of the device in canonical form. -/
def Obligations.StepKeepsMemoryCanonical : Prop :=
  ∀ s t, s.memOk = true → step s = .next t → t.memOk = true
end

