-- ==== Sys2Proof/Laws/Order.lean ====
section
/-!
SUPPORT. What the operations of Machine/Order.lean can do: they change the tracks alone, and while no word is told apart they change
nothing.
-/

namespace Sys2Proof.Machine

/-- Only the tracks and the mark of a data race differ, and neither where there are no tracks. -/
structure OnlyTracks (s t : State) : Prop where
  rest : t = { s with tracks := t.tracks, raced := t.raced }
  nil : s.tracks = [] → t.tracks = [] ∧ t.raced = s.raced

theorem OnlyTracks.refl (s : State) : OnlyTracks s s := ⟨rfl, fun e => ⟨e, rfl⟩⟩

theorem OnlyTracks.trans {s t u : State} (h : OnlyTracks s t) (h' : OnlyTracks t u) : OnlyTracks s u where
  rest := by rw [h'.rest, h.rest]
  nil e := ⟨(h'.nil (h.nil e).1).1, (h'.nil (h.nil e).1).2.trans (h.nil e).2⟩

/-- While no word is told apart, the state is the same. -/
theorem OnlyTracks.eq {s t : State} (h : OnlyTracks s t) (e : s.tracks = []) : t = s := by
  rw [h.rest, (h.nil e).1, (h.nil e).2, ← e]

theorem OnlyTracks.core {s t : State} (h : OnlyTracks s t) (n : Nat) : t.core n = s.core n := by rw [h.rest]; rfl
theorem OnlyTracks.cord? {s t : State} (h : OnlyTracks s t) (r : CordRef) : t.cord? r = s.cord? r := by
  rw [h.rest]; rfl

/-- A change of each track for itself. -/
theorem map_onlyTracks (s : State) (f : Track → Track) : OnlyTracks s { s with tracks := s.tracks.map f } :=
  ⟨rfl, fun e => ⟨by simp [e], rfl⟩⟩

theorem noteRace_onlyTracks (s : State) (y : Eye) (ws : List Place) : OnlyTracks s (s.noteRace y ws) := by
  unfold State.noteRace
  split
  · rename_i h
    exact ⟨rfl, fun e => by simp [e] at h⟩
  · exact .refl s

theorem order_onlyTracks (s : State) (f : Place → Wrote → Wrote) : OnlyTracks s (s.order f) := map_onlyTracks s _

theorem wroteAt_onlyTracks (s : State) (x : Agent) (p : Place) (n : Nat) (k : WriteKind) : OnlyTracks s (s.wroteAt x p n k) :=
  ((noteRace_onlyTracks s _ _).trans (order_onlyTracks _ _)).trans (map_onlyTracks _ _)

theorem wrote_onlyTracks (s : State) (x : Agent) (p : Place) (n : Nat) (k : WriteKind) : OnlyTracks s (s.wrote x p n k) := by
  unfold State.wrote
  split
  · exact (order_onlyTracks s _).trans (wroteAt_onlyTracks _ _ _ _ _)
  · exact wroteAt_onlyTracks _ _ _ _ _

theorem wroteSpot_onlyTracks (s : State) (x : Agent) (p : Spot) (n : Nat) (k : WriteKind) : OnlyTracks s (s.wroteSpot x p n k) := by
  unfold State.wroteSpot
  split
  · exact .refl s
  · exact wrote_onlyTracks _ _ _ _ _

theorem send_onlyTracks (s : State) (x : Agent) (sc : Scope) (ks : List Carrier) : OnlyTracks s (s.send x sc ks) := order_onlyTracks s _
theorem unsend_onlyTracks (s : State) (ks : List Carrier) : OnlyTracks s (s.unsend ks) := order_onlyTracks s _
theorem hear_onlyTracks (s : State) (y : Agent) (sc : Scope) (ks : List Carrier) : OnlyTracks s (s.hear y sc ks) := order_onlyTracks s _
theorem pass_onlyTracks (s : State) (x y : Agent) : OnlyTracks s (s.pass x y) := order_onlyTracks s _

theorem fences_onlyTracks (s : State) (x : Agent) (m : Ordr) : OnlyTracks s (s.fences x m) := by
  have acq (t : State) : OnlyTracks t (if m.acq then t.order (Wrote.acquire x m.scope) else t) := by
    split
    · exact order_onlyTracks _ _
    · exact .refl _
  unfold State.fences
  dsimp only
  split
  · exact (acq s).trans (order_onlyTracks _ _)
  · exact acq s

theorem unhold_onlyTracks (s : State) (y : Agent) : OnlyTracks s (s.unhold y) := map_onlyTracks s _
theorem holdRead_onlyTracks (s : State) (y : Agent) (p : Place) (n : Nat) (ops : List Agent) : OnlyTracks s (s.holdRead y p n ops) :=
  map_onlyTracks s _
theorem showTo_onlyTracks (s : State) (y : Agent) (p : Place) (n : Nat) : OnlyTracks s (s.showTo y p n) := map_onlyTracks s _

theorem readWords_onlyTracks (s : State) (y : Eye) (ws : List Place) (newest : Bool) : OnlyTracks s (s.readWords y ws newest) :=
  ((map_onlyTracks s _).trans (order_onlyTracks _ _)).trans (noteRace_onlyTracks _ _ _)

theorem saw_onlyTracks (s : State) (y : Eye) (p : Place) (n : Nat) (newest : Bool) (acq : Option Scope) :
    OnlyTracks s (s.saw y p n newest acq) := by
  unfold State.saw
  cases acq with
  | none => exact readWords_onlyTracks _ _ _ _
  | some sc => exact (readWords_onlyTracks _ _ _ _).trans (hear_onlyTracks _ _ _ _)

theorem sawSpot_onlyTracks (s : State) (y : Eye) (p : Spot) (n : Nat) (newest : Bool) (acq : Option Scope) :
    OnlyTracks s (s.sawSpot y p n newest acq) := by
  unfold State.sawSpot
  split
  · exact .refl s
  · exact saw_onlyTracks _ _ _ _ _ _

/-- While no word is told apart, every agent sees the stores as they stand. -/
theorem seenBy_nil {s : State} (h : s.tracks = []) (y : Eye) : s.seenBy y = s := by simp [State.seenBy, h]

end Sys2Proof.Machine
end

