-- ==== Sys2Proof/Laws/Tab.lean ====
section
/-!
SUPPORT. The laws of the sparse table: what a lookup finds after an update. They hold of every table, sorted or not.
-/

namespace Sys2Proof.Tab

variable {β γ : Type}

theorem find_put_same (l : List (Nat × β)) (k : Nat) (x : β) : find (put l k x) k = some x := by
  induction l with
  | nil => simp [put, find]
  | cons e r ih =>
    obtain ⟨j, y⟩ := e
    simp only [put]
    split
    · simp [find]
    · split
      · simp [find]
      · simp [find, *]

theorem find_put_ne (l : List (Nat × β)) {j k : Nat} (h : j ≠ k) (x : β) : find (put l k x) j = find l j := by
  induction l with
  | nil => simp [put, find, h.symm]
  | cons e r ih =>
    obtain ⟨i, y⟩ := e
    simp only [put]
    split
    · simp [find, h.symm]
    · split
      · subst_vars; simp [find, h.symm]
      · simp [find, ih]

@[simp] theorem get?_empty (k : Nat) : (empty : Tab β).get? k = none := rfl
@[simp] theorem get?_set_same (t : Tab β) (k : Nat) (x : β) : (t.set k x).get? k = some x := find_put_same _ _ _
theorem get?_set_ne (t : Tab β) {j k : Nat} (h : j ≠ k) (x : β) : (t.set k x).get? j = t.get? j := find_put_ne _ h _
theorem get?_set (t : Tab β) (j k : Nat) (x : β) : (t.set k x).get? j = if j = k then some x else t.get? j := by
  split
  · subst_vars; simp
  · exact get?_set_ne t ‹_› x

@[simp] theorem get_set_same (t : Tab β) (k : Nat) (x d : β) : (t.set k x).get k d = x := by simp [get]
theorem get_set_ne (t : Tab β) {j k : Nat} (h : j ≠ k) (x d : β) : (t.set k x).get j d = t.get j d := by
  simp [get, get?_set_ne t h]
theorem get_set (t : Tab β) (j k : Nat) (x d : β) : (t.set k x).get j d = if j = k then x else t.get j d := by
  split
  · subst_vars; simp
  · exact get_set_ne t ‹_› x d

theorem find_map (l : List (Nat × β)) (f : Nat → β → γ) (k : Nat) :
    find (l.map (fun e => (e.1, f e.1 e.2))) k = (find l k).map (f k) := by
  induction l with
  | nil => rfl
  | cons e r ih =>
    obtain ⟨j, y⟩ := e
    simp only [List.map, find]
    split
    · subst_vars; rfl
    · exact ih

@[simp] theorem get?_map (t : Tab β) (f : Nat → β → γ) (k : Nat) : (t.map f).get? k = (t.get? k).map (f k) :=
  find_map _ _ _

theorem find_filter_key (l : List (Nat × β)) (p : Nat → Bool) (k : Nat) :
    find (l.filter (fun e => p e.1)) k = if p k then find l k else none := by
  induction l with
  | nil => simp [find]
  | cons e r ih =>
    obtain ⟨j, y⟩ := e
    by_cases hp : p j <;> by_cases hj : j = k
    all_goals simp_all [find]

theorem get?_erase (t : Tab β) (j k : Nat) : (t.erase k).get? j = if j = k then none else t.get? j := by
  have := find_filter_key t.entries (fun n => n != k) j
  simp only [erase, get?]
  rw [this]
  by_cases h : j = k <;> simp [h]

end Sys2Proof.Tab
end

