-- ==== Sys2Proof/Laws/State.lean ====
section
/-!
SUPPORT. The fields of the state under each of its updates, and what a core, block or cord reads as after one.
-/

namespace Sys2Proof.Machine.State

/-! ### `setCore` -/

@[simp] theorem clusters_setCore (s : State) (n : Nat) (x : Core) : (s.setCore n x).clusters = s.clusters := rfl
@[simp] theorem dies_setCore (s : State) (n : Nat) (x : Core) : (s.setCore n x).dies = s.dies := rfl
@[simp] theorem ctxs_setCore (s : State) (n : Nat) (x : Core) : (s.setCore n x).ctxs = s.ctxs := rfl
@[simp] theorem launches_setCore (s : State) (n : Nat) (x : Core) : (s.setCore n x).launches = s.launches := rfl
@[simp] theorem nextLaunch_setCore (s : State) (n : Nat) (x : Core) : (s.setCore n x).nextLaunch = s.nextLaunch := rfl
@[simp] theorem saved_setCore (s : State) (n : Nat) (x : Core) : (s.setCore n x).saved = s.saved := rfl
@[simp] theorem hbm_setCore (s : State) (n : Nat) (x : Core) : (s.setCore n x).hbm = s.hbm := rfl
@[simp] theorem hbmErr_setCore (s : State) (n : Nat) (x : Core) : (s.setCore n x).hbmErr = s.hbmErr := rfl
@[simp] theorem host_setCore (s : State) (n : Nat) (x : Core) : (s.setCore n x).host = s.host := rfl
@[simp] theorem peers_setCore (s : State) (n : Nat) (x : Core) : (s.setCore n x).peers = s.peers := rfl
@[simp] theorem peerLinks_setCore (s : State) (n : Nat) (x : Core) : (s.setCore n x).peerLinks = s.peerLinks := rfl
@[simp] theorem selfDev_setCore (s : State) (n : Nat) (x : Core) : (s.setCore n x).selfDev = s.selfDev := rfl
@[simp] theorem wires_setCore (s : State) (n : Nat) (x : Core) : (s.setCore n x).wires = s.wires := rfl
@[simp] theorem sysTrees_setCore (s : State) (n : Nat) (x : Core) : (s.setCore n x).sysTrees = s.sysTrees := rfl
@[simp] theorem sysReds_setCore (s : State) (n : Nat) (x : Core) : (s.setCore n x).sysReds = s.sysReds := rfl
@[simp] theorem linkOut_setCore (s : State) (n : Nat) (x : Core) : (s.setCore n x).linkOut = s.linkOut := rfl
@[simp] theorem partitions_setCore (s : State) (n : Nat) (x : Core) : (s.setCore n x).partitions = s.partitions := rfl
@[simp] theorem suppressed_setCore (s : State) (n : Nat) (x : Core) : (s.setCore n x).suppressed = s.suppressed := rfl
@[simp] theorem corrected_setCore (s : State) (n : Nat) (x : Core) : (s.setCore n x).corrected = s.corrected := rfl
@[simp] theorem flitRetries_setCore (s : State) (n : Nat) (x : Core) : (s.setCore n x).flitRetries = s.flitRetries := rfl
@[simp] theorem linkReplays_setCore (s : State) (n : Nat) (x : Core) : (s.setCore n x).linkReplays = s.linkReplays := rfl
@[simp] theorem mgmt_setCore (s : State) (n : Nat) (x : Core) : (s.setCore n x).mgmt = s.mgmt := rfl
@[simp] theorem tracks_setCore (s : State) (n : Nat) (x : Core) : (s.setCore n x).tracks = s.tracks := rfl
@[simp] theorem raced_setCore (s : State) (n : Nat) (x : Core) : (s.setCore n x).raced = s.raced := rfl
@[simp] theorem agenda_setCore (s : State) (n : Nat) (x : Core) : (s.setCore n x).agenda = s.agenda := rfl
@[simp] theorem clock_setCore (s : State) (n : Nat) (x : Core) : (s.setCore n x).clock = s.clock := rfl
@[simp] theorem cur_setCore (s : State) (n : Nat) (x : Core) : (s.setCore n x).cur = s.cur := rfl
@[simp] theorem stalled_setCore (s : State) (n : Nat) (x : Core) : (s.setCore n x).stalled = s.stalled := rfl
@[simp] theorem freeCtr_setCore (s : State) (n : Nat) (x : Core) : (s.setCore n x).freeCtr = s.freeCtr := rfl
@[simp] theorem serial_setCore (s : State) (n : Nat) (x : Core) : (s.setCore n x).serial = s.serial := rfl

/-! ### `setDie` -/

@[simp] theorem cores_setDie (s : State) (n : Nat) (x : Die) : (s.setDie n x).cores = s.cores := rfl
@[simp] theorem clusters_setDie (s : State) (n : Nat) (x : Die) : (s.setDie n x).clusters = s.clusters := rfl
@[simp] theorem ctxs_setDie (s : State) (n : Nat) (x : Die) : (s.setDie n x).ctxs = s.ctxs := rfl
@[simp] theorem launches_setDie (s : State) (n : Nat) (x : Die) : (s.setDie n x).launches = s.launches := rfl
@[simp] theorem nextLaunch_setDie (s : State) (n : Nat) (x : Die) : (s.setDie n x).nextLaunch = s.nextLaunch := rfl
@[simp] theorem saved_setDie (s : State) (n : Nat) (x : Die) : (s.setDie n x).saved = s.saved := rfl
@[simp] theorem hbm_setDie (s : State) (n : Nat) (x : Die) : (s.setDie n x).hbm = s.hbm := rfl
@[simp] theorem hbmErr_setDie (s : State) (n : Nat) (x : Die) : (s.setDie n x).hbmErr = s.hbmErr := rfl
@[simp] theorem host_setDie (s : State) (n : Nat) (x : Die) : (s.setDie n x).host = s.host := rfl
@[simp] theorem peers_setDie (s : State) (n : Nat) (x : Die) : (s.setDie n x).peers = s.peers := rfl
@[simp] theorem peerLinks_setDie (s : State) (n : Nat) (x : Die) : (s.setDie n x).peerLinks = s.peerLinks := rfl
@[simp] theorem selfDev_setDie (s : State) (n : Nat) (x : Die) : (s.setDie n x).selfDev = s.selfDev := rfl
@[simp] theorem wires_setDie (s : State) (n : Nat) (x : Die) : (s.setDie n x).wires = s.wires := rfl
@[simp] theorem sysTrees_setDie (s : State) (n : Nat) (x : Die) : (s.setDie n x).sysTrees = s.sysTrees := rfl
@[simp] theorem sysReds_setDie (s : State) (n : Nat) (x : Die) : (s.setDie n x).sysReds = s.sysReds := rfl
@[simp] theorem linkOut_setDie (s : State) (n : Nat) (x : Die) : (s.setDie n x).linkOut = s.linkOut := rfl
@[simp] theorem partitions_setDie (s : State) (n : Nat) (x : Die) : (s.setDie n x).partitions = s.partitions := rfl
@[simp] theorem suppressed_setDie (s : State) (n : Nat) (x : Die) : (s.setDie n x).suppressed = s.suppressed := rfl
@[simp] theorem corrected_setDie (s : State) (n : Nat) (x : Die) : (s.setDie n x).corrected = s.corrected := rfl
@[simp] theorem flitRetries_setDie (s : State) (n : Nat) (x : Die) : (s.setDie n x).flitRetries = s.flitRetries := rfl
@[simp] theorem linkReplays_setDie (s : State) (n : Nat) (x : Die) : (s.setDie n x).linkReplays = s.linkReplays := rfl
@[simp] theorem mgmt_setDie (s : State) (n : Nat) (x : Die) : (s.setDie n x).mgmt = s.mgmt := rfl
@[simp] theorem tracks_setDie (s : State) (n : Nat) (x : Die) : (s.setDie n x).tracks = s.tracks := rfl
@[simp] theorem raced_setDie (s : State) (n : Nat) (x : Die) : (s.setDie n x).raced = s.raced := rfl
@[simp] theorem agenda_setDie (s : State) (n : Nat) (x : Die) : (s.setDie n x).agenda = s.agenda := rfl
@[simp] theorem clock_setDie (s : State) (n : Nat) (x : Die) : (s.setDie n x).clock = s.clock := rfl
@[simp] theorem cur_setDie (s : State) (n : Nat) (x : Die) : (s.setDie n x).cur = s.cur := rfl
@[simp] theorem stalled_setDie (s : State) (n : Nat) (x : Die) : (s.setDie n x).stalled = s.stalled := rfl
@[simp] theorem freeCtr_setDie (s : State) (n : Nat) (x : Die) : (s.setDie n x).freeCtr = s.freeCtr := rfl
@[simp] theorem serial_setDie (s : State) (n : Nat) (x : Die) : (s.setDie n x).serial = s.serial := rfl

/-! ### `setCluster` -/

@[simp] theorem cores_setCluster (s : State) (n : Nat) (x : Cluster) : (s.setCluster n x).cores = s.cores := rfl
@[simp] theorem dies_setCluster (s : State) (n : Nat) (x : Cluster) : (s.setCluster n x).dies = s.dies := rfl
@[simp] theorem ctxs_setCluster (s : State) (n : Nat) (x : Cluster) : (s.setCluster n x).ctxs = s.ctxs := rfl
@[simp] theorem launches_setCluster (s : State) (n : Nat) (x : Cluster) : (s.setCluster n x).launches = s.launches := rfl
@[simp] theorem nextLaunch_setCluster (s : State) (n : Nat) (x : Cluster) : (s.setCluster n x).nextLaunch = s.nextLaunch := rfl
@[simp] theorem saved_setCluster (s : State) (n : Nat) (x : Cluster) : (s.setCluster n x).saved = s.saved := rfl
@[simp] theorem hbm_setCluster (s : State) (n : Nat) (x : Cluster) : (s.setCluster n x).hbm = s.hbm := rfl
@[simp] theorem hbmErr_setCluster (s : State) (n : Nat) (x : Cluster) : (s.setCluster n x).hbmErr = s.hbmErr := rfl
@[simp] theorem host_setCluster (s : State) (n : Nat) (x : Cluster) : (s.setCluster n x).host = s.host := rfl
@[simp] theorem peers_setCluster (s : State) (n : Nat) (x : Cluster) : (s.setCluster n x).peers = s.peers := rfl
@[simp] theorem peerLinks_setCluster (s : State) (n : Nat) (x : Cluster) : (s.setCluster n x).peerLinks = s.peerLinks := rfl
@[simp] theorem selfDev_setCluster (s : State) (n : Nat) (x : Cluster) : (s.setCluster n x).selfDev = s.selfDev := rfl
@[simp] theorem wires_setCluster (s : State) (n : Nat) (x : Cluster) : (s.setCluster n x).wires = s.wires := rfl
@[simp] theorem sysTrees_setCluster (s : State) (n : Nat) (x : Cluster) : (s.setCluster n x).sysTrees = s.sysTrees := rfl
@[simp] theorem sysReds_setCluster (s : State) (n : Nat) (x : Cluster) : (s.setCluster n x).sysReds = s.sysReds := rfl
@[simp] theorem linkOut_setCluster (s : State) (n : Nat) (x : Cluster) : (s.setCluster n x).linkOut = s.linkOut := rfl
@[simp] theorem partitions_setCluster (s : State) (n : Nat) (x : Cluster) : (s.setCluster n x).partitions = s.partitions := rfl
@[simp] theorem suppressed_setCluster (s : State) (n : Nat) (x : Cluster) : (s.setCluster n x).suppressed = s.suppressed := rfl
@[simp] theorem corrected_setCluster (s : State) (n : Nat) (x : Cluster) : (s.setCluster n x).corrected = s.corrected := rfl
@[simp] theorem flitRetries_setCluster (s : State) (n : Nat) (x : Cluster) : (s.setCluster n x).flitRetries = s.flitRetries := rfl
@[simp] theorem linkReplays_setCluster (s : State) (n : Nat) (x : Cluster) : (s.setCluster n x).linkReplays = s.linkReplays := rfl
@[simp] theorem mgmt_setCluster (s : State) (n : Nat) (x : Cluster) : (s.setCluster n x).mgmt = s.mgmt := rfl
@[simp] theorem tracks_setCluster (s : State) (n : Nat) (x : Cluster) : (s.setCluster n x).tracks = s.tracks := rfl
@[simp] theorem raced_setCluster (s : State) (n : Nat) (x : Cluster) : (s.setCluster n x).raced = s.raced := rfl
@[simp] theorem agenda_setCluster (s : State) (n : Nat) (x : Cluster) : (s.setCluster n x).agenda = s.agenda := rfl
@[simp] theorem clock_setCluster (s : State) (n : Nat) (x : Cluster) : (s.setCluster n x).clock = s.clock := rfl
@[simp] theorem cur_setCluster (s : State) (n : Nat) (x : Cluster) : (s.setCluster n x).cur = s.cur := rfl
@[simp] theorem stalled_setCluster (s : State) (n : Nat) (x : Cluster) : (s.setCluster n x).stalled = s.stalled := rfl
@[simp] theorem freeCtr_setCluster (s : State) (n : Nat) (x : Cluster) : (s.setCluster n x).freeCtr = s.freeCtr := rfl
@[simp] theorem serial_setCluster (s : State) (n : Nat) (x : Cluster) : (s.setCluster n x).serial = s.serial := rfl

/-! ### `setCtx` -/

@[simp] theorem cores_setCtx (s : State) (n : Nat) (x : Ctx) : (s.setCtx n x).cores = s.cores := rfl
@[simp] theorem clusters_setCtx (s : State) (n : Nat) (x : Ctx) : (s.setCtx n x).clusters = s.clusters := rfl
@[simp] theorem dies_setCtx (s : State) (n : Nat) (x : Ctx) : (s.setCtx n x).dies = s.dies := rfl
@[simp] theorem launches_setCtx (s : State) (n : Nat) (x : Ctx) : (s.setCtx n x).launches = s.launches := rfl
@[simp] theorem nextLaunch_setCtx (s : State) (n : Nat) (x : Ctx) : (s.setCtx n x).nextLaunch = s.nextLaunch := rfl
@[simp] theorem saved_setCtx (s : State) (n : Nat) (x : Ctx) : (s.setCtx n x).saved = s.saved := rfl
@[simp] theorem hbm_setCtx (s : State) (n : Nat) (x : Ctx) : (s.setCtx n x).hbm = s.hbm := rfl
@[simp] theorem hbmErr_setCtx (s : State) (n : Nat) (x : Ctx) : (s.setCtx n x).hbmErr = s.hbmErr := rfl
@[simp] theorem host_setCtx (s : State) (n : Nat) (x : Ctx) : (s.setCtx n x).host = s.host := rfl
@[simp] theorem peers_setCtx (s : State) (n : Nat) (x : Ctx) : (s.setCtx n x).peers = s.peers := rfl
@[simp] theorem peerLinks_setCtx (s : State) (n : Nat) (x : Ctx) : (s.setCtx n x).peerLinks = s.peerLinks := rfl
@[simp] theorem selfDev_setCtx (s : State) (n : Nat) (x : Ctx) : (s.setCtx n x).selfDev = s.selfDev := rfl
@[simp] theorem wires_setCtx (s : State) (n : Nat) (x : Ctx) : (s.setCtx n x).wires = s.wires := rfl
@[simp] theorem sysTrees_setCtx (s : State) (n : Nat) (x : Ctx) : (s.setCtx n x).sysTrees = s.sysTrees := rfl
@[simp] theorem sysReds_setCtx (s : State) (n : Nat) (x : Ctx) : (s.setCtx n x).sysReds = s.sysReds := rfl
@[simp] theorem linkOut_setCtx (s : State) (n : Nat) (x : Ctx) : (s.setCtx n x).linkOut = s.linkOut := rfl
@[simp] theorem partitions_setCtx (s : State) (n : Nat) (x : Ctx) : (s.setCtx n x).partitions = s.partitions := rfl
@[simp] theorem suppressed_setCtx (s : State) (n : Nat) (x : Ctx) : (s.setCtx n x).suppressed = s.suppressed := rfl
@[simp] theorem corrected_setCtx (s : State) (n : Nat) (x : Ctx) : (s.setCtx n x).corrected = s.corrected := rfl
@[simp] theorem flitRetries_setCtx (s : State) (n : Nat) (x : Ctx) : (s.setCtx n x).flitRetries = s.flitRetries := rfl
@[simp] theorem linkReplays_setCtx (s : State) (n : Nat) (x : Ctx) : (s.setCtx n x).linkReplays = s.linkReplays := rfl
@[simp] theorem mgmt_setCtx (s : State) (n : Nat) (x : Ctx) : (s.setCtx n x).mgmt = s.mgmt := rfl
@[simp] theorem tracks_setCtx (s : State) (n : Nat) (x : Ctx) : (s.setCtx n x).tracks = s.tracks := rfl
@[simp] theorem raced_setCtx (s : State) (n : Nat) (x : Ctx) : (s.setCtx n x).raced = s.raced := rfl
@[simp] theorem agenda_setCtx (s : State) (n : Nat) (x : Ctx) : (s.setCtx n x).agenda = s.agenda := rfl
@[simp] theorem clock_setCtx (s : State) (n : Nat) (x : Ctx) : (s.setCtx n x).clock = s.clock := rfl
@[simp] theorem cur_setCtx (s : State) (n : Nat) (x : Ctx) : (s.setCtx n x).cur = s.cur := rfl
@[simp] theorem stalled_setCtx (s : State) (n : Nat) (x : Ctx) : (s.setCtx n x).stalled = s.stalled := rfl
@[simp] theorem freeCtr_setCtx (s : State) (n : Nat) (x : Ctx) : (s.setCtx n x).freeCtr = s.freeCtr := rfl
@[simp] theorem serial_setCtx (s : State) (n : Nat) (x : Ctx) : (s.setCtx n x).serial = s.serial := rfl

/-! ### `setLaunch` -/

@[simp] theorem cores_setLaunch (s : State) (n : Nat) (x : Launch) : (s.setLaunch n x).cores = s.cores := rfl
@[simp] theorem clusters_setLaunch (s : State) (n : Nat) (x : Launch) : (s.setLaunch n x).clusters = s.clusters := rfl
@[simp] theorem dies_setLaunch (s : State) (n : Nat) (x : Launch) : (s.setLaunch n x).dies = s.dies := rfl
@[simp] theorem ctxs_setLaunch (s : State) (n : Nat) (x : Launch) : (s.setLaunch n x).ctxs = s.ctxs := rfl
@[simp] theorem nextLaunch_setLaunch (s : State) (n : Nat) (x : Launch) : (s.setLaunch n x).nextLaunch = s.nextLaunch := rfl
@[simp] theorem saved_setLaunch (s : State) (n : Nat) (x : Launch) : (s.setLaunch n x).saved = s.saved := rfl
@[simp] theorem hbm_setLaunch (s : State) (n : Nat) (x : Launch) : (s.setLaunch n x).hbm = s.hbm := rfl
@[simp] theorem hbmErr_setLaunch (s : State) (n : Nat) (x : Launch) : (s.setLaunch n x).hbmErr = s.hbmErr := rfl
@[simp] theorem host_setLaunch (s : State) (n : Nat) (x : Launch) : (s.setLaunch n x).host = s.host := rfl
@[simp] theorem peers_setLaunch (s : State) (n : Nat) (x : Launch) : (s.setLaunch n x).peers = s.peers := rfl
@[simp] theorem peerLinks_setLaunch (s : State) (n : Nat) (x : Launch) : (s.setLaunch n x).peerLinks = s.peerLinks := rfl
@[simp] theorem selfDev_setLaunch (s : State) (n : Nat) (x : Launch) : (s.setLaunch n x).selfDev = s.selfDev := rfl
@[simp] theorem wires_setLaunch (s : State) (n : Nat) (x : Launch) : (s.setLaunch n x).wires = s.wires := rfl
@[simp] theorem sysTrees_setLaunch (s : State) (n : Nat) (x : Launch) : (s.setLaunch n x).sysTrees = s.sysTrees := rfl
@[simp] theorem sysReds_setLaunch (s : State) (n : Nat) (x : Launch) : (s.setLaunch n x).sysReds = s.sysReds := rfl
@[simp] theorem linkOut_setLaunch (s : State) (n : Nat) (x : Launch) : (s.setLaunch n x).linkOut = s.linkOut := rfl
@[simp] theorem partitions_setLaunch (s : State) (n : Nat) (x : Launch) : (s.setLaunch n x).partitions = s.partitions := rfl
@[simp] theorem suppressed_setLaunch (s : State) (n : Nat) (x : Launch) : (s.setLaunch n x).suppressed = s.suppressed := rfl
@[simp] theorem corrected_setLaunch (s : State) (n : Nat) (x : Launch) : (s.setLaunch n x).corrected = s.corrected := rfl
@[simp] theorem flitRetries_setLaunch (s : State) (n : Nat) (x : Launch) : (s.setLaunch n x).flitRetries = s.flitRetries := rfl
@[simp] theorem linkReplays_setLaunch (s : State) (n : Nat) (x : Launch) : (s.setLaunch n x).linkReplays = s.linkReplays := rfl
@[simp] theorem mgmt_setLaunch (s : State) (n : Nat) (x : Launch) : (s.setLaunch n x).mgmt = s.mgmt := rfl
@[simp] theorem tracks_setLaunch (s : State) (n : Nat) (x : Launch) : (s.setLaunch n x).tracks = s.tracks := rfl
@[simp] theorem raced_setLaunch (s : State) (n : Nat) (x : Launch) : (s.setLaunch n x).raced = s.raced := rfl
@[simp] theorem agenda_setLaunch (s : State) (n : Nat) (x : Launch) : (s.setLaunch n x).agenda = s.agenda := rfl
@[simp] theorem clock_setLaunch (s : State) (n : Nat) (x : Launch) : (s.setLaunch n x).clock = s.clock := rfl
@[simp] theorem cur_setLaunch (s : State) (n : Nat) (x : Launch) : (s.setLaunch n x).cur = s.cur := rfl
@[simp] theorem stalled_setLaunch (s : State) (n : Nat) (x : Launch) : (s.setLaunch n x).stalled = s.stalled := rfl
@[simp] theorem freeCtr_setLaunch (s : State) (n : Nat) (x : Launch) : (s.setLaunch n x).freeCtr = s.freeCtr := rfl
@[simp] theorem serial_setLaunch (s : State) (n : Nat) (x : Launch) : (s.setLaunch n x).serial = s.serial := rfl

/-! ### `stall` -/

@[simp] theorem cores_stall (s : State) (r : CordRef) : (s.stall r).cores = s.cores := rfl
@[simp] theorem clusters_stall (s : State) (r : CordRef) : (s.stall r).clusters = s.clusters := rfl
@[simp] theorem dies_stall (s : State) (r : CordRef) : (s.stall r).dies = s.dies := rfl
@[simp] theorem ctxs_stall (s : State) (r : CordRef) : (s.stall r).ctxs = s.ctxs := rfl
@[simp] theorem launches_stall (s : State) (r : CordRef) : (s.stall r).launches = s.launches := rfl
@[simp] theorem nextLaunch_stall (s : State) (r : CordRef) : (s.stall r).nextLaunch = s.nextLaunch := rfl
@[simp] theorem saved_stall (s : State) (r : CordRef) : (s.stall r).saved = s.saved := rfl
@[simp] theorem hbm_stall (s : State) (r : CordRef) : (s.stall r).hbm = s.hbm := rfl
@[simp] theorem hbmErr_stall (s : State) (r : CordRef) : (s.stall r).hbmErr = s.hbmErr := rfl
@[simp] theorem host_stall (s : State) (r : CordRef) : (s.stall r).host = s.host := rfl
@[simp] theorem peers_stall (s : State) (r : CordRef) : (s.stall r).peers = s.peers := rfl
@[simp] theorem peerLinks_stall (s : State) (r : CordRef) : (s.stall r).peerLinks = s.peerLinks := rfl
@[simp] theorem selfDev_stall (s : State) (r : CordRef) : (s.stall r).selfDev = s.selfDev := rfl
@[simp] theorem wires_stall (s : State) (r : CordRef) : (s.stall r).wires = s.wires := rfl
@[simp] theorem sysTrees_stall (s : State) (r : CordRef) : (s.stall r).sysTrees = s.sysTrees := rfl
@[simp] theorem sysReds_stall (s : State) (r : CordRef) : (s.stall r).sysReds = s.sysReds := rfl
@[simp] theorem linkOut_stall (s : State) (r : CordRef) : (s.stall r).linkOut = s.linkOut := rfl
@[simp] theorem partitions_stall (s : State) (r : CordRef) : (s.stall r).partitions = s.partitions := rfl
@[simp] theorem suppressed_stall (s : State) (r : CordRef) : (s.stall r).suppressed = s.suppressed := rfl
@[simp] theorem corrected_stall (s : State) (r : CordRef) : (s.stall r).corrected = s.corrected := rfl
@[simp] theorem flitRetries_stall (s : State) (r : CordRef) : (s.stall r).flitRetries = s.flitRetries := rfl
@[simp] theorem linkReplays_stall (s : State) (r : CordRef) : (s.stall r).linkReplays = s.linkReplays := rfl
@[simp] theorem mgmt_stall (s : State) (r : CordRef) : (s.stall r).mgmt = s.mgmt := rfl
@[simp] theorem tracks_stall (s : State) (r : CordRef) : (s.stall r).tracks = s.tracks := rfl
@[simp] theorem raced_stall (s : State) (r : CordRef) : (s.stall r).raced = s.raced := rfl
@[simp] theorem agenda_stall (s : State) (r : CordRef) : (s.stall r).agenda = s.agenda := rfl
@[simp] theorem clock_stall (s : State) (r : CordRef) : (s.stall r).clock = s.clock := rfl
@[simp] theorem cur_stall (s : State) (r : CordRef) : (s.stall r).cur = s.cur := rfl
@[simp] theorem freeCtr_stall (s : State) (r : CordRef) : (s.stall r).freeCtr = s.freeCtr := rfl
@[simp] theorem serial_stall (s : State) (r : CordRef) : (s.stall r).serial = s.serial := rfl

/-! ### `free` -/

@[simp] theorem cores_free (s : State) : s.free.2.cores = s.cores := rfl
@[simp] theorem clusters_free (s : State) : s.free.2.clusters = s.clusters := rfl
@[simp] theorem dies_free (s : State) : s.free.2.dies = s.dies := rfl
@[simp] theorem ctxs_free (s : State) : s.free.2.ctxs = s.ctxs := rfl
@[simp] theorem launches_free (s : State) : s.free.2.launches = s.launches := rfl
@[simp] theorem nextLaunch_free (s : State) : s.free.2.nextLaunch = s.nextLaunch := rfl
@[simp] theorem saved_free (s : State) : s.free.2.saved = s.saved := rfl
@[simp] theorem hbm_free (s : State) : s.free.2.hbm = s.hbm := rfl
@[simp] theorem hbmErr_free (s : State) : s.free.2.hbmErr = s.hbmErr := rfl
@[simp] theorem host_free (s : State) : s.free.2.host = s.host := rfl
@[simp] theorem peers_free (s : State) : s.free.2.peers = s.peers := rfl
@[simp] theorem peerLinks_free (s : State) : s.free.2.peerLinks = s.peerLinks := rfl
@[simp] theorem selfDev_free (s : State) : s.free.2.selfDev = s.selfDev := rfl
@[simp] theorem wires_free (s : State) : s.free.2.wires = s.wires := rfl
@[simp] theorem sysTrees_free (s : State) : s.free.2.sysTrees = s.sysTrees := rfl
@[simp] theorem sysReds_free (s : State) : s.free.2.sysReds = s.sysReds := rfl
@[simp] theorem linkOut_free (s : State) : s.free.2.linkOut = s.linkOut := rfl
@[simp] theorem partitions_free (s : State) : s.free.2.partitions = s.partitions := rfl
@[simp] theorem suppressed_free (s : State) : s.free.2.suppressed = s.suppressed := rfl
@[simp] theorem corrected_free (s : State) : s.free.2.corrected = s.corrected := rfl
@[simp] theorem flitRetries_free (s : State) : s.free.2.flitRetries = s.flitRetries := rfl
@[simp] theorem linkReplays_free (s : State) : s.free.2.linkReplays = s.linkReplays := rfl
@[simp] theorem mgmt_free (s : State) : s.free.2.mgmt = s.mgmt := rfl
@[simp] theorem tracks_free (s : State) : s.free.2.tracks = s.tracks := rfl
@[simp] theorem raced_free (s : State) : s.free.2.raced = s.raced := rfl
@[simp] theorem agenda_free (s : State) : s.free.2.agenda = s.agenda := rfl
@[simp] theorem clock_free (s : State) : s.free.2.clock = s.clock := rfl
@[simp] theorem cur_free (s : State) : s.free.2.cur = s.cur := rfl
@[simp] theorem stalled_free (s : State) : s.free.2.stalled = s.stalled := rfl
@[simp] theorem freeCtr_free (s : State) : s.free.2.freeCtr = s.freeCtr + 1 := rfl
@[simp] theorem serial_free (s : State) : s.free.2.serial = s.serial := rfl
@[simp] theorem core_free (s : State) (n : Nat) : s.free.2.core n = s.core n := rfl

/-! ### Cores, blocks and cords -/

theorem core_setCore (s : State) (m n : Nat) (x : Core) : (s.setCore n x).core m = if m = n then x else s.core m := by
  simp [core, setCore, Tab.get_set]
@[simp] theorem core_setCore_same (s : State) (n : Nat) (x : Core) : (s.setCore n x).core n = x := by simp [core_setCore]
theorem core_setCore_ne (s : State) {m n : Nat} (h : m ≠ n) (x : Core) : (s.setCore n x).core m = s.core m := by
  simp [core_setCore, h]

theorem block?_setBlock (s : State) (m k n l : Nat) (b : Block) :
    (s.setBlock n l b).block? m k = if m = n ∧ k = l then some b else s.block? m k := by
  simp only [block?, setBlock, core_setCore]
  by_cases h : m = n
  · subst h; by_cases h' : k = l <;> simp [h', Tab.get?_set]
  · simp [h]

/-- Replacing a cord of a resident block. -/
theorem setCord_eq {s : State} {r : CordRef} {b : Block} (h : s.block? r.core r.slot = some b) (c : Cord) :
    s.setCord r c = s.setBlock r.core r.slot { b with cords := b.cords.set r.cord c } := by
  simp [setCord, h]

theorem block?_of_cord? {s : State} {r : CordRef} {c : Cord} (h : s.cord? r = some c) :
    ∃ b, s.block? r.core r.slot = some b ∧ b.cords.get? r.cord = some c := by
  simp only [cord?, Option.bind_eq_some_iff] at h
  exact h

@[simp] theorem cord?_setCord_same {s : State} {r : CordRef} {c : Cord} (h : s.cord? r = some c) (x : Cord) :
    (s.setCord r x).cord? r = some x := by
  obtain ⟨b, hb, -⟩ := block?_of_cord? h
  simp [setCord_eq hb, cord?, block?_setBlock]

theorem cord?_setCord_ne (s : State) {q r : CordRef} (h : q ≠ r) (x : Cord) : (s.setCord r x).cord? q = s.cord? q := by
  unfold setCord
  split
  · rfl
  · rename_i b hb
    simp only [cord?, block?_setBlock]
    split
    · rename_i hq
      have hc : q.cord ≠ r.cord := fun e => h (by cases q; cases r; simp_all)
      simp [hq, hb, Tab.get?_set_ne _ hc]
    · rfl

/-- What a core keeps when one of its cords is replaced: everything but its blocks. -/
theorem core_setCord (s : State) (r : CordRef) (c : Cord) (n : Nat) :
    (s.setCord r c).core n = { s.core n with blocks := ((s.setCord r c).core n).blocks } := by
  unfold setCord
  split
  · rfl
  · simp only [setBlock, core_setCore]
    split
    · subst_vars; rfl
    · rfl

@[simp] theorem clusters_setCord (s : State) (r : CordRef) (c : Cord) : (s.setCord r c).clusters = s.clusters := by unfold setCord; split <;> rfl
@[simp] theorem dies_setCord (s : State) (r : CordRef) (c : Cord) : (s.setCord r c).dies = s.dies := by unfold setCord; split <;> rfl
@[simp] theorem ctxs_setCord (s : State) (r : CordRef) (c : Cord) : (s.setCord r c).ctxs = s.ctxs := by unfold setCord; split <;> rfl
@[simp] theorem launches_setCord (s : State) (r : CordRef) (c : Cord) : (s.setCord r c).launches = s.launches := by unfold setCord; split <;> rfl
@[simp] theorem nextLaunch_setCord (s : State) (r : CordRef) (c : Cord) : (s.setCord r c).nextLaunch = s.nextLaunch := by unfold setCord; split <;> rfl
@[simp] theorem saved_setCord (s : State) (r : CordRef) (c : Cord) : (s.setCord r c).saved = s.saved := by unfold setCord; split <;> rfl
@[simp] theorem hbm_setCord (s : State) (r : CordRef) (c : Cord) : (s.setCord r c).hbm = s.hbm := by unfold setCord; split <;> rfl
@[simp] theorem hbmErr_setCord (s : State) (r : CordRef) (c : Cord) : (s.setCord r c).hbmErr = s.hbmErr := by unfold setCord; split <;> rfl
@[simp] theorem host_setCord (s : State) (r : CordRef) (c : Cord) : (s.setCord r c).host = s.host := by unfold setCord; split <;> rfl
@[simp] theorem peers_setCord (s : State) (r : CordRef) (c : Cord) : (s.setCord r c).peers = s.peers := by unfold setCord; split <;> rfl
@[simp] theorem peerLinks_setCord (s : State) (r : CordRef) (c : Cord) : (s.setCord r c).peerLinks = s.peerLinks := by unfold setCord; split <;> rfl
@[simp] theorem selfDev_setCord (s : State) (r : CordRef) (c : Cord) : (s.setCord r c).selfDev = s.selfDev := by unfold setCord; split <;> rfl
@[simp] theorem wires_setCord (s : State) (r : CordRef) (c : Cord) : (s.setCord r c).wires = s.wires := by unfold setCord; split <;> rfl
@[simp] theorem sysTrees_setCord (s : State) (r : CordRef) (c : Cord) : (s.setCord r c).sysTrees = s.sysTrees := by unfold setCord; split <;> rfl
@[simp] theorem sysReds_setCord (s : State) (r : CordRef) (c : Cord) : (s.setCord r c).sysReds = s.sysReds := by unfold setCord; split <;> rfl
@[simp] theorem linkOut_setCord (s : State) (r : CordRef) (c : Cord) : (s.setCord r c).linkOut = s.linkOut := by unfold setCord; split <;> rfl
@[simp] theorem partitions_setCord (s : State) (r : CordRef) (c : Cord) : (s.setCord r c).partitions = s.partitions := by unfold setCord; split <;> rfl
@[simp] theorem suppressed_setCord (s : State) (r : CordRef) (c : Cord) : (s.setCord r c).suppressed = s.suppressed := by unfold setCord; split <;> rfl
@[simp] theorem corrected_setCord (s : State) (r : CordRef) (c : Cord) : (s.setCord r c).corrected = s.corrected := by unfold setCord; split <;> rfl
@[simp] theorem flitRetries_setCord (s : State) (r : CordRef) (c : Cord) : (s.setCord r c).flitRetries = s.flitRetries := by unfold setCord; split <;> rfl
@[simp] theorem linkReplays_setCord (s : State) (r : CordRef) (c : Cord) : (s.setCord r c).linkReplays = s.linkReplays := by unfold setCord; split <;> rfl
@[simp] theorem mgmt_setCord (s : State) (r : CordRef) (c : Cord) : (s.setCord r c).mgmt = s.mgmt := by unfold setCord; split <;> rfl
@[simp] theorem tracks_setCord (s : State) (r : CordRef) (c : Cord) : (s.setCord r c).tracks = s.tracks := by unfold setCord; split <;> rfl
@[simp] theorem raced_setCord (s : State) (r : CordRef) (c : Cord) : (s.setCord r c).raced = s.raced := by unfold setCord; split <;> rfl
@[simp] theorem agenda_setCord (s : State) (r : CordRef) (c : Cord) : (s.setCord r c).agenda = s.agenda := by unfold setCord; split <;> rfl
@[simp] theorem clock_setCord (s : State) (r : CordRef) (c : Cord) : (s.setCord r c).clock = s.clock := by unfold setCord; split <;> rfl
@[simp] theorem cur_setCord (s : State) (r : CordRef) (c : Cord) : (s.setCord r c).cur = s.cur := by unfold setCord; split <;> rfl
@[simp] theorem stalled_setCord (s : State) (r : CordRef) (c : Cord) : (s.setCord r c).stalled = s.stalled := by unfold setCord; split <;> rfl
@[simp] theorem freeCtr_setCord (s : State) (r : CordRef) (c : Cord) : (s.setCord r c).freeCtr = s.freeCtr := by unfold setCord; split <;> rfl
@[simp] theorem serial_setCord (s : State) (r : CordRef) (c : Cord) : (s.setCord r c).serial = s.serial := by unfold setCord; split <;> rfl

@[simp] theorem core_spad_setCord (s : State) (r : CordRef) (c : Cord) (n : Nat) : ((s.setCord r c).core n).spad = (s.core n).spad := by
  rw [core_setCord]
@[simp] theorem core_acc_setCord (s : State) (r : CordRef) (c : Cord) (n : Nat) : ((s.setCord r c).core n).acc = (s.core n).acc := by
  rw [core_setCord]
@[simp] theorem core_code_setCord (s : State) (r : CordRef) (c : Cord) (n : Nat) : ((s.setCord r c).core n).code = (s.core n).code := by
  rw [core_setCord]
@[simp] theorem core_map_setCord (s : State) (r : CordRef) (c : Cord) (n : Nat) : ((s.setCord r c).core n).map = (s.core n).map := by
  rw [core_setCord]
@[simp] theorem core_res_setCord (s : State) (r : CordRef) (c : Cord) (n : Nat) : ((s.setCord r c).core n).res = (s.core n).res := by
  rw [core_setCord]
@[simp] theorem core_ops_setCord (s : State) (r : CordRef) (c : Cord) (n : Nat) : ((s.setCord r c).core n).ops = (s.core n).ops := by
  rw [core_setCord]
@[simp] theorem core_gens_setCord (s : State) (r : CordRef) (c : Cord) (n : Nat) : ((s.setCord r c).core n).gens = (s.core n).gens := by
  rw [core_setCord]
@[simp] theorem core_chans_setCord (s : State) (r : CordRef) (c : Cord) (n : Nat) : ((s.setCord r c).core n).chans = (s.core n).chans := by
  rw [core_setCord]
@[simp] theorem core_tiles_setCord (s : State) (r : CordRef) (c : Cord) (n : Nat) : ((s.setCord r c).core n).tiles = (s.core n).tiles := by
  rw [core_setCord]
@[simp] theorem core_lines_setCord (s : State) (r : CordRef) (c : Cord) (n : Nat) : ((s.setCord r c).core n).lines = (s.core n).lines := by
  rw [core_setCord]
@[simp] theorem core_etlb_setCord (s : State) (r : CordRef) (c : Cord) (n : Nat) : ((s.setCord r c).core n).etlb = (s.core n).etlb := by
  rw [core_setCord]
@[simp] theorem core_gtlb_setCord (s : State) (r : CordRef) (c : Cord) (n : Nat) : ((s.setCord r c).core n).gtlb = (s.core n).gtlb := by
  rw [core_setCord]
@[simp] theorem core_perf_setCord (s : State) (r : CordRef) (c : Cord) (n : Nat) : ((s.setCord r c).core n).perf = (s.core n).perf := by
  rw [core_setCord]
@[simp] theorem core_ce_setCord (s : State) (r : CordRef) (c : Cord) (n : Nat) : ((s.setCord r c).core n).ce = (s.core n).ce := by
  rw [core_setCord]
@[simp] theorem core_bad_setCord (s : State) (r : CordRef) (c : Cord) (n : Nat) : ((s.setCord r c).core n).bad = (s.core n).bad := by
  rw [core_setCord]
@[simp] theorem core_owner_setCord (s : State) (r : CordRef) (c : Cord) (n : Nat) : ((s.setCord r c).core n).owner = (s.core n).owner := by
  rw [core_setCord]
@[simp] theorem core_removed_setCord (s : State) (r : CordRef) (c : Cord) (n : Nat) : ((s.setCord r c).core n).removed = (s.core n).removed := by
  rw [core_setCord]

end Sys2Proof.Machine.State
end

