-- ==== Sys2Proof/Laws/Issue.lean ====
section
/-!
SUPPORT. What an issue does, said once: `issueP_eq` opens an issue that nothing holds, `finish_next` gives the state that follows,
and `rejoin_lane` says which lanes the release at its end can move.
-/

namespace Sys2Proof.Machine

/-! ### Lanes of a cord -/

@[simp] theorem Cord.lane_setLane_same (c : Cord) (k : Nat) (l : Lane) : (c.setLane k l).lane k = l := by
  simp [Cord.lane, Cord.setLane]
theorem Cord.lane_setLane_ne (c : Cord) {j k : Nat} (h : j ≠ k) (l : Lane) : (c.setLane k l).lane j = c.lane j := by
  simp [Cord.lane, Cord.setLane, Tab.get_set_ne _ h]

theorem Cord.onLanes_nil (c : Cord) (f : Nat → Lane → Lane) : c.onLanes [] f = c := rfl
theorem Cord.onLanes_cons (c : Cord) (k : Nat) (ks : List Nat) (f : Nat → Lane → Lane) :
    c.onLanes (k :: ks) f = (c.setLane k (f k (c.lane k))).onLanes ks f := rfl

/-- A lane that an operation over lanes does not list stays as it is. -/
theorem Cord.lane_onLanes_not_mem (c : Cord) {ks : List Nat} {k : Nat} (h : k ∉ ks) (f : Nat → Lane → Lane) :
    (c.onLanes ks f).lane k = c.lane k := by
  induction ks generalizing c with
  | nil => rfl
  | cons j r ih =>
    simp only [List.mem_cons, not_or] at h
    rw [Cord.onLanes_cons, ih _ h.2, Cord.lane_setLane_ne _ h.1]

/-- A lane that is listed, once, becomes what the operation gives. -/
theorem Cord.lane_onLanes_mem (c : Cord) {ks : List Nat} (hn : ks.Nodup) {k : Nat} (h : k ∈ ks) (f : Nat → Lane → Lane) :
    (c.onLanes ks f).lane k = f k (c.lane k) := by
  induction ks generalizing c with
  | nil => simp at h
  | cons j r ih =>
    rw [List.nodup_cons] at hn
    rw [Cord.onLanes_cons]
    by_cases hk : k = j
    · subst hk
      rw [Cord.lane_onLanes_not_mem _ hn.1, Cord.lane_setLane_same]
    · rw [ih _ hn.2 (by simpa [hk] using h), Cord.lane_setLane_ne _ hk]

theorem Cord.lane_onLanes (c : Cord) {ks : List Nat} (hn : ks.Nodup) (k : Nat) (f : Nat → Lane → Lane) :
    (c.onLanes ks f).lane k = if k ∈ ks then f k (c.lane k) else c.lane k := by
  split
  · exact c.lane_onLanes_mem hn ‹_› f
  · exact c.lane_onLanes_not_mem ‹_› f

/-- An operation over lanes changes nothing of the cord but its lanes. -/
theorem Cord.onLanes_rest (c : Cord) (ks : List Nat) (f : Nat → Lane → Lane) :
    c.onLanes ks f = { c with lanes := (c.onLanes ks f).lanes } := by
  induction ks generalizing c with
  | nil => rfl
  | cons j r ih => rw [Cord.onLanes_cons, ih]; simp [Cord.setLane]

theorem Cord.lanesWith_nodup (c : Cord) (f : Lane → Bool) : (c.lanesWith f).Nodup :=
  List.nodup_range.filter _

/-- A lane that `lanesWith` lists satisfies its condition. -/
theorem Cord.of_mem_lanesWith {c : Cord} {f : Lane → Bool} {k : Nat} (h : k ∈ c.lanesWith f) : k < 32 ∧ f (c.lane k) = true := by
  simp only [Cord.lanesWith, List.mem_filter, List.mem_range] at h
  obtain ⟨hk, hf⟩ := h
  refine ⟨hk, ?_⟩
  cases hg : c.lanes.get? k <;> simp_all [Cord.lane, Tab.get]

theorem Cord.lanesAt_nodup (c : Cord) (a : Nat) : (c.lanesAt a).Nodup := c.lanesWith_nodup _

/-- A lane at an address is in RUN there. -/
theorem Cord.of_mem_lanesAt {c : Cord} {a k : Nat} (h : k ∈ c.lanesAt a) :
    k < 32 ∧ (c.lane k).st = .run ∧ (c.lane k).pc.toNat = a := by
  have := Cord.of_mem_lanesWith h
  simpa only [Bool.and_eq_true, beq_iff_eq] using this

theorem Cord.setAt_sublist (c : Cord) (a : Nat) : (c.setAt a).Sublist (c.lanesAt a) := by
  unfold Cord.setAt
  split
  · exact .refl _
  · split
    · exact List.filter_sublist
    · exact .refl _

/-- The executing set is some of the lanes that stand at the issue address (R20), and none without one. -/
theorem Cord.execSet_sublist (c : Cord) :
    c.execSet = [] ∨ ∃ a, c.issueAddr = some a ∧ c.execSet.Sublist (c.lanesAt a) := by
  unfold Cord.execSet
  split
  · rename_i hw
    have hi : c.issueAddr = c.waits.map (·.1) := by
      unfold Cord.issueAddr
      rw [if_neg (by simpa using hw)]
    unfold Cord.waiting
    split
    · exact .inl rfl
    · rename_i a ks e
      exact .inr ⟨a, by rw [hi, e]; rfl, List.filter_sublist⟩
  · split
    · exact .inl rfl
    · rename_i a ha
      exact .inr ⟨a, ha, c.setAt_sublist a⟩

theorem Cord.execSet_nodup (c : Cord) : c.execSet.Nodup := by
  rcases c.execSet_sublist with h | ⟨a, -, h⟩
  · rw [h]; exact List.nodup_nil
  · exact h.nodup (c.lanesAt_nodup a)

theorem Cord.lt_of_mem_execSet {c : Cord} {k : Nat} (h : k ∈ c.execSet) : k < 32 := by
  rcases c.execSet_sublist with h' | ⟨a, -, h'⟩
  · rw [h'] at h; simp at h
  · exact (Cord.of_mem_lanesAt (h'.mem h)).1

/-- A lane of the executing set is in RUN, at the issue address (R20). -/
theorem Cord.of_mem_execSet {c : Cord} {k : Nat} (h : k ∈ c.execSet) :
    (c.lane k).st = .run ∧ c.issueAddr = some (c.lane k).pc.toNat := by
  rcases c.execSet_sublist with h' | ⟨a, ha, h'⟩
  · rw [h'] at h; simp at h
  · have := (Cord.of_mem_lanesAt (h'.mem h)).2
    exact ⟨this.1, by rw [ha, this.2]⟩

/-! ### The release at a rejoin -/

/-- A release moves lanes in WAIT only, and changes nothing of them but their PC and state (R24, R26). -/
theorem rejoin_lane (c : Cord) (k : Nat) :
    (rejoin c).lane k = c.lane k ∨ ((c.lane k).st = .wait ∧ Resting (c.lane k) ((rejoin c).lane k)) := by
  have key : ∀ (ks : List Nat) (d : Cord), (∀ j, j ∈ ks → (c.lane j).st = .wait) →
      (d.lane k = c.lane k ∨ ((c.lane k).st = .wait ∧ Resting (c.lane k) (d.lane k))) →
      ((ks.foldl (fun d j => d.setLane j { c.toRun j with pc := (c.lane j).pc + 8 }) d).lane k = c.lane k ∨
        ((c.lane k).st = .wait ∧
          Resting (c.lane k) ((ks.foldl (fun d j => d.setLane j { c.toRun j with pc := (c.lane j).pc + 8 }) d).lane k))) := by
    intro ks
    induction ks with
    | nil => intro d _ h; simpa using h
    | cons j r ih =>
      intro d hw h
      rw [List.foldl_cons]
      refine ih _ (fun i hi => hw i (by simp [hi])) ?_
      by_cases hk : k = j
      · subst hk
        right
        refine ⟨hw k (by simp), ?_⟩
        rw [Cord.lane_setLane_same]
        unfold Cord.toRun Resting
        split <;> rfl
      · rw [Cord.lane_setLane_ne _ hk]; exact h
  unfold rejoin
  split
  · exact .inl rfl
  · refine key _ c (fun j hj => ?_) (.inl rfl)
    have := (Cord.of_mem_lanesWith (List.mem_filter.1 hj).1).2
    simp only [Bool.and_eq_true, beq_iff_eq] at this
    exact this.1

/-- A release changes nothing of the cord but its lanes. -/
theorem rejoin_rest (c : Cord) : rejoin c = { c with lanes := (rejoin c).lanes } := by
  have key : ∀ (f : Nat → Lane) (ks : List Nat) (d : Cord), ks.foldl (fun d j => d.setLane j (f j)) d =
      { d with lanes := (ks.foldl (fun d j => d.setLane j (f j)) d).lanes } := by
    intro f ks
    induction ks with
    | nil => intro d; rfl
    | cons j r ih => intro d; rw [List.foldl_cons, ih]; simp [Cord.setLane]
  unfold rejoin
  split
  · rfl
  · exact key (fun j => { c.toRun j with pc := (c.lane j).pc + 8 }) _ _

/-! ### Opening an issue -/

theorem here_cord {s : State} {h : Here} (hh : here s = some h) :
    h.ref = s.cur ∧ s.cord? h.ref = some h.cord ∧ s.block? h.ref.core h.ref.slot = some h.block := by
  unfold here at hh
  split at hh
  · cases hh; simp_all
  · cases hh

/-- The cord that issues stands in the state. -/
theorem Issues.cord? {i : Instr} {s : State} {h : Here} (hx : Issues i s h) : ∃ c, s.cord? h.ref = some c := by
  obtain ⟨h₀, hh, -, -, rfl⟩ := hx.stands
  exact ⟨_, (here_cord hh).2.1⟩

theorem Issues.set_eq {i : Instr} {s : State} {h : Here} (hx : Issues i s h) : h.set = h.cord.execSet := by
  obtain ⟨h₀, -, -, -, rfl⟩ := hx.stands; rfl

theorem Issues.nodup {i : Instr} {s : State} {h : Here} (hx : Issues i s h) : h.set.Nodup :=
  hx.set_eq ▸ h.cord.execSet_nodup

theorem Issues.run {i : Instr} {s : State} {h : Here} (hx : Issues i s h) {k : Nat} (hk : k ∈ h.set) :
    (h.cord.lane k).st = .run := (Cord.of_mem_execSet (hx.set_eq ▸ hk)).1

/-- A lane in RUN has the issue address, so the executing set is not empty (R20). -/
theorem Cord.execSet_ne_nil {c : Cord} {a : Nat} (h : c.issueAddr = some a) : c.execSet ≠ [] := by
  have least : ∀ {l : List Nat} {a : Nat}, leastOf l = some a → a ∈ l := by
    intro l
    induction l with
    | nil => intro a h; cases h
    | cons x r ih =>
      intro a h
      simp only [leastOf] at h
      split at h
      · cases h; simp
      · rename_i y hy
        cases h
        split
        · simp
        · exact List.mem_cons_of_mem _ (ih hy)
  unfold Cord.execSet
  by_cases hw : c.waiting.isEmpty = true
  swap
  · rw [if_pos (by simpa using hw)]
    intro e
    rw [e] at hw
    exact hw rfl
  rw [if_neg (by simp [hw])]
  have h' := h
  unfold Cord.issueAddr at h'
  rw [if_pos hw] at h'
  have hm := least h'
  obtain ⟨k, hk, hka⟩ := List.mem_map.1 hm
  rw [h]
  change c.setAt a ≠ []
  suffices hs : k ∈ c.lanesAt a by
    unfold Cord.setAt
    split
    · exact List.ne_nil_of_mem hs
    · rename_i w _
      split
      · rename_i hv
        obtain ⟨j, hj, hjw⟩ := List.any_eq_true.1 hv
        exact List.ne_nil_of_mem (List.mem_filter.2 ⟨hj, hjw⟩)
      · exact List.ne_nil_of_mem hs
  simp only [Cord.inState, Cord.lanesAt, Cord.lanesWith, List.mem_filter, List.mem_range] at hk ⊢
  refine ⟨hk.1, ?_⟩
  obtain ⟨l, hl⟩ : ∃ l, c.lanes.get? k = some l := by
    cases hg : c.lanes.get? k with
    | none => rw [hg] at hk; simp at hk
    | some l => exact ⟨l, rfl⟩
  have hll : c.lane k = l := by simp [Cord.lane, Tab.get, hl]
  have h2 := hk.2
  rw [hl] at h2 ⊢
  simp only [Option.any_some, Bool.and_eq_true, beq_iff_eq] at h2 ⊢
  exact ⟨h2, by rw [← hll]; exact hka⟩

theorem Issues.ne_nil {i : Instr} {s : State} {h : Here} (hx : Issues i s h) : h.set ≠ [] :=
  hx.set_eq ▸ Cord.execSet_ne_nil hx.lanes

theorem Issues.opened_cord? {i : Instr} {s : State} {h : Here} (hx : Issues i s h) :
    (opened s h).cord? h.ref = some h.cord := by
  obtain ⟨c, hc⟩ := hx.cord?
  exact State.cord?_setCord_same hc _

/-- An issue that nothing holds: the guard, PRIV, REG_RANGE, the release of the entry itself, and then the operation. -/
theorem issueP_opened {i : Instr} {s : State} {h : Here} (hx : Issues i s h) (priv : Here → Bool)
    (op : Here → State → Act) : issueP i priv op s =
      if !guardOn h.cord i then finish h i { s := opened s h }
      else if priv h && !(actors h i).isEmpty then actOut i h (opened s h) (parkSetFree h (opened s h) cPriv)
      else match badReg h.cord (uses i) with
      | some r => actOut i h (opened s h) (parkSet h (opened s h) cRegRange (BitVec.ofNat 32 r))
      | none =>
        if relEntry i && !h.cord.gathers.isEmpty then .next ((opened s h).stall h.ref)
        else actOut i h (opened s h) (withoutBad i op h (opened s h)) := by
  have ha := hx.lanes
  have hp := hx.parked
  have h1 := hx.latency
  have h2 := hx.flags
  have h3 := hx.order
  obtain ⟨h₀, hh, hr, hs, rfl⟩ := hx.stands
  unfold issueP
  rw [hh]
  have hs' : h₀.set.isEmpty = false := by
    cases hh' : h₀.set with
    | nil => exact absurd hh' hs
    | cons => rfl
  simp only [hr, hs', Bool.not_true, Bool.or_false, Bool.false_eq_true, if_false]
  have ha' : (closeWindows h₀.cord h₀.addr (uses i)).issueAddr = some h₀.addr := ha
  simp only [ha', ne_eq, not_true_eq_false, if_false]
  change issueAt i priv op (issuing i h₀) (opened s (issuing i h₀)) = _
  unfold issueAt
  have h4 : (isHolding i && (issuing i h₀).cord.unserved) = false := by
    cases hc : isHolding i
    · rfl
    · rw [hp hc]; rfl
  simp only [h4, h1, h2, h3]
  rfl

/-- An issue that nothing holds is what its operation answers. -/
theorem issueP_eq {i : Instr} {s : State} {h : Here} (hx : Executes i s h) {priv : Here → Bool} (hp : priv h = false)
    (op : Here → State → Act) : issueP i priv op s = actOut i h (opened s h) (op h (opened s h)) := by
  have hbad : ((opened s h).core h.ref.core).bad = [] := by
    simp only [opened, State.core_bad_setCord]; exact hx.sound
  have h3 : (relEntry i && !h.cord.gathers.isEmpty) = false := by
    cases hc : relEntry i
    · rfl
    · rw [hx.release hc]; rfl
  have h4 : withoutBad i op h (opened s h) = op h (opened s h) := by
    have e1 : badUniform ((opened s h).core h.ref.core) h i = false := by
      simp [badUniform, uniformBad, badWord, hbad]
    have e2 : badLanes ((opened s h).core h.ref.core) h i = [] := by
      simp [badLanes, hbad]
    simp [withoutBad, e1, e2]
  rw [issueP_opened hx.toIssues]
  simp only [hx.guard, hp, hx.range, h3, Bool.not_true, Bool.false_and, Bool.false_eq_true, if_false, h4]

theorem issue_eq {i : Instr} {s : State} {h : Here} (hx : Executes i s h) (op : Here → State → Act) :
    issue i op s = actOut i h (opened s h) (op h (opened s h)) := issueP_eq hx rfl op

/-! ### Ending an issue -/

theorem begun_rest (s : State) (b : Block) : begun s b = { s with launches := (begun s b).launches } := by
  unfold begun
  split
  · rfl
  · split <;> rfl

theorem countPerf_core (s : State) (n ev m : Nat) :
    (countPerf s n ev).core m = { s.core m with perf := ((countPerf s n ev).core m).perf } := by
  unfold countPerf
  dsimp only
  split
  · rw [State.core_setCore]; split
    · subst_vars; rfl
    · rfl
  · rfl

theorem countPerf_cord? (s : State) (n ev : Nat) (r : CordRef) : (countPerf s n ev).cord? r = s.cord? r := by
  simp only [State.cord?, State.block?]; rw [countPerf_core]

theorem countPerf_rest (s : State) (n ev : Nat) : countPerf s n ev = { s with cores := (countPerf s n ev).cores } := by
  unfold countPerf
  dsimp only
  split <;> rfl

theorem Apart.refl (r : CordRef) (s : State) : Apart r s s := by constructor <;> intros <;> first | rfl | assumption | exact ⟨‹_›, rfl⟩

theorem Apart.trans {r : CordRef} {s t u : State} (h : Apart r s t) (h' : Apart r t u) : Apart r s u where
  cords q hq := (h'.cords q hq).trans (h.cords q hq)
  spad n := (h'.spad n).trans (h.spad n)
  acc n := (h'.acc n).trans (h.acc n)
  code n := (h'.code n).trans (h.code n)
  map n := (h'.map n).trans (h.map n)
  res n := (h'.res n).trans (h.res n)
  ops n := (h'.ops n).trans (h.ops n)
  gens n := (h'.gens n).trans (h.gens n)
  chans n := (h'.chans n).trans (h.chans n)
  tiles n := (h'.tiles n).trans (h.tiles n)
  lines n := (h'.lines n).trans (h.lines n)
  hbm := h'.hbm.trans h.hbm
  host := h'.host.trans h.host
  peers := h'.peers.trans h.peers
  clusters := h'.clusters.trans h.clusters
  dies := h'.dies.trans h.dies
  ctxs := h'.ctxs.trans h.ctxs
  saved := h'.saved.trans h.saved
  mgmt := h'.mgmt.trans h.mgmt
  tracks e := ⟨(h'.tracks (h.tracks e).1).1, (h'.tracks (h.tracks e).1).2.trans (h.tracks e).2⟩

/-- Replacing a cord leaves the rest apart. -/
theorem apart_setCord (s : State) (r : CordRef) (c : Cord) : Apart r s (s.setCord r c) := by
  constructor <;> intros <;> first | exact State.cord?_setCord_ne _ ‹_› _ | simp_all

theorem apart_begun (r : CordRef) (s : State) (b : Block) : Apart r s (begun s b) := by
  unfold begun
  split
  · exact Apart.refl r s
  · split
    · constructor <;> intros <;> first | rfl | assumption | exact ⟨‹_›, rfl⟩
    · exact Apart.refl r s

theorem apart_countPerf (r : CordRef) (s : State) (n ev : Nat) : Apart r s (countPerf s n ev) := by
  have hc := countPerf_rest s n ev
  have hm (m : Nat) := countPerf_core s n ev m
  exact {
    cords := fun q _ => countPerf_cord? _ _ _ _
    spad := fun m => (congrArg Core.spad (hm m)).trans rfl, acc := fun m => (congrArg Core.acc (hm m)).trans rfl
    code := fun m => (congrArg Core.code (hm m)).trans rfl, map := fun m => (congrArg Core.map (hm m)).trans rfl
    res := fun m => (congrArg Core.res (hm m)).trans rfl, ops := fun m => (congrArg Core.ops (hm m)).trans rfl
    gens := fun m => (congrArg Core.gens (hm m)).trans rfl, chans := fun m => (congrArg Core.chans (hm m)).trans rfl
    tiles := fun m => (congrArg Core.tiles (hm m)).trans rfl, lines := fun m => (congrArg Core.lines (hm m)).trans rfl
    hbm := (congrArg State.hbm hc).trans rfl, host := (congrArg State.host hc).trans rfl, peers := (congrArg State.peers hc).trans rfl
    clusters := (congrArg State.clusters hc).trans rfl, dies := (congrArg State.dies hc).trans rfl, ctxs := (congrArg State.ctxs hc).trans rfl
    saved := (congrArg State.saved hc).trans rfl, mgmt := (congrArg State.mgmt hc).trans rfl
    tracks := fun e => ⟨(congrArg State.tracks hc).trans e, (congrArg State.raced hc).trans rfl⟩ }

/-- Only notes of errors of cores, and their counters, differ (R265). -/
structure OnlyCe (s t : State) : Prop where
  core : ∀ n, t.core n = { s.core n with ce := (t.core n).ce, bad := (t.core n).bad, soft := (t.core n).soft }
  rest : t = { s with cores := t.cores }

theorem OnlyCe.refl (s : State) : OnlyCe s s := ⟨fun _ => rfl, rfl⟩

theorem OnlyCe.trans {s t u : State} (h : OnlyCe s t) (h' : OnlyCe t u) : OnlyCe s u where
  core n := by rw [h'.core n, h.core n]
  rest := by rw [h'.rest, h.rest]

theorem OnlyCe.foldl {α : Type} (f : State → α → State) (hf : ∀ s x, OnlyCe s (f s x)) (l : List α) (s : State) :
    OnlyCe s (l.foldl f s) := by
  induction l generalizing s with
  | nil => exact .refl s
  | cons x r ih => exact (hf s x).trans (ih _)

theorem OnlyCe.cord? {s t : State} (h : OnlyCe s t) (r : CordRef) : t.cord? r = s.cord? r := by
  simp only [State.cord?, State.block?]; rw [h.core]

theorem OnlyCe.apart {s t : State} (h : OnlyCe s t) (r : CordRef) : Apart r s t := by
  have hc (n : Nat) := h.core n
  have hr := h.rest
  exact {
    cords := fun q _ => h.cord? q
    spad := fun m => (congrArg Core.spad (hc m)).trans rfl, acc := fun m => (congrArg Core.acc (hc m)).trans rfl
    code := fun m => (congrArg Core.code (hc m)).trans rfl, map := fun m => (congrArg Core.map (hc m)).trans rfl
    res := fun m => (congrArg Core.res (hc m)).trans rfl, ops := fun m => (congrArg Core.ops (hc m)).trans rfl
    gens := fun m => (congrArg Core.gens (hc m)).trans rfl, chans := fun m => (congrArg Core.chans (hc m)).trans rfl
    tiles := fun m => (congrArg Core.tiles (hc m)).trans rfl, lines := fun m => (congrArg Core.lines (hc m)).trans rfl
    hbm := (congrArg State.hbm hr).trans rfl, host := (congrArg State.host hr).trans rfl, peers := (congrArg State.peers hr).trans rfl
    clusters := (congrArg State.clusters hr).trans rfl, dies := (congrArg State.dies hr).trans rfl, ctxs := (congrArg State.ctxs hr).trans rfl
    saved := (congrArg State.saved hr).trans rfl, mgmt := (congrArg State.mgmt hr).trans rfl
    tracks := fun e => ⟨(congrArg State.tracks hr).trans e, (congrArg State.raced hr).trans rfl⟩ }

/-- Counting the corrected errors of a read changes those counters alone. -/
theorem noteRead_onlyCe (s : State) (core : Nat) (a : ErrArray) (addr n : Nat) : OnlyCe s (noteRead s core a addr n) := by
  unfold noteRead
  split
  · exact .refl s
  · refine ⟨fun m => ?_, rfl⟩
    rw [State.core_setCore]
    split
    · subst_vars
      unfold noteCore
      dsimp only
      split <;> rfl
    · rfl

theorem noteRegs_onlyCe (s : State) (h : Here) (i : Instr) : OnlyCe s (noteRegs s h i) := by
  unfold noteRegs
  split
  · exact .refl s
  · dsimp only
    refine OnlyCe.trans ?_ (OnlyCe.foldl _ (fun s r => noteRead_onlyCe _ _ _ _ _) _ _)
    refine OnlyCe.trans ?_ (OnlyCe.foldl _ (fun s k => OnlyCe.foldl _ (fun s r => noteRead_onlyCe _ _ _ _ _) _ _) _ _)
    have word (s : State) (a : Nat) : OnlyCe s (match codeEntry s h.ref.core h.block.ctx a with
        | none => s
        | some e => noteRead s h.ref.core .codeStore (e.spage * Config.pageBytes + a % Config.pageBytes) 4) := by
      split
      · exact .refl s
      · exact noteRead_onlyCe _ _ _ _ _
    split
    · exact word s _
    · exact (word s _).trans (word _ _)

/-- Mending a word of an array changes the notes of its errors alone. -/
theorem mend_rest (c : Core) (a : ErrArray) (addr n : Nat) :
    mend c a addr n = { c with bad := (mend c a addr n).bad, soft := (mend c a addr n).soft } := rfl

/-- So do several such steps. -/
theorem foldl_mends {α : Type} (f : Core → α → Core) (hf : ∀ c x, f c x = { c with bad := (f c x).bad, soft := (f c x).soft })
    (l : List α) (c : Core) : l.foldl f c = { c with bad := (l.foldl f c).bad, soft := (l.foldl f c).soft } := by
  induction l generalizing c with
  | nil => rfl
  | cons x r ih => rw [List.foldl_cons, ih, hf c x]

theorem mendRegs_onlyCe (s : State) (h : Here) (i : Instr) (d : Done) : OnlyCe s (mendRegs s h i d) := by
  unfold mendRegs
  dsimp only
  split
  · exact .refl s
  · refine ⟨fun m => ?_, rfl⟩
    rw [State.core_setCore]
    split
    · subst_vars
      rw [foldl_mends _ (fun _ _ => rfl), foldl_mends _ (fun c k => foldl_mends _ (fun _ _ => rfl) _ _)]
    · rfl

/-- A step of ordering leaves the rest apart. -/
theorem OnlyTracks.apart {s t : State} (h : OnlyTracks s t) (r : CordRef) : Apart r s t := by
  have hr := h.rest
  exact {
    cords := fun q _ => h.cord? q
    spad := fun m => congrArg Core.spad (h.core m), acc := fun m => congrArg Core.acc (h.core m)
    code := fun m => congrArg Core.code (h.core m), map := fun m => congrArg Core.map (h.core m)
    res := fun m => congrArg Core.res (h.core m), ops := fun m => congrArg Core.ops (h.core m)
    gens := fun m => congrArg Core.gens (h.core m), chans := fun m => congrArg Core.chans (h.core m)
    tiles := fun m => congrArg Core.tiles (h.core m), lines := fun m => congrArg Core.lines (h.core m)
    hbm := (congrArg State.hbm hr).trans rfl, host := (congrArg State.host hr).trans rfl, peers := (congrArg State.peers hr).trans rfl
    clusters := (congrArg State.clusters hr).trans rfl, dies := (congrArg State.dies hr).trans rfl, ctxs := (congrArg State.ctxs hr).trans rfl
    saved := (congrArg State.saved hr).trans rfl, mgmt := (congrArg State.mgmt hr).trans rfl
    tracks := h.nil }

/-- Forgetting which cords were found waiting leaves the rest apart. -/
theorem apart_stalled (r : CordRef) (s : State) (l : List CordRef) : Apart r s { s with stalled := l } :=
  ⟨fun _ _ => rfl, fun _ => rfl, fun _ => rfl, fun _ => rfl, fun _ => rfl, fun _ => rfl, fun _ => rfl, fun _ => rfl, fun _ => rfl,
    fun _ => rfl, fun _ => rfl, rfl, rfl, rfl, rfl, rfl, rfl, rfl, rfl, fun e => ⟨e, rfl⟩⟩

/-- What the fence of an issue does (R269). -/
def fenced (h : Here) (i : Instr) (s : State) : State := (s.fences h.agent (fenceOf i)).unhold h.agent

theorem fenced_onlyTracks (h : Here) (i : Instr) (s : State) : OnlyTracks s (fenced h i s) :=
  (fences_onlyTracks _ _ _).trans (unhold_onlyTracks _ _)

/-- The state after an issue that parks no lane. -/
def finished (h : Here) (i : Instr) (d : Done) (c : Cord) : State :=
  countPerf (begun (mendRegs (noteRegs (fenced h i (d.s.setCord h.ref (rejoin (advance h (sizeOf' i) d.s.clock d c)))) h i) h i d) h.block)
    h.ref.core h.cord.quarter

theorem finish_eq {h : Here} {i : Instr} {d : Done} {c : Cord} (hc : d.s.cord? h.ref = some c) (hp : d.park = []) :
    finish h i d = .next { finished h i d c with stalled := [] } := by
  unfold finish finished fenced
  rw [hc]
  simp only [hp, List.filter_nil, List.foldl_nil]

theorem finished_cord? {h : Here} {i : Instr} {d : Done} {c : Cord} (hc : d.s.cord? h.ref = some c) :
    (finished h i d c).cord? h.ref = some (rejoin (advance h (sizeOf' i) d.s.clock d c)) := by
  unfold finished
  rw [countPerf_cord?]
  have : ∀ s b r, (begun s b).cord? r = s.cord? r := by
    intro s b r; unfold begun; split
    · rfl
    · split <;> rfl
  rw [this, (mendRegs_onlyCe _ h i d).cord?, (noteRegs_onlyCe _ h i).cord?, (fenced_onlyTracks h i _).cord?]
  exact State.cord?_setCord_same hc _

theorem finished_apart (h : Here) (i : Instr) (d : Done) (c : Cord) : Apart h.ref d.s (finished h i d c) :=
  (((((apart_setCord _ _ _).trans ((fenced_onlyTracks h i _).apart _)).trans ((noteRegs_onlyCe _ h i).apart _)).trans
    ((mendRegs_onlyCe _ h i d).apart _)).trans (apart_begun _ _ _)).trans (apart_countPerf _ _ _ _)

/-- An issue that parks no lane ends in the next state: the cord has advanced, and all else is as its operation left it. -/
theorem finish_next {h : Here} {i : Instr} {d : Done} {c : Cord} (hc : d.s.cord? h.ref = some c) (hp : d.park = []) :
    ∃ t, finish h i d = .next t ∧ t.cord? h.ref = some (rejoin (advance h (sizeOf' i) d.s.clock d c)) ∧ Apart h.ref d.s t := by
  have h1 := finish_eq (i := i) hc hp
  have h2 := finished_cord? (i := i) hc
  have h3 := finished_apart h i d c
  generalize finished h i d c = t at h1 h2 h3
  exact ⟨{ t with stalled := [] }, h1, h2, h3.trans (apart_stalled _ _ _)⟩

@[simp] theorem Cord.lane_count (c : Cord) (n : Option Word) (ks : List Nat) (t : Nat) (fl : List InFlight)
    (w : List GatherWindow) (k : Nat) : (c.count n ks t fl w).lane k = c.lane k := rfl

/-- Counting an issue and changing lanes do not meet. -/
theorem Cord.count_lanes (c : Cord) (l : Tab Lane) (n : Option Word) (ks : List Nat) (t : Nat) (fl : List InFlight)
    (w : List GatherWindow) : ({ c with lanes := l } : Cord).count n ks t fl w = { c.count n ks t fl w with lanes := l } := rfl

/-- What follows an issue in code order is read off its lanes: those that the operation sent elsewhere still run, and stand there; no other
lane has called or returned. -/
theorem follows_eq {h : Here} {i : Instr} {d : Done} {c c' : Cord}
    (hgo : d.go = [] ∨ sends i = true ∧ ∀ x ∈ d.go, x.1 ∈ h.set ∧ (c.lane x.1).st = .run ∧ (c.lane x.1).pc = x.2)
    (hl : ∀ k ∈ h.set, (c.lane k).st = .run → (c.lane k).pc = d.target (h.after i) k)
    (hc : ∀ k, (c'.lane k).frames = (c.lane k).frames)
    (hfr : sends i = true → ∀ k ∈ h.set, (c.lane k).st = .run → (∀ x ∈ d.go, x.1 ≠ k) →
      (c.lane k).frames.length = (h.cord.lane k).frames.length) :
    d.follows h c' (h.after i) = h.follow i c := by
  unfold Done.follows Here.follow
  dsimp only
  simp only [hc]
  have key : (sends i && h.set.any (fun k => (c.lane k).st == .run &&
      ((c.lane k).pc != h.after i || (c.lane k).frames.length != (h.cord.lane k).frames.length))) =
      d.go.any (fun x => x.2 != h.after i || (c.lane x.1).frames.length != (h.cord.lane x.1).frames.length) := by
    rw [Bool.eq_iff_iff, Bool.and_eq_true, List.any_eq_true, List.any_eq_true]
    constructor
    · rintro ⟨hs, k, hk, hx⟩
      simp only [Bool.and_eq_true, Bool.or_eq_true, beq_iff_eq, bne_iff_ne] at hx
      obtain ⟨hrun, hx⟩ := hx
      have ht := hl k hk hrun
      unfold Done.target at ht
      cases hf : d.go.find? (fun x => x.1 == k) with
      | none =>
        rw [hf] at ht
        have hno : ∀ x ∈ d.go, x.1 ≠ k := fun x hx e => by simpa [e] using List.find?_eq_none.1 hf x hx
        rcases hx with hx | hx
        · exact absurd ht hx
        · exact absurd (hfr hs k hk hrun hno) hx
      | some x =>
        rw [hf] at ht
        have hk' : x.1 = k := by simpa using List.find?_some hf
        refine ⟨x, List.mem_of_find?_eq_some hf, ?_⟩
        subst hk'
        rw [ht] at hx
        simpa using hx
    · rintro ⟨x, hx, hne⟩
      rcases hgo with hgo | ⟨hs, hgo⟩
      · rw [hgo] at hx; simp at hx
      · obtain ⟨h1, h2, h3⟩ := hgo x hx
        exact ⟨hs, x.1, h1, by simpa [h2, h3] using hne⟩
  rw [key]

/-- The cord after an issue that parks no lane, sends every lane of the executing set on and opens no window. -/
theorem advance_eq {h : Here} {i : Instr} {d : Done} (c : Cord) (n : Nat) (hp : d.park = []) (hs : d.stay = [])
    (hw : d.win = []) : advance h (sizeOf' i) n d c =
      (c.onLanes h.set (fun k l => { l with pc := d.target (h.after i) k })).count
        (d.follows h (c.onLanes h.set (fun k l => { l with pc := d.target (h.after i) k })) (h.after i)) h.set n d.fl [] := by
  have hset : d.movers h = h.set := by simp [Done.movers, hp, hs]
  unfold advance
  rw [hset, hw]
  simp only [List.filter_nil, List.foldl_nil, Done.parked, hp, List.isEmpty_nil, if_true]
  rfl

theorem counted_rejoin {h : Here} {i : Instr} {n : Nat} {fl : List InFlight} {c x : Cord} {tgt : Nat → Word} {w : Option Word}
    (e : x = (c.onLanes h.set (fun k l => { l with pc := tgt k })).count w h.set n fl []) (hw : w = h.follow i (rejoin x)) :
    Counted h i n fl c (rejoin x) := by
  have hx : x = { c.count w h.set n fl [] with lanes := x.lanes } := by
    rw [e, Cord.onLanes_rest c h.set]; rfl
  unfold Counted
  rw [← hw, rejoin_rest]
  generalize (rejoin x).lanes = l
  rw [hx]

theorem lane_rejoin_mem {h : Here} {w : Option Word} {n : Nat} {fl : List InFlight} {c x : Cord} {tgt : Nat → Word}
    (e : x = (c.onLanes h.set (fun k l => { l with pc := tgt k })).count w h.set n fl [])
    (hn : h.set.Nodup) (hr : ∀ k ∈ h.set, (c.lane k).st = .run) {k : Nat} (hk : k ∈ h.set) :
    (rejoin x).lane k = { c.lane k with pc := tgt k } := by
  have hl : x.lane k = { c.lane k with pc := tgt k } := by
    rw [e, Cord.lane_count]; exact c.lane_onLanes_mem hn hk _
  rcases rejoin_lane x k with h1 | ⟨h1, -⟩
  · rw [h1, hl]
  · rw [hl] at h1
    exact absurd ((hr k hk).symm.trans h1) (by decide)

theorem lane_rejoin_not_mem {h : Here} {w : Option Word} {n : Nat} {fl : List InFlight} {c x : Cord} {tgt : Nat → Word}
    (e : x = (c.onLanes h.set (fun k l => { l with pc := tgt k })).count w h.set n fl []) {k : Nat} (hk : k ∉ h.set) :
    Resting (c.lane k) ((rejoin x).lane k) := by
  have hl : x.lane k = c.lane k := by
    rw [e, Cord.lane_count]; exact c.lane_onLanes_not_mem hk _
  rcases rejoin_lane x k with h1 | ⟨-, h1⟩
  · rw [h1, hl]; rfl
  · rw [hl] at h1; exact h1

/-- What an operation sends elsewhere are lanes of the executing set, each named once, of an instruction that may send them. -/
def Done.GoesOk (d : Done) (h : Here) (i : Instr) : Prop :=
  d.go = [] ∨ sends i = true ∧ (d.go.map (·.1)).Nodup ∧ ∀ x ∈ d.go, x.1 ∈ h.set

/-- A lane named once goes where its entry says. -/
theorem Done.target_of_mem {d : Done} (hn : (d.go.map (·.1)).Nodup) {x : Nat × Word} (hx : x ∈ d.go) (w : Word) :
    d.target w x.1 = x.2 := by
  unfold Done.target
  generalize d.go = l at hn hx
  induction l with
  | nil => simp at hx
  | cons y r ih =>
    simp only [List.map_cons, List.nodup_cons] at hn
    rw [List.find?_cons]
    by_cases hy : y.1 = x.1
    · have : x = y := by
        rcases List.mem_cons.1 hx with h | h
        · exact h
        · exact absurd (hy ▸ List.mem_map.2 ⟨x, h, rfl⟩) hn.1
      subst this
      simp
    · have hb : (y.1 == x.1) = false := by simpa using hy
      rw [hb]
      refine ih hn.2 ?_
      rcases List.mem_cons.1 hx with h | h
      · exact absurd (h ▸ rfl) hy
      · exact h

/-- What `advance_eq` and the release at its end make of the cord and of each of its lanes. -/
theorem advance_plain {h : Here} {i : Instr} {d : Done} (c : Cord) (n : Nat) (hp : d.park = []) (hs : d.stay = [])
    (hw : d.win = []) (hgo : d.GoesOk h i) (hn : h.set.Nodup) (hr : ∀ k ∈ h.set, (c.lane k).st = .run)
    (hfr : sends i = true → ∀ k ∈ h.set, (∀ y ∈ d.go, y.1 ≠ k) → (c.lane k).frames.length = (h.cord.lane k).frames.length) :
    Counted h i n d.fl c (rejoin (advance h (sizeOf' i) n d c)) ∧
    (∀ k ∈ h.set, (rejoin (advance h (sizeOf' i) n d c)).lane k = { c.lane k with pc := d.target (h.after i) k }) ∧
    ∀ k, k ∉ h.set → Resting (c.lane k) ((rejoin (advance h (sizeOf' i) n d c)).lane k) := by
  have e := advance_eq (h := h) (i := i) c n hp hs hw
  have hl : ∀ k ∈ h.set, (rejoin (advance h (sizeOf' i) n d c)).lane k = { c.lane k with pc := d.target (h.after i) k } :=
    fun k hk => lane_rejoin_mem e hn hr hk
  have hfin (k : Nat) : ((c.onLanes h.set (fun k l => { l with pc := d.target (h.after i) k })).lane k).frames =
      ((rejoin (advance h (sizeOf' i) n d c)).lane k).frames := by
    by_cases hk : k ∈ h.set
    · rw [hl k hk, c.lane_onLanes_mem hn hk]
    · have := lane_rejoin_not_mem e hk
      rw [this, c.lane_onLanes_not_mem hk]
  refine ⟨counted_rejoin e (follows_eq ?_ (fun k hk _ => by rw [hl k hk]) hfin
    (fun hs k hk _ hno => by rw [hl k hk]; exact hfr hs k hk hno)), hl, fun _ hk => lane_rejoin_not_mem e hk⟩
  rcases hgo with h0 | ⟨h1, h2, h3⟩
  · exact .inl h0
  · refine .inr ⟨h1, fun x hx => ⟨h3 x hx, ?_, ?_⟩⟩
    · rw [hl x.1 (h3 x hx)]; exact hr x.1 (h3 x hx)
    · rw [hl x.1 (h3 x hx)]; exact Done.target_of_mem h2 hx _

/-! ### The two plain shapes -/

/-- An instruction whose operation gives the cord `x`, sends every lane of the executing set on and touches nothing else. -/
theorem goes_completes {i : Instr} {s : State} {h : Here} (hx : Issues i s h) {d : Done} {x : Cord} {lane : Nat → Lane}
    (hc : d.s.cord? h.ref = some x) (hap : Apart h.ref s d.s) (hclk : d.s.clock = s.clock)
    (hp : d.park = []) (hs : d.stay = []) (hw : d.win = []) (hgo : d.GoesOk h i)
    (e : exec i s = finish h i d) (hl : ∀ k ∈ h.set, { x.lane k with pc := d.target (h.after i) k } = lane k)
    (hr : ∀ k ∈ h.set, (x.lane k).st = .run) (ho : ∀ k, k ∉ h.set → x.lane k = h.cord.lane k)
    (hfr : sends i = true → ∀ k ∈ h.set, (∀ y ∈ d.go, y.1 ≠ k) → (x.lane k).frames.length = (h.cord.lane k).frames.length) :
    Completes i s h x lane d.fl := by
  obtain ⟨t, h1, h2, h3⟩ := finish_next (i := i) hc hp
  obtain ⟨h4, h5, h6⟩ := advance_plain (i := i) x d.s.clock hp hs hw hgo hx.nodup hr hfr
  refine ⟨t, _, e.trans h1, h2, hap.trans h3, ?_, fun k hk => (h5 k hk).trans (hl k hk), fun k hk => (ho k hk) ▸ h6 k hk⟩
  rw [hclk] at h4 ⊢
  exact h4

theorem opened_apart (s : State) (h : Here) : Apart h.ref s (opened s h) := apart_setCord _ _ _
theorem opened_clock (s : State) (h : Here) : (opened s h).clock = s.clock := State.clock_setCord _ _ _

/-- The same, where every lane goes to the next instruction and the operation replaces the cord. -/
theorem plain_completes {i : Instr} {s : State} {h : Here} (hx : Issues i s h) {fl : List InFlight} {x : Cord} {pre : Nat → Lane}
    (e : exec i s = finish h i { s := (opened s h).setCord h.ref x, fl := fl })
    (hl : ∀ k ∈ h.set, x.lane k = pre k) (hr : ∀ k ∈ h.set, (pre k).st = .run)
    (ho : ∀ k, k ∉ h.set → x.lane k = h.cord.lane k)
    (hfr : sends i = true → ∀ k ∈ h.set, (pre k).frames.length = (h.cord.lane k).frames.length) :
    Completes i s h x (fun k => h.next i (pre k)) fl :=
  goes_completes hx (d := { s := (opened s h).setCord h.ref x, fl := fl }) (State.cord?_setCord_same hx.opened_cord? x)
    ((opened_apart s h).trans (apart_setCord _ _ _)) ((State.clock_setCord _ _ _).trans (opened_clock s h)) rfl rfl rfl
    (.inl rfl) e (fun k hk => by rw [hl k hk]; rfl) (fun k hk => (hl k hk).symm ▸ hr k hk) ho
    (fun hs k hk _ => by rw [hl k hk]; exact hfr hs k hk)

/-- An issue without an operation: only the lanes go on. -/
theorem empty_completes {i : Instr} {s : State} {h : Here} (hx : Issues i s h) (e : exec i s = finish h i { s := opened s h }) :
    Completes i s h h.cord (fun k => h.next i (h.cord.lane k)) [] :=
  goes_completes hx (d := { s := opened s h }) hx.opened_cord? (opened_apart s h) (opened_clock s h) rfl rfl rfl
    (.inl rfl) e (fun _ _ => rfl) (fun _ hk => hx.run hk) (fun _ _ => rfl) (fun _ _ _ _ => rfl)

/-! ### Faults -/

/-- Parking lanes for one cause and value sets sr.cause and sr.tval to them, and changes nothing else but those lanes (R27, R149). -/
theorem park_eq (c : Cord) {ks : List Nat} (hk : ks ≠ []) (cause : Byte) (tval : Word) :
    c.park (ks.map (fun k => (k, cause, tval))) =
      { c.onLanes ks (fun _ l => { l with st := .park, data := false, served := false }) with
        cause := cause, tval := tval, gfault := none } := by
  have low : ∀ (r : List Nat) (b : Nat × Byte × Word), b.2 = (cause, tval) →
      ((r.map (fun k => (k, cause, tval))).foldl (fun (b : Nat × Byte × Word) x => if x.1 < b.1 then x else b) b).2 = (cause, tval) := by
    intro r
    induction r with
    | nil => intro b h; exact h
    | cons j r ih =>
      intro b h
      rw [List.map_cons, List.foldl_cons]
      apply ih
      split
      · rfl
      · exact h
  cases ks with
  | nil => exact absurd rfl hk
  | cons j r =>
    have hl := low r (j, cause, tval) rfl
    have hm : (List.map (fun k => (k, cause, tval)) (j :: r)).map (·.1) = j :: r := by simp [List.map_map, Function.comp_def]
    rw [List.map_cons] at hm ⊢
    simp only [Cord.park]
    rw [hm, hl]

/-- With a lane parked and not served no rejoin is released (R27). -/
theorem rejoin_unserved {c : Cord} (h : c.unserved = true) : rejoin c = c := by
  unfold rejoin
  rw [h]; rfl

theorem unserved_of {c : Cord} {k : Nat} (hk : k < 32) {l : Lane} (hl : c.lanes.get? k = some l) (hp : l.st = .park)
    (hs : l.served = false) : c.unserved = true := by
  have : k ∈ c.lanesWith (fun l => l.st == .park && !l.served) := by
    simp [Cord.lanesWith, hk, hl, hp, hs]
  unfold Cord.unserved
  cases h : c.lanesWith (fun l => l.st == .park && !l.served)
  · rw [h] at this; simp at this
  · rfl

theorem Cord.get?_onLanes (c : Cord) {ks : List Nat} {k : Nat} (h : k ∈ ks) (f : Nat → Lane → Lane) :
    ∃ l, (c.onLanes ks f).lanes.get? k = some l := by
  induction ks generalizing c with
  | nil => simp at h
  | cons j r ih =>
    rw [Cord.onLanes_cons]
    by_cases hr : k ∈ r
    · exact ih _ hr
    · have hj : k = j := by simpa [hr] using h
      subst hj
      have : ∀ (c : Cord) l, c.lanes.get? k = some l → (c.onLanes r f).lanes.get? k = some l := by
        clear ih h
        induction r with
        | nil => intro c l h; exact h
        | cons i r ih =>
          intro c l h
          simp only [List.mem_cons, not_or] at hr
          rw [Cord.onLanes_cons]
          apply ih hr.2
          simpa [Cord.setLane, Tab.get?_set_ne _ hr.1] using h
      exact ⟨_, this _ _ (Tab.get?_set_same _ _ _)⟩

/-- An issue that parks lanes of the executing set for one cause and value, and whose operation changes nothing else. -/
theorem park_faults {i : Instr} {s : State} {h : Here} (hx : Issues i s h) {d : Done} {ks : List Nat} {cause : Byte} {tval : Word}
    {lane : Nat → Lane} (hcord : d.s.cord? h.ref = some h.cord) (hap : Apart h.ref s d.s) (hclk : d.s.clock = s.clock)
    (hp : d.park = ks.map (fun k => (k, cause, tval))) (hs : d.stay = [])
    (hw : d.win = []) (hf : d.fl = []) (hgo : d.GoesOk h i) (hgk : ∀ x ∈ d.go, x.1 ∉ ks) (hk : ks ≠ []) (hn : ks.Nodup) (hm : ∀ k ∈ ks, k ∈ h.set) (hc : cause ≠ cDataErr)
    (e : exec i s = finish h i d) (hl : ∀ k ∈ h.set, k ∉ ks → { h.cord.lane k with pc := d.target (h.after i) k } = lane k) :
    Faults i s h ks lane cause tval := by
  have hmov : ∀ k, k ∈ d.movers h ↔ k ∈ h.set ∧ k ∉ ks := by
    intro k
    have : (∀ x ∈ ks, ¬x = k) ↔ k ∉ ks := ⟨fun hh hk => hh k hk rfl, fun hh x hx e => hh (e ▸ hx)⟩
    simp [Done.movers, hp, hs, this]
  have hmn : (d.movers h).Nodup := hx.nodup.filter _
  obtain ⟨y, hy⟩ : ∃ y, y = h.cord.onLanes (d.movers h) (fun k l => { l with pc := d.target (h.after i) k }) := ⟨_, rfl⟩
  obtain ⟨z, hz⟩ : ∃ z, z = y.onLanes ks (fun _ l => { l with st := .park, data := false, served := false }) := ⟨_, rfl⟩
  have hzlane (k : Nat) : z.lane k = if k ∈ ks then { h.cord.lane k with st := .park, data := false, served := false }
      else if k ∈ h.set then { h.cord.lane k with pc := d.target (h.after i) k } else h.cord.lane k := by
    rw [hz, Cord.lane_onLanes _ hn, hy, Cord.lane_onLanes _ hmn]
    by_cases h1 : k ∈ ks
    · simp [h1, hmov]
    · by_cases h2 : k ∈ h.set <;> simp [h1, h2, hmov]
  have hzrest : z = { h.cord with lanes := z.lanes } := by
    have h1 : z = { y with lanes := z.lanes } := by rw [hz]; exact Cord.onLanes_rest _ _ _
    have h2 : y = { h.cord with lanes := y.lanes } := by rw [hy]; exact Cord.onLanes_rest _ _ _
    rw [h1]
    generalize z.lanes = l
    rw [h2]
  obtain ⟨g, hg⟩ : ∃ g, d.parked y = { z with cause := cause, tval := tval, gfault := g } := by
    have : d.park.isEmpty = false := by
      rw [hp]
      cases ks with
      | nil => exact absurd rfl hk
      | cons => rfl
    refine ⟨d.gf.bind (fun g => (leastOf (d.park.map (·.1))).map (fun k => (g, k))), ?_⟩
    unfold Done.parked
    rw [this, hp, park_eq _ hk, hz]; rfl
  have hadv : advance h (sizeOf' i) d.s.clock d h.cord =
      ({ z with cause := cause, tval := tval, gfault := g } : Cord).count
        (d.follows h { z with cause := cause, tval := tval, gfault := g } (h.after i)) h.set d.s.clock [] [] := by
    unfold advance
    simp only [hw, List.filter_nil, List.foldl_nil, hf]
    rw [← hg, hy]; rfl
  have huns : (advance h (sizeOf' i) d.s.clock d h.cord).unserved = true := by
    obtain ⟨k, hkk⟩ := List.exists_mem_of_ne_nil ks hk
    obtain ⟨l, hgl⟩ := Cord.get?_onLanes y hkk (fun _ l => { l with st := .park, data := false, served := false })
    rw [← hz] at hgl
    have h32 : k < 32 := Cord.lt_of_mem_execSet (hx.set_eq ▸ hm k hkk)
    have hll : l = z.lane k := by simp [Cord.lane, Tab.get, hgl]
    rw [hzlane, if_pos hkk] at hll
    rw [hadv]
    exact unserved_of h32 (l := l) hgl (by rw [hll]) (by rw [hll])
  have hnd : d.park.filter (fun x => x.2.1 == cDataErr) = [] := by
    rw [hp, List.filter_eq_nil_iff]
    intro x hx'
    obtain ⟨k, -, rfl⟩ := List.mem_map.1 hx'
    simpa using hc
  have hfin : finish h i d = .next { finished h i d h.cord with stalled := [] } := by
    unfold finish
    rw [hcord]
    simp only [hnd, finished, fenced, List.foldl_nil]
  have h2 := finished_cord? (h := h) (i := i) hcord
  have h3 := finished_apart h i d h.cord
  rw [rejoin_unserved huns, hadv] at h2
  have hrun (k : Nat) (h1 : k ∈ h.set) (h2 : k ∉ ks) : z.lane k = { h.cord.lane k with pc := d.target (h.after i) k } := by
    rw [hzlane, if_neg h2, if_pos h1]
  have hfol : d.follows h { z with cause := cause, tval := tval, gfault := g } (h.after i) = h.follow i
      (({ z with cause := cause, tval := tval, gfault := g } : Cord).count
        (d.follows h { z with cause := cause, tval := tval, gfault := g } (h.after i)) h.set d.s.clock [] []) := by
    refine follows_eq ?_ (fun k h1 h2 => ?_) (fun k => by rw [Cord.lane_count]) (fun _ k h1 _ _ => ?_)
    · rcases hgo with h0 | ⟨h1, h2, h3⟩
      · exact .inl h0
      · refine .inr ⟨h1, fun x hx' => ?_⟩
        have hz' := hrun x.1 (h3 x hx') (hgk x hx')
        rw [Cord.lane_count]
        change x.1 ∈ h.set ∧ (z.lane x.1).st = .run ∧ (z.lane x.1).pc = x.2
        rw [hz']
        exact ⟨h3 x hx', hx.run (h3 x hx'), Done.target_of_mem h2 hx' _⟩
    · rw [Cord.lane_count] at h2 ⊢
      change (z.lane k).st = .run at h2
      change (z.lane k).pc = _
      by_cases h3 : k ∈ ks
      · rw [hzlane, if_pos h3] at h2; cases h2
      · rw [hrun k h1 h3]
    · rw [Cord.lane_count]
      change (z.lane k).frames.length = _
      by_cases h3 : k ∈ ks
      · rw [hzlane, if_pos h3]
      · rw [hrun k h1 h3]
  generalize finished h i d h.cord = t at hfin h2 h3
  refine ⟨{ t with stalled := [] }, _, e.trans hfin, h2, ?_, ?_, ?_, ?_, ?_⟩
  · exact (hap.trans h3).trans (apart_stalled _ _ _)
  · unfold Counted
    rw [← hfol, hclk]
    generalize d.follows h { z with cause := cause, tval := tval, gfault := g } (h.after i) = w
    generalize z = z' at hzrest
    rw [hzrest]; rfl
  · intro k hk'
    rw [Cord.lane_count]
    change z.lane k = _
    rw [hzlane, if_pos hk']
  · intro k hk' hk''
    rw [Cord.lane_count]
    change z.lane k = _
    rw [hzlane, if_neg hk'', if_pos hk']
    exact hl k hk' hk''
  · intro k hk'
    rw [Cord.lane_count]
    change z.lane k = _
    rw [hzlane, if_neg (fun hh => hk' (hm k hh)), if_neg hk']

/-- An operation that parks the whole executing set. -/
theorem parkSet_faults {i : Instr} {s : State} {h : Here} (hx : Issues i s h) {cause : Byte} {tval : Word}
    (hc : cause ≠ cDataErr) (e : exec i s = actOut i h (opened s h) (parkSet h (opened s h) cause tval)) {lane : Nat → Lane} :
    Faults i s h h.set lane cause tval :=
  park_faults hx (d := { s := opened s h, park := h.set.map (fun k => (k, cause, tval)) }) hx.opened_cord? (opened_apart s h)
    (opened_clock s h) rfl rfl rfl rfl (.inl rfl) (fun _ hx => nomatch hx) hx.ne_nil hx.nodup (fun _ hk => hk) hc e (fun _ h1 h2 => absurd h1 h2)

theorem apart_free (r : CordRef) (s : State) : Apart r s s.free.2 :=
  ⟨fun _ _ => rfl, fun _ => rfl, fun _ => rfl, fun _ => rfl, fun _ => rfl, fun _ => rfl, fun _ => rfl, fun _ => rfl, fun _ => rfl,
    fun _ => rfl, fun _ => rfl, rfl, rfl, rfl, rfl, rfl, rfl, rfl, rfl, fun e => ⟨e, rfl⟩⟩

/-- The same with a cause that the spec gives no sr.tval. -/
theorem parkSetFree_faults {i : Instr} {s : State} {h : Here} (hx : Issues i s h) {cause : Byte}
    (hc : cause ≠ cDataErr) (e : exec i s = actOut i h (opened s h) (parkSetFree h (opened s h) cause)) :
    FaultsFree i s h h.set cause :=
  ⟨_, park_faults hx (d := { s := (opened s h).free.2, park := h.set.map (fun k => (k, cause, (opened s h).free.1.setWidth 32)) })
    hx.opened_cord? ((opened_apart s h).trans (apart_free _ _)) (opened_clock s h) rfl rfl rfl rfl (.inl rfl) (fun _ hx => nomatch hx) hx.ne_nil hx.nodup
    (fun _ hk => hk) hc e (fun _ h1 h2 => absurd h1 h2)⟩

/-- Completion looks at the cord but for its lanes. -/
theorem Completes.of_rest {i : Instr} {s : State} {h : Here} {x y : Cord} {lane : Nat → Lane} {fl : List InFlight}
    (hc : Completes i s h x lane fl) (e : x = { y with lanes := x.lanes }) : Completes i s h y lane fl := by
  obtain ⟨t, c, h1, h2, h3, h4, h5, h6⟩ := hc
  refine ⟨t, c, h1, h2, h3, ?_, h5, h6⟩
  unfold Counted at h4 ⊢
  rw [h4, e]; rfl

/-- The lanes after a lane-wise operation. -/
theorem lane_laneWise {h : Here} (hn : h.set.Nodup) (g : Guard) (u : Bool) (f : Lane → Lane → Lane) (k : Nat) :
    (laneWise h g u f).lane k = if k ∈ h.active g then f (h.source g u k) (h.cord.lane k) else h.cord.lane k := by
  have hn' : (h.active g).Nodup := hn.filter _
  refine (Cord.lane_onLanes h.cord hn' k _).trans ?_
  unfold Here.source
  cases u <;> simp

theorem mem_active {h : Here} {g : Guard} {k : Nat} : k ∈ h.active g ↔ k ∈ h.set ∧ (h.cord.lane k).guard g = true := by
  simp [Here.active]

/-- A lane-set instruction that changes only its active lanes and the cord's flags. -/
theorem laneResult_of {i : Instr} {g : Guard} {u : Bool} {f : Nat → Lane → Lane → Lane} {fl : Here → Flags}
    (e : ∀ s, exec i s = issue i (fun h s => .did
      { s := s.setCord h.ref { laneWise h g u (f h.cord.vbud) with fpf := h.cord.fpf ||| fl h } }) s)
    (hst : ∀ n a l, (f n a l).st = l.st) (hns : sends i = false := by rfl) : LaneResult i g u f fl := by
  intro s h hx
  have hl := lane_laneWise hx.toIssues.nodup g u (f h.cord.vbud)
  have hrest : laneWise h g u (f h.cord.vbud) = { h.cord with lanes := (laneWise h g u (f h.cord.vbud)).lanes } :=
    Cord.onLanes_rest _ _ _
  obtain ⟨x, hxd⟩ : ∃ x : Cord, x = { laneWise h g u (f h.cord.vbud) with fpf := h.cord.fpf ||| fl h } := ⟨_, rfl⟩
  have hlx (k : Nat) : x.lane k = if k ∈ h.active g then f h.cord.vbud (h.source g u k) (h.cord.lane k) else h.cord.lane k := by
    rw [hxd]; exact hl k
  have hlx' (k : Nat) (hk : k ∈ h.set) : x.lane k =
      if (h.cord.lane k).guard g then f h.cord.vbud (h.source g u k) (h.cord.lane k) else h.cord.lane k := by
    rw [hlx]
    by_cases hg : (h.cord.lane k).guard g = true
    · rw [if_pos (mem_active.2 ⟨hk, hg⟩), if_pos hg]
    · rw [if_neg (fun hm => hg (mem_active.1 hm).2), if_neg hg]
  refine Completes.of_rest (x := x) (plain_completes hx.toIssues ?_ hlx' ?_ ?_ (fun hs => by simp [hns] at hs)) ?_
  · rw [e, issue_eq hx, hxd]; rfl
  · intro k hk
    split
    · rw [hst]; exact hx.toIssues.run hk
    · exact hx.toIssues.run hk
  · intro k hk
    rw [hlx, if_neg (fun hm => hk (mem_active.1 hm).1)]
  · rw [hxd, hrest]

/-- The same, where no flag is set. -/
theorem laneOp_result {i : Instr} {g : Guard} {u : Bool} {f : Nat → Lane → Lane → Lane}
    (e : ∀ s, exec i s = laneOp i g u f s) (hst : ∀ n a l, (f n a l).st = l.st) (hns : sends i = false := by rfl) :
    LaneResult i g u f noFlags := by
  refine laneResult_of (fun s => ?_) hst hns
  rw [e, laneOp]
  refine congrArg (fun op => issue i op s) ?_
  funext h s
  have : h.cord.fpf ||| noFlags h = (laneWise h g u (f h.cord.vbud)).fpf := by
    unfold laneWise
    rw [Cord.onLanes_rest]
    exact BitVec.or_zero
  rw [this]

/-- The same, where each lane gives its flags. -/
theorem laneFlagOp_result {i : Instr} {g : Guard} {u : Bool} {f : Nat → Lane → Lane → Lane × Flags}
    (e : ∀ s, exec i s = laneFlagOp i g u f s) (hst : ∀ n a l, (f n a l).1.st = l.st) (hns : sends i = false := by rfl) :
    LaneResult i g u (fun n a l => (f n a l).1) (laneFlags g u f) := by
  refine laneResult_of (fun s => ?_) hst hns
  rw [e, laneFlagOp]
  refine congrArg (fun op => issue i op s) ?_
  funext h s
  have : (laneWise h g u (fun a l => (f h.cord.vbud a l).1)).fpf = h.cord.fpf := by
    unfold laneWise
    rw [Cord.onLanes_rest]
  dsimp only
  rw [this]
  have hs (k : Nat) : h.cord.lane (if u then (h.active g).headD k else k) = h.source g u k := rfl
  simp only [hs]
  rfl

/-- A uniform-set instruction that changes only its cord's own registers. -/
theorem cordResult_of {i : Instr} {f : Here → Cord} (e : ∀ s, exec i s = cordOp i f s)
    (hf : ∀ h, (f h).lanes = h.cord.lanes) : CordResult i f := by
  intro s h hx
  have hl (k : Nat) : (f h).lane k = h.cord.lane k := by unfold Cord.lane; rw [hf]
  refine plain_completes hx.toIssues ?_ (fun k _ => hl k) (fun k hk => hx.toIssues.run hk) (fun k _ => hl k)
    (fun _ _ _ => rfl)
  rw [e, cordOp, issue_eq hx]; rfl

end Sys2Proof.Machine
end

