-- ==== Sys2Proof/Laws/Memory.lean ====
section
/-!
SUPPORT. Every operation on a store keeps its canonical form, and what one byte reads after one byte is written.
-/

namespace Sys2Proof.Machine.Mem

theorem sortedFrom_mono {m : Mem} {i j : Nat} (h : i ≤ j) (hm : sortedFrom j m = true) : sortedFrom i m = true := by
  cases m with
  | nil => rfl
  | cons c r =>
    simp only [sortedFrom, Bool.and_eq_true, decide_eq_true_eq] at hm ⊢
    exact ⟨⟨by omega, hm.1.2⟩, hm.2⟩

theorem sortedFrom_drop {m : Mem} {i : Nat} (a : Nat) (hm : sortedFrom i m = true) : sortedFrom i (drop m a) = true := by
  induction m generalizing i with
  | nil => rfl
  | cons c r ih =>
    have hc := hm
    simp only [sortedFrom, Bool.and_eq_true, decide_eq_true_eq] at hm
    unfold drop
    split
    · exact sortedFrom_mono (by omega) hm.2
    · split
      · exact hc
      · simp only [sortedFrom, Bool.and_eq_true, decide_eq_true_eq]
        exact ⟨hm.1, ih hm.2⟩

theorem sortedFrom_ins {m : Mem} {i a : Nat} {x : Byte} (ha : i ≤ a) (hx : x ≠ 0) (hm : sortedFrom i m = true) :
    sortedFrom i (ins m a x) = true := by
  have hx' : ¬x = 0#8 := hx
  induction m generalizing i with
  | nil => simp [ins, sortedFrom, ha, hx']
  | cons c r ih =>
    have hc := hm
    simp only [sortedFrom, Bool.and_eq_true, decide_eq_true_eq] at hm
    unfold ins
    split
    · subst_vars
      simpa [sortedFrom, ha, hx'] using hm.2
    · split
      · simp only [sortedFrom, Bool.and_eq_true, decide_eq_true_eq, bne_iff_ne]
        exact ⟨⟨ha, hx⟩, ⟨⟨by omega, by simpa using hm.1.2⟩, hm.2⟩⟩
      · simp only [sortedFrom, Bool.and_eq_true, decide_eq_true_eq]
        exact ⟨hm.1, ih (by omega) hm.2⟩

theorem wf_set {m : Mem} (a : Nat) (x : Byte) (h : m.wf = true) : (m.set a x).wf = true := by
  unfold set
  split
  · exact sortedFrom_drop a h
  · exact sortedFrom_ins (Nat.zero_le _) ‹_› h

theorem wf_write {m : Mem} (a : Nat) (l : List Byte) (h : m.wf = true) : (m.write a l).wf = true := by
  induction l generalizing m a with
  | nil => exact h
  | cons b r ih => exact ih _ (wf_set a b h)

theorem wf_setWord {m : Mem} (a : Nat) (w : Word) (h : m.wf = true) : (m.setWord a w).wf = true := wf_write _ _ h

theorem sortedFrom_filter {m : Mem} {i : Nat} (p : Host.Cell → Bool) (h : sortedFrom i m = true) :
    sortedFrom i (m.filter p) = true := by
  induction m generalizing i with
  | nil => rfl
  | cons c r ih =>
    simp only [sortedFrom, Bool.and_eq_true, decide_eq_true_eq] at h
    rw [List.filter_cons]
    split
    · simp only [sortedFrom, Bool.and_eq_true, decide_eq_true_eq]
      exact ⟨h.1, ih h.2⟩
    · exact sortedFrom_mono (by omega) (ih h.2)

theorem wf_filter {m : Mem} (p : Host.Cell → Bool) (h : m.wf = true) : wf (m.filter p) = true := sortedFrom_filter p h

theorem wf_clear {m : Mem} (lo hi : Nat) (h : m.wf = true) : (m.clear lo hi).wf = true := wf_filter _ h

/-- Displacing every address of a list down by `lo` keeps the order, where every address is at least `lo`. -/
theorem sortedFrom_shift {m : Mem} {i : Nat} (lo : Nat) (hl : ∀ c ∈ m, lo ≤ c.1) (h : sortedFrom i m = true) :
    sortedFrom (i - lo) (m.map (fun c => (c.1 - lo, c.2))) = true := by
  induction m generalizing i with
  | nil => rfl
  | cons c r ih =>
    simp only [sortedFrom, Bool.and_eq_true, decide_eq_true_eq] at h
    simp only [List.map_cons, sortedFrom, Bool.and_eq_true, decide_eq_true_eq]
    have hc := hl c (by simp)
    refine ⟨⟨by omega, h.1.2⟩, ?_⟩
    have h1 := ih (fun d hd => hl d (by simp [hd])) h.2
    rwa [show c.1 + 1 - lo = c.1 - lo + 1 by omega] at h1

theorem wf_slice {m : Mem} (lo hi : Nat) (h : m.wf = true) : (m.slice lo hi).wf = true := by
  have := sortedFrom_shift lo (m := m.filter (fun c => decide (lo ≤ c.1) && decide (c.1 < hi))) (i := 0)
    (fun c hc => by simp at hc; exact hc.2.1) (wf_filter _ h)
  simpa [wf, slice] using this

theorem wf_paste {m : Mem} (off : Nat) (x : Mem) (h : m.wf = true) : (m.paste off x).wf = true := by
  induction x generalizing m with
  | nil => exact h
  | cons c r ih => exact ih (wf_set _ _ h)

/-- Below the first address of a list every byte reads 0. -/
theorem get_below {m : Mem} {i a : Nat} (h : sortedFrom i m = true) (ha : a < i) : m.get a = 0 := by
  cases m with
  | nil => rfl
  | cons c r =>
    simp only [sortedFrom, Bool.and_eq_true, decide_eq_true_eq] at h
    unfold get
    rw [if_neg (by omega), if_pos (by omega)]

theorem get_ins (m : Mem) (a : Nat) (x : Byte) (b : Nat) : (ins m a x).get b = if b = a then x else m.get b := by
  induction m with
  | nil =>
    simp only [ins, get]
    split_ifs <;> first | rfl | omega
  | cons c r ih =>
    unfold ins
    split
    · subst_vars
      simp only [get]
      split_ifs <;> first | rfl | omega
    · split
      · simp only [get]
        split_ifs <;> first | rfl | omega
      · simp only [get, ih]
        split_ifs <;> first | rfl | omega

theorem get_drop {m : Mem} (h : m.wf = true) (a b : Nat) : (drop m a).get b = if b = a then 0 else m.get b := by
  have key : ∀ (m : Mem) (i : Nat), sortedFrom i m = true → (drop m a).get b = if b = a then 0 else m.get b := by
    intro m
    induction m with
    | nil => intro i _; simp [drop, get]
    | cons c r ih =>
      intro i hm
      simp only [sortedFrom, Bool.and_eq_true, decide_eq_true_eq] at hm
      unfold drop
      split
      · by_cases hb : b = a
        · rw [if_pos hb]; exact get_below hm.2 (by omega)
        · rw [if_neg hb]
          simp only [get]
          split_ifs with h1 h2
          · omega
          · exact get_below hm.2 (by omega)
          · rfl
      · split
        · simp only [get]
          split_ifs <;> first | rfl | omega
        · simp only [get, ih _ hm.2]
          split_ifs <;> first | rfl | omega
  exact key m 0 h

/-- What a byte reads after one byte is written. -/
theorem get_set {m : Mem} (h : m.wf = true) (a : Nat) (x : Byte) (b : Nat) :
    (m.set a x).get b = if b = a then x else m.get b := by
  unfold set
  split
  · subst_vars; exact get_drop h a b
  · exact get_ins m a x b

end Sys2Proof.Machine.Mem
end

