-- ==== Sys2Proof/Laws/PerInstr.lean ====
section
/-!
SUPPORT. A family of facts about the encoding, one for each constructor of `Instr`: the words that `encode` gives are as `wordsOf` reads
them, so bit [30] of the first word says whether there is a second (R72).
-/

namespace Sys2Proof

theorem bitOf_pack (us ext : Bool) (op : BitVec 7) (f : Fld) : bitOf (f.pack us ext op) 30 = ext := by
  change BitVec.getLsbD (w := 1 + 1 + 7 + 6 + 6 + 6 + 3 + 1 + 1) (BitVec.ofBool us ++ BitVec.ofBool ext ++ op ++ f.d ++ f.a ++ f.b
    ++ f.g ++ BitVec.ofBool f.n ++ BitVec.ofBool f.u) 30 = ext
  simp only [BitVec.getLsbD_append]
  simp

theorem bitOf_packB (us ext : Bool) (op : BitVec 7) (h : BitVec 2) (g : Guard) (off : BitVec 17) :
    bitOf (packB us ext op h g off) 30 = ext := by
  change BitVec.getLsbD (w := 1 + 1 + 7 + 2 + 3 + 1 + 17) (BitVec.ofBool us ++ BitVec.ofBool ext ++ op ++ h ++ g.g
    ++ BitVec.ofBool g.n ++ off) 30 = ext
  simp only [BitVec.getLsbD_append]
  simp

theorem wordsOf_S (us : Bool) (op : BitVec 7) (wide : Bool) (fx : Fld × Ext) :
    wordsOf (wordsS us op wide fx).first ((wordsS us op wide fx).second.getD 0) = wordsS us op wide fx := by
  cases wide <;> simp [wordsOf, wordsS, bitOf_pack]

theorem wordsOf_X (us : Bool) (op : BitVec 7) (fx : Fld × Ext) :
    wordsOf (wordsX us op fx).first ((wordsX us op fx).second.getD 0) = wordsX us op fx := by
  simp [wordsOf, wordsX, bitOf_pack]

theorem wordsOf_I (us : Bool) (op : BitVec 7) (fx : Fld × Word) :
    wordsOf (wordsI us op fx).first ((wordsI us op fx).second.getD 0) = wordsI us op fx := by
  simp [wordsOf, wordsI, bitOf_pack]

theorem wordsOf_B (us : Bool) (op : BitVec 7) (o : OBr) :
    wordsOf (o.words us op).first ((o.words us op).second.getD 0) = o.words us op := by
  simp [wordsOf, OBr.words, bitOf_packB]

theorem wordsOf_BL (us : Bool) (op : BitVec 7) (o : OBrL) :
    wordsOf (o.words us op).first ((o.words us op).second.getD 0) = o.words us op := by
  simp [wordsOf, OBrL.words, bitOf_packB]

/-- The words of an instruction are as its first word says. -/
def Laws.F.Statement (i : Instr) : Prop := ∀ e, encode i = some e → wordsOf e.first (e.second.getD 0) = e

end Sys2Proof

namespace Sys2Proof.Laws.F

theorem of_words {i : Instr} {x : Words} (h : encode i = some x) (hx : wordsOf x.first (x.second.getD 0) = x) : Statement i :=
  fun _ he => by cases h.symm.trans he; exact hx

theorem of_none {i : Instr} (h : encode i = none) : Statement i := fun _ he => by cases h.symm.trans he

theorem nop (o : ONop) : Statement (.nop o) := of_words rfl (wordsOf_S _ _ _ _)
theorem mov (o : O2) : Statement (.mov o) := of_words rfl (wordsOf_S _ _ _ _)
theorem movi (o : OI1) : Statement (.movi o) := of_words rfl (wordsOf_I _ _ _)
theorem iadd (o : O3T) : Statement (.iadd o) := of_words rfl (wordsOf_S _ _ _ _)
theorem isub (o : O3T) : Statement (.isub o) := of_words rfl (wordsOf_S _ _ _ _)
theorem iaddi (o : OI2) : Statement (.iaddi o) := of_words rfl (wordsOf_I _ _ _)
theorem imul (o : O3) : Statement (.imul o) := of_words rfl (wordsOf_S _ _ _ _)
theorem imulhs (o : O3) : Statement (.imulhs o) := of_words rfl (wordsOf_S _ _ _ _)
theorem imulhn (o : O3) : Statement (.imulhn o) := of_words rfl (wordsOf_S _ _ _ _)
theorem imad (o : O4T) : Statement (.imad o) := of_words rfl (wordsOf_X _ _ _)
theorem imins (o : O3) : Statement (.imins o) := of_words rfl (wordsOf_S _ _ _ _)
theorem iminn (o : O3) : Statement (.iminn o) := of_words rfl (wordsOf_S _ _ _ _)
theorem imaxs (o : O3) : Statement (.imaxs o) := of_words rfl (wordsOf_S _ _ _ _)
theorem imaxn (o : O3) : Statement (.imaxn o) := of_words rfl (wordsOf_S _ _ _ _)
theorem iabs (o : O2T) : Statement (.iabs o) := of_words rfl (wordsOf_S _ _ _ _)
theorem ineg (o : O2T) : Statement (.ineg o) := of_words rfl (wordsOf_S _ _ _ _)
theorem and (o : O3) : Statement (.and o) := of_words rfl (wordsOf_S _ _ _ _)
theorem or (o : O3) : Statement (.or o) := of_words rfl (wordsOf_S _ _ _ _)
theorem xor (o : O3) : Statement (.xor o) := of_words rfl (wordsOf_S _ _ _ _)
theorem andn (o : O3) : Statement (.andn o) := of_words rfl (wordsOf_S _ _ _ _)
theorem andi (o : OI2) : Statement (.andi o) := of_words rfl (wordsOf_I _ _ _)
theorem ori (o : OI2) : Statement (.ori o) := of_words rfl (wordsOf_I _ _ _)
theorem xori (o : OI2) : Statement (.xori o) := of_words rfl (wordsOf_I _ _ _)
theorem shl (o : O3) : Statement (.shl o) := of_words rfl (wordsOf_S _ _ _ _)
theorem shrl (o : O3) : Statement (.shrl o) := of_words rfl (wordsOf_S _ _ _ _)
theorem shra (o : O3) : Statement (.shra o) := of_words rfl (wordsOf_S _ _ _ _)
theorem shli (o : OSh) : Statement (.shli o) := of_words rfl (wordsOf_I _ _ _)
theorem shrli (o : OSh) : Statement (.shrli o) := of_words rfl (wordsOf_I _ _ _)
theorem shrai (o : OSh) : Statement (.shrai o) := of_words rfl (wordsOf_I _ _ _)
theorem bfx (o : OBf) : Statement (.bfx o) := of_words rfl (wordsOf_X _ _ _)
theorem bfi (o : OBf) : Statement (.bfi o) := of_words rfl (wordsOf_X _ _ _)
theorem popc (o : O2) : Statement (.popc o) := of_words rfl (wordsOf_S _ _ _ _)
theorem clz (o : O2) : Statement (.clz o) := of_words rfl (wordsOf_S _ _ _ _)
theorem brev (o : O2) : Statement (.brev o) := of_words rfl (wordsOf_S _ _ _ _)
theorem sel (o : OSel) : Statement (.sel o) := of_words rfl (wordsOf_S _ _ _ _)
theorem lea (o : OLea) : Statement (.lea o) := of_words rfl (wordsOf_X _ _ _)
theorem vadd2 (o : O3T) : Statement (.vadd2 o) := of_words rfl (wordsOf_S _ _ _ _)
theorem vsub2 (o : O3T) : Statement (.vsub2 o) := of_words rfl (wordsOf_S _ _ _ _)
theorem vmax2s (o : O3) : Statement (.vmax2s o) := of_words rfl (wordsOf_S _ _ _ _)
theorem vmax2n (o : O3) : Statement (.vmax2n o) := of_words rfl (wordsOf_S _ _ _ _)
theorem vmin2s (o : O3) : Statement (.vmin2s o) := of_words rfl (wordsOf_S _ _ _ _)
theorem vmin2n (o : O3) : Statement (.vmin2n o) := of_words rfl (wordsOf_S _ _ _ _)
theorem vacs2 (o : OAcs) : Statement (.vacs2 o) := of_words rfl (wordsOf_X _ _ _)
theorem icmp (o : OCmp) : Statement (.icmp o) := of_words rfl (wordsOf_X _ _ _)
theorem plog (o : OPlog) : Statement (.plog o) := of_words rfl (wordsOf_X _ _ _)
theorem pmovTov (o : OPmov) : Statement (.pmovTov o) := of_words rfl (wordsOf_X _ _ _)
theorem pmovFrv (o : OPmov) : Statement (.pmovFrv o) := of_words rfl (wordsOf_X _ _ _)
theorem rng (o : O1) : Statement (.rng o) := of_words rfl (wordsOf_S _ _ _ _)
theorem srd (o : OSrd) : Statement (.srd o) := of_words rfl (wordsOf_X _ _ _)
theorem fadd (o : OF3) : Statement (.fadd o) := of_words rfl (wordsOf_S _ _ _ _)
theorem fsub (o : OF3) : Statement (.fsub o) := of_words rfl (wordsOf_S _ _ _ _)
theorem fmul (o : OF3) : Statement (.fmul o) := of_words rfl (wordsOf_S _ _ _ _)
theorem ffma (o : OF4) : Statement (.ffma o) := of_words rfl (wordsOf_X _ _ _)
theorem fmin (o : OF3) : Statement (.fmin o) := of_words rfl (wordsOf_S _ _ _ _)
theorem fmax (o : OF3) : Statement (.fmax o) := of_words rfl (wordsOf_S _ _ _ _)
theorem fabs (o : OF2) : Statement (.fabs o) := of_words rfl (wordsOf_S _ _ _ _)
theorem fneg (o : OF2) : Statement (.fneg o) := of_words rfl (wordsOf_S _ _ _ _)
theorem fcmp (o : OCmp) : Statement (.fcmp o) := of_words rfl (wordsOf_X _ _ _)
theorem frcp (o : OFn) : Statement (.frcp o) := of_words rfl (wordsOf_X _ _ _)
theorem frsq (o : OFn) : Statement (.frsq o) := of_words rfl (wordsOf_X _ _ _)
theorem fsqrt (o : OFn) : Statement (.fsqrt o) := of_words rfl (wordsOf_X _ _ _)
theorem fexp2 (o : OFn) : Statement (.fexp2 o) := of_words rfl (wordsOf_X _ _ _)
theorem flog2 (o : OFn) : Statement (.flog2 o) := of_words rfl (wordsOf_X _ _ _)
theorem hfma2 (o : OF4) : Statement (.hfma2 o) := of_words rfl (wordsOf_X _ _ _)
theorem hadd2 (o : OHadd) : Statement (.hadd2 o) := of_words rfl (wordsOf_X _ _ _)
theorem cvt (o : OCvt) : Statement (.cvt o) := of_words rfl (wordsOf_X _ _ _)
theorem pk4 (o : OPk) : Statement (.pk4 o) := of_words rfl (wordsOf_X _ _ _)
theorem upk (o : OUpk) : Statement (.upk o) := of_words rfl (wordsOf_X _ _ _)
theorem fpclass (o : OCls) : Statement (.fpclass o) := of_words rfl (wordsOf_X _ _ _)
theorem perm (o : O4) : Statement (.perm o) := of_words rfl (wordsOf_X _ _ _)
theorem shfl (o : OShfl) : Statement (.shfl o) := of_words rfl (wordsOf_X _ _ _)
theorem vote (o : OVote) : Statement (.vote o) := of_words rfl (wordsOf_X _ _ _)
theorem lred (o : ORed) : Statement (.lred o) := of_words rfl (wordsOf_X _ _ _)
theorem lscan (o : ORed) : Statement (.lscan o) := of_words rfl (wordsOf_X _ _ _)
theorem bra (o : OBr) : Statement (.bra o) := of_words rfl (wordsOf_B _ _ _)
theorem braLong (o : OBrL) : Statement (.braLong o) := of_words rfl (wordsOf_BL _ _ _)
theorem brx (o : OBrx) : Statement (.brx o) := of_words rfl (wordsOf_X _ _ _)
theorem call (o : OBr) : Statement (.call o) := of_words rfl (wordsOf_B _ _ _)
theorem callLong (o : OBrL) : Statement (.callLong o) := of_words rfl (wordsOf_BL _ _ _)
theorem callx (o : OBrx) : Statement (.callx o) := of_words rfl (wordsOf_X _ _ _)
theorem callo (o : OLbl) : Statement (.callo o) := of_words rfl (wordsOf_X _ _ _)
theorem ret (o : OG) : Statement (.ret o) := of_words rfl (wordsOf_S _ _ _ _)
theorem exit (o : OG) : Statement (.exit o) := of_words rfl (wordsOf_S _ _ _ _)
theorem rjoin : Statement (.rjoin) := of_words rfl (wordsOf_X _ _ _)
theorem frame (o : OFrame) : Statement (.frame o) := of_words rfl (wordsOf_S _ _ _ _)
theorem trap (o : OTrap) : Statement (.trap o) := of_words rfl (wordsOf_X _ _ _)
theorem brk (o : OG) : Statement (.brk o) := of_words rfl (wordsOf_S _ _ _ _)
theorem ld8 (o : OLd) : Statement (.ld8 o) := of_words rfl (wordsOf_X _ _ _)
theorem ld16 (o : OLd) : Statement (.ld16 o) := of_words rfl (wordsOf_X _ _ _)
theorem ld32 (o : OLd) : Statement (.ld32 o) := of_words rfl (wordsOf_X _ _ _)
theorem ld64 (o : OLd) : Statement (.ld64 o) := of_words rfl (wordsOf_X _ _ _)
theorem ld128 (o : OLd) : Statement (.ld128 o) := of_words rfl (wordsOf_X _ _ _)
theorem st8 (o : OSt) : Statement (.st8 o) := of_words rfl (wordsOf_X _ _ _)
theorem st16 (o : OSt) : Statement (.st16 o) := of_words rfl (wordsOf_X _ _ _)
theorem st32 (o : OSt) : Statement (.st32 o) := of_words rfl (wordsOf_X _ _ _)
theorem st64 (o : OSt) : Statement (.st64 o) := of_words rfl (wordsOf_X _ _ _)
theorem st128 (o : OSt) : Statement (.st128 o) := of_words rfl (wordsOf_X _ _ _)
theorem atom (o : OAtom) : Statement (.atom o) := of_words rfl (wordsOf_X _ _ _)
theorem gld32 (o : OGld) : Statement (.gld32 o) := of_words rfl (wordsOf_X _ _ _)
theorem gld64 (o : OGld) : Statement (.gld64 o) := of_words rfl (wordsOf_X _ _ _)
theorem gst32 (o : OGst) : Statement (.gst32 o) := of_words rfl (wordsOf_X _ _ _)
theorem gst64 (o : OGst) : Statement (.gst64 o) := of_words rfl (wordsOf_X _ _ _)
theorem gatom (o : OAtom) : Statement (.gatom o) := of_words rfl (wordsOf_X _ _ _)
theorem gprf (o : OGprf) : Statement (.gprf o) := of_words rfl (wordsOf_X _ _ _)
theorem ctr (o : OCtr) : Statement (.ctr o) := of_words rfl (wordsOf_X _ _ _)
theorem ctrskip (o : OSkip) : Statement (.ctrskip o) := of_words rfl (wordsOf_X _ _ _)
theorem acz (o : OAcz) : Statement (.acz o) := of_words rfl (wordsOf_X _ _ _)
theorem acrd (o : OAcrd) : Statement (.acrd o) := of_words rfl (wordsOf_X _ _ _)
theorem acwr (o : OAcwr) : Statement (.acwr o) := of_words rfl (wordsOf_X _ _ _)
theorem acdrain (o : ODrain) : Statement (.acdrain o) := of_words rfl (wordsOf_X _ _ _)
theorem acaxpy (o : OAxpy) : Statement (.acaxpy o) := of_words rfl (wordsOf_X _ _ _)
theorem acrst (o : OLbl) : Statement (.acrst o) := of_words rfl (wordsOf_X _ _ _)
theorem spawn (o : OSpawn) : Statement (.spawn o) := of_words rfl (wordsOf_X _ _ _)
theorem swr (o : OSwr) : Statement (.swr o) := of_words rfl (wordsOf_X _ _ _)
theorem snop (o : ONop) : Statement (.snop o) := of_words rfl (wordsOf_S _ _ _ _)
theorem smov (o : O2) : Statement (.smov o) := of_words rfl (wordsOf_S _ _ _ _)
theorem smovi (o : OI1) : Statement (.smovi o) := of_words rfl (wordsOf_I _ _ _)
theorem sadd (o : O3T) : Statement (.sadd o) := of_words rfl (wordsOf_S _ _ _ _)
theorem ssub (o : O3T) : Statement (.ssub o) := of_words rfl (wordsOf_S _ _ _ _)
theorem saddi (o : OI2) : Statement (.saddi o) := of_words rfl (wordsOf_I _ _ _)
theorem smul (o : O3) : Statement (.smul o) := of_words rfl (wordsOf_S _ _ _ _)
theorem smad (o : O4T) : Statement (.smad o) := of_words rfl (wordsOf_X _ _ _)
theorem smins (o : O3) : Statement (.smins o) := of_words rfl (wordsOf_S _ _ _ _)
theorem smaxs (o : O3) : Statement (.smaxs o) := of_words rfl (wordsOf_S _ _ _ _)
theorem sminn (o : O3) : Statement (.sminn o) := of_words rfl (wordsOf_S _ _ _ _)
theorem smaxn (o : O3) : Statement (.smaxn o) := of_words rfl (wordsOf_S _ _ _ _)
theorem sand (o : O3) : Statement (.sand o) := of_words rfl (wordsOf_S _ _ _ _)
theorem sor (o : O3) : Statement (.sor o) := of_words rfl (wordsOf_S _ _ _ _)
theorem sxor (o : O3) : Statement (.sxor o) := of_words rfl (wordsOf_S _ _ _ _)
theorem sandi (o : OI2) : Statement (.sandi o) := of_words rfl (wordsOf_I _ _ _)
theorem sori (o : OI2) : Statement (.sori o) := of_words rfl (wordsOf_I _ _ _)
theorem sshl (o : O3) : Statement (.sshl o) := of_words rfl (wordsOf_S _ _ _ _)
theorem sshrl (o : O3) : Statement (.sshrl o) := of_words rfl (wordsOf_S _ _ _ _)
theorem sshra (o : O3) : Statement (.sshra o) := of_words rfl (wordsOf_S _ _ _ _)
theorem sshli (o : OSh) : Statement (.sshli o) := of_words rfl (wordsOf_I _ _ _)
theorem sshrli (o : OSh) : Statement (.sshrli o) := of_words rfl (wordsOf_I _ _ _)
theorem scmp (o : OCmp) : Statement (.scmp o) := of_words rfl (wordsOf_X _ _ _)
theorem splog (o : OPlog) : Statement (.splog o) := of_words rfl (wordsOf_X _ _ _)
theorem ssel (o : OSel) : Statement (.ssel o) := of_words rfl (wordsOf_S _ _ _ _)
theorem spopc (o : O2) : Statement (.spopc o) := of_words rfl (wordsOf_S _ _ _ _)
theorem sld32 (o : OSld) : Statement (.sld32 o) := of_words rfl (wordsOf_X _ _ _)
theorem sst32 (o : OSst) : Statement (.sst32 o) := of_words rfl (wordsOf_X _ _ _)
theorem sld64 (o : OSld) : Statement (.sld64 o) := of_words rfl (wordsOf_X _ _ _)
theorem sst64 (o : OSst) : Statement (.sst64 o) := of_words rfl (wordsOf_X _ _ _)
theorem ssrd (o : OSrd) : Statement (.ssrd o) := of_words rfl (wordsOf_X _ _ _)
theorem sswr (o : OSwr) : Statement (.sswr o) := of_words rfl (wordsOf_X _ _ _)
theorem sbra (o : OBr) : Statement (.sbra o) := of_words rfl (wordsOf_B _ _ _)
theorem sbraLong (o : OBrL) : Statement (.sbraLong o) := of_words rfl (wordsOf_BL _ _ _)
theorem sbrx (o : OBrx) : Statement (.sbrx o) := of_words rfl (wordsOf_X _ _ _)
theorem bar (o : OBar) : Statement (.bar o) := of_words rfl (wordsOf_X _ _ _)
theorem barar (o : OBarar) : Statement (.barar o) := of_words rfl (wordsOf_X _ _ _)
theorem barwt (o : OBarwt) : Statement (.barwt o) := of_words rfl (wordsOf_X _ _ _)
theorem fence (o : OFence) : Statement (.fence o) := of_words rfl (wordsOf_X _ _ _)
theorem tktwait (o : OTkt) : Statement (.tktwait o) := of_words rfl (wordsOf_X _ _ _)
theorem tktpass (o : OGX) : Statement (.tktpass o) := of_words rfl (wordsOf_X _ _ _)
theorem evset (o : OEv) : Statement (.evset o) := of_words rfl (wordsOf_X _ _ _)
theorem evclr (o : OEv) : Statement (.evclr o) := of_words rfl (wordsOf_X _ _ _)
theorem evwait (o : OEv) : Statement (.evwait o) := of_words rfl (wordsOf_X _ _ _)
theorem qpop (o : OQpop) : Statement (.qpop o) := of_words rfl (wordsOf_X _ _ _)
theorem qpush (o : OQpush) : Statement (.qpush o) := of_words rfl (wordsOf_X _ _ _)
theorem chput (o : OChput) : Statement (.chput o) := of_words rfl (wordsOf_X _ _ _)
theorem chget (o : OChget) : Statement (.chget o) := of_words rfl (wordsOf_X _ _ _)
theorem cheos (o : OCheos) : Statement (.cheos o) := of_words rfl (wordsOf_X _ _ _)
theorem cpyIn (o : OCpy) : Statement (.cpyIn o) := of_words rfl (wordsOf_X _ _ _)
theorem cpyOut (o : OCpy) : Statement (.cpyOut o) := of_words rfl (wordsOf_X _ _ _)
theorem cpyCk (o : OCpy) : Statement (.cpyCk o) := of_words rfl (wordsOf_X _ _ _)
theorem cpyCkc (o : OCpy) : Statement (.cpyCkc o) := of_words rfl (wordsOf_X _ _ _)
theorem cpyIna (o : OCpy) : Statement (.cpyIna o) := of_words rfl (wordsOf_X _ _ _)
theorem cpyOuta (o : OCpy) : Statement (.cpyOuta o) := of_words rfl (wordsOf_X _ _ _)
theorem cpygat (o : OCpy) : Statement (.cpygat o) := of_words rfl (wordsOf_X _ _ _)
theorem mred (o : OMred) : Statement (.mred o) := of_words rfl (wordsOf_X _ _ _)
theorem coll (o : OMred) : Statement (.coll o) := of_words rfl (wordsOf_X _ _ _)
theorem wnw (o : OCpy) : Statement (.wnw o) := of_words rfl (wordsOf_X _ _ _)
theorem ovlld (o : OOvl) : Statement (.ovlld o) := of_words rfl (wordsOf_X _ _ _)
theorem ovlrel (o : OTok) : Statement (.ovlrel o) := of_words rfl (wordsOf_X _ _ _)
theorem ovlevict (o : OEvict) : Statement (.ovlevict o) := of_words rfl (wordsOf_X _ _ _)
theorem opwait (o : OTok) : Statement (.opwait o) := of_words rfl (wordsOf_X _ _ _)
theorem optest (o : OTest) : Statement (.optest o) := of_words rfl (wordsOf_X _ _ _)
theorem opseal (o : OSeal) : Statement (.opseal o) := of_words rfl (wordsOf_X _ _ _)
theorem opwaitb (o : OWaitb) : Statement (.opwaitb o) := of_words rfl (wordsOf_X _ _ _)
theorem opcancel (o : OTok) : Statement (.opcancel o) := of_words rfl (wordsOf_X _ _ _)
theorem opdetach (o : ODet) : Statement (.opdetach o) := of_words rfl (wordsOf_X _ _ _)
theorem opstat (o : OStat) : Statement (.opstat o) := of_words rfl (wordsOf_X _ _ _)
theorem opprio (o : OPrio) : Statement (.opprio o) := of_words rfl (wordsOf_X _ _ _)
theorem opadopt (o : OAdopt) : Statement (.opadopt o) := of_words rfl (wordsOf_X _ _ _)
theorem hret (o : OBrx) : Statement (.hret o) := of_words rfl (wordsOf_X _ _ _)
theorem yield (o : OG) : Statement (.yield o) := of_words rfl (wordsOf_S _ _ _ _)
theorem strap (o : OTrap) : Statement (.strap o) := of_words rfl (wordsOf_X _ _ _)
theorem sbrk (o : OG) : Statement (.sbrk o) := of_words rfl (wordsOf_S _ _ _ _)
theorem idleQ (o : OBrx) : Statement (.idleQ o) := of_words rfl (wordsOf_X _ _ _)
theorem idleEv (o : OEv) : Statement (.idleEv o) := of_words rfl (wordsOf_X _ _ _)
theorem doorbell (q : Nat) (v : DWord) : Statement (.doorbell q v) := of_none rfl
theorem deviceQueueDoorbell (q : Nat) (v : DWord) : Statement (.deviceQueueDoorbell q v) := of_none rfl
theorem launchPacket (q : Nat) : Statement (.launchPacket q) := of_none rfl
theorem registerHeader (q : Nat) : Statement (.registerHeader q) := of_none rfl
theorem bindRecordWrite (die i : Nat) (w : BitVec 256) : Statement (.bindRecordWrite die i w) := of_none rfl
theorem combineTreeWrite (owner : TreeOwner) (tree : Nat) (w : TreeWrite) : Statement (.combineTreeWrite owner tree w) := of_none rfl
theorem firmwareRegisterWrite (w : FwWrite) : Statement (.firmwareRegisterWrite w) := of_none rfl
theorem tlbInvalidate (ctx lo hi : Nat) : Statement (.tlbInvalidate ctx lo hi) := of_none rfl
theorem blockReservation (die : Nat) : Statement (.blockReservation die) := of_none rfl
theorem coResidentPlacement (launch : Nat) : Statement (.coResidentPlacement launch) := of_none rfl
theorem blockStart (core slot : Nat) : Statement (.blockStart core slot) := of_none rfl
theorem blockExit (core slot : Nat) : Statement (.blockExit core slot) := of_none rfl
theorem launchCompletion (launch : Nat) : Statement (.launchCompletion launch) := of_none rfl
theorem longLatencyCompletion (c : CordRef) (i : Nat) : Statement (.longLatencyCompletion c i) := of_none rfl
theorem gatherDataArrival (c : CordRef) (i : Nat) : Statement (.gatherDataArrival c i) := of_none rfl
theorem handlerEntry (c : CordRef) : Statement (.handlerEntry c) := of_none rfl
theorem handlerTimeout (src : RungSource) : Statement (.handlerTimeout src) := of_none rfl
theorem contextRung (src : RungSource) : Statement (.contextRung src) := of_none rfl
theorem opStart (core entry : Nat) : Statement (.opStart core entry) := of_none rfl
theorem opFinish (core entry : Nat) : Statement (.opFinish core entry) := of_none rfl
theorem opSuspend (core entry : Nat) : Statement (.opSuspend core entry) := of_none rfl
theorem opReplay (core entry : Nat) : Statement (.opReplay core entry) := of_none rfl
theorem opEndFailed (core entry : Nat) : Statement (.opEndFailed core entry) := of_none rfl
theorem contractionGroup (core tile i : Nat) : Statement (.contractionGroup core tile i) := of_none rfl
theorem mredPacketArrival (die tree id router : Nat) : Statement (.mredPacketArrival die tree id router) := of_none rfl
theorem mredTimeout (die tree id router : Nat) : Statement (.mredTimeout die tree id router) := of_none rfl
theorem collPacketArrival (tree id : Nat) (pkt : Option CollPacket) : Statement (.collPacketArrival tree id pkt) := of_none rfl
theorem collTimeout (tree id missing : Nat) : Statement (.collTimeout tree id missing) := of_none rfl
theorem overlayDigestCheck (core rec : Nat) : Statement (.overlayDigestCheck core rec) := of_none rfl
theorem codePageReload (core page : Nat) (ok : Bool) : Statement (.codePageReload core page ok) := of_none rfl
theorem ticketFrontierUpdate (launch : Nat) : Statement (.ticketFrontierUpdate launch) := of_none rfl
theorem taskCordFormation (die cluster : Nat) : Statement (.taskCordFormation die cluster) := of_none rfl
theorem taskReadyTimeout (die cluster : Nat) : Statement (.taskReadyTimeout die cluster) := of_none rfl
theorem preemptRequest (core slot : Nat) : Statement (.preemptRequest core slot) := of_none rfl
theorem drainTimeout (core slot : Nat) : Statement (.drainTimeout core slot) := of_none rfl
theorem contextSave (core slot : Nat) : Statement (.contextSave core slot) := of_none rfl
theorem contextRestore (die : Nat) : Statement (.contextRestore die) := of_none rfl
theorem deviceReset : Statement (.deviceReset) := of_none rfl
theorem powerAlarm : Statement (.powerAlarm) := of_none rfl
theorem powerAlarmClear : Statement (.powerAlarmClear) := of_none rfl
theorem sensorSample (temps : List Nat) (p : PowerSample) : Statement (.sensorSample temps p) := of_none rfl
theorem patrolScrub (stack : Nat) : Statement (.patrolScrub stack) := of_none rfl
theorem meshFlitRetry (core entry : Nat) (ok : Bool) : Statement (.meshFlitRetry core entry ok) := of_none rfl
theorem linkFlitReplay (link : Nat) (ok : Bool) : Statement (.linkFlitReplay link ok) := of_none rfl
theorem linkRetrain (link : Nat) (ok : Bool) : Statement (.linkRetrain link ok) := of_none rfl
theorem cxlLinkTraining (width rate : Nat) (ide : Bool) : Statement (.cxlLinkTraining width rate ide) := of_none rfl
theorem hostMemAccess (a : OutsideAccess) : Statement (.hostMemAccess a) := of_none rfl
theorem peerAccess (peer : Nat) (a : OutsideAccess) : Statement (.peerAccess peer a) := of_none rfl
theorem localLineWriteback (core i : Nat) : Statement (.localLineWriteback core i) := of_none rfl
theorem partitionReset (p : Nat) : Statement (.partitionReset p) := of_none rfl
theorem partitionUpdate (p : Nat) : Statement (.partitionUpdate p) := of_none rfl
theorem partitionRepair (p core : Nat) : Statement (.partitionRepair p core) := of_none rfl
theorem deviceBoot (mgmt harts : Image) (record sig : List Byte) : Statement (.deviceBoot mgmt harts record sig) := of_none rfl
theorem firmwareUpdateStage (img : Image) : Statement (.firmwareUpdateStage img) := of_none rfl
theorem getMeasurements (q : AttestRequest) (nonce : List Byte) : Statement (.getMeasurements q nonce) := of_none rfl
theorem perfCounterRead (core i : Nat) : Statement (.perfCounterRead core i) := of_none rfl
theorem errorCounterRead (c : ErrCounter) : Statement (.errorCounterRead c) := of_none rfl
theorem notAnInstruction (w : Word) : Statement (.notAnInstruction w) := of_none rfl
theorem unitBoundary (core entry : Nat) : Statement (.unitBoundary core entry) := of_none rfl
theorem gatherPerformed (c : CordRef) (i : Nat) : Statement (.gatherPerformed c i) := of_none rfl

end Sys2Proof.Laws.F
end

