-- ==== Sys2Proof/Tests/Slice0.lean ====
section
/-!
SUPPORT. Tests: words that the spec's tables of encodings give and what they decode to; terms that `Instr.check` refuses; single
instructions with results worked from the spec; and, for every statement with hypotheses, a state and operands that meet them.
-/

open Sys2Proof.Machine

namespace Sys2Proof.Tests

-- One theorem after the other: the kernel evaluates many of them.
set_option Elab.async false

/-! ### States -/

/-- The guard that is always true. -/
def t : Guard := ⟨7, false⟩
/-- A child operation without modifiers. -/
def noMods : OpMods := ⟨none, false, 0, 0⟩
/-- A child operation that waits for the one that s5 names. -/
def after5 : OpMods := ⟨some 5, false, 0, 0⟩
/-- The cord of `start`. -/
def r0 : CordRef := ⟨0, 0, 0⟩

/-- Core 0 runs a block of one cord, whose 32 lanes stand at 0x1000. -/
def start : State := { loadProgram State.reset [] with agenda := [] }

/-- The state with its cord changed. -/
def onCord (f : Cord → Cord) (s : State) : State :=
  match s.cord? r0 with
  | none => s
  | some c => s.setCord r0 (f c)

/-- The state with its block changed. -/
def onBlock (f : Block → Block) (s : State) : State :=
  match s.block? 0 0 with
  | none => s
  | some b => s.setBlock 0 0 (f b)

/-- The state with core 0 changed. -/
def onCore (f : Core → Core) (s : State) : State := s.setCore 0 (f (s.core 0))

/-- The state with its lanes changed. -/
def onLanes (f : Nat → Lane → Lane) (s : State) : State := onCord (fun c => c.onLanes (List.range 32) f) s

/-- The state with v[r] of each lane written. -/
def withV (r : Nat) (f : Nat → Nat) (s : State) : State := onLanes (fun k l => l.setV 64 r (BitVec.ofNat 32 (f k))) s

/-- The state with s[r] written, r below 16. -/
def withS (r x : Nat) (s : State) : State := onCord (fun c => c.setS 0 r (BitVec.ofNat 32 x)) s

/-- The first 16 GiB of context 0 mapped to device memory from address 0, in every TLB that core 0 uses. -/
def mapped (s : State) : State :=
  let e : TlbEntry := { ctx := 0, page := 0, bits := 34, leaf := 0xF }
  let d := s.die 0
  (onCore (fun c => { c with etlb := [e], gtlb := [e] }) s).setDie 0 { d with tlb := [e] }

/-- Boot has checked the firmware. -/
def up (s : State) : State := { s with mgmt := { s.mgmt with boot := .up } }

/-- Host memory from address 0 that the device may read and write. -/
def window (s : State) : State := { s with mgmt := { s.mgmt with windows := Tab.empty.set 0 ⟨0, 2 ^ 30, true, true⟩ } }

/-- The first 16 GiB of context 0 mapped to host memory from address 0. -/
def hosted (s : State) : State :=
  onCore (fun c => { c with gtlb := [{ ctx := 0, page := 0, bits := 34, leaf := 0x1F }] }) (window s)

/-- The state with bytes in core 0's scratchpad. -/
def withSp (a : Nat) (l : List Byte) (s : State) : State := onCore (fun c => { c with spad := c.spad.write a l }) s

/-- The state with bytes in device memory. -/
def withHbm (a : Nat) (l : List Byte) (s : State) : State := { s with hbm := s.hbm.write a l }

/-- An operation at entry 3 of core 0, of the block of `start`. -/
def withOp (o : OpEntry) (s : State) : State := onCore (fun c => { c with ops := c.ops.set 3 o, gens := c.gens.set 3 1 }) s

/-- A copy whose token is the first of entry 3. -/
def copyOp : OpEntry := { OpEntry.fresh with len := 65536, batch := 1, token := 515, c := [8192] }

/-! ### Executing -/

/-- The instruction executes at the state (`Executes`), and a condition holds. -/
def meets (i : Instr) (s : State) (p : State → Here → Bool) : Bool :=
  match here s with
  | none => false
  | some g =>
    let h := issuing i g
    g.block.status.issues && !g.set.isEmpty && decide (h.cord.issueAddr = some h.addr)
      && (!isHolding i || !h.cord.unserved) && !latencyHolds h.cord h.addr (uses i) && !flagsHold h.cord i && !orderHolds h.cord i
      && guardOn h.cord i && (badReg h.cord (uses i)).isNone && (!relEntry i || h.cord.gathers.isEmpty)
      && (s.core h.ref.core).bad.isEmpty && p s h

/-- `meets` says what `Executes` asks for. -/
theorem executes_of_meets {i : Instr} {s : State} {p : State → Here → Bool} (hm : meets i s p = true) :
    ∃ h, Executes i s h ∧ p s h = true := by
  unfold meets at hm
  split at hm
  · cases hm
  · next g hg =>
    simp only [Bool.and_eq_true, Bool.or_eq_true, Bool.not_eq_true', decide_eq_true_eq, Option.isNone_iff_eq_none,
      List.isEmpty_iff, List.isEmpty_eq_false_iff] at hm
    obtain ⟨⟨⟨⟨⟨⟨⟨⟨⟨⟨⟨h1, h3⟩, h4⟩, h5⟩, h6⟩, h7⟩, h8⟩, h9⟩, h10⟩, h11⟩, h12⟩, h13⟩ := hm
    refine ⟨issuing i g, ?_, h13⟩
    constructor
    · constructor
      · exact ⟨g, hg, h1, h3, rfl⟩
      · exact h4
      · exact fun h => by simpa [h] using h5
      · exact h6
      · exact h7
      · exact h8
    · exact h9
    · exact h10
    · exact fun h => by simpa [h] using h11
    · exact h12

/-- The instruction issues at the state (`Issues`), and a condition holds. -/
def issues (i : Instr) (s : State) (p : Here → Bool) : Bool :=
  match here s with
  | none => false
  | some g =>
    let h := issuing i g
    g.block.status.issues && !g.set.isEmpty && decide (h.cord.issueAddr = some h.addr)
      && (!isHolding i || !h.cord.unserved) && !latencyHolds h.cord h.addr (uses i) && !flagsHold h.cord i && !orderHolds h.cord i
      && p h

/-- Only lane 0 runs; the others have exited. -/
def alone (s : State) : State := onLanes (fun k l => if k = 0 then l else { l with st := .exit }) s

/-- Lane 0, alone, with these frames. -/
def framed (l : List Frame) (s : State) : State := onLanes (fun k x => if k = 0 then { x with frames := l } else x) (alone s)

/-- Lane 0, alone, with a frame of `vf` and `sf` registers, which no slide leaves in the ring. -/
def spilling (vf sf : Nat) : State := framed [{ Frame.base with vf := vf, sf := sf }] (mapped start)

/-- Lane 0 alone is active. -/
def oneLane (h : Here) : Bool := h.active t == [0]

/-- The value of a result that is no error. -/
def okOr {ε α : Type} (d : α) : Except ε α → α
  | .ok x => x
  | .error _ => d

/-- The error of a result, if it is one. -/
def errOf {ε α : Type} : Except ε α → Option ε
  | .ok _ => none
  | .error e => some e

/-- The lane that the cord of a next state holds. -/
def laneAfter (o : Out) (k : Nat) : Lane :=
  match o with
  | .next s => ((s.cord? r0).getD Cord.fresh).lane k
  | _ => Lane.absent

/-- The cord of a next state. -/
def cordAfter (o : Out) : Cord :=
  match o with
  | .next s => (s.cord? r0).getD Cord.fresh
  | _ => Cord.fresh

/-- A `ctr` over tile a1. -/
def theCtr : OCtr :=
  { gd := t, tile := 1, a := 3, b := 5, c := 2, scope := .blk, map := false, shV := false, amode := .row, bmode := .row, j := 0, prio := 0
    la := 0 }

/-- A header: entry 0x1000, one cord of 64 lane registers and 16 uniform registers, 1 KiB of scratchpad, one tile, no roles. -/
def header : BitVec 1024 :=
  BitVec.ofNat 1024 (0x1000 + 1 * 2 ^ 96 + 16 * 2 ^ 102 + 1 * 2 ^ 109 + 64 * 2 ^ 128 + 1 * 2 ^ 137 + 4 * 2 ^ 148 + 0x40000 * 2 ^ 192)

/-- A launch packet for header slot 0 with its completion record at 0x8000. -/
def packet : BitVec 512 := BitVec.ofNat 512 (1 * 2 ^ 24 + 0x8000 * 2 ^ 384 + 77 * 2 ^ 448)

/-- A bind record: context 0, group 0, core 0, every slice, header slots 0 to 3, priorities 0 to 7, pre-emption. -/
def bindRec : BitVec 256 :=
  BitVec.ofNat 256 (1 + 7 * 2 ^ 74 + 1 * 2 ^ 93 + 3 * 2 ^ 156 + 0xFFFF * 2 ^ 176 + 1 * 2 ^ 192)

/-- A launch of `header`, from queue 0. -/
def launch0 : Launch :=
  { die := 0, queue := 0, ctx := 0, prio := 0, header := header, packet := packet, status := .placing, woken := false, next := 0, back := []
    passed := [], passing := [], gone := [], endedBlocks := [], begun := [], cause := 0, fblk := none, taskCores := .empty, bases := [] }

/-- Launch 0 is known, and its context is bound. -/
def granted (s : State) : State :=
  let s : State := { s with launches := s.launches.set 0 launch0 }
  let d := s.die 0
  s.setDie 0 { d with binds := d.binds.set 0 bindRec }

/-- The bind record with thresholds added. -/
def withBind (x : Nat) (s : State) : State :=
  let d := s.die 0
  s.setDie 0 { d with binds := d.binds.set 0 (bindRec + BitVec.ofNat 256 x) }

/-- A task item of launch 0 that waits for no event. -/
def item : TaskItem :=
  { ctx := 0, launch := 0, by_ := 0, entry := 0x1000, arg := 0, waitM := 0, setM := 0, slice := 2, cls := 1, depth := 1, prio := 0, wid := 0, rank := some 0 }

/-- The cord serves a fault in a handler of rung 1. Lanes 0 to 3 were in RUN, PARK, EXIT and WAIT. -/
def handling (s : State) : State :=
  onCord (fun c => { c with handler := some ⟨1, 5, 4⟩ }) (onLanes (fun k l => { l with
    frames := Frame.base :: l.frames, savedPc := 0x1000
    savedSt := if k = 1 then .park else if k = 2 then .exit else if k = 3 then .wait else .run }) s)

/-- The block and the cord of `start` exist, and a condition holds of them. -/
def atCord (s : State) (f : Block → Cord → Bool) : Bool :=
  match s.block? 0 0, s.cord? r0 with
  | some b, some x => f b x
  | _, _ => false

/-- Entry 3 of core 0 holds an operation, and a condition holds of it. -/
def atOp (s : State) (f : OpEntry → Bool) : Bool := ((s.core 0).ops.get? 3).any f

/-- An entry of an overlay table: overlay 0 is one page at code address 0x4000, its image at 0x20000. -/
def ovlBytes : List Byte := natLe 64 (0x20000 * 2 ^ 192 + 0x4000 * 2 ^ 160 + 1 * 2 ^ 128)

/-- The block has that overlay table. -/
def withOvl (s : State) : State := onBlock (fun b => { b with ovtab := 0x40000 }) (withHbm 0x40000 ovlBytes (mapped s))

/-- A record of overlay 0, resident on page 3. -/
def residency : Residency :=
  { ctx := 0, pages := [3], npages := 1, digest := 0, image := 0x20000, done := 1, resident := true, tokens := 0, holds := 0, evict := false
    shared := false, sharers := [(0, 0, 0x4000)], order := 0, susp := none }

/-- A second cord in the block, in RUN. -/
def withTwo (s : State) : State := onBlock (fun b => { b with cords := b.cords.set 1 loadedCord }) s

/-- A launch of four blocks. -/
def launch4 : Launch := { launch0 with header := header + BitVec.ofNat 1024 (16 * 2 ^ 64), packet := packet + BitVec.ofNat 512 (3 * 2 ^ 192) }

/-- Launch 0 has four blocks, and the block of `start` is the second of them. -/
def inFour (f : Launch → Launch) (s : State) : State :=
  onBlock (fun b => { b with rank := 1, index := 1 }) { s with launches := s.launches.set 0 (f launch4) }

/-- A queue of four packets at 0x10000, enabled, of context 0: of devices, or not. -/
def queue (device : Bool) (head tail : Nat) : Queue :=
  { desc := BitVec.ofNat 128 (0x10000 * 2 ^ 64 + 2 * 2 ^ 47 + 1 * 2 ^ 33 + (if device then 2 ^ 34 else 0)), head := BitVec.ofNat 32 head
    tail := BitVec.ofNat 32 tail, errors := 0, waiting := false, bad := false, soft := [] }

/-- Queue 5 of die 0, a device queue bound to index 0 of the block. -/
def withDq (head tail : Nat) (s : State) : State :=
  onBlock (fun b => { b with dq := [some 5, none, none, none] }) (setQueue (mapped s) 5 (queue true head tail))

/-- Channel 0 of core 0, of 16 words. -/
def withChan (eos : Bool) (head tail : Nat) (s : State) : State :=
  let x : Channel := { base := 0, lsize := 4, eos := eos, slot := 0, head := BitVec.ofNat 16 head, tail := BitVec.ofNat 16 tail }
  onCore (fun c => { c with chans := c.chans.set 0 x }) s

/-- Registers of the operations below: s1, s3 and s12 offsets, s2:s3 a global address, s4 a length, s8 to s11 the operands of a gather. -/
def opRegs (s : State) : State :=
  withS 4 256 (withS 5 1 (withS 8 0x1000 (withS 9 4 (withS 10 64 (withS 12 0x2000 (withS 2 0x100000 s))))))

/-- Core 0 is a member of tree 0 of its die, and of system tree 0. -/
def inTrees (s : State) : State :=
  let d := s.die 0
  { s.setDie 0 { d with trees := d.trees.set 0 { timeout := 0, routers := Tab.empty.set 0 0x80 } } with
    sysTrees := s.sysTrees.set 0 { timeout := 0, routers := Tab.empty.set 0 0x80 } }

/-- Operations at the entries from 0 of core 0, of the block of `start`. -/
def withOps (l : List OpEntry) (s : State) : State :=
  onCore (fun c => { c with ops := l.zipIdx.foldl (fun m x => m.set x.2 x.1) c.ops }) s

/-- A member of reduction 0 on tree 0, of one element. -/
def mredOp : OpEntry :=
  { OpEntry.fresh with kind := .mred .s32, state := .running, started := true, token := 515, c := [0], b := 64, batch := 1 }

/-- Tree 0 of die 0: router 0 is the root and router 1, to its east, its child; both are members. A reduction on it. -/
def reducing (r : Reduction) (s : State) : State :=
  let d := s.die 0
  s.setDie 0 { d with
    trees := d.trees.set 0 { timeout := 0, routers := (Tab.empty.set 0 (0x82 : Byte)).set 1 0xC0 }
    reds := [r] }

/-- The reduction, with the packets of its members. -/
def red (own sent : Tab (RedTy × List Word)) : Reduction := { tree := 0, id := 0, own := own, sent := sent, members := [(0, 3)], failed := none }

/-- A reduction over links. -/
def sysRed : SysReduction :=
  { tree := 0, id := 0, own := some (.s32, [5]), children := .empty, sent := false, members := [(0, 3)], failed := none }

/-- Queue 0 holds one packet, and context 0 and header slot 0 are as its launch needs them. -/
def queued (p : BitVec 512) (s : State) : State :=
  let s := setQueue (granted (mapped s)) 0 (queue false 0 1)
  let d := s.die 0
  withHbm 0x10000 (natLe 64 p.toNat) (s.setDie 0 { d with headers := d.headers.set 0 header })

/-- Context 0 has been bound, and launch 0 waits to be placed on a device that runs nothing. -/
def placing (l : Launch) : State := granted { mapped State.reset with launches := Tab.empty.set 0 l } |>.setLaunch 0 l

/-- A block that has been saved. -/
def savedBlock : Saved :=
  { block := { loadedBlock with splen := 1024, tiles := [], chans := [] }, core := 0, spad := [], tiles := [], ops := .empty, chans := [], ovls := [] }


/-- A task item of the deterministic launch 0 is ready, and the block that spawned it has ended. -/
def detTask : State :=
  let s := granted start
  let l := { launch0 with packet := packet + BitVec.ofNat 512 (2 ^ 32) }
  let s := s.setLaunch 0 l
  let c := s.cluster 1
  s.setCluster 1 { c with tasks := [{ item with by_ := 99, rank := some 3 }] }

/-! ### Words of the spec's tables of encodings -/

/-- `fadd v9, v8, v9` (spec/05_encoding.md). -/
theorem test_decode_fadd : decode 0x1812413C 0x00000000 = .ok (.fadd { gd := t, u := false, d := 9, a := 8, b := 9, ty := .none, rnd := .rn, sat := false, wide := false }) := by decide

/-- `iadd.uni v12, v13, v14` (spec/05_encoding.md). -/
theorem test_decode_iadd : decode 0x019869DD 0x00000000 = .ok (.iadd { gd := t, u := true, d := 12, a := 13, b := 14, ty := .none, sat := false, wide := false }) := by decide

/-- `icmp.lt.s32 p1, v3, v10` (spec/05_encoding.md). -/
theorem test_decode_icmp : decode 0x5582195C 0x00000282 = .ok (.icmp { gd := t, u := false, pd := 1, a := 3, b := 10, ty := .s32, cond := .lt }) := by decide

/-- `ld32 v8, [v20+0] la:3` (spec/05_encoding.md). -/
theorem test_decode_ld32 : decode 0x7110A01C 0x30000000 = .ok (.ld32 { gd := t, u := false, d := 8, a := 20, imm := 0, space := .lin, mode := .zx, el := 0, acq := false, scope := .lane, la := 3 }) := by decide

/-- `(p1) gst32.rel.dev [v6+0], v9 la:0` (spec/05_encoding.md). -/
theorem test_decode_gst32 : decode 0x76803124 0x00006800 = .ok (.gst32 { gd := ⟨1, false⟩, u := false, a := 6, b := 9, imm := 0, rel := true, scope := .dev, la := 0 }) := by decide

/-- `smovi s2, 0x0000_0033` (spec/05_encoding.md). -/
theorem test_decode_smovi : decode 0xC104001C 0x00000033 = .ok (.smovi { gd := t, u := false, d := 2, imm := 51 }) := by decide

/-- `(p1) bra forward 5 words` (spec/05_encoding.md). -/
theorem test_decode_bra : decode 0x28040005 0x00000000 = .ok (.bra { hint := .none, gd := ⟨1, false⟩, off := 5 }) := by decide

/-- `bra forward 0x1_2345 words` (spec/05_encoding.md). -/
theorem test_decode_braLong : decode 0x681D2345 0x00000000 = .ok (.braLong { hint := .none, gd := t, off := 74565 }) := by decide

/-- `bfx.sx v5, v8, 4, 8` (spec/06_lane_ops.md). -/
theorem test_decode_bfx : decode 0x4E8A401C 0x00000487 = .ok (.bfx { gd := t, u := false, d := 5, a := 8, sx := true, pos := 4, wm1 := 7 }) := by decide

/-- `cvt.el2.e4m3.f32.sr v4, v8` (spec/06_lane_ops.md). -/
theorem test_decode_cvt : decode 0x6008401C 0x0800064A = .ok (.cvt { gd := t, u := false, d := 4, a := 8, t1 := .e4m3, t2 := .f32, el := 2, rnd := .sr, sat := false }) := by decide

/-- `lred.add.f32 v16, v11` (spec/06_lane_ops.md). -/
theorem test_decode_lred : decode 0x62A0581C 0x00000480 = .ok (.lred { gd := t, d := 16, a := 11, op := .add, ty := .f32, rnd := .rn }) := by decide

/-- `ffma.ru v9, v8, v10, v12` (spec/06_lane_ops.md). -/
theorem test_decode_ffma : decode 0x5992415C 0x06300000 = .ok (.ffma { gd := t, u := false, d := 9, a := 8, b := 10, c := 12, ty := .none, rnd := .ru, sat := false }) := by decide

/-- `vacs2.s16 v20, p2, v21, v22, v23` (spec/06_lane_ops.md). -/
theorem test_decode_vacs2 : decode 0x5528AADC 0x005C0182 = .ok (.vacs2 { gd := t, u := false, d := 20, a := 21, b := 22, c := 23, ty := .s16, pd := 2 }) := by decide

/-- `sadd.s32.sat s4, s5, s6` (spec/06_lane_ops.md). -/
theorem test_decode_sadd : decode 0xC18828DC 0x01000280 = .ok (.sadd { gd := t, u := false, d := 4, a := 5, b := 6, ty := .s32, sat := true, wide := true }) := by decide

/-- `.frame 4, 0` (spec/07_control_memory.md). -/
theorem test_decode_frame : decode 0x2C08001C 0x00000000 = .ok (.frame { vf := 4, sf := 0, wide := false }) := by decide

/-- `ret` (spec/07_control_memory.md). -/
theorem test_decode_ret : decode 0x2A80001C 0x00000000 = .ok (.ret { gd := t, wide := false }) := by decide

/-- `exit` (spec/07_control_memory.md). -/
theorem test_decode_exit : decode 0x2B00001C 0x00000000 = .ok (.exit { gd := t, wide := false }) := by decide

/-- `(p2) exit` (spec/07_control_memory.md). -/
theorem test_decode_exit2 : decode 0x2B000008 0x00000000 = .ok (.exit { gd := ⟨2, false⟩, wide := false }) := by decide

/-- `rjoin` (spec/07_control_memory.md). -/
theorem test_decode_rjoin : decode 0x6B80001C 0x00000000 = .ok (.rjoin) := by decide

/-- `brx v12` (spec/07_control_memory.md). -/
theorem test_decode_brx : decode 0x6880601C 0x00000000 = .ok (.brx { gd := t, a := 12 }) := by decide

/-- `callo forward 40 words` (spec/07_control_memory.md). -/
theorem test_decode_callo : decode 0x6A00051C 0x00000000 = .ok (.callo { gd := t, off := 40 }) := by decide

/-- `trap 0x2A` (spec/07_control_memory.md). -/
theorem test_decode_trap : decode 0x6C80001C 0x0000002A = .ok (.trap { gd := t, code := 42 }) := by decide

/-- `st8 [v3+0], v2` (spec/07_control_memory.md). -/
theorem test_decode_st8 : decode 0x7280185C 0x00000000 = .ok (.st8 { gd := t, u := false, a := 3, b := 2, imm := 0, space := .lin, el := 0, rel := false, scope := .lane, la := 0 }) := by decide

/-- `ld32.skw.acq.blk v8, [v20+16] la:2` (spec/07_control_memory.md). -/
theorem test_decode_ld322 : decode 0x7110A01C 0x20409010 = .ok (.ld32 { gd := t, u := false, d := 8, a := 20, imm := 16, space := .skw, mode := .zx, el := 0, acq := true, scope := .blk, la := 2 }) := by decide

/-- `atom.cas v9, [v20+8], v10` (spec/07_control_memory.md). -/
theorem test_decode_atom : decode 0x7512A15C 0x00240008 = .ok (.atom { gd := t, u := false, d := 9, a := 20, b := 10, imm := 8, space := .lin, op := .cas, ord := ⟨false, false, .lane⟩, la := 0 }) := by decide

/-- `gld32 v8, [v6+0] la:3` (spec/07_control_memory.md). -/
theorem test_decode_gld32 : decode 0x7590301C 0x30000000 = .ok (.gld32 { gd := t, u := false, d := 8, a := 6, imm := 0, acq := false, scope := .lane, la := 3 }) := by decide

/-- `gprf [v6+0], v9` (spec/07_control_memory.md). -/
theorem test_decode_gprf : decode 0x7D00313C 0x00000000 = .ok (.gprf { gd := t, a := 6, b := 9, imm := 0, la := 0 }) := by decide

/-- `sld32 s20, [s21+4]` (spec/07_control_memory.md). -/
theorem test_decode_sld32 : decode 0xCCA8A81C 0x00000004 = .ok (.sld32 { gd := t, d := 20, a := 21, imm := 4, skw := false, acq := false, scope := .lane }) := by decide

/-- `bar q1` (spec/07_control_memory.md). -/
theorem test_decode_bar : decode 0xD102001C 0x00000000 = .ok (.bar { gd := t, qd := 1, a := 0, bn := 0 }) := by decide

/-- `fence.rel.dev` (spec/07_control_memory.md). -/
theorem test_decode_fence : decode 0xD280001C 0x00006800 = .ok (.fence { gd := t, acq := false, rel := true, scope := .dev }) := by decide

/-- `tktwait 5` (spec/07_control_memory.md). -/
theorem test_decode_tktwait : decode 0xD300001C 0x00000005 = .ok (.tktwait { gd := t, level := 5 }) := by decide

/-- `evset 3, s9` (spec/07_control_memory.md). -/
theorem test_decode_evset : decode 0xD400481C 0x00000003 = .ok (.evset { gd := t, a := 9, slice := 3 }) := by decide

/-- `qpop q3, [s40+0], s5 la:2` (spec/07_control_memory.md). -/
theorem test_decode_qpop : decode 0xD58740BC 0x20000000 = .ok (.qpop { gd := t, qd := 3, a := 40, b := 5, imm := 0, la := 2 }) := by decide

/-- `chput ch0, s12` (spec/07_control_memory.md). -/
theorem test_decode_chput : decode 0xD680601C 0x00000000 = .ok (.chput { gd := t, ch := 0, a := 12 }) := by decide

/-- `chget ch0, s12, q2 la:0` (spec/07_control_memory.md). -/
theorem test_decode_chget : decode 0xD700605C 0x00000000 = .ok (.chget { gd := t, ch := 0, a := 12, qb := 2, la := 0 }) := by decide

/-- `ctr.cord.lane a0, v3, v5, s2` (spec/08_contraction.md). -/
theorem test_decode_ctr : decode 0x780018BC 0x00080800 = .ok (.ctr { gd := t, tile := 0, a := 3, b := 5, c := 2, scope := .cord, map := false, shV := false, amode := .row, bmode := .row, j := 0, prio := 0, la := 0 }) := by decide

/-- `ctr.blk.map a0, s20, s21, s2` (spec/08_contraction.md). -/
theorem test_decode_ctr2 : decode 0x7800A2BC 0x00081400 = .ok (.ctr { gd := t, tile := 0, a := 20, b := 21, c := 2, scope := .blk, map := true, shV := false, amode := .row, bmode := .row, j := 0, prio := 0, la := 0 }) := by decide

/-- `ctrskip a0` (spec/08_contraction.md). -/
theorem test_decode_ctrskip : decode 0x7880001C 0x00000000 = .ok (.ctrskip { tile := 0, a := 0, all := false }) := by decide

/-- `ctrskip.all a1` (spec/08_contraction.md). -/
theorem test_decode_ctrskip2 : decode 0x7882001C 0x00000400 = .ok (.ctrskip { tile := 1, a := 0, all := true }) := by decide

/-- `acz a0` (spec/08_contraction.md). -/
theorem test_decode_acz : decode 0x7900001C 0x00000000 = .ok (.acz { gd := t, tile := 0, la := 0 }) := by decide

/-- `acrd v20, a1, v21 la:1` (spec/08_contraction.md). -/
theorem test_decode_acrd : decode 0x79A80ABC 0x10000000 = .ok (.acrd { gd := t, d := 20, tile := 1, b := 21, la := 1 }) := by decide

/-- `acwr a1, v21, v22` (spec/08_contraction.md). -/
theorem test_decode_acwr : decode 0x7A02AADC 0x00000000 = .ok (.acwr { gd := t, tile := 1, a := 21, b := 22, la := 0 }) := by decide

/-- `acdrain.bf16 [s0+64], a0, s2` (spec/08_contraction.md). -/
theorem test_decode_acdrain : decode 0x7A80005C 0x00280040 = .ok (.acdrain { gd := t, tile := 0, a := 0, b := 2, skw := false, ty := .bf16, rnd := .rn, sat := false, imm := 64, la := 0 }) := by decide

/-- `acaxpy.bf16 [s32+0], a1, s3, s13` (spec/08_contraction.md). -/
theorem test_decode_acaxpy : decode 0x7B03007C 0x00340500 = .ok (.acaxpy { gd := t, tile := 1, a := 32, b := 3, c := 13, ty := .bf16, sat := false, la := 0 }) := by decide

/-- `acrst forward 12 words` (spec/08_contraction.md). -/
theorem test_decode_acrst : decode 0x7B80019C 0x00000000 = .ok (.acrst { gd := t, off := 12 }) := by decide

/-- `cpy.in s40, [s31+0], [s24+0], s26` (spec/09_engines.md). -/
theorem test_decode_cpyIn : decode 0xD850FB1C 0x00680000 = .ok (.cpyIn { gd := t, d := 40, a := 31, b := 24, c := 26, ord := ⟨false, false, .lane⟩, mods := noMods }) := by decide

/-- `cpy.out s42, [s36+0], [s32+0], s26` (spec/09_engines.md). -/
theorem test_decode_cpyOut : decode 0xD855241C 0x00680040 = .ok (.cpyOut { gd := t, d := 42, a := 36, b := 32, c := 26, ord := ⟨false, false, .lane⟩, mods := noMods }) := by decide

/-- `mred.f32 s5, [s20+0], [s21+0], s22` (spec/09_engines.md). -/
theorem test_decode_mred : decode 0xD90AA2BC 0x00580000 = .ok (.mred { gd := t, d := 5, a := 20, b := 21, c := 22, fn := .f32, ord := ⟨false, false, .lane⟩, mods := noMods }) := by decide

/-- `wnw s13, [s26+0], [s4+0], s14 after:s15` (spec/09_engines.md). -/
theorem test_decode_wnw : decode 0xDA1AD09C 0x0038040F = .ok (.wnw { gd := t, d := 13, a := 26, b := 4, c := 14, ord := ⟨false, false, .lane⟩, mods := { after := some 15, ordf := false, prio := 0, la := 0 } }) := by decide

/-- `ovlld s12, epi_ovl (index 1)` (spec/09_engines.md). -/
theorem test_decode_ovlld : decode 0xDA98003C 0x00000000 = .ok (.ovlld { gd := t, d := 12, idx := 1, mods := noMods }) := by decide

/-- `opwait s42` (spec/09_engines.md). -/
theorem test_decode_opwait : decode 0xDC01501C 0x00000000 = .ok (.opwait { gd := t, a := 42, la := 0 }) := by decide

/-- `opseal` (spec/09_engines.md). -/
theorem test_decode_opseal : decode 0xDD00001C 0x00000000 = .ok (.opseal { gd := t, la := 0 }) := by decide

/-- `opwaitb 1` (spec/09_engines.md). -/
theorem test_decode_opwaitb : decode 0xDD80081C 0x00000000 = .ok (.opwaitb { gd := t, n := 1, la := 0 }) := by decide

/-- `hret s5` (spec/09_engines.md). -/
theorem test_decode_hret : decode 0xE000281C 0x00000000 = .ok (.hret { gd := t, a := 5 }) := by decide

/-- `yield` (spec/09_engines.md). -/
theorem test_decode_yield : decode 0xA080001C 0x00000000 = .ok (.yield { gd := t, wide := false }) := by decide

/-- `idle.ev 3, s9` (spec/09_engines.md). -/
theorem test_decode_idleEv : decode 0xE200481C 0x00000403 = .ok (.idleEv { gd := t, a := 9, slice := 3 }) := by decide

/-- `spawn v4, v10, v12, 2, 1` (spec/09_engines.md). -/
theorem test_decode_spawn : decode 0x7C00215C 0x00300012 = .ok (.spawn { gd := t, a := 4, b := 10, c := 12, slice := 2, cls := 1, la := 0 }) := by decide

/-- `swr sr.pc, v9` (spec/09_engines.md). -/
theorem test_decode_swr : decode 0x7C80481C 0x00000010 = .ok (.swr { gd := t, idx := 16, a := 9 }) := by decide

/-! ### Terms that the encoding does not allow -/

/-- Every term of the list breaks a condition of that name. -/
def refused (e : Illegal) (l : List Instr) : Bool := l.all fun i => decide (i.check = some e)

/-- R89 to R92. -/
theorem test_refused_code : refused .code [
    .iadd { gd := t, u := false, d := 0, a := 0, b := 0, ty := .s8, sat := false, wide := false },
    .imad { gd := t, u := false, d := 0, a := 0, b := 0, c := 0, ty := .s8, sat := false },
    .iabs { gd := t, u := false, d := 0, a := 0, ty := .s8, sat := false, wide := false },
    .bfi { gd := t, u := false, d := 0, a := 0, sx := true, pos := 0, wm1 := 0 },
    .vadd2 { gd := t, u := false, d := 0, a := 0, b := 0, ty := .s8, sat := false, wide := false },
    .vacs2 { gd := t, u := false, d := 0, a := 0, b := 0, c := 0, ty := .none, pd := 0 },
    .icmp { gd := t, u := false, pd := 0, a := 0, b := 0, ty := .none, cond := .eq },
    .fadd { gd := t, u := false, d := 0, a := 0, b := 0, ty := .s8, rnd := .rn, sat := false, wide := false },
    .ffma { gd := t, u := false, d := 0, a := 0, b := 0, c := 0, ty := .s8, rnd := .rn, sat := false },
    .fmin { gd := t, u := false, d := 0, a := 0, b := 0, ty := .s8, rnd := .rn, sat := false, wide := false },
    .fabs { gd := t, u := false, d := 0, a := 0, ty := .s8, wide := false },
    .fcmp { gd := t, u := false, pd := 0, a := 0, b := 0, ty := .s8, cond := .eq }] = true := by decide

/-- R89 to R92. -/
theorem test_refused_code1 : refused .code [
    .frcp { gd := t, u := false, d := 0, a := 0, ty := .s8, rnd := .rn, la := 0 },
    .fsqrt { gd := t, u := false, d := 0, a := 0, ty := .s8, rnd := .rn, la := 0 },
    .hfma2 { gd := t, u := false, d := 0, a := 0, b := 0, c := 0, ty := .none, rnd := .rn, sat := false },
    .hadd2 { gd := t, u := false, d := 0, a := 0, b := 0, ty := .none, rnd := .rn, sat := false },
    .cvt { gd := t, u := false, d := 0, a := 0, t1 := .none, t2 := .none, el := 0, rnd := .rn, sat := false },
    .pk4 { gd := t, u := false, d := 0, a := 0, b := 0, c := 0, ty := .none, j := 0, rnd := .rn, sat := false },
    .upk { gd := t, u := false, d := 0, a := 0, b := 0, t1 := .none, t2 := .none, el := 0 },
    .fpclass { gd := t, u := false, d := 0, a := 0, ty := .none },
    .lred { gd := t, d := 0, a := 0, op := .add, ty := .none, rnd := .rn },
    .lscan { gd := t, d := 0, a := 0, op := .add, ty := .none, rnd := .rn },
    .ld8 { gd := t, u := false, d := 0, a := 0, imm := 0, space := .lin, mode := .zx, el := 1, acq := false, scope := .lane, la := 0 },
    .ld16 { gd := t, u := false, d := 0, a := 0, imm := 0, space := .lin, mode := .zx, el := 1, acq := false, scope := .lane, la := 0 }] = true := by decide

/-- R89 to R92. -/
theorem test_refused_code2 : refused .code [
    .ld32 { gd := t, u := false, d := 0, a := 0, imm := 0, space := .lin, mode := .sx, el := 0, acq := false, scope := .lane, la := 0 },
    .ld64 { gd := t, u := false, d := 0, a := 0, imm := 0, space := .lin, mode := .sx, el := 0, acq := false, scope := .lane, la := 0 },
    .ld128 { gd := t, u := false, d := 0, a := 0, imm := 0, space := .lin, mode := .sx, el := 0, acq := false, scope := .lane, la := 0 },
    .st16 { gd := t, u := false, a := 0, b := 0, imm := 0, space := .lin, el := 3, rel := false, scope := .lane, la := 0 },
    .st32 { gd := t, u := false, a := 0, b := 0, imm := 0, space := .lin, el := 1, rel := false, scope := .lane, la := 0 },
    .st64 { gd := t, u := false, a := 0, b := 0, imm := 0, space := .lin, el := 1, rel := false, scope := .lane, la := 0 },
    .st128 { gd := t, u := false, a := 0, b := 0, imm := 0, space := .lin, el := 1, rel := false, scope := .lane, la := 0 },
    .gatom { gd := t, u := false, d := 0, a := 0, b := 0, imm := 0, space := .skw, op := .add, ord := ⟨false, false, .lane⟩, la := 0 },
    .acdrain { gd := t, tile := 0, a := 0, b := 0, skw := false, ty := .none, rnd := .rn, sat := false, imm := 0, la := 0 },
    .acaxpy { gd := t, tile := 0, a := 0, b := 0, c := 0, ty := .none, sat := false, la := 0 },
    .sadd { gd := t, u := false, d := 0, a := 0, b := 0, ty := .s8, sat := false, wide := false },
    .smad { gd := t, u := false, d := 0, a := 0, b := 0, c := 0, ty := .s8, sat := false }] = true := by decide

/-- R89 to R92. -/
theorem test_refused_code3 : refused .code [
    .scmp { gd := t, u := false, pd := 0, a := 0, b := 0, ty := .none, cond := .eq },
    .opwaitb { gd := t, n := 31, la := 0 },
    .bfx { gd := t, u := false, d := 0, a := 0, sx := false, pos := 31, wm1 := 31 },
    .bfi { gd := t, u := false, d := 0, a := 0, sx := true, pos := 0, wm1 := 0 },
    .vacs2 { gd := t, u := false, d := 0, a := 0, b := 0, c := 0, ty := .s16, pd := 1 },
    .icmp { gd := t, u := false, pd := 0, a := 0, b := 0, ty := .s32, cond := .un },
    .cvt { gd := t, u := false, d := 0, a := 0, t1 := .f16, t2 := .f32, el := 2, rnd := .rn, sat := false },
    .cvt { gd := t, u := false, d := 0, a := 0, t1 := .f32, t2 := .f16, el := 1, rnd := .rn, sat := false },
    .cvt { gd := t, u := false, d := 0, a := 0, t1 := .f32, t2 := .f32, el := 0, rnd := .rn, sat := false },
    .upk { gd := t, u := false, d := 0, a := 0, b := 0, t1 := .f32, t2 := .f16, el := 2 },
    .pk4 { gd := t, u := false, d := 0, a := 0, b := 0, c := 0, ty := .s8, j := 2, rnd := .rn, sat := false },
    .ld32 { gd := t, u := false, d := 0, a := 0, imm := 0, space := .lin, mode := .sx, el := 0, acq := false, scope := .lane, la := 0 }] = true := by decide

/-- R89 to R92. -/
theorem test_refused_code4 : refused .code [
    .ld16 { gd := t, u := false, d := 0, a := 0, imm := 0, space := .lin, mode := .el, el := 2, acq := false, scope := .lane, la := 0 },
    .ld8 { gd := t, u := false, d := 0, a := 0, imm := 0, space := .lin, mode := .zx, el := 1, acq := false, scope := .lane, la := 0 },
    .gatom { gd := t, u := false, d := 0, a := 0, b := 0, imm := 0, space := .arm, op := .add, ord := ⟨false, false, .lane⟩, la := 0 },
    .lscan { gd := t, d := 0, a := 0, op := .and, ty := .none, rnd := .rn },
    .lred { gd := t, d := 0, a := 0, op := .and, ty := .s32, rnd := .rn }] = true := by decide

/-- R72. -/
theorem test_refused_noExtension : refused .noExtension [
    .iadd { gd := t, u := false, d := 0, a := 0, b := 0, ty := .s32, sat := false, wide := false },
    .iabs { gd := t, u := false, d := 0, a := 0, ty := .s32, sat := false, wide := false },
    .vadd2 { gd := t, u := false, d := 0, a := 0, b := 0, ty := .s16, sat := true, wide := false },
    .fadd { gd := t, u := false, d := 0, a := 0, b := 0, ty := .f32, rnd := .rn, sat := false, wide := false },
    .fmin { gd := t, u := false, d := 0, a := 0, b := 0, ty := .f32, rnd := .rn, sat := false, wide := false },
    .fabs { gd := t, u := false, d := 0, a := 0, ty := .f32, wide := false },
    .sadd { gd := t, u := false, d := 0, a := 0, b := 0, ty := .s32, sat := false, wide := false }] = true := by decide

/-- R53, R108, R111. -/
theorem test_refused_saturation : refused .saturation [
    .iadd { gd := t, u := false, d := 0, a := 0, b := 0, ty := .none, sat := true, wide := false },
    .imad { gd := t, u := false, d := 0, a := 0, b := 0, c := 0, ty := .none, sat := true },
    .iabs { gd := t, u := false, d := 0, a := 0, ty := .none, sat := true, wide := false },
    .vadd2 { gd := t, u := false, d := 0, a := 0, b := 0, ty := .s16, sat := false, wide := false },
    .fmin { gd := t, u := false, d := 0, a := 0, b := 0, ty := .none, rnd := .rn, sat := true, wide := false },
    .sadd { gd := t, u := false, d := 0, a := 0, b := 0, ty := .none, sat := true, wide := false },
    .smad { gd := t, u := false, d := 0, a := 0, b := 0, c := 0, ty := .none, sat := true }] = true := by decide

/-- R78. -/
theorem test_refused_register : refused .register [
    .iadd { gd := t, u := false, d := 1, a := 0, b := 0, ty := .s64, sat := false, wide := false },
    .lea { gd := t, u := false, d := 1, a := 0, b := 0, sx := false, shift := 0 },
    .icmp { gd := t, u := false, pd := 0, a := 1, b := 0, ty := .s64, cond := .eq },
    .ld64 { gd := t, u := false, d := 1, a := 0, imm := 0, space := .lin, mode := .zx, el := 0, acq := false, scope := .lane, la := 0 },
    .ld128 { gd := t, u := false, d := 1, a := 0, imm := 0, space := .lin, mode := .zx, el := 0, acq := false, scope := .lane, la := 0 },
    .st64 { gd := t, u := false, a := 0, b := 1, imm := 0, space := .lin, el := 0, rel := false, scope := .lane, la := 0 },
    .st128 { gd := t, u := false, a := 0, b := 1, imm := 0, space := .lin, el := 0, rel := false, scope := .lane, la := 0 },
    .gld32 { gd := t, u := false, d := 0, a := 1, imm := 0, acq := false, scope := .lane, la := 0 },
    .gld64 { gd := t, u := false, d := 1, a := 0, imm := 0, acq := false, scope := .lane, la := 0 },
    .gst32 { gd := t, u := false, a := 1, b := 0, imm := 0, rel := false, scope := .lane, la := 0 },
    .gst64 { gd := t, u := false, a := 1, b := 0, imm := 0, rel := false, scope := .lane, la := 0 },
    .gatom { gd := t, u := false, d := 0, a := 1, b := 0, imm := 0, space := .lin, op := .add, ord := ⟨false, false, .lane⟩, la := 0 }] = true := by decide

/-- R78. -/
theorem test_refused_register1 : refused .register [
    .gprf { gd := t, a := 1, b := 0, imm := 0, la := 0 },
    .spawn { gd := t, a := 1, b := 0, c := 0, slice := 0, cls := 0, la := 0 },
    .sadd { gd := t, u := false, d := 1, a := 0, b := 0, ty := .s64, sat := false, wide := false },
    .scmp { gd := t, u := false, pd := 0, a := 1, b := 0, ty := .s64, cond := .eq },
    .sld64 { gd := t, d := 1, a := 0, imm := 0, skw := false, acq := false, scope := .lane },
    .sst64 { gd := t, a := 0, b := 1, imm := 0, skw := false, rel := false, scope := .lane },
    .cpyIn { gd := t, d := 0, a := 0, b := 1, c := 0, ord := ⟨false, false, .lane⟩, mods := noMods },
    .cpyOut { gd := t, d := 0, a := 1, b := 0, c := 0, ord := ⟨false, false, .lane⟩, mods := noMods },
    .cpyCk { gd := t, d := 0, a := 0, b := 1, c := 0, ord := ⟨false, false, .lane⟩, mods := noMods },
    .cpyCkc { gd := t, d := 0, a := 1, b := 0, c := 0, ord := ⟨false, false, .lane⟩, mods := noMods },
    .cpyIna { gd := t, d := 0, a := 0, b := 1, c := 0, ord := ⟨false, false, .lane⟩, mods := noMods },
    .cpyOuta { gd := t, d := 0, a := 1, b := 0, c := 0, ord := ⟨false, false, .lane⟩, mods := noMods }] = true := by decide

/-- R78. -/
theorem test_refused_register2 : refused .register [
    .cpygat { gd := t, d := 0, a := 0, b := 1, c := 0, ord := ⟨false, false, .lane⟩, mods := noMods },
    .opdetach { gd := t, a := 0, b := 1, la := 0 },
    .opadopt { gd := t, d := 0, a := 1 }] = true := by decide

/-- R103. -/
theorem test_refused_specialRegister : refused .specialRegister [
    .srd { gd := t, u := false, d := 0, idx := 49 },
    .swr { gd := t, idx := 0, a := 0 },
    .ssrd { gd := t, u := false, d := 0, idx := 0 },
    .sswr { gd := t, idx := 0, a := 0 }] = true := by decide

/-- R56, R81. -/
theorem test_refused_uniform : refused .uniform [
    .fadd { gd := t, u := true, d := 0, a := 0, b := 0, ty := .none, rnd := .sr, sat := false, wide := false },
    .ffma { gd := t, u := true, d := 0, a := 0, b := 0, c := 0, ty := .none, rnd := .sr, sat := false },
    .fsqrt { gd := t, u := true, d := 0, a := 0, ty := .none, rnd := .sr, la := 0 }] = true := by decide

/-- R51. -/
theorem test_refused_rounding : refused .rounding [
    .fmin { gd := t, u := false, d := 0, a := 0, b := 0, ty := .none, rnd := .rz, sat := false, wide := false },
    .frcp { gd := t, u := false, d := 0, a := 0, ty := .none, rnd := .rz, la := 0 },
    .lred { gd := t, d := 0, a := 0, op := .and, ty := .none, rnd := .rz },
    .acdrain { gd := t, tile := 0, a := 0, b := 0, skw := false, ty := .s8, rnd := .rz, sat := false, imm := 0, la := 0 },
    .acdrain { gd := t, tile := 0, a := 0, b := 0, skw := false, ty := .s32, rnd := .sr, sat := false, imm := 0, la := 0 },
    .lred { gd := t, d := 0, a := 0, op := .add, ty := .f32, rnd := .sr },
    .lred { gd := t, d := 0, a := 0, op := .add, ty := .s32, rnd := .rz }] = true := by decide

/-- R74, R78, R79. -/
theorem test_refused_reservedField : refused .reservedField [
    .pk4 { gd := t, u := false, d := 0, a := 0, b := 0, c := 1, ty := .s8, j := 0, rnd := .rn, sat := false },
    .snop { gd := t, u := true, wide := false },
    .smov { gd := t, u := true, d := 0, a := 0, wide := false },
    .smovi { gd := t, u := true, d := 0, imm := 0 },
    .sadd { gd := t, u := true, d := 0, a := 0, b := 0, ty := .none, sat := false, wide := false },
    .saddi { gd := t, u := true, d := 0, a := 0, imm := 0 },
    .smul { gd := t, u := true, d := 0, a := 0, b := 0, wide := false },
    .smad { gd := t, u := true, d := 0, a := 0, b := 0, c := 0, ty := .none, sat := false },
    .sshli { gd := t, u := true, d := 0, a := 0, amt := 0 },
    .scmp { gd := t, u := true, pd := 0, a := 0, b := 0, ty := .none, cond := .eq },
    .splog { gd := t, u := true, pd := 0, pa := 0, pb := 0, op := .and },
    .ssel { sel := ⟨7, false⟩, u := true, d := 0, a := 0, b := 0, wide := false }] = true := by decide

/-- R74, R78, R79. -/
theorem test_refused_reservedField1 : refused .reservedField [
    .ssrd { gd := t, u := true, d := 0, idx := 0 },
    .vote { gd := t, d := 0, a := 8, mode := .all },
    .vote { gd := t, d := 8, a := 0, mode := .all },
    .ctrskip { tile := 0, a := 1, all := true },
    .cpyOuta { gd := t, d := 0, a := 0, b := 16, c := 0, ord := ⟨false, false, .lane⟩, mods := noMods },
    .cpyIna { gd := t, d := 0, a := 16, b := 0, c := 0, ord := ⟨false, false, .lane⟩, mods := noMods },
    .pk4 { gd := t, u := false, d := 0, a := 0, b := 0, c := 1, ty := .s8, j := 0, rnd := .rn, sat := false },
    .upk { gd := t, u := false, d := 0, a := 0, b := 1, t1 := .f32, t2 := .f16, el := 0 }] = true := by decide

/-- R62. -/
theorem test_refused_frame : refused .frame [
    .frame { vf := 49, sf := 0, wide := false }] = true := by decide

/-- R156, R275. -/
theorem test_refused_scope : refused .scope [
    .ld8 { gd := t, u := false, d := 0, a := 0, imm := 0, space := .lin, mode := .zx, el := 0, acq := true, scope := .lane, la := 0 },
    .ld16 { gd := t, u := false, d := 0, a := 0, imm := 0, space := .lin, mode := .zx, el := 0, acq := true, scope := .lane, la := 0 },
    .ld32 { gd := t, u := false, d := 0, a := 0, imm := 0, space := .lin, mode := .zx, el := 0, acq := true, scope := .lane, la := 0 },
    .ld64 { gd := t, u := false, d := 0, a := 0, imm := 0, space := .lin, mode := .zx, el := 0, acq := true, scope := .lane, la := 0 },
    .ld128 { gd := t, u := false, d := 0, a := 0, imm := 0, space := .lin, mode := .zx, el := 0, acq := true, scope := .lane, la := 0 },
    .st8 { gd := t, u := false, a := 0, b := 0, imm := 0, space := .lin, el := 0, rel := true, scope := .lane, la := 0 },
    .st16 { gd := t, u := false, a := 0, b := 0, imm := 0, space := .lin, el := 0, rel := true, scope := .lane, la := 0 },
    .st32 { gd := t, u := false, a := 0, b := 0, imm := 0, space := .lin, el := 0, rel := true, scope := .lane, la := 0 },
    .st64 { gd := t, u := false, a := 0, b := 0, imm := 0, space := .lin, el := 0, rel := true, scope := .lane, la := 0 },
    .st128 { gd := t, u := false, a := 0, b := 0, imm := 0, space := .lin, el := 0, rel := true, scope := .lane, la := 0 },
    .atom { gd := t, u := false, d := 0, a := 0, b := 0, imm := 0, space := .lin, op := .add, ord := ⟨false, false, .dev⟩, la := 0 },
    .gld32 { gd := t, u := false, d := 0, a := 0, imm := 0, acq := true, scope := .lane, la := 0 }] = true := by decide

/-- R156, R275. -/
theorem test_refused_scope1 : refused .scope [
    .gld64 { gd := t, u := false, d := 0, a := 0, imm := 0, acq := true, scope := .lane, la := 0 },
    .gst32 { gd := t, u := false, a := 0, b := 0, imm := 0, rel := true, scope := .lane, la := 0 },
    .gst64 { gd := t, u := false, a := 0, b := 0, imm := 0, rel := true, scope := .lane, la := 0 },
    .gatom { gd := t, u := false, d := 0, a := 0, b := 0, imm := 0, space := .lin, op := .add, ord := ⟨false, false, .dev⟩, la := 0 },
    .ctr { gd := t, tile := 0, a := 0, b := 0, c := 0, scope := .lane, map := false, shV := false, amode := .row, bmode := .row, j := 0, prio := 0, la := 0 },
    .sld32 { gd := t, d := 0, a := 0, imm := 0, skw := false, acq := true, scope := .lane },
    .sst32 { gd := t, a := 0, b := 0, imm := 0, skw := false, rel := true, scope := .lane },
    .sld64 { gd := t, d := 0, a := 0, imm := 0, skw := false, acq := true, scope := .lane },
    .sst64 { gd := t, a := 0, b := 0, imm := 0, skw := false, rel := true, scope := .lane },
    .fence { gd := t, acq := false, rel := false, scope := .lane },
    .cpyIn { gd := t, d := 0, a := 0, b := 0, c := 0, ord := ⟨false, false, .dev⟩, mods := noMods },
    .cpyOut { gd := t, d := 0, a := 0, b := 0, c := 0, ord := ⟨false, false, .dev⟩, mods := noMods }] = true := by decide

/-- R156, R275. -/
theorem test_refused_scope2 : refused .scope [
    .cpyCk { gd := t, d := 0, a := 0, b := 0, c := 0, ord := ⟨false, false, .dev⟩, mods := noMods },
    .cpyCkc { gd := t, d := 0, a := 0, b := 0, c := 0, ord := ⟨false, false, .dev⟩, mods := noMods },
    .cpyIna { gd := t, d := 0, a := 0, b := 0, c := 0, ord := ⟨false, false, .dev⟩, mods := noMods },
    .cpyOuta { gd := t, d := 0, a := 0, b := 0, c := 0, ord := ⟨false, false, .dev⟩, mods := noMods },
    .cpygat { gd := t, d := 0, a := 0, b := 0, c := 0, ord := ⟨false, false, .dev⟩, mods := noMods },
    .mred { gd := t, d := 0, a := 0, b := 0, c := 0, fn := .f32, ord := ⟨false, false, .dev⟩, mods := noMods },
    .ld32 { gd := t, u := false, d := 0, a := 0, imm := 0, space := .arm, mode := .zx, el := 0, acq := true, scope := .blk, la := 0 },
    .ctr { gd := t, tile := 0, a := 0, b := 0, c := 0, scope := .dev, map := false, shV := false, amode := .row, bmode := .row, j := 0, prio := 0, la := 0 },
    .fence { gd := t, acq := false, rel := false, scope := .dev }] = true := by decide

/-- R31. -/
theorem test_refused_level : refused .level [
    .tktwait { gd := t, level := 0 }] = true := by decide

/-- The word is refused under the name. -/
def bad (w0 w1 : Word) (e : Illegal) : Bool := decide (errOf (decode w0 w1) = some e)

/-- Words that are no instruction (R83): reserved operation numbers; bit [0] of a U word (R74); a guard on `rjoin` and on `frame` (R141, R146);
an X-class word with [30] = 0 (R72); a lookahead on `iadd` (R61); rnd = 5 on `fadd` (R51); scope 7 on `ld32` (R3); an unused field of an X word. -/
theorem test_words_refused : (bad 0xFFFFFFFF 0 .reservedOpcode && bad 0x7FFFFFFF 0 .reservedOpcode && bad 0x80000001 0 .reservedField
    && bad 0x6B800000 0 .guardForm && bad 0x2C104000 0 .guardForm && bad 0x04800000 0 .noExtension && bad 0x419869DC 0x30000000 .lookahead
    && bad 0x5812413C 0x0A000000 .rounding && bad 0x7110A01C 0xB800 .scope && bad 0x419869DC 0x70 .reservedField) = true := by decide

/-! ### Single instructions, with results worked from the spec -/

/-- v[r] of lane k after an instruction that every lane executes. -/
def v (o : Out) (k r : Nat) : Word := (laneAfter o k).v 64 r

/-- s[r] after an instruction. -/
def sreg (o : Out) (r : Nat) : Word := (cordAfter o).s 0 r

/-- The state that an instruction leaves. -/
def left (o : Out) (s : State) : State :=
  match o with
  | .next t => t
  | _ => s

/-- v1, v2 and v3 of every lane. -/
def abc (a b c : Nat) : State := withV 1 (fun _ => a) (withV 2 (fun _ => b) (withV 3 (fun _ => c) start))

/-- Lanes 0, 1, 5 and 6, as the case of R135 has them: their p1 is true, and v1 holds 2^24 in lane 0 and 1.0 in the others. -/
def four : State :=
  withV 1 (fun k => if k = 0 then 0x4B800000 else 0x3F800000) (onLanes (fun k l => l.setP 1 (k = 0 || k = 1 || k = 5 || k = 6)) start)

/-- R108: 32-bit addition wraps. -/
theorem test_iadd_wraps : v (exec (.iadd { gd := t, u := false, d := 4, a := 1, b := 2, ty := .none, sat := false, wide := false }) (abc 0xFFFFFFFF 3 0)) 9 4 = 2 := by decide +kernel

/-- R108: `iadd.n32.sat` of 0xFFFF_FFF0 and 0x20 gives 0xFFFF_FFFF. -/
theorem test_iadd_saturates :
    v (exec (.iadd { gd := t, u := false, d := 4, a := 1, b := 2, ty := .n32, sat := true, wide := true }) (abc 0xFFFFFFF0 0x20 0)) 0 4 = 0xFFFFFFFF := by decide +kernel

/-- R108: `isub.n32.sat` of 3 and 5 gives 0. -/
theorem test_isub_saturates : v (exec (.isub { gd := t, u := false, d := 4, a := 1, b := 2, ty := .n32, sat := true, wide := true }) (abc 3 5 0)) 0 4 = 0 := by decide +kernel

/-- R108: −1 · −1 has the high word 0, and 0xFFFF_FFFF squared has the high word 0xFFFF_FFFE. -/
theorem test_imulh : v (exec (.imulhs { gd := t, u := false, d := 4, a := 1, b := 2, wide := false }) (abc 0xFFFFFFFF 0xFFFFFFFF 0)) 0 4 = 0
    ∧ v (exec (.imulhn { gd := t, u := false, d := 4, a := 1, b := 2, wide := false }) (abc 0xFFFFFFFF 0xFFFFFFFF 0)) 0 4 = 0xFFFFFFFE := by decide +kernel

/-- R108: `iabs` of 0x8000_0000 gives 0x8000_0000, and gives 0x7FFF_FFFF with `.s32.sat`. -/
theorem test_iabs_corner : v (exec (.iabs { gd := t, u := false, d := 4, a := 1, ty := .none, sat := false, wide := false }) (abc 0x80000000 0 0)) 0 4 = 0x80000000
    ∧ v (exec (.iabs { gd := t, u := false, d := 4, a := 1, ty := .s32, sat := true, wide := true }) (abc 0x80000000 0 0)) 0 4 = 0x7FFFFFFF := by decide +kernel

/-- R109: a shift amount of 32 to 255 empties the register or fills it with the sign; bits [31:8] are ignored. -/
theorem test_shifts : v (exec (.shl { gd := t, u := false, d := 4, a := 1, b := 2, wide := false }) (abc 0x80000001 32 0)) 0 4 = 0
    ∧ v (exec (.shra { gd := t, u := false, d := 4, a := 1, b := 2, wide := false }) (abc 0x80000001 200 0)) 0 4 = 0xFFFFFFFF
    ∧ v (exec (.shrl { gd := t, u := false, d := 4, a := 1, b := 2, wide := false }) (abc 0x80000001 0x101 0)) 0 4 = 0x40000000 := by decide +kernel

/-- R109, R110: leading zeros of 0, a signed field, and an inserted field. -/
theorem test_bits : v (exec (.clz { gd := t, u := false, d := 4, a := 1, wide := false }) (abc 0 0 0)) 0 4 = 32
    ∧ v (exec (.bfx { gd := t, u := false, d := 4, a := 1, sx := true, pos := 4, wm1 := 7 }) (abc 0x00000F80 0 0)) 0 4 = 0xFFFFFFF8
    ∧ v (exec (.bfi { gd := t, u := false, d := 3, a := 1, sx := false, pos := 8, wm1 := 3 }) (abc 0x25 0 0xFFFFFFFF)) 0 3 = 0xFFFFF5FF := by decide +kernel

/-- R112: `vacs2.s16` of the words of its example writes 0x000B_000D, with p2 false and p3 true. -/
theorem test_vacs2 :
    let o := exec (.vacs2 { gd := t, u := false, d := 4, a := 1, b := 2, c := 3, ty := .s16, pd := 2 }) (abc 0x0007000A 0x00050003 0x00010006)
    v o 0 4 = 0x000B000D ∧ (laneAfter o 0).pred 2 = false ∧ (laneAfter o 0).pred 3 = true := by decide +kernel

/-- R130: c selects byte 7, byte 0 with its sign, byte 4 and byte 3 for bytes 0 to 3. -/
theorem test_perm : v (exec (.perm { gd := t, u := false, d := 4, a := 1, b := 2, c := 3 }) (abc 0x44332291 0x88776655 0x3487)) 0 4 = 0x4455FF88 := by decide +kernel

/-- R113: −1 is below 1 as a signed number and above it as a natural one. -/
theorem test_icmp : (laneAfter (exec (.icmp { gd := t, u := false, pd := 1, a := 1, b := 2, ty := .s32, cond := .lt }) (abc 0xFFFFFFFF 1 0)) 3).pred 1 = true
    ∧ (laneAfter (exec (.icmp { gd := t, u := false, pd := 1, a := 1, b := 2, ty := .n32, cond := .lt }) (abc 0xFFFFFFFF 1 0)) 3).pred 1 = false := by decide +kernel

/-- R52: 1.0 + 2^-24 is a tie, which goes to the even 1.0 under `.rn` and up under `.ru`; both are inexact. -/
theorem test_fadd : v (exec (.fadd { gd := t, u := false, d := 4, a := 1, b := 2, ty := .none, rnd := .rn, sat := false, wide := false }) (abc 0x3F800000 0x33800000 0)) 0 4 = 0x3F800000
    ∧ (cordAfter (exec (.fadd { gd := t, u := false, d := 4, a := 1, b := 2, ty := .none, rnd := .ru, sat := false, wide := true }) (abc 0x3F800000 0x33800000 0))).fpf = 1
    ∧ v (exec (.fadd { gd := t, u := false, d := 4, a := 1, b := 2, ty := .none, rnd := .ru, sat := false, wide := true }) (abc 0x3F800000 0x33800000 0)) 0 4 = 0x3F800001 := by decide +kernel

/-- R43: ∞ − ∞ is the canonical NaN and sets the invalid flag. -/
theorem test_fsub_nan : v (exec (.fsub { gd := t, u := false, d := 4, a := 1, b := 2, ty := .none, rnd := .rn, sat := false, wide := false }) (abc 0x7F800000 0x7F800000 0)) 0 4 = 0x7FC00000
    ∧ (cordAfter (exec (.fsub { gd := t, u := false, d := 4, a := 1, b := 2, ty := .none, rnd := .rn, sat := false, wide := false }) (abc 0x7F800000 0x7F800000 0))).fpf = 16 := by decide +kernel

/-- R52: −1,000 converted to E4M3 gives 0x7F under `.rn` and 0xFE under `.rz`; 127.6 gives 127 as `.s8`, with invalid and inexact. -/
theorem test_cvt_overflow : v (exec (.cvt { gd := t, u := false, d := 4, a := 1, t1 := .e4m3, t2 := .f32, el := 0, rnd := .rn, sat := false }) (abc 0xC47A0000 0 0)) 0 4 = 0x7F
    ∧ v (exec (.cvt { gd := t, u := false, d := 4, a := 1, t1 := .e4m3, t2 := .f32, el := 0, rnd := .rz, sat := false }) (abc 0xC47A0000 0 0)) 0 4 = 0xFE
    ∧ v (exec (.cvt { gd := t, u := false, d := 4, a := 1, t1 := .s8, t2 := .f32, el := 0, rnd := .rn, sat := false }) (abc 0x42FF3333 0 0)) 0 4 = 127
    ∧ (cordAfter (exec (.cvt { gd := t, u := false, d := 4, a := 1, t1 := .s8, t2 := .f32, el := 0, rnd := .rn, sat := false }) (abc 0x42FF3333 0 0))).fpf = 17 := by decide +kernel

/-- R54, R55: from state 0, 0x3F80_F000 converted to BF16 with a draw gives 0x3F81, and the state becomes 0x1405_7B7E_F767_814F. -/
theorem test_cvt_stochastic :
    let o := exec (.cvt { gd := t, u := false, d := 4, a := 1, t1 := .bf16, t2 := .f32, el := 0, rnd := .sr, sat := false }) (onLanes (fun _ l => { l with rng := 0 }) (abc 0x3F80F000 0 0))
    v o 7 4 = 0x3F81 ∧ (laneAfter o 7).rng = 0x14057B7EF767814F := by decide +kernel

/-- R128: `pk4.el1.q4` of 2.5 and −7.0 under the scale byte 0x61 writes 0x0000_E200, and sets inexact. -/
theorem test_pk4_q4 :
    let o := exec (.pk4 { gd := t, u := false, d := 4, a := 1, b := 2, c := 3, ty := .q4, j := 1, rnd := .rn, sat := false }) (abc 0x40200000 0xC0E00000 0x61)
    v o 0 4 = 0xE200 ∧ (cordAfter o).fpf = 1 := by decide +kernel

/-- R128: `upk.el3.f32.q4` of 0x0000_E200 writes −8.0. -/
theorem test_upk_q4 :
    v (exec (.upk { gd := t, u := false, d := 4, a := 1, b := 3, t1 := .f32, t2 := .q4, el := 3 }) (abc 0xE200 0 0x61)) 0 4 = 0xC1000000 := by decide +kernel

/-- R129: 0x0001 is a positive subnormal of BF16. -/
theorem test_fpclass : v (exec (.fpclass { gd := t, u := false, d := 4, a := 1, ty := .bf16 }) (abc 0x00010001 0 0)) 0 4 = 0x20 := by decide +kernel

/-- R55, R118: the first draw from state 0. -/
theorem test_rng : v (exec (.rng { gd := t, d := 4, wide := false }) (onLanes (fun _ l => { l with rng := 0 }) start)) 31 4 = 0x14057B7E := by decide +kernel

/-- R135: the tree of `lred` gives 0x4B80_0001 in lanes 0, 1, 5 and 6 and sets inexact; lane 2 keeps v4. -/
theorem test_lred :
    let o := exec (.lred { gd := ⟨1,false⟩, d := 4, a := 1, op := .add, ty := .f32, rnd := .rn }) four
    v o 0 4 = 0x4B800001 ∧ v o 6 4 = 0x4B800001 ∧ v o 2 4 = 0 ∧ (cordAfter o).fpf = 1 := by decide +kernel

/-- R43: `lred` of one contributing lane, whose value is a NaN with its sign and a payload, writes the canonical NaN. -/
theorem test_lred_nan : v (exec (.lred { gd := ⟨1,false⟩, d := 4, a := 1, op := .add, ty := .f32, rnd := .rn })
    (withV 1 (fun _ => 0xFFC00001) (onLanes (fun k l => l.setP 1 (k = 5)) start))) 5 4 = 0x7FC00000 := by decide +kernel

/-- R135: the order of `lscan` gives 0x4B80_0000 in lanes 0, 1, 5 and 6. -/
theorem test_lscan :
    let o := exec (.lscan { gd := ⟨1,false⟩, d := 4, a := 1, op := .add, ty := .f32, rnd := .rn }) four
    v o 1 4 = 0x4B800000 ∧ v o 6 4 = 0x4B800000 ∧ v o 7 4 = 0 := by decide +kernel

/-- R132: lane 5 reads lane 4 under `.xor` with 1; lane 31 has no lane above it under `.down` and keeps its own value. -/
theorem test_shfl : v (exec (.shfl { gd := t, d := 4, a := 1, b := 2, mode := .xor }) (withV 1 (fun k => 100 + k) (withV 2 (fun _ => 1) start))) 5 4 = 104
    ∧ v (exec (.shfl { gd := t, d := 4, a := 1, b := 2, mode := .down }) (withV 1 (fun k => 100 + k) (withV 2 (fun _ => 1) start))) 31 4 = 131 := by
  decide +kernel

/-- R133: the ballot of p1 over the lanes of `four`. -/
theorem test_ballot : v (exec (.vote { gd := t, d := 4, a := 1, mode := .ballot }) four) 30 4 = 0x63 := by decide +kernel

/-- R104: s0 reads 0 and a write of it is discarded. -/
theorem test_s0 : sreg (exec (.sadd { gd := t, u := false, d := 0, a := 1, b := 1, ty := .none, sat := false, wide := false }) (withS 1 7 start)) 0 = 0
    ∧ sreg (exec (.sadd { gd := t, u := false, d := 2, a := 1, b := 1, ty := .none, sat := false, wide := false }) (withS 1 7 start)) 2 = 14 := by decide +kernel

/-- R147: `trap 0x2A` parks each lane on the instruction with cause SW_TRAP and the code. -/
theorem test_trap :
    let o := exec (.trap { gd := t, code := 0x2A }) start
    (laneAfter o 4).st = .park ∧ (laneAfter o 4).pc = 0x1000 ∧ (cordAfter o).cause = cSwTrap ∧ (cordAfter o).tval = 0x2A := by
  decide +kernel

/-- R75, R138: five words forward of 0x1000. -/
theorem test_bra : (laneAfter (exec (.bra { hint := .none, gd := t, off := 5 }) start) 0).pc = 0x1014 ∧ (laneAfter (exec (.bra { hint := .none, gd := t, off := 0x1FFFF }) start) 0).pc = 0xFFC := by
  decide +kernel

/-- R152: the low byte of each lane's register. -/
theorem test_st8 : ((left (exec (.st8 { gd := t, u := false, a := 1, b := 2, imm := 0, space := .lin, el := 0, rel := false, scope := .lane, la := 0 }) (withV 1 (fun k => k) (withV 2 (fun k => 0x1240 + k) start))) start).core 0).spad.get 5 = 0x45 := by
  decide +kernel

/-- R85, stage 1 of the running example: 16 · 1.0 · 0.5 is the sum of group 0, and 16.0 stands in a0[0][0] after group 1. -/
theorem test_contraction :
    let vecs := (List.range 64).map (fun k => if k < 32 then (0x38 : Byte) else 0x30)
    let s := withV 3 (fun k => k) (withV 5 (fun k => 32 + k) (withS 2 0x33 (withSp 0 vecs start)))
    let s := left (exec (.ctr { gd := t, tile := 0, a := 3, b := 5, c := 2, scope := .cord, map := false, shV := false, amode := .row, bmode := .row, j := 0, prio := 0, la := 0 }) s) s
    let s := left (exec (.contractionGroup 0 0 0) s) s
    (s.core 0).elemAt 0 0 0 = 0x41000000
    ∧ ((left (exec (.contractionGroup 0 0 0) s) s).core 0).elemAt 0 0 0 = 0x41800000 := by decide +kernel

/-- R203, stage 1 of the running example: 16.0 drained as BF16 is 0x80, 0x41 at bytes 64 and 65. -/
theorem test_acdrain :
    let s := withS 2 0x33 (onCore (fun c => c.setElem 0 0 0 0x41800000) start)
    ((left (exec (.acdrain { gd := t, tile := 0, a := 0, b := 2, skw := false, ty := .bf16, rnd := .rn, sat := false, imm := 64, la := 0 }) s) s).core 0).spad.read 64 3 = [0x80, 0x41, 0] := by decide +kernel

/-- R308: the example address reaches physical 0x40_0156_7890 through entry 0x150 at level 3, 9 at level 2 and 1 at level 1. -/
theorem test_walk :
    let table := ((Mem.write [] (0x10000 + 8 * 0x150) (natLe 64 0x0050000000020001)).write (0x20000 + 8 * 9)
      (natLe 64 0x0050000000030001)).write (0x30000 + 8 * 1) (natLe 64 0x005000400000000F)
    (walk { State.reset with hbm := table } 5 0x000A802403567890 4 0x10000).toOption.map (fun e => (e.bits, pteAddr e.leaf + 0x000A802403567890 % 2 ^ e.bits))
      = some (25, 0x4001567890) := by decide +kernel

/-- FIPS 202 (log entry 16): SHAKE256 of the empty message begins 46 b9 dd 2b 0b a8 8d 13. -/
theorem test_shake256 : (shake256 []).take 8 = [0x46, 0xB9, 0xDD, 0x2B, 0x0B, 0xA8, 0x8D, 0x13] := by decide +kernel

/-- A word placed where `step` fetches runs: `movi v4, 0x1234` for every lane. -/
theorem test_step :
    let o := step (State.reset.withFetchWord 64 0x00001234_4108001C)
    v o 0 4 = 0x1234 ∧ (laneAfter o 0).pc = 0x1008 := by decide +kernel

/-- Cord 1 of the block writes 1 and then 2 to core 0's scratchpad word 0, which held 0 (Example 4 of R272). -/
def raced : State :=
  let put (x : Byte) (s : State) : State := (withSp 0 [x, 0, 0, 0] s).wrote (.cord 0 0 1) (.sp 0 0) 4 .plain
  put 2 (put 1 (start.track (.sp 0 0)))

/-- R268, R272: a racy read gives any write that no later one has come before for its reader; after the last it gives no earlier one. -/
theorem test_racy_read :
    let gives (s : State) (x : Word) : Bool :=
      (cordAfter (exec (.ld32 { gd := t, u := false, d := 4, a := 1, imm := 0, space := .lin, mode := .zx, el := 0, acq := false, scope := .lane, la := 0 }) s)).inflight.any (fun f => f.owed.contains (.v 0 4 x))
    let sees (s : State) (n : Nat) : State := s.pick (.cord 0 0 0) (.sp 0 0) 4 n
    let after (s : State) : State := left (exec (.ld32 { gd := t, u := false, d := 4, a := 1, imm := 0, space := .lin, mode := .zx, el := 0, acq := false, scope := .lane, la := 0 }) s) s
    gives (sees raced 0) 0 = true ∧ gives (sees raced 1) 1 = true ∧ gives raced 2 = true
    ∧ gives (sees (after (sees raced 1)) 0) 0 = false ∧ gives (sees (after raced) 1) 2 = true := by decide +kernel

/-- R265: a read counts the error that the code corrects in the word, and a write of the whole word leaves none. -/
theorem test_corrected :
    let s := onCore (fun c => { c with soft := [(.scratchpad, 0)] }) (withS 1 0 start)
    ((left (exec (.sld32 { gd := t, d := 2, a := 1, imm := 0, skw := false, acq := false, scope := .lane }) s) s).core 0).ce.get 0 0 = 1
    ∧ ((left (exec (.sst64 { gd := t, a := 1, b := 2, imm := 0, skw := false, rel := false, scope := .lane }) s) s).core 0).soft = [] := by decide +kernel

/-! ### Every hypothesis of a statement is met somewhere -/

theorem witness_LaneMoveAndLogic : (
    (meets (.nop { gd := t, u := false, wide := false }) start (fun _ _ => true))
    && (meets (.mov { gd := t, u := false, d := 1, a := 2, wide := false }) start (fun _ _ => true))
    && (meets (.movi { gd := t, u := false, d := 1, imm := 0 }) start (fun _ _ => true))
    && (meets (.and { gd := t, u := false, d := 1, a := 0, b := 0, wide := false }) start (fun _ _ => true))
    && (meets (.or { gd := t, u := false, d := 1, a := 0, b := 0, wide := false }) start (fun _ _ => true))
    && (meets (.xor { gd := t, u := false, d := 1, a := 0, b := 0, wide := false }) start (fun _ _ => true))
    && (meets (.andn { gd := t, u := false, d := 1, a := 0, b := 0, wide := false }) start (fun _ _ => true))
    && (meets (.andi { gd := t, u := false, d := 1, a := 0, imm := 0 }) start (fun _ _ => true))
    && (meets (.ori { gd := t, u := false, d := 1, a := 0, imm := 0 }) start (fun _ _ => true))
    && (meets (.xori { gd := t, u := false, d := 1, a := 0, imm := 0 }) start (fun _ _ => true))
    && (meets (.sel { sel := t, u := false, d := 1, a := 0, b := 0, wide := false }) start (fun _ _ => true))) = true := by decide +kernel

theorem witness_LaneAddAndMultiply : (
    (meets (.iadd { gd := t, u := false, d := 1, a := 2, b := 3, ty := .none, sat := false, wide := false }) start (fun _ _ => true))
    && (meets (.iadd { gd := t, u := false, d := 2, a := 4, b := 6, ty := .s64, sat := false, wide := false }) start (fun _ _ => true))
    && (meets (.isub { gd := t, u := false, d := 1, a := 0, b := 0, ty := .none, sat := false, wide := false }) start (fun _ _ => true))
    && (meets (.isub { gd := t, u := false, d := 2, a := 4, b := 6, ty := .n64, sat := false, wide := false }) start (fun _ _ => true))
    && (meets (.iaddi { gd := t, u := false, d := 1, a := 0, imm := 0 }) start (fun _ _ => true))
    && (meets (.imul { gd := t, u := false, d := 1, a := 0, b := 0, wide := false }) start (fun _ _ => true))
    && (meets (.imulhs { gd := t, u := false, d := 1, a := 0, b := 0, wide := false }) start (fun _ _ => true))
    && (meets (.imulhn { gd := t, u := false, d := 1, a := 0, b := 0, wide := false }) start (fun _ _ => true))
    && (meets (.imad { gd := t, u := false, d := 1, a := 0, b := 0, c := 0, ty := .none, sat := false }) start (fun _ _ => true))
    && (meets (.iabs { gd := t, u := false, d := 1, a := 0, ty := .none, sat := false, wide := false }) start (fun _ _ => true))
    && (meets (.ineg { gd := t, u := false, d := 1, a := 0, ty := .none, sat := false, wide := false }) start (fun _ _ => true))
    && (decide (Ty.none.is64 = false ∧ Ty.s64.is64 = true ∧ Ty.n64.is64 = true))) = true := by decide +kernel

theorem witness_IntegerTypes : (
    (decide (Ty.s8.isInt = true ∧ 128 < 2 ^ Ty.s8.width))) = true := by decide +kernel

theorem witness_LaneShiftsAndBitFields : (
    (meets (.bfx { gd := t, u := false, d := 1, a := 0, sx := false, pos := 0, wm1 := 0 }) start (fun _ _ => true))
    && (meets (.bfi { gd := t, u := false, d := 1, a := 0, sx := false, pos := 0, wm1 := 0 }) start (fun _ _ => true))
    && (meets (.popc { gd := t, u := false, d := 1, a := 0, wide := false }) start (fun _ _ => true))
    && (meets (.clz { gd := t, u := false, d := 1, a := 0, wide := false }) start (fun _ _ => true))
    && (meets (.brev { gd := t, u := false, d := 1, a := 0, wide := false }) start (fun _ _ => true))
    && (meets (.lea { gd := t, u := false, d := 2, a := 4, b := 0, sx := false, shift := 0 }) start (fun _ _ => true))
    && (meets (.imins { gd := t, u := false, d := 1, a := 0, b := 0, wide := false }) start (fun _ _ => true))
    && (meets (.imaxs { gd := t, u := false, d := 1, a := 0, b := 0, wide := false }) start (fun _ _ => true))
    && (meets (.iminn { gd := t, u := false, d := 1, a := 0, b := 0, wide := false }) start (fun _ _ => true))
    && (meets (.imaxn { gd := t, u := false, d := 1, a := 0, b := 0, wide := false }) start (fun _ _ => true))
    && (meets (.shl { gd := t, u := false, d := 1, a := 0, b := 0, wide := false }) start (fun _ _ => true))
    && (meets (.shrl { gd := t, u := false, d := 1, a := 0, b := 0, wide := false }) start (fun _ _ => true))
    && (meets (.shra { gd := t, u := false, d := 1, a := 0, b := 0, wide := false }) start (fun _ _ => true))
    && (meets (.shli { gd := t, u := false, d := 1, a := 0, amt := 0 }) start (fun _ _ => true))
    && (meets (.shrli { gd := t, u := false, d := 1, a := 0, amt := 0 }) start (fun _ _ => true))
    && (meets (.shrai { gd := t, u := false, d := 1, a := 0, amt := 0 }) start (fun _ _ => true))) = true := by decide +kernel

theorem witness_PermuteBytes : (
    (meets (.perm { gd := t, u := false, d := 1, a := 2, b := 3, c := 4 }) start (fun _ _ => true))
    && ((encode ((.perm { gd := t, u := false, d := 1, a := 0, b := 0, c := 0 }))).isSome)) = true := by decide +kernel

theorem witness_LanePacked : (
    (meets (.vadd2 { gd := t, u := false, d := 1, a := 0, b := 0, ty := .none, sat := false, wide := false }) start (fun _ _ => true))
    && (meets (.vsub2 { gd := t, u := false, d := 1, a := 0, b := 0, ty := .none, sat := false, wide := false }) start (fun _ _ => true))
    && (meets (.vmax2s { gd := t, u := false, d := 1, a := 0, b := 0, wide := false }) start (fun _ _ => true))
    && (meets (.vmax2n { gd := t, u := false, d := 1, a := 0, b := 0, wide := false }) start (fun _ _ => true))
    && (meets (.vmin2s { gd := t, u := false, d := 1, a := 0, b := 0, wide := false }) start (fun _ _ => true))
    && (meets (.vmin2n { gd := t, u := false, d := 1, a := 0, b := 0, wide := false }) start (fun _ _ => true))
    && (meets (.vacs2 { gd := t, u := false, d := 1, a := 0, b := 0, c := 0, ty := .s16, pd := 0 }) start (fun _ _ => true))) = true := by decide +kernel

theorem witness_LanePredicates : (
    (meets (.icmp { gd := t, u := false, pd := 0, a := 0, b := 0, ty := .s32, cond := .eq }) start (fun _ _ => true))
    && (meets (.icmp { gd := t, u := false, pd := 0, a := 2, b := 4, ty := .s64, cond := .eq }) start (fun _ _ => true))
    && (meets (.fcmp { gd := t, u := false, pd := 0, a := 0, b := 0, ty := .none, cond := .eq }) start (fun _ _ => true))
    && (meets (.plog { gd := t, u := false, pd := 0, pa := 0, pb := 0, op := .and }) start (fun _ _ => true))
    && (meets (.pmovTov { gd := t, u := false, r := 1 }) start (fun _ _ => true))
    && (meets (.pmovFrv { gd := t, u := false, r := 1 }) start (fun _ _ => true))
    && (decide (Ty.s32.is64 = false ∧ Ty.s64.is64 = true))) = true := by decide +kernel

theorem witness_ConstantRegisters : (
    (inRange 64 5 && inRange 64 63)
    && ((match start.cord? r0 with
      | none => false
      | some c => inRange c.ubud 5 && inRange c.ubud 63))) = true := by decide +kernel

theorem witness_LaneFloat : (
    (meets (.fadd { gd := t, u := false, d := 1, a := 0, b := 0, ty := .none, rnd := .rn, sat := false, wide := false }) start (fun _ _ => true))
    && (meets (.fsub { gd := t, u := false, d := 1, a := 0, b := 0, ty := .none, rnd := .rn, sat := false, wide := false }) start (fun _ _ => true))
    && (meets (.fmul { gd := t, u := false, d := 1, a := 0, b := 0, ty := .none, rnd := .rn, sat := false, wide := false }) start (fun _ _ => true))
    && (meets (.ffma { gd := t, u := false, d := 1, a := 0, b := 0, c := 0, ty := .none, rnd := .sr, sat := false }) start (fun _ _ => true))
    && (meets (.fmin { gd := t, u := false, d := 1, a := 0, b := 0, ty := .none, rnd := .rn, sat := false, wide := false }) start (fun _ _ => true))
    && (meets (.fmax { gd := t, u := false, d := 1, a := 0, b := 0, ty := .none, rnd := .rn, sat := false, wide := false }) start (fun _ _ => true))
    && (meets (.fabs { gd := t, u := false, d := 1, a := 0, ty := .none, wide := false }) start (fun _ _ => true))
    && (meets (.fneg { gd := t, u := false, d := 1, a := 0, ty := .none, wide := false }) start (fun _ _ => true))
    && ([0x3F800000, 0xBF800000, 0].all (fun w => match Fmt.f32.decode w with
      | .fin .. => true
      | _ => false) && Fmt.f32.decode 0x3F800000 == .fin false (2 ^ 23) (-23) && Fmt.f32.decode 0xBF800000 == .fin true (2 ^ 23) (-23))
    && (Fmt.f32.decode 0x7FC00000 == .nan && Fmt.f32.decode 0x7F800000 == .inf false && Fmt.f32.decode 0xFF800000 == .inf true
      && Fmt.f32.decode 0x80000000 == .fin true 0 (-149) && Fmt.f32.decode 0 == .fin false 0 (-149))) = true := by decide +kernel

theorem witness_Rounding : (
    (decide (0x3F800000 < 2 ^ (1 + Fmt.f32.eb + Fmt.f32.mb)) && !(Fmt.f32.decode 0x3F800000).isNan)) = true := by decide +kernel

theorem witness_LaneHalfAndConvert : (
    (meets (.hfma2 { gd := t, u := false, d := 1, a := 0, b := 0, c := 0, ty := .f16, rnd := .rn, sat := false }) start (fun _ _ => true))
    && (meets (.hadd2 { gd := t, u := false, d := 1, a := 0, b := 0, ty := .bf16, rnd := .rn, sat := false }) start (fun _ _ => true))
    && (meets (.cvt { gd := t, u := false, d := 1, a := 0, t1 := .bf16, t2 := .f32, el := 0, rnd := .rn, sat := false }) start (fun _ _ => true))
    && (meets (.cvt { gd := t, u := false, d := 2, a := 0, t1 := .s64, t2 := .f32, el := 0, rnd := .rn, sat := false }) start (fun _ _ => true))
    && (meets (.pk4 { gd := t, u := false, d := 1, a := 0, b := 0, c := 0, ty := .e4m3, j := 0, rnd := .rn, sat := false }) start (fun _ _ => true))
    && (meets (.upk { gd := t, u := false, d := 1, a := 0, b := 0, t1 := .f32, t2 := .e4m3, el := 0 }) start (fun _ _ => true))
    && (meets (.fpclass { gd := t, u := false, d := 1, a := 0, ty := .f16 }) start (fun _ _ => true))
    && (decide (Ty.bf16.is64 = false ∧ Ty.s64.is64 = true ∧ isFloat .bf16 = true ∧ isFloat .s8 = false))
    && ((match (Fmt.ofTy .bf16).decode 0x3F80 with
      | .fin _ m _ => m != 0
      | _ => false) && (match (Fmt.ofTy .bf16).decode 0 with
      | .fin _ m _ => m == 0
      | _ => false))
    && ((Fmt.f16.decode 0x7E00).isNan && Fmt.f16.decode 0xFC00 == .inf true && Fmt.f16.decode 0x3C00 == .fin false 1024 (-10) && Fmt.f16.decode 0x8001 == .fin true 1 (-24)
      && Fmt.f16.decode 0x8000 == .fin true 0 (-24) && (q4Decode 0x61 0xE).isNan == false && (q4Decode 0xFF 0xE).isNan)
    && (decide (0xE < 2 ^ Ty.q4.width ∧ 0x80 < 2 ^ Ty.s8.width ∧ 0xFFFF < 2 ^ Ty.n16.width ∧ (0x61 : Nat) < 256))) = true := by decide +kernel

theorem witness_LaneApproximate : (
    (meets (.frcp { gd := t, u := false, d := 1, a := 0, ty := .none, rnd := .rn, la := 0 }) start (fun _ _ => true))
    && (meets (.frsq { gd := t, u := false, d := 1, a := 0, ty := .none, rnd := .rn, la := 0 }) start (fun _ _ => true))
    && (meets (.fsqrt { gd := t, u := false, d := 1, a := 0, ty := .none, rnd := .rn, la := 0 }) start (fun _ _ => true))
    && (meets (.fexp2 { gd := t, u := false, d := 1, a := 0, ty := .none, rnd := .rn, la := 0 }) start (fun _ _ => true))
    && (meets (.flog2 { gd := t, u := false, d := 1, a := 0, ty := .none, rnd := .rn, la := 0 }) start (fun _ _ => true))
    && ((match (onCord (fun c => { c with inflight := [{ left := 0, uses := uses ((.frcp { gd := t, u := false, d := 1, a := 0, ty := .none, rnd := .rn, la := 0 })), owed := [.v 0 1 5] }] }) start).cord? r0 with
      | none => false
      | some c => (match c.inflight[0]? with
        | none => false
        | some f => f.owed.all (fun o => o != .gather 0) && c.gathers.isEmpty)))
    && ((Fmt.f32.decode 0x7FC00000).isNan && Fmt.f32.decode 0xFF800000 == .inf true && Fmt.f32.decode 0x80000000 == .fin true 0 (-149)
      && Fmt.f32.decode 0x40400000 == .fin false 12582912 (-22) && Fmt.f32.decode 0xC0400000 == .fin true 12582912 (-22)
      && Fmt.f32.decode 0x43000000 == .fin false (2 ^ 23) (-16) && Fmt.f32.decode 0x3F000000 == .fin false (2 ^ 23) (-24)
      && decide ((128 : ℚ) ≤ (2 : ℚ) ^ 23 / 2 ^ 16 ∧ ((2 : ℚ) ^ 23 / 2 ^ 24 = (2 : ℚ) ^ (-1 : Int)) ∧ ((12582912 : ℚ) / 2 ^ 22 = ((3 : Int) : ℚ)) ∧ (-149 : Int) ≤ 3 ∧ (3 : Int) ≤ 127))) = true := by decide +kernel

theorem witness_SpecialRegisterReads : (
    (meets (.srd { gd := t, u := false, d := 1, idx := 0x17 }) start (fun _ _ => true))
    && (meets (.ssrd { gd := t, u := false, d := 1, idx := 0x1A }) start (fun _ _ => true))
    && ((match here start with
      | none => false
      | some h => !h.block.det && !(h.cord.lane 0).handles))
    && ((match here (onBlock (fun b => { b with det := true }) (onLanes (fun _ l => { l with frames := Frame.base :: l.frames }) start)) with
      | none => false
      | some h => h.block.det && (h.cord.lane 0).handles))
    && ((match here start, here (onBlock (fun b => { b with task := some ⟨3, .empty⟩ }) start) with
      | some h, some g => h.block.task.isNone && g.block.task.any (fun t => t.depth == 3)
      | _, _ => false))) = true := by decide +kernel

theorem witness_RandomDraw : (
    (meets (.rng { gd := t, d := 1, wide := false }) start (fun _ _ => true))) = true := by decide +kernel

theorem witness_SpecialRegisterWrites : (
    (meets (.sswr { gd := t, idx := 0x15, a := 1 }) start (fun _ _ => true))
    && (meets (.sswr { gd := t, idx := 0x16, a := 1 }) start (fun _ _ => true))
    && (meets (.sswr { gd := t, idx := 0x19, a := 1 }) start (fun _ _ => true))
    && (meets (.sswr { gd := t, idx := 0x1C, a := 1 }) start (fun _ _ => true))
    && (meets (.sswr { gd := t, idx := 0x1D, a := 1 }) start (fun _ _ => true))
    && (meets (.sswr { gd := t, idx := 0x1E, a := 1 }) start (fun _ _ => true))) = true := by decide +kernel

theorem witness_IssueChecks : (
    (issues ((.smov { gd := ⟨0,false⟩, u := false, d := 1, a := 0, wide := false })) start (fun h => !guardOn h.cord ((.smov { gd := ⟨0,false⟩, u := false, d := 1, a := 0, wide := false }))))
    && (issues ((.swr { gd := t, idx := 0x10, a := 1 })) start (fun h => guardOn h.cord ((.swr { gd := t, idx := 0x10, a := 1 })) && privileged ((.swr { gd := t, idx := 0x10, a := 1 })) h && !(actors h ((.swr { gd := t, idx := 0x10, a := 1 }))).isEmpty))
    && (issues ((.hret { gd := t, a := 1 })) start (fun h => guardOn h.cord ((.hret { gd := t, a := 1 })) && privileged ((.hret { gd := t, a := 1 })) h && !(actors h ((.hret { gd := t, a := 1 }))).isEmpty))
    && (issues ((.mov { gd := t, u := false, d := 20, a := 0, wide := false })) (onCord (fun c => { c with vbud := 16 }) start) (fun h => guardOn h.cord ((.mov { gd := t, u := false, d := 20, a := 0, wide := false }))
      && !privileged ((.mov { gd := t, u := false, d := 20, a := 0, wide := false })) h && badReg h.cord (uses ((.mov { gd := t, u := false, d := 20, a := 0, wide := false }))) == some 20))
    && (issues ((.gatom { gd := ⟨0,false⟩, u := false, d := 20, a := 2, b := 5, imm := 0, space := .lin, op := .add, ord := ⟨false, false, .lane⟩, la := 0 })) (onBlock (fun b => { b with det := true }) (onCord (fun c => { c with vbud := 16 }) start))
      (fun h => guardOn h.cord ((.gatom { gd := ⟨0,false⟩, u := false, d := 20, a := 2, b := 5, imm := 0, space := .lin, op := .add, ord := ⟨false, false, .lane⟩, la := 0 })) && privileged ((.gatom { gd := ⟨0,false⟩, u := false, d := 20, a := 2, b := 5, imm := 0, space := .lin, op := .add, ord := ⟨false, false, .lane⟩, la := 0 })) h
        && (actors h ((.gatom { gd := ⟨0,false⟩, u := false, d := 20, a := 2, b := 5, imm := 0, space := .lin, op := .add, ord := ⟨false, false, .lane⟩, la := 0 }))).isEmpty && badReg h.cord (uses ((.gatom { gd := ⟨0,false⟩, u := false, d := 20, a := 2, b := 5, imm := 0, space := .lin, op := .add, ord := ⟨false, false, .lane⟩, la := 0 }))) == some 20))) = true := by decide +kernel

theorem witness_Branches : (
    (meets (.bra { hint := .none, gd := t, off := 5 }) start (fun _ _ => true))
    && (meets (.braLong { hint := .none, gd := t, off := 0x12345 }) start (fun _ _ => true))
    && (meets (.brx { gd := t, a := 1 }) start (fun _ h => (h.active t).all (fun k => (h.v k 1).toNat % 4 == 0)))
    && (meets (.sbra { hint := .none, gd := t, off := 5 }) start (fun _ _ => true))
    && (meets (.sbraLong { hint := .none, gd := t, off := 5 }) start (fun _ _ => true))
    && (meets (.sbrx { gd := t, a := 1 }) start (fun _ h => (h.s 1).toNat % 4 == 0))
    && (meets (.brx { gd := t, a := 1 }) (withV 1 (fun k => k) start) (fun _ h => !((h.active t).filter (fun k => (h.v k 1).toNat % 4 != 0)).isEmpty))
    && (meets (.sbrx { gd := t, a := 1 }) (withS 1 0x1002 start) (fun _ h => (h.s 1).toNat % 4 != 0))) = true := by decide +kernel

theorem witness_Calls : (
    (meets (.call { hint := .none, gd := t, off := 5 }) start (fun _ h => !slideSpills h.cord (h.active t) && (h.active t).all (fun k => decide ((h.cord.lane k).calls < 4095))))
    && (meets (.callLong { hint := .none, gd := t, off := 5 }) start (fun _ h => !slideSpills h.cord (h.active t) && (h.active t).all (fun k => decide ((h.cord.lane k).calls < 4095))))
    && (meets (.callx { gd := t, a := 1 }) (withV 1 (fun _ => 0x1100) start) (fun _ h => !slideSpills h.cord (h.active t) && (h.active t).all (fun k => decide ((h.cord.lane k).calls < 4095)) && (h.active t).all (fun k => (h.v k 1).toNat % 4 == 0)))
    && (meets (.frame { vf := 4, sf := 2, wide := false }) start (fun _ h => decide (4 ≤ winSize h.cord.vbud ∧ 2 ≤ winSize h.cord.ubud)))
    && (meets (.frame { vf := 17, sf := 2, wide := false }) (onCord (fun c => { c with vbud := 32 }) start) (fun _ h => decide (winSize h.cord.vbud < 17)))
    && (meets (.frame { vf := 4, sf := 17, wide := false }) (onCord (fun c => { c with ubud := 32 }) start) (fun _ h => decide (4 ≤ winSize h.cord.vbud ∧ winSize h.cord.ubud < 17)))
    && (meets (.call { hint := .none, gd := t, off := 5 }) (spilling 4 0) (fun s h => true && oneLane h && vSpills h.cord (h.cord.lane 0) == [(0, h.cord.lane 0 |>.frame)] && (uSpills h.cord (h.cord.lane 0)).isEmpty && decide ((h.cord.lane 0).frame.vf = 4 ∧ 4 ≤ ringSize h.cord.vbud) && decide (24 ≤ spillTop h.block (h.cord.lane 0) ∧ ¬(0 = lowLane h.cord ∧ spillTop h.block (h.cord.lane 0) - 24 < uspillTop h.cord)) && (rangeFault s 0 false h.block.ctx 4072 24 true false).isNone))
    && (meets (.call { hint := .none, gd := t, off := 5 }) (onBlock (fun b => { b with lsize := 16 }) (spilling 4 0)) (fun _ h => true && oneLane h && vSpills h.cord (h.cord.lane 0) == [(0, h.cord.lane 0 |>.frame)] && (uSpills h.cord (h.cord.lane 0)).isEmpty && decide ((h.cord.lane 0).frame.vf = 4 ∧ 4 ≤ ringSize h.cord.vbud) && !(decide (24 ≤ spillTop h.block (h.cord.lane 0) ∧ ¬(0 = lowLane h.cord ∧ spillTop h.block (h.cord.lane 0) - 24 < uspillTop h.cord)))))
    && (meets (.call { hint := .none, gd := t, off := 5 }) (spilling 0 3) (fun s h => true && oneLane h && (vSpills h.cord (h.cord.lane 0)).isEmpty && uSpills h.cord (h.cord.lane 0) == [(0, h.cord.lane 0 |>.frame)] && decide ((h.cord.lane 0).frame.sf = 3 ∧ 3 ≤ ringSize h.cord.ubud) && decide (uspillTop h.cord + 20 ≤ spillTop h.block (h.cord.lane (lowLane h.cord))) && (rangeFault s 0 false h.block.ctx 0 20 true false).isNone))
    && (meets (.call { hint := .none, gd := t, off := 5 }) (onBlock (fun b => { b with lsize := 16 }) (spilling 0 3)) (fun _ h => true && oneLane h && (vSpills h.cord (h.cord.lane 0)).isEmpty && uSpills h.cord (h.cord.lane 0) == [(0, h.cord.lane 0 |>.frame)] && decide ((h.cord.lane 0).frame.sf = 3 ∧ 3 ≤ ringSize h.cord.ubud) && decide (spillTop h.block (h.cord.lane (lowLane h.cord)) < uspillTop h.cord + 20)))
    && (meets (.call { hint := .none, gd := t, off := 5 }) (onLanes (fun k l => if k = 0 then { l with frames := List.replicate 4095 { Frame.base with ret := some 0x1100, spill := some 0 } ++ l.frames } else l) (alone start)) (fun _ h => true && oneLane h && decide (4095 ≤ (h.cord.lane 0).calls) && !owing h.cord))
    && (meets (.callLong { hint := .none, gd := t, off := 5 }) (spilling 4 0) (fun s h => true && oneLane h && vSpills h.cord (h.cord.lane 0) == [(0, h.cord.lane 0 |>.frame)] && (uSpills h.cord (h.cord.lane 0)).isEmpty && decide ((h.cord.lane 0).frame.vf = 4 ∧ 4 ≤ ringSize h.cord.vbud) && decide (24 ≤ spillTop h.block (h.cord.lane 0) ∧ ¬(0 = lowLane h.cord ∧ spillTop h.block (h.cord.lane 0) - 24 < uspillTop h.cord)) && (rangeFault s 0 false h.block.ctx 4072 24 true false).isNone))
    && (meets (.callLong { hint := .none, gd := t, off := 5 }) (onBlock (fun b => { b with lsize := 16 }) (spilling 4 0)) (fun _ h => true && oneLane h && vSpills h.cord (h.cord.lane 0) == [(0, h.cord.lane 0 |>.frame)] && (uSpills h.cord (h.cord.lane 0)).isEmpty && decide ((h.cord.lane 0).frame.vf = 4 ∧ 4 ≤ ringSize h.cord.vbud) && !(decide (24 ≤ spillTop h.block (h.cord.lane 0) ∧ ¬(0 = lowLane h.cord ∧ spillTop h.block (h.cord.lane 0) - 24 < uspillTop h.cord)))))
    && (meets (.callLong { hint := .none, gd := t, off := 5 }) (spilling 0 3) (fun s h => true && oneLane h && (vSpills h.cord (h.cord.lane 0)).isEmpty && uSpills h.cord (h.cord.lane 0) == [(0, h.cord.lane 0 |>.frame)] && decide ((h.cord.lane 0).frame.sf = 3 ∧ 3 ≤ ringSize h.cord.ubud) && decide (uspillTop h.cord + 20 ≤ spillTop h.block (h.cord.lane (lowLane h.cord))) && (rangeFault s 0 false h.block.ctx 0 20 true false).isNone))
    && (meets (.callLong { hint := .none, gd := t, off := 5 }) (onBlock (fun b => { b with lsize := 16 }) (spilling 0 3)) (fun _ h => true && oneLane h && (vSpills h.cord (h.cord.lane 0)).isEmpty && uSpills h.cord (h.cord.lane 0) == [(0, h.cord.lane 0 |>.frame)] && decide ((h.cord.lane 0).frame.sf = 3 ∧ 3 ≤ ringSize h.cord.ubud) && decide (spillTop h.block (h.cord.lane (lowLane h.cord)) < uspillTop h.cord + 20)))
    && (meets (.callLong { hint := .none, gd := t, off := 5 }) (onLanes (fun k l => if k = 0 then { l with frames := List.replicate 4095 { Frame.base with ret := some 0x1100, spill := some 0 } ++ l.frames } else l) (alone start)) (fun _ h => true && oneLane h && decide (4095 ≤ (h.cord.lane 0).calls) && !owing h.cord))
    && (meets (.callx { gd := t, a := 1 }) (withV 1 (fun _ => 0x1100) (spilling 4 0)) (fun s h => (h.v 0 1).toNat % 4 == 0 && oneLane h && vSpills h.cord (h.cord.lane 0) == [(0, h.cord.lane 0 |>.frame)] && (uSpills h.cord (h.cord.lane 0)).isEmpty && decide ((h.cord.lane 0).frame.vf = 4 ∧ 4 ≤ ringSize h.cord.vbud) && decide (24 ≤ spillTop h.block (h.cord.lane 0) ∧ ¬(0 = lowLane h.cord ∧ spillTop h.block (h.cord.lane 0) - 24 < uspillTop h.cord)) && (rangeFault s 0 false h.block.ctx 4072 24 true false).isNone))
    && (meets (.callx { gd := t, a := 1 }) (onBlock (fun b => { b with lsize := 16 }) (withV 1 (fun _ => 0x1100) (spilling 4 0))) (fun _ h => (h.v 0 1).toNat % 4 == 0 && oneLane h && vSpills h.cord (h.cord.lane 0) == [(0, h.cord.lane 0 |>.frame)] && (uSpills h.cord (h.cord.lane 0)).isEmpty && decide ((h.cord.lane 0).frame.vf = 4 ∧ 4 ≤ ringSize h.cord.vbud) && !(decide (24 ≤ spillTop h.block (h.cord.lane 0) ∧ ¬(0 = lowLane h.cord ∧ spillTop h.block (h.cord.lane 0) - 24 < uspillTop h.cord)))))
    && (meets (.callx { gd := t, a := 1 }) (withV 1 (fun _ => 0x1100) (spilling 0 3)) (fun s h => (h.v 0 1).toNat % 4 == 0 && oneLane h && (vSpills h.cord (h.cord.lane 0)).isEmpty && uSpills h.cord (h.cord.lane 0) == [(0, h.cord.lane 0 |>.frame)] && decide ((h.cord.lane 0).frame.sf = 3 ∧ 3 ≤ ringSize h.cord.ubud) && decide (uspillTop h.cord + 20 ≤ spillTop h.block (h.cord.lane (lowLane h.cord))) && (rangeFault s 0 false h.block.ctx 0 20 true false).isNone))
    && (meets (.callx { gd := t, a := 1 }) (onBlock (fun b => { b with lsize := 16 }) (withV 1 (fun _ => 0x1100) (spilling 0 3))) (fun _ h => (h.v 0 1).toNat % 4 == 0 && oneLane h && (vSpills h.cord (h.cord.lane 0)).isEmpty && uSpills h.cord (h.cord.lane 0) == [(0, h.cord.lane 0 |>.frame)] && decide ((h.cord.lane 0).frame.sf = 3 ∧ 3 ≤ ringSize h.cord.ubud) && decide (spillTop h.block (h.cord.lane (lowLane h.cord)) < uspillTop h.cord + 20)))
    && (meets (.callx { gd := t, a := 1 }) (onLanes (fun k l => if k = 0 then { l with frames := List.replicate 4095 { Frame.base with ret := some 0x1100, spill := some 0 } ++ l.frames } else l) (withV 1 (fun _ => 0x1100) (alone start))) (fun _ h => (h.v 0 1).toNat % 4 == 0 && oneLane h && decide (4095 ≤ (h.cord.lane 0).calls) && !owing h.cord))
    && (meets (.callx { gd := t, a := 1 }) (withV 1 (fun _ => 0x1102) start) (fun _ h => !(h.active t).isEmpty && (h.active t).all (fun k => (h.v k 1).toNat % 4 != 0) && !slideSpills h.cord []))
    && (meets (.callx { gd := t, a := 1 }) (withV 1 (fun k => 0x1100 + 2 * (k % 2)) start) (fun _ h => !slideSpills h.cord (h.active t) && (h.active t).all (fun k => decide ((h.cord.lane k).calls < 4095)) && (h.active t).any (fun k => (h.v k 1).toNat % 4 != 0) && (h.active t).any (fun k => (h.v k 1).toNat % 4 == 0) && !slideSpills h.cord ((h.active t).filter (fun k => (h.v k 1).toNat % 4 == 0))))) = true := by decide +kernel

theorem witness_Returns : (
    (meets (.ret { gd := t, wide := false }) (onLanes (fun _ l => { l with frames := { Frame.base with ret := some 0x1100 } :: l.frames }) start) (fun _ h => !retFills h.cord (h.active t) && (h.active t).all (fun k => (h.cord.lane k).frame.ret == some 0x1100 && (0x1100 : Word).toNat % 4 == 0 && (h.cord.lane k).frame.hold.isNone)))
    && (meets (.ret { gd := t, wide := false }) (framed [{ Frame.base with ret := some 0x1100 }, { Frame.base with vf := 4, spill := some 4000 }] (mapped start)) (fun s h => oneLane h && !owing h.cord && (h.cord.lane 0).frame.ret == some 0x1100 && (h.cord.lane 0).frame.hold.isNone && (h.cord.lane 0).frames[1]? == some { Frame.base with vf := 4, spill := some 4000 } && decide (4 ≤ ringSize h.cord.vbud)
      && (uSpilled h.cord 0 { Frame.base with vf := 4, spill := some 4000 }).isNone && (rangeFault s 0 false h.block.ctx 4000 24 false true).isNone))
    && (meets (.ret { gd := t, wide := false }) (onCord (fun c => { c with uspill := [(0, 0, 3, 64)] }) (framed [{ Frame.base with ret := some 0x1100 }, { Frame.base with sf := 3 }] (mapped start))) (fun s h => oneLane h && !owing h.cord && (h.cord.lane 0).frames[1]? == some { Frame.base with sf := 3 } && uSpilled h.cord 0 { Frame.base with sf := 3 } == some 64 && decide (3 ≤ ringSize h.cord.ubud)
      && (rangeFault s 0 false h.block.ctx 64 20 false true).isNone))
    && (meets (.ret { gd := t, wide := false }) (onCore (fun c => { c with res := [residency] }) (framed [{ Frame.base with ret := some 0x1100, hold := some 0x4000 }, Frame.base] start)) (fun s h => oneLane h && !retFills h.cord [0] && (h.cord.lane 0).frame.ret == some 0x1100 && (h.cord.lane 0).frame.hold == some 0x4000 && (s.core 0).res.all (fun r => !r.evict)))
    && (meets (.ret { gd := t, wide := false }) (framed [{ Frame.base with ret := some 0x1102 }, Frame.base] start) (fun _ h => oneLane h && !retFills h.cord [0] && (h.cord.lane 0).frame.ret == some 0x1102))
    && ((match here (onCord (fun c => { c with vbud := 128, ubud := 128 }) (onLanes (fun _ l => { l with frames := [{ Frame.base with vf := 4, sf := 2 }] }) start)) with
      | none => false
      | some h => (h.active t).all (fun k =>
        let c := h.cord
        let l := c.lane k
        !l.frames.isEmpty && l.frame.spill.isNone && (vSpills c l).isEmpty && (uSpilled c l.depth l.frame).isNone && (uSpills c l).isEmpty
          && inRange c.vbud 20 && inRange c.ubud 20
          && decide (16 ≤ 15 + l.frame.vf ∧ 16 ≤ 15 + l.frame.sf ∧ l.frame.vf + 2 < winSize c.vbud ∧ l.frame.sf + 2 < winSize c.ubud))))) = true := by decide +kernel

theorem witness_ExitAndRejoin : (
    (meets (.exit { gd := t, wide := false }) start (fun _ _ => true))
    && (meets (.ret { gd := t, wide := false }) start (fun _ h => (h.active t).all (fun k => (h.cord.lane k).frame.ret.isNone)))
    && (meets (.rjoin) start (fun _ h => h.set.any (fun k => h.cord.joinm.getLsbD k) && (List.range 32).all (fun k => h.set.contains k)))
    && (meets (.rjoin) (onLanes (fun k l => if k = 0 then { l with pc := 0x2000 } else l) start) (fun _ h => h.set.any (fun k => h.cord.joinm.getLsbD k) && !h.set.contains 0 && (h.cord.lane 0).st == .run))
    && ((let at_ (m : Word) : State := onCord (fun c => { c with joinm := m }) <|
          (onLanes (fun k l => { l with st := if k < 16 then .wait else .exit, data := false, pc := if k < 8 then 0x2000 else 0x3000 }) start)
      let all (c : Cord) (k : Nat) : Bool := (List.range 32).all (fun j => !c.joinm.getLsbD j
        || ((c.lane j).st == .wait && !(c.lane j).data && (c.lane j).pc == (c.lane k).pc) || (c.lane j).st == .park || (c.lane j).st == .exit)
      atCord (at_ 0xFFFF0000) (fun _ c => !c.unserved && (c.lane 0).st == .wait && !(c.lane 0).data && all c 0 && all c 8)
        && atCord (at_ 0xFF) (fun _ c => !c.unserved && all c 0 && !all c 8)))) = true := by decide +kernel

theorem witness_TrapsPark : (
    (meets (.trap { gd := t, code := 42 }) start (fun _ h => !(h.active t).isEmpty))
    && (meets (.brk { gd := t, wide := false }) start (fun _ h => !(h.active t).isEmpty))
    && (meets (.strap { gd := t, code := 3 }) start (fun _ _ => true))
    && (meets (.sbrk { gd := t, wide := false }) start (fun _ _ => true))
    && (meets (.notAnInstruction 0xFFFFFFFF) start (fun _ _ => true))
    && (meets (.notAnInstruction 0) start (fun _ _ => true))) = true := by decide +kernel

theorem witness_AcrossLanes : (
    (meets (.shfl { gd := t, d := 1, a := 0, b := 0, mode := .idx }) start (fun _ _ => true))
    && (meets (.vote { gd := t, d := 1, a := 0, mode := .any }) start (fun _ _ => true))
    && (meets (.lred { gd := t, d := 1, a := 0, op := .add, ty := .s32, rnd := .rn }) start (fun _ _ => true))
    && (meets (.lscan { gd := t, d := 1, a := 0, op := .add, ty := .s32, rnd := .rn }) start (fun _ _ => true))) = true := by decide +kernel

theorem witness_UniformArithmetic : (
    (meets (.snop { gd := t, u := false, wide := false }) start (fun _ _ => true))
    && (meets (.smov { gd := t, u := false, d := 1, a := 0, wide := false }) start (fun _ _ => true))
    && (meets (.smovi { gd := t, u := false, d := 1, imm := 0 }) start (fun _ _ => true))
    && (meets (.sadd { gd := t, u := false, d := 1, a := 0, b := 0, ty := .none, sat := false, wide := false }) start (fun _ _ => true))
    && (meets (.sadd { gd := t, u := false, d := 2, a := 4, b := 6, ty := .s64, sat := false, wide := false }) start (fun _ _ => true))
    && (meets (.ssub { gd := t, u := false, d := 1, a := 0, b := 0, ty := .none, sat := false, wide := false }) start (fun _ _ => true))
    && (meets (.ssub { gd := t, u := false, d := 2, a := 4, b := 6, ty := .s64, sat := false, wide := false }) start (fun _ _ => true))
    && (meets (.saddi { gd := t, u := false, d := 1, a := 0, imm := 0 }) start (fun _ _ => true))
    && (meets (.smul { gd := t, u := false, d := 1, a := 0, b := 0, wide := false }) start (fun _ _ => true))
    && (meets (.smad { gd := t, u := false, d := 1, a := 0, b := 0, c := 0, ty := .none, sat := false }) start (fun _ _ => true))
    && (meets (.smins { gd := t, u := false, d := 1, a := 0, b := 0, wide := false }) start (fun _ _ => true))
    && (meets (.smaxs { gd := t, u := false, d := 1, a := 0, b := 0, wide := false }) start (fun _ _ => true))
    && (meets (.sminn { gd := t, u := false, d := 1, a := 0, b := 0, wide := false }) start (fun _ _ => true))
    && (meets (.smaxn { gd := t, u := false, d := 1, a := 0, b := 0, wide := false }) start (fun _ _ => true))
    && (meets (.sand { gd := t, u := false, d := 1, a := 0, b := 0, wide := false }) start (fun _ _ => true))
    && (meets (.sor { gd := t, u := false, d := 1, a := 0, b := 0, wide := false }) start (fun _ _ => true))
    && (meets (.sxor { gd := t, u := false, d := 1, a := 0, b := 0, wide := false }) start (fun _ _ => true))
    && (meets (.sandi { gd := t, u := false, d := 1, a := 0, imm := 0 }) start (fun _ _ => true))
    && (meets (.sori { gd := t, u := false, d := 1, a := 0, imm := 0 }) start (fun _ _ => true))
    && (meets (.sshl { gd := t, u := false, d := 1, a := 0, b := 0, wide := false }) start (fun _ _ => true))
    && (meets (.sshrl { gd := t, u := false, d := 1, a := 0, b := 0, wide := false }) start (fun _ _ => true))
    && (meets (.sshra { gd := t, u := false, d := 1, a := 0, b := 0, wide := false }) start (fun _ _ => true))
    && (meets (.sshli { gd := t, u := false, d := 1, a := 0, amt := 0 }) start (fun _ _ => true))
    && (meets (.sshrli { gd := t, u := false, d := 1, a := 0, amt := 0 }) start (fun _ _ => true))
    && (meets (.spopc { gd := t, u := false, d := 1, a := 0, wide := false }) start (fun _ _ => true))
    && (meets (.ssel { sel := t, u := false, d := 1, a := 0, b := 0, wide := false }) start (fun _ _ => true))
    && (meets (.scmp { gd := t, u := false, pd := 0, a := 0, b := 0, ty := .s32, cond := .eq }) start (fun _ _ => true))
    && (meets (.splog { gd := t, u := false, pd := 0, pa := 0, pb := 0, op := .and }) start (fun _ _ => true))
    && (decide (Ty.none.is64 = false ∧ Ty.s64.is64 = true))) = true := by decide +kernel

theorem witness_Loads : (
    (meets (.ld8 { gd := t, u := false, d := 4, a := 1, imm := 0, space := .lin, mode := .zx, el := 0, acq := false, scope := .lane, la := 0 }) (withV 1 (fun k => 16 * k) start) (fun s h => (h.active t).all (fun k => resolve (opened s h) h k .lin (laneEa h 1 0 k) 1 false true false == .ok (.sp 0 (16 * k)))
      && !spotsHeld (opened s h) h false 1 ((h.doers t false).map (fun k => (k, Spot.sp 0 (16 * k))))))
    && (meets (.ld16 { gd := t, u := false, d := 4, a := 1, imm := 0, space := .lin, mode := .zx, el := 0, acq := false, scope := .lane, la := 0 }) (withV 1 (fun k => 16 * k) start) (fun s h => (h.active t).all (fun k => resolve (opened s h) h k .lin (laneEa h 1 0 k) 2 false true false == .ok (.sp 0 (16 * k)))
      && !spotsHeld (opened s h) h false 2 ((h.doers t false).map (fun k => (k, Spot.sp 0 (16 * k))))))
    && (meets (.ld32 { gd := t, u := false, d := 4, a := 1, imm := 0, space := .lin, mode := .zx, el := 0, acq := false, scope := .lane, la := 0 }) (withV 1 (fun k => 16 * k) start) (fun s h => (h.active t).all (fun k => resolve (opened s h) h k .lin (laneEa h 1 0 k) 4 false true false == .ok (.sp 0 (16 * k)))
      && !spotsHeld (opened s h) h false 4 ((h.doers t false).map (fun k => (k, Spot.sp 0 (16 * k))))))
    && (meets (.ld64 { gd := t, u := false, d := 4, a := 1, imm := 0, space := .lin, mode := .zx, el := 0, acq := false, scope := .lane, la := 0 }) (withV 1 (fun k => 16 * k) start) (fun s h => (h.active t).all (fun k => resolve (opened s h) h k .lin (laneEa h 1 0 k) 8 false true false == .ok (.sp 0 (16 * k)))
      && !spotsHeld (opened s h) h false 8 ((h.doers t false).map (fun k => (k, Spot.sp 0 (16 * k))))))
    && (meets (.ld128 { gd := t, u := false, d := 4, a := 1, imm := 0, space := .lin, mode := .zx, el := 0, acq := false, scope := .lane, la := 0 }) (withV 1 (fun k => 16 * k) start) (fun s h => (h.active t).all (fun k => resolve (opened s h) h k .lin (laneEa h 1 0 k) 16 false true false == .ok (.sp 0 (16 * k)))
      && !spotsHeld (opened s h) h false 16 ((h.doers t false).map (fun k => (k, Spot.sp 0 (16 * k))))))
    && (meets (.ld32 { gd := t, u := false, d := 0, a := 1, imm := 0, space := .lin, mode := .zx, el := 0, acq := false, scope := .lane, la := 0 }) (withV 1 (fun k => 16 * k) start) (fun s h => (h.active t).all (fun k => (laneEa h 1 0 k).toNat % 4 == 0
      && errOf (resolve (opened s h) h k .lin (laneEa h 1 0 k) 4 false false true) != some cSpRange)))
    && (meets (.ld32 { gd := t, u := false, d := 0, a := 1, imm := 0, space := .loc, mode := .zx, el := 0, acq := false, scope := .lane, la := 0 }) (withV 1 (fun k => 16 * k) start) (fun s h => (h.active t).all (fun k => (laneEa h 1 0 k).toNat % 4 == 0) && decide ((s.core h.ref.core).lines.length + (h.doers t false).length ≤ 256)))
    && (decide (([64, 128] : List Nat).Nodup ∧ (start.core 0).lines.length + 2 ≤ 256))
    && (meets (.sld32 { gd := t, d := 1, a := 0, imm := 0, skw := false, acq := false, scope := .lane }) start (fun s h => resolve (opened s h) h 0 .lin 0 4 false true false == .ok (.sp 0 0) && !spotHeld (opened s h) false 4 (.sp 0 0)))
    && (meets (.sld64 { gd := t, d := 2, a := 0, imm := 0, skw := false, acq := false, scope := .lane }) start (fun s h => resolve (opened s h) h 0 .lin 0 8 false true false == .ok (.sp 0 0) && !spotHeld (opened s h) false 8 (.sp 0 0)))) = true := by decide +kernel

theorem witness_LoadedAndUpdatedValues : (
    (decide (([1, 2, 3, 4] : List Byte).length = 4 * 1 ∧ ([1, 2] : List Byte).length = 2 ∧ 1 < 4 / 2))) = true := by decide +kernel

theorem witness_LaneStores : (
    (meets (.st8 { gd := t, u := false, a := 1, b := 4, imm := 0, space := .lin, el := 0, rel := false, scope := .lane, la := 0 }) (withV 1 (fun k => 16 * k) start) (fun s h => (h.doers t false).all (fun k => resolve (opened s h) h k .lin (laneEa h 1 0 k) 1 true false false == .ok (.sp 0 (16 * k)))
      && !spotsHeld (opened s h) h true 1 ((h.doers t false).map (fun k => (k, Spot.sp 0 (16 * k)))) && s.memOk
      && (h.doers t false).contains 3 && !(h.doers t false).any (fun j => decide (3 < j ∧ 16 * j ≤ 48 ∧ 48 < 16 * j + 1))
      && (h.doers t false).all (fun k => decide (16 * k + 1 ≤ 5000))))
    && (meets (.st16 { gd := t, u := false, a := 1, b := 4, imm := 0, space := .lin, el := 0, rel := false, scope := .lane, la := 0 }) (withV 1 (fun k => 16 * k) start) (fun s h => (h.doers t false).all (fun k => resolve (opened s h) h k .lin (laneEa h 1 0 k) 2 true false false == .ok (.sp 0 (16 * k)))
      && !spotsHeld (opened s h) h true 2 ((h.doers t false).map (fun k => (k, Spot.sp 0 (16 * k)))) && s.memOk
      && (h.doers t false).contains 3 && !(h.doers t false).any (fun j => decide (3 < j ∧ 16 * j ≤ 48 ∧ 48 < 16 * j + 2))
      && (h.doers t false).all (fun k => decide (16 * k + 2 ≤ 5000))))
    && (meets (.st32 { gd := t, u := false, a := 1, b := 4, imm := 0, space := .lin, el := 0, rel := false, scope := .lane, la := 0 }) (withV 1 (fun k => 16 * k) start) (fun s h => (h.doers t false).all (fun k => resolve (opened s h) h k .lin (laneEa h 1 0 k) 4 true false false == .ok (.sp 0 (16 * k)))
      && !spotsHeld (opened s h) h true 4 ((h.doers t false).map (fun k => (k, Spot.sp 0 (16 * k)))) && s.memOk
      && (h.doers t false).contains 3 && !(h.doers t false).any (fun j => decide (3 < j ∧ 16 * j ≤ 48 ∧ 48 < 16 * j + 4))
      && (h.doers t false).all (fun k => decide (16 * k + 4 ≤ 5000))))
    && (meets (.st64 { gd := t, u := false, a := 1, b := 4, imm := 0, space := .lin, el := 0, rel := false, scope := .lane, la := 0 }) (withV 1 (fun k => 16 * k) start) (fun s h => (h.doers t false).all (fun k => resolve (opened s h) h k .lin (laneEa h 1 0 k) 8 true false false == .ok (.sp 0 (16 * k)))
      && !spotsHeld (opened s h) h true 8 ((h.doers t false).map (fun k => (k, Spot.sp 0 (16 * k)))) && s.memOk
      && (h.doers t false).contains 3 && !(h.doers t false).any (fun j => decide (3 < j ∧ 16 * j ≤ 48 ∧ 48 < 16 * j + 8))
      && (h.doers t false).all (fun k => decide (16 * k + 8 ≤ 5000))))
    && (meets (.st128 { gd := t, u := false, a := 1, b := 4, imm := 0, space := .lin, el := 0, rel := false, scope := .lane, la := 0 }) (withV 1 (fun k => 16 * k) start) (fun s h => (h.doers t false).all (fun k => resolve (opened s h) h k .lin (laneEa h 1 0 k) 16 true false false == .ok (.sp 0 (16 * k)))
      && !spotsHeld (opened s h) h true 16 ((h.doers t false).map (fun k => (k, Spot.sp 0 (16 * k)))) && s.memOk
      && (h.doers t false).contains 3 && !(h.doers t false).any (fun j => decide (3 < j ∧ 16 * j ≤ 48 ∧ 48 < 16 * j + 16))
      && (h.doers t false).all (fun k => decide (16 * k + 16 ≤ 5000))))
    && (meets (.sst32 { gd := t, a := 0, b := 2, imm := 0, skw := false, rel := false, scope := .lane }) start (fun s h => resolve (opened s h) h 0 .lin 0 4 true false false == .ok (.sp 0 0) && !spotHeld (opened s h) true 4 (.sp 0 0)))
    && (meets (.sst64 { gd := t, a := 0, b := 2, imm := 0, skw := false, rel := false, scope := .lane }) start (fun s h => resolve (opened s h) h 0 .lin 0 8 true false false == .ok (.sp 0 0) && !spotHeld (opened s h) true 8 (.sp 0 0)))) = true := by decide +kernel

theorem witness_LaneAtomics : (
    (meets (.atom { gd := t, u := false, d := 3, a := 1, b := 2, imm := 0, space := .lin, op := .add, ord := ⟨false, false, .lane⟩, la := 0 }) (withV 1 (fun k => 4 * (k % 4)) start) (fun s h => !privileged ((.atom { gd := t, u := false, d := 3, a := 1, b := 2, imm := 0, space := .lin, op := .add, ord := ⟨false, false, .lane⟩, la := 0 })) h
      && (h.doers t false).all (fun k => resolve (opened s h) h k .lin (laneEa h 1 0 k) 4 true true true == .ok (.sp 0 (4 * (k % 4))))
      && !spotsHeld (opened s h) h true 4 ((h.doers t false).map (fun k => (k, Spot.sp 0 (4 * (k % 4)))))))) = true := by decide +kernel

theorem witness_AccessFaultsPark : (
    (meets (.st8 { gd := t, u := false, a := 1, b := 0, imm := 0, space := .lin, el := 0, rel := false, scope := .lane, la := 0 }) (withV 1 (fun k => if k = 3 then 1 else if k = 4 then 0x20000 else 16 * k) start) (fun s h => !((h.active t).filter (fun k => !(resolve (opened s h) h k .lin (laneEa h 1 0 k) 1 true false false).isOk)).isEmpty && s.memOk
      && !spotsHeld (opened s h) h true 1
        (goodSpots ((h.doers t false).map (fun k => (k, resolve (opened s h) h k .lin (laneEa h 1 0 k) 1 true false false))))))
    && (meets (.st16 { gd := t, u := false, a := 1, b := 0, imm := 0, space := .lin, el := 0, rel := false, scope := .lane, la := 0 }) (withV 1 (fun k => if k = 3 then 1 else if k = 4 then 0x20000 else 16 * k) start) (fun s h => !((h.active t).filter (fun k => !(resolve (opened s h) h k .lin (laneEa h 1 0 k) 2 true false false).isOk)).isEmpty && s.memOk
      && !spotsHeld (opened s h) h true 2
        (goodSpots ((h.doers t false).map (fun k => (k, resolve (opened s h) h k .lin (laneEa h 1 0 k) 2 true false false))))))
    && (meets (.st32 { gd := t, u := false, a := 1, b := 0, imm := 0, space := .lin, el := 0, rel := false, scope := .lane, la := 0 }) (withV 1 (fun k => if k = 3 then 1 else if k = 4 then 0x20000 else 16 * k) start) (fun s h => !((h.active t).filter (fun k => !(resolve (opened s h) h k .lin (laneEa h 1 0 k) 4 true false false).isOk)).isEmpty && s.memOk
      && !spotsHeld (opened s h) h true 4
        (goodSpots ((h.doers t false).map (fun k => (k, resolve (opened s h) h k .lin (laneEa h 1 0 k) 4 true false false))))))
    && (meets (.st64 { gd := t, u := false, a := 1, b := 0, imm := 0, space := .lin, el := 0, rel := false, scope := .lane, la := 0 }) (withV 1 (fun k => if k = 3 then 1 else if k = 4 then 0x20000 else 16 * k) start) (fun s h => !((h.active t).filter (fun k => !(resolve (opened s h) h k .lin (laneEa h 1 0 k) 8 true false false).isOk)).isEmpty && s.memOk
      && !spotsHeld (opened s h) h true 8
        (goodSpots ((h.doers t false).map (fun k => (k, resolve (opened s h) h k .lin (laneEa h 1 0 k) 8 true false false))))))
    && (meets (.st128 { gd := t, u := false, a := 1, b := 0, imm := 0, space := .lin, el := 0, rel := false, scope := .lane, la := 0 }) (withV 1 (fun k => if k = 3 then 1 else if k = 4 then 0x20000 else 16 * k) start) (fun s h => !((h.active t).filter (fun k => !(resolve (opened s h) h k .lin (laneEa h 1 0 k) 16 true false false).isOk)).isEmpty && s.memOk
      && !spotsHeld (opened s h) h true 16
        (goodSpots ((h.doers t false).map (fun k => (k, resolve (opened s h) h k .lin (laneEa h 1 0 k) 16 true false false))))))
    && (meets (.ld8 { gd := t, u := false, d := 4, a := 1, imm := 0, space := .lin, mode := .zx, el := 0, acq := false, scope := .lane, la := 0 }) (withV 1 (fun k => if k = 3 then 1 else if k = 4 then 0x20000 else 16 * k) start) (fun s h => !((h.active t).filter (fun k => !(resolve (opened s h) h k .lin (laneEa h 1 0 k) 1 false true false).isOk)).isEmpty && s.memOk
      && !spotsHeld (opened s h) h false 1
        (goodSpots ((h.doers t false).map (fun k => (k, resolve (opened s h) h k .lin (laneEa h 1 0 k) 1 false true false))))))
    && (meets (.ld16 { gd := t, u := false, d := 4, a := 1, imm := 0, space := .lin, mode := .zx, el := 0, acq := false, scope := .lane, la := 0 }) (withV 1 (fun k => if k = 3 then 1 else if k = 4 then 0x20000 else 16 * k) start) (fun s h => !((h.active t).filter (fun k => !(resolve (opened s h) h k .lin (laneEa h 1 0 k) 2 false true false).isOk)).isEmpty && s.memOk
      && !spotsHeld (opened s h) h false 2
        (goodSpots ((h.doers t false).map (fun k => (k, resolve (opened s h) h k .lin (laneEa h 1 0 k) 2 false true false))))))
    && (meets (.ld32 { gd := t, u := false, d := 4, a := 1, imm := 0, space := .lin, mode := .zx, el := 0, acq := false, scope := .lane, la := 0 }) (withV 1 (fun k => if k = 3 then 1 else if k = 4 then 0x20000 else 16 * k) start) (fun s h => !((h.active t).filter (fun k => !(resolve (opened s h) h k .lin (laneEa h 1 0 k) 4 false true false).isOk)).isEmpty && s.memOk
      && !spotsHeld (opened s h) h false 4
        (goodSpots ((h.doers t false).map (fun k => (k, resolve (opened s h) h k .lin (laneEa h 1 0 k) 4 false true false))))))
    && (meets (.ld64 { gd := t, u := false, d := 4, a := 1, imm := 0, space := .lin, mode := .zx, el := 0, acq := false, scope := .lane, la := 0 }) (withV 1 (fun k => if k = 3 then 1 else if k = 4 then 0x20000 else 16 * k) start) (fun s h => !((h.active t).filter (fun k => !(resolve (opened s h) h k .lin (laneEa h 1 0 k) 8 false true false).isOk)).isEmpty && s.memOk
      && !spotsHeld (opened s h) h false 8
        (goodSpots ((h.doers t false).map (fun k => (k, resolve (opened s h) h k .lin (laneEa h 1 0 k) 8 false true false))))))
    && (meets (.ld128 { gd := t, u := false, d := 4, a := 1, imm := 0, space := .lin, mode := .zx, el := 0, acq := false, scope := .lane, la := 0 }) (withV 1 (fun k => if k = 3 then 1 else if k = 4 then 0x20000 else 16 * k) start) (fun s h => !((h.active t).filter (fun k => !(resolve (opened s h) h k .lin (laneEa h 1 0 k) 16 false true false).isOk)).isEmpty && s.memOk
      && !spotsHeld (opened s h) h false 16
        (goodSpots ((h.doers t false).map (fun k => (k, resolve (opened s h) h k .lin (laneEa h 1 0 k) 16 false true false))))))
    && (meets (.st32 { gd := t, u := false, a := 1, b := 0, imm := 0, space := .loc, el := 0, rel := false, scope := .lane, la := 0 }) (withV 1 (fun k => if k = 3 then 2 else 4 * (k % 4)) (mapped start)) (fun s h => (let ks := h.doers t false
        let res (k : Nat) := resolve (opened s h) h k .loc (laneEa h 1 0 k) 4 true false false
        !(ks.filter (fun k => !(res k).isOk)).isEmpty && s.memOk && !privileged ((.st32 { gd := t, u := false, a := 1, b := 0, imm := 0, space := .loc, el := 0, rel := false, scope := .lane, la := 0 })) h
          && !spotsHeld (opened s h) h true 4 (goodSpots (ks.map (fun k => (k, res k)))))))
    && (meets (.ld32 { gd := t, u := false, d := 4, a := 1, imm := 0, space := .loc, mode := .zx, el := 0, acq := false, scope := .lane, la := 0 }) (withV 1 (fun k => if k = 3 then 2 else 4 * (k % 4)) (mapped start)) (fun s h => (let ks := h.doers t false
        let res (k : Nat) := resolve (opened s h) h k .loc (laneEa h 1 0 k) 4 false true false
        !(ks.filter (fun k => !(res k).isOk)).isEmpty && s.memOk && !privileged ((.ld32 { gd := t, u := false, d := 4, a := 1, imm := 0, space := .loc, mode := .zx, el := 0, acq := false, scope := .lane, la := 0 })) h
          && !spotsHeld (opened s h) h false 4 (goodSpots (ks.map (fun k => (k, res k)))))))
    && (meets (.st32 { gd := t, u := false, a := 1, b := 0, imm := 0, space := .arm, el := 0, rel := false, scope := .lane, la := 0 }) (withV 1 (fun k => if k = 3 then 2 else 4 * (k % 4)) (mapped start)) (fun s h => (let ks := h.doers t false
        let res (k : Nat) := resolve (opened s h) h k .arm (laneEa h 1 0 k) 4 true false false
        !(ks.filter (fun k => !(res k).isOk)).isEmpty && s.memOk && !privileged ((.st32 { gd := t, u := false, a := 1, b := 0, imm := 0, space := .arm, el := 0, rel := false, scope := .lane, la := 0 })) h
          && !spotsHeld (opened s h) h true 4 (goodSpots (ks.map (fun k => (k, res k)))))))
    && (meets (.ld32 { gd := t, u := false, d := 4, a := 1, imm := 0, space := .arm, mode := .zx, el := 0, acq := false, scope := .lane, la := 0 }) (withV 1 (fun k => if k = 3 then 2 else 4 * (k % 4)) (mapped start)) (fun s h => (let ks := h.doers t false
        let res (k : Nat) := resolve (opened s h) h k .arm (laneEa h 1 0 k) 4 false true false
        !(ks.filter (fun k => !(res k).isOk)).isEmpty && s.memOk && !privileged ((.ld32 { gd := t, u := false, d := 4, a := 1, imm := 0, space := .arm, mode := .zx, el := 0, acq := false, scope := .lane, la := 0 })) h
          && !spotsHeld (opened s h) h false 4 (goodSpots (ks.map (fun k => (k, res k)))))))
    && (meets (.st32 { gd := t, u := true, a := 1, b := 0, imm := 0, space := .lin, el := 0, rel := false, scope := .lane, la := 0 }) (withV 1 (fun _ => 2) start) (fun s h => (let ks := h.doers t true
        let res (k : Nat) := resolve (opened s h) h k .lin (laneEa h 1 0 k) 4 true false false
        !(ks.filter (fun k => !(res k).isOk)).isEmpty && s.memOk && !privileged ((.st32 { gd := t, u := true, a := 1, b := 0, imm := 0, space := .lin, el := 0, rel := false, scope := .lane, la := 0 })) h
          && !spotsHeld (opened s h) h true 4 (goodSpots (ks.map (fun k => (k, res k)))))))
    && (meets (.ld32 { gd := t, u := true, d := 4, a := 1, imm := 0, space := .lin, mode := .zx, el := 0, acq := false, scope := .lane, la := 0 }) (withV 1 (fun _ => 2) start) (fun s h => (let ks := h.doers t true
        let res (k : Nat) := resolve (opened s h) h k .lin (laneEa h 1 0 k) 4 false true false
        !(ks.filter (fun k => !(res k).isOk)).isEmpty && s.memOk && !privileged ((.ld32 { gd := t, u := true, d := 4, a := 1, imm := 0, space := .lin, mode := .zx, el := 0, acq := false, scope := .lane, la := 0 })) h
          && !spotsHeld (opened s h) h false 4 (goodSpots (ks.map (fun k => (k, res k)))))))
    && (meets (.atom { gd := t, u := false, d := 3, a := 1, b := 2, imm := 0, space := .lin, op := .add, ord := ⟨false, false, .lane⟩, la := 0 }) (withV 1 (fun k => if k = 3 then 2 else 4 * (k % 4)) (mapped start)) (fun s h => (let ks := h.doers t false
        let res (k : Nat) := resolve (opened s h) h k .lin (laneEa h 1 0 k) 4 true true true
        !(ks.filter (fun k => !(res k).isOk)).isEmpty && s.memOk && !privileged ((.atom { gd := t, u := false, d := 3, a := 1, b := 2, imm := 0, space := .lin, op := .add, ord := ⟨false, false, .lane⟩, la := 0 })) h
          && !spotsHeld (opened s h) h true 4 (goodSpots (ks.map (fun k => (k, res k)))))))
    && (meets (.atom { gd := t, u := true, d := 3, a := 1, b := 2, imm := 0, space := .lin, op := .add, ord := ⟨false, false, .lane⟩, la := 0 }) (withV 1 (fun _ => 2) start) (fun s h => (let ks := h.doers t true
        let res (k : Nat) := resolve (opened s h) h k .lin (laneEa h 1 0 k) 4 true true true
        !(ks.filter (fun k => !(res k).isOk)).isEmpty && s.memOk && !privileged ((.atom { gd := t, u := true, d := 3, a := 1, b := 2, imm := 0, space := .lin, op := .add, ord := ⟨false, false, .lane⟩, la := 0 })) h
          && !spotsHeld (opened s h) h true 4 (goodSpots (ks.map (fun k => (k, res k)))))))
    && (meets (.sld32 { gd := t, d := 4, a := 1, imm := 0, skw := false, acq := false, scope := .lane }) (withS 1 2 start) (fun s h => errOf (resolve (opened s h) h 0 .lin 2 4 false true false) == some cAlign))
    && (meets (.sld64 { gd := t, d := 4, a := 1, imm := 0, skw := false, acq := false, scope := .lane }) (withS 1 4 start) (fun s h => errOf (resolve (opened s h) h 0 .lin 4 8 false true false) == some cAlign))
    && (meets (.sst32 { gd := t, a := 1, b := 4, imm := 0, skw := false, rel := false, scope := .lane }) (withS 1 0x10000 start) (fun s h => errOf (resolve (opened s h) h 0 .lin 0x10000 4 true false false) == some cSpRange))
    && (meets (.sst64 { gd := t, a := 1, b := 4, imm := 0, skw := false, rel := false, scope := .lane }) (withS 1 0x10000 start) (fun s h => errOf (resolve (opened s h) h 0 .lin 0x10000 8 true false false) == some cSpRange))
    && ((match here start with
      | none => false
      | some h => decide (2 % 4 ≠ 0 ∧ h.block.splen < 0xFFFE + 4 ∧ h.block.lsize < 4096 + 4 ∧ 0xFFFC + 4 ≤ h.block.splen)
        && !raceFlag h.block h.ref.cord 0xFFFC && (start.core h.ref.core).bad.isEmpty))
    && ((match here (onBlock (fun b => { b with race := true, lines := b.lines.set 0 (5, b.epoch) }) start) with
      | none => false
      | some h => decide (0 + 4 ≤ h.block.splen) && raceFlag h.block h.ref.cord 0))) = true := by decide +kernel

theorem witness_SkewedTileKeepsBytesApart : (
    (tileDeclared 65536 0 0x003F0040 && decide (70 < tileRows 0x003F0040 * tileLen 0x003F0040))) = true := by decide +kernel

theorem witness_GatherIssue : (
    (meets (.gld32 { gd := t, u := false, d := 4, a := 2, imm := 0, acq := false, scope := .lane, la := 3 }) (withV 2 (fun k => 64 * k) start) (fun _ h => (h.doers t false).all (fun k => decide ((h.v64 k 2).toNat % 4 = 0 ∧ (h.v64 k 2).toNat < 2 ^ 52)) && decide (h.cord.gathers.length + (h.doers t false).length ≤ 1024) && decide (0 < look h.cord 3)))
    && (meets (.gld64 { gd := t, u := false, d := 4, a := 2, imm := 0, acq := false, scope := .lane, la := 0 }) (withV 2 (fun k => 64 * k) start) (fun _ h => (h.doers t false).all (fun k => decide ((h.v64 k 2).toNat % 8 = 0 ∧ (h.v64 k 2).toNat < 2 ^ 52)) && decide (h.cord.gathers.length + (h.doers t false).length ≤ 1024) && decide (look h.cord 0 = 0)))
    && (meets (.gld32 { gd := t, u := false, d := 4, a := 2, imm := 0, acq := false, scope := .lane, la := 0 }) (withV 2 (fun k => 64 * k) start) (fun _ h => (h.doers t false).all (fun k => decide ((h.v64 k 2).toNat % 4 = 0 ∧ (h.v64 k 2).toNat < 2 ^ 52)) && decide (h.cord.gathers.length + (h.doers t false).length ≤ 1024)))
    && (meets (.gld64 { gd := t, u := false, d := 4, a := 2, imm := 0, acq := false, scope := .lane, la := 3 }) (withV 2 (fun k => 64 * k) start) (fun _ h => (h.doers t false).all (fun k => decide ((h.v64 k 2).toNat % 8 = 0 ∧ (h.v64 k 2).toNat < 2 ^ 52)) && decide (h.cord.gathers.length + (h.doers t false).length ≤ 1024)))
    && (meets (.gst32 { gd := t, u := false, a := 2, b := 4, imm := 0, rel := false, scope := .lane, la := 0 }) (withV 2 (fun k => 64 * k) start) (fun _ h => (h.doers t false).all (fun k => decide ((h.v64 k 2).toNat % 4 = 0 ∧ (h.v64 k 2).toNat < 2 ^ 52)) && decide (h.cord.gathers.length + (h.doers t false).length ≤ 1024)))
    && (meets (.gst64 { gd := t, u := false, a := 2, b := 4, imm := 0, rel := false, scope := .lane, la := 0 }) (withV 2 (fun k => 64 * k) start) (fun _ h => (h.doers t false).all (fun k => decide ((h.v64 k 2).toNat % 8 = 0 ∧ (h.v64 k 2).toNat < 2 ^ 52)) && decide (h.cord.gathers.length + (h.doers t false).length ≤ 1024)))
    && (meets (.gatom { gd := t, u := false, d := 4, a := 2, b := 5, imm := 0, space := .lin, op := .add, ord := ⟨false, false, .lane⟩, la := 0 }) (withV 2 (fun k => 64 * k) start) (fun _ h => (h.doers t false).all (fun k => decide ((h.v64 k 2).toNat % 4 = 0 ∧ (h.v64 k 2).toNat < 2 ^ 52)) && decide (h.cord.gathers.length + (h.doers t false).length ≤ 1024) && !h.block.det && !privileged ((.gatom { gd := t, u := false, d := 4, a := 2, b := 5, imm := 0, space := .lin, op := .add, ord := ⟨false, false, .lane⟩, la := 0 })) h))
    && (meets (.gld32 { gd := t, u := false, d := 0, a := 2, imm := 0, acq := false, scope := .lane, la := 0 }) (withV 2 (fun k => 64 * k) start) (fun _ h => (h.doers t false).all (fun k => decide ((h.v64 k 2).toNat % 4 = 0 ∧ (h.v64 k 2).toNat < 2 ^ 52)) && decide (h.cord.gathers.length + (h.doers t false).length ≤ 1024)))
    && (meets (.gprf { gd := t, a := 2, b := 0, imm := 0, la := 0 }) start (fun _ _ => true))
    && (meets (.gprf { gd := t, a := 2, b := 0, imm := 0, la := 0 }) start (fun s h => (opened s h).hbm.isEmpty && (opened s h).hbmErr.isEmpty && ((opened s h).core 0).gtlb.isEmpty && h.ref.core == 0 && (opened s h).dies == .empty))) = true := by decide +kernel

theorem witness_GatherAccesses : (
    ((let a : Access := { id := 0, lanes := [1, 2], op := .load, addr := 256, size := 4, dst := [[4], [4]], pc := 0x1000, late := true, acq := false, rel := false, scope := .lane, stamp := 0, outer := false }
      let s := onCord (fun c => { c.onLanes [1, 2] (fun _ l => { l with st := .wait, data := true }) with gathers := [a] }) (mapped start);
      atCord s (fun b c => c.gathers[0]? == some a && lineMates s 0 b.ctx c 0 a == [0] && !earlierSame s 0 b.ctx c [0] 0 a && !earlierOther s r0 b.ctx a && decide a.lanes.Nodup
        && Except.isOk (translate s 0 true b.ctx 256 4 false true))))
    && ((let a : Access := { id := 0, lanes := [1, 2], op := .store [1, 2, 3, 4], addr := 256, size := 4, dst := [[4], [4]], pc := 0x1000, late := true, acq := false, rel := false, scope := .lane, stamp := 0, outer := false }
      let s := onCord (fun c => { c.onLanes [1, 2] (fun _ l => { l with st := .wait, data := true }) with gathers := [a] }) (mapped start);
      atCord s (fun b c => c.gathers[0]? == some a && lineMates s 0 b.ctx c 0 a == [0] && !earlierSame s 0 b.ctx c [0] 0 a && !earlierOther s r0 b.ctx a && decide a.lanes.Nodup
        && Except.isOk (translate s 0 true b.ctx 256 4 true false))))
    && ((let a : Access := { id := 0, lanes := [1, 2], op := .atom .add 1 0, addr := 256, size := 4, dst := [[4], [4]], pc := 0x1000, late := true, acq := false, rel := false, scope := .lane, stamp := 0, outer := false }
      let s := onCord (fun c => { c.onLanes [1, 2] (fun _ l => { l with st := .wait, data := true }) with gathers := [a] }) (mapped start);
      atCord s (fun b c => c.gathers[0]? == some a && lineMates s 0 b.ctx c 0 a == [0] && !earlierSame s 0 b.ctx c [0] 0 a && !earlierOther s r0 b.ctx a && decide a.lanes.Nodup
        && Except.isOk (translate s 0 true b.ctx 256 4 true true))))
    && ((let a : Access := { id := 0, lanes := [1, 2], op := .load, addr := 256, size := 4, dst := [[4], [4]], pc := 0x1000, late := true, acq := false, rel := false, scope := .lane, stamp := 0, outer := false }
      let s := onCord (fun c => { c.onLanes [1, 2] (fun _ l => { l with st := .wait, data := true }) with gathers := [a] }) (start);
      atCord s (fun b c => c.gathers[0]? == some a && lineMates s 0 b.ctx c 0 a == [0] && !earlierSame s 0 b.ctx c [0] 0 a && !earlierOther s r0 b.ctx a && decide a.lanes.Nodup
        && !Except.isOk (translate s 0 true b.ctx 256 4 false true))))
    && ((let a : Access := { id := 0, lanes := [1, 2], op := .store [1, 2, 3, 4], addr := 256, size := 4, dst := [[4], [4]], pc := 0x1000, late := true, acq := false, rel := false, scope := .lane, stamp := 0, outer := false }
      let s := onCord (fun c => { c.onLanes [1, 2] (fun _ l => { l with st := .wait, data := true }) with gathers := [a] }) (start);
      atCord s (fun b c => c.gathers[0]? == some a && lineMates s 0 b.ctx c 0 a == [0] && !earlierSame s 0 b.ctx c [0] 0 a && !earlierOther s r0 b.ctx a && decide a.lanes.Nodup
        && !Except.isOk (translate s 0 true b.ctx 256 4 true false))))
    && ((let a : Access := { id := 0, lanes := [1, 2], op := .atom .add 1 0, addr := 256, size := 4, dst := [[4], [4]], pc := 0x1000, late := true, acq := false, rel := false, scope := .lane, stamp := 0, outer := false }
      let s := onCord (fun c => { c.onLanes [1, 2] (fun _ l => { l with st := .wait, data := true }) with gathers := [a] }) (start);
      atCord s (fun b c => c.gathers[0]? == some a && lineMates s 0 b.ctx c 0 a == [0] && !earlierSame s 0 b.ctx c [0] 0 a && !earlierOther s r0 b.ctx a && decide a.lanes.Nodup
        && !Except.isOk (translate s 0 true b.ctx 256 4 true true))))
    && ((let a : Access := { id := 0, lanes := [1, 2], op := .load, addr := 256, size := 4, dst := [[4], [4]], pc := 0x1000, late := true, acq := false, rel := false, scope := .lane, stamp := 0, outer := true }
      let s := onCord (fun c => { c.onLanes [1, 2] (fun _ l => { l with st := .wait, data := true }) with gathers := [a] }) (handling start);
      atCord s (fun b c => c.gathers[0]? == some a && lineMates s 0 b.ctx c 0 a == [0] && !earlierSame s 0 b.ctx c [0] 0 a && !earlierOther s r0 b.ctx a && decide a.lanes.Nodup
        && (c.lane 1).handles && (c.lane 1).savedSt == .park && (c.lane 2).savedSt == .exit && !Except.isOk (translate s 0 true b.ctx 256 4 false true))))
    && ((let a : Access := { id := 0, lanes := [1], op := .atom .add 1 0, addr := 256, size := 4, dst := [[4]], pc := 0x1000, late := true, acq := false, rel := false, scope := .lane, stamp := 0, outer := false }
      let s := onCord (fun c => { c with gathers := [a, { a with lanes := [2], addr := 260 }] }) (hosted start);
      atCord s (fun b c => c.gathers[1]?.any (fun x => x.op.isAtom && x.target s 0 b.ctx == .ok (.host 260))
        && lineMates s 0 b.ctx c 1 { a with lanes := [2], addr := 260 } == [0, 1]
        && [0, 1].all (fun j => c.gathers[j]?.all (fun x => !earlierSame s 0 b.ctx c [0, 1] j x)) && !earlierOther s r0 b.ctx { a with lanes := [2], addr := 260 })))) = true := by decide +kernel

theorem witness_TileAccess : (
    (meets (.acz { gd := t, tile := 1, la := 0 }) start (fun s h => physTile h.block 1 == some 1 && !tileBegun ((s.core 0).tile 1) none && !writeBefore (s.core 0) 1 h.block 1 0 s.clock && !tileWaits ((opened s h).core 0) 0 0 1 && !tileBusy ((opened s h).core 0) 1 && !tileRace h.block 0 ((s.core 0).tile 1) && !(h.active t).isEmpty && s.memOk))
    && (meets (.acrd { gd := t, d := 4, tile := 1, b := 1, la := 0 }) start (fun s h => physTile h.block 1 == some 1 && !tileBegun ((s.core 0).tile 1) none && !writeBefore (s.core 0) 1 h.block 1 0 s.clock && !tileWaits ((opened s h).core 0) 0 0 1 && !tileBusy ((opened s h).core 0) 1 && !tileRace h.block 0 ((s.core 0).tile 1) && !(h.active t).isEmpty && s.memOk && (tileFault ((s.core 0).tile 1) 0).isNone))
    && (meets (.acwr { gd := t, tile := 1, a := 1, b := 2, la := 0 }) start (fun s h => physTile h.block 1 == some 1 && !tileBegun ((s.core 0).tile 1) none && !writeBefore (s.core 0) 1 h.block 1 0 s.clock && !tileWaits ((opened s h).core 0) 0 0 1 && !tileBusy ((opened s h).core 0) 1 && !tileRace h.block 0 ((s.core 0).tile 1) && !(h.active t).isEmpty && s.memOk))
    && (meets (.acrst { gd := t, off := 12 }) start (fun _ h => !(h.active t).isEmpty && !latencyHolds h.cord h.addr { Uses.none with sr := (List.range (min 16 (winSize h.cord.ubud))).map (16 + ·) }))) = true := by decide +kernel

theorem witness_Contraction : (
    (meets (.ctr theCtr) (withS 2 0x0001C333 start) (fun s h => physTile h.block 1 == some 1 && !h.cord.skipAll.contains 1
      && okOr none (ctrShape h theCtr (h.active t)) == some 0x0001C333 && !ctrBad theCtr 0x0001C333
      && ((ctrArrival (opened s h) h theCtr 1 0x0001C333 (h.active t)).parts.findSome?
        (partFault h.block h.ref.cord (ctrArrival (opened s h) h theCtr 1 0x0001C333 (h.active t)))).isNone
      && hasSlot ((s.core 0).tile 1) (some (h.cord.tcount.get 1 0 + 1))))
    && (meets (.ctr { theCtr with scope := .cord }) (withS 2 0x0001C333 start) (fun s h => physTile h.block 1 == some 1
      && okOr none (ctrShape h { theCtr with scope := .cord } (h.active t)) == some 0x0001C333 && !ctrBad { theCtr with scope := .cord } 0x0001C333
      && !tileRace h.block h.ref.cord ((s.core 0).tile 1)
      && ((ctrArrival (opened s h) h { theCtr with scope := .cord } 1 0x0001C333 (h.active t)).parts.findSome?
        (partFault h.block h.ref.cord (ctrArrival (opened s h) h { theCtr with scope := .cord } 1 0x0001C333 (h.active t)))).isNone
      && hasSlot ((s.core 0).tile 1) none))
    && (meets (.ctrskip { tile := 1, a := 0, all := true }) start (fun _ h => physTile h.block 1 == some 1 && !h.cord.skipAll.contains 1))
    && (meets (.ctrskip { tile := 1, a := 2, all := false }) (withS 2 3 start) (fun s h => physTile h.block 1 == some 1 && !h.cord.skipAll.contains 1
      && ((h.cord.skipLeft.get? h.addr).getD (if (2 : Reg) = 0 then 1 else (h.s 2).toNat)) == 3
      && (skipMany (skipArrival (opened s h) h 1) 3 ((s.core 0).tile 1) (h.cord.tcount.get 1 0)).2.2 == 0))
    && ((let a : Arrival := {
        cord := 0, stamp := 0, parts := [⟨0, 0, 64⟩, ⟨20, 0, 64⟩], shape := 0x0001C333, amode := .row, bmode := .row, tile := 0, tile2 := 0
        rank0 := 0, scale := [0, 0, 0, 0], draw0 := 0, draw1 := 0, ranges := [], after := [] }
      let i : Instance := { seq := none, prio := 0, arrivals := [a], next := 0 }
      let s := onCore (fun c => c.setTile 1 { c.tile 1 with slots := [i] }) start
      (s.core 0).bad.isEmpty && ((s.core 0).tile 1).slots[0]? == some i && (tileOwner (s.core 0) 1).any (fun x =>
        instReady (s.core 0) 1 x.2.1 x.2.2 i && !outranked (s.core 0) 1 0 && decide ((groupsLeft i).length = 2))))) = true := by decide +kernel

theorem witness_ContractionArithmetic : (
    (decide (Machine.Num.nan ∈ [Machine.Num.nan] ∧ Machine.Num.inf true ∈ [Machine.Num.inf true, .fin false 1 0]
      ∧ Machine.Num.nan ∉ [Machine.Num.inf true, .fin false 1 0] ∧ Machine.Num.inf false ∉ [Machine.Num.inf true, .fin false 1 0]))
    && ([Machine.Num.fin true 0 0, .fin false 0 3].all (fun p => match p with
      | .fin _ m _ => m == 0
      | _ => false))
    && ([Machine.Num.fin true 5 0, .fin false 3 2].all (fun p => match p with
      | .fin _ m e => decide (m = 0 ∨ (m.log2 : Int) + e ≤ (3 : Nat).log2 + 2)
      | _ => false))
    && ((Fmt.f32.decode 0x7FC00000).isNan && Fmt.f32.decode 0x7F800000 == .inf false && (match Fmt.f32.decode 0x3F800000 with
      | .fin _ m _ => m != 0
      | _ => false))
    && (groupSum 26 [Machine.Num.inf true] == .inf true && (groupSum 26 [Machine.Num.nan]).isNan && decide ((2 : Nat) ^ 128 ≤ 1 * 2 ^ 128))
    && (decide ((start.core 0).acc.wf = true ∧ 3 < 64 ∧ 5 < 64))
    && ((let a : Arrival := {
        cord := 0, stamp := 0, parts := [⟨0, 0, 64⟩, ⟨20, 0, 64⟩], shape := 0x0001C333 + 2 ^ 22, amode := .row, bmode := .row, tile := 0, tile2 := 0
        rank0 := 0, scale := [0, 0, 0, 0], draw0 := 0, draw1 := 0, ranges := [], after := [] }
      let first (g : Nat) : Option Nat := ((a.parts.map (·.lane)).filter (fun k => k / 16 == g)).head?
      shapeArnd a.shape == 1 && first 0 == some 0 && first 1 == some 20))
    && (decide ([1, 2, 3, 4, 5, 6].map (fun f => shapeFa (BitVec.ofNat 32 f)) = [1, 2, 3, 4, 5, 6]) && decide (0x61 % 64 ≠ 63 ∧ 0xFF % 64 = 63 ∧ 0xFF < 256 ∧ 15 < 16) && theCtr.j == 0 && ({ theCtr with j := 2 } : OCtr).j != 0)) = true := by decide +kernel

theorem witness_Drains : (
    (meets (.acdrain { gd := t, tile := 1, a := 1, b := 2, skw := false, ty := .bf16, rnd := .sr, sat := false, imm := 0, la := 0 }) (withS 2 0x0001C333 start) (fun s h => physTile h.block 1 == some 1 && !tileBegun ((s.core 0).tile 1) none && !writeBefore (s.core 0) 1 h.block 1 0 s.clock && !tileWaits ((opened s h).core 0) 0 0 1 && !tileBusy ((opened s h).core 0) 1 && !tileRace h.block 0 ((s.core 0).tile 1) && !(h.active t).isEmpty && s.memOk && !(okOr [] (region h.block h.cord false 0 32 2)).isEmpty
      && (okOr [] (region h.block h.cord false 0 32 2)).all (fun x => !raceFlag h.block 0 x && !scoreHeld (s.core 0) true (h.block.spbase + x) 2)
      && decide (shapeM (h.s 2) * shapeN (h.s 2) = 32) && (tileFault ((s.core 0).tile 1) 0).isNone))
    && (meets (.acaxpy { gd := t, tile := 1, a := 1, b := 2, c := 3, ty := .f32, sat := false, la := 0 }) (withS 2 0x0001C333 start) (fun s h => physTile h.block 1 == some 1 && !tileBegun ((s.core 0).tile 1) none && !writeBefore (s.core 0) 1 h.block 1 0 s.clock && !tileWaits ((opened s h).core 0) 0 0 1 && !tileBusy ((opened s h).core 0) 1 && !tileRace h.block 0 ((s.core 0).tile 1) && !(h.active t).isEmpty && s.memOk && !(okOr [] (region h.block h.cord false 0 32 4)).isEmpty
      && (okOr [] (region h.block h.cord false 0 32 4)).all (fun x => !raceFlag h.block 0 x && !scoreHeld (s.core 0) true (h.block.spbase + x) 4)
      && decide (shapeM (h.s 2) * shapeN (h.s 2) = 32) && (tileFault ((s.core 0).tile 1) 0).isNone))
    && (Fmt.f32.decode 0x3F800000 == .fin false (2 ^ 23) (-23) && (Fmt.f32.decode 0x7FC00000).isNan && Fmt.f32.decode 0xFF800000 == .inf true
      && Fmt.bf16.decode 0x3F80 == .fin false 128 (-7))) = true := by decide +kernel

theorem witness_Tasks : (
    (meets (.spawn { gd := t, a := 2, b := 4, c := 5, slice := 2, cls := 1, la := 0 }) (granted start) (fun s h => decide (((h.block.task.map (·.depth)).getD 0) + 1 ≤ 8) && sliceGranted s h.block 2
      && (h.active t).all (fun k => (h.v k 4).toNat % 4 == 0) && decide ((h.active t).length ≤ taskRoom s h.block.ctx (clusterOf h.ref.core))))
    && ((let s := granted start
      let c := s.cluster 1
      let s := s.setCluster 1 { c with tasks := List.replicate 32 item ++ c.tasks }
      let ready := (s.cluster 1).tasks.filter (fun x => (s.cluster 1).events.get x.slice 0 &&& x.waitM == x.waitM)
      let same (x y : TaskItem) : Bool := x.launch == y.launch && x.entry == y.entry && x.cls == y.cls
      ready.any (fun x => ((ready.filter (same x)).take 32).length == 32) && ((ready.filter (fun x => !itemDet s x))[1]?).isSome))
    && ((let s := detTask
      let ready := (s.cluster 1).tasks.filter (fun x => (s.cluster 1).events.get x.slice 0 &&& x.waitM == x.waitM)
      let same (x y : TaskItem) : Bool := x.launch == y.launch && x.entry == y.entry && x.cls == y.cls
      ready == [{ item with by_ := 99, rank := some 3 }] && ready.all (fun x => itemDet s x && spawnerGone s x)
        && ready.all (fun x => ((ready.filter (same x)).take 32).length != 32)))
    && ((start.cluster 1).tasks.isEmpty)) = true := by decide +kernel

theorem witness_HandlerEntry : (
    (atCord (onCord (fun c => { c with hvec := 0x1100 }) (onLanes (fun k l => if k = 3 then { l with st := .park } else { l with st := .exit }) start)) (fun b x => b.status.issues && x.handler.isNone && wantsHandler x && !entryWaits b x && !slideSpills x (x.lanesWith (fun l => l.st != .exit)) && x.hvec != 0 && true))
    && (atCord (onBlock (fun b => { b with bhand := 0x1200 }) (onLanes (fun k l => if k = 3 then { l with st := .park } else { l with st := .exit }) start)) (fun b x => b.status.issues && x.handler.isNone && wantsHandler x && !entryWaits b x && !slideSpills x (x.lanesWith (fun l => l.st != .exit)) && x.hvec == 0 && b.bhand != 0))
    && (atCord (onLanes (fun k l => if k = 3 then { l with st := .park } else { l with st := .exit }) start) (fun b x => b.status.issues && x.handler.isNone && wantsHandler x && !entryWaits b x && !slideSpills x (x.lanesWith (fun l => l.st != .exit)) && x.hvec == 0 && b.bhand == 0))) = true := by decide +kernel

theorem witness_HandlerReturn : (
    (meets (.swr { gd := t, idx := 0x10, a := 1 }) (handling start) (fun _ h => h.cord.handler.isSome && (h.active t).all (fun k => (h.v k 1).toNat % 4 == 0)))
    && (meets (.swr { gd := t, idx := 0x11, a := 1 }) (handling start) (fun _ h => h.cord.handler.isSome))
    && (meets (.swr { gd := t, idx := 0x14, a := 1 }) (handling start) (fun _ h => h.cord.handler.isSome))
    && (meets (.hret { gd := t, a := 1 }) (handling start) (fun s h => h.cord.handler == some ⟨1, 5, 4⟩ && h.cord.gathers.isEmpty && h.cord.inflight.isEmpty && h.cord.uspill.isEmpty
      && h.cord.lanes.vals.all (fun l => l.frames.all (fun f => f.spill.isNone)) && (h.cord.lane 0).handles && (h.cord.lane 0).savedSt == .run
      && (h.cord.lane 1).savedSt == .park && (h.cord.lane 2).savedSt == .exit
      && (h.cord.lane 3).savedSt == .wait && !atRjoin s h.ref.core h.block.ctx (h.cord.lane 3).savedPc))) = true := by decide +kernel

theorem witness_Escalation : (
    ((let s := handling start;
      atCord s (fun b x => b.status.issues && !x.exited && x.handler.any (fun hd => hd.rung == 1))))
    && ((let s := onCord (fun c => { c with handler := some ⟨0, 5, 4⟩ }) (handling start);
      atCord s (fun b x => b.status.issues && !x.exited && x.handler.any (fun hd => hd.rung == 0 && b.bhand == 0))))
    && ((let s := onBlock (fun b => { b with bhand := 0x1200 }) (onCord (fun c => { c with handler := some ⟨0, 5, 4⟩ }) (handling start));
      atCord s (fun b x => b.status.issues && !x.exited && x.handler.any (fun hd => x.gathers.isEmpty && hd.rung == 0) && b.bhand != 0
        && (let y := x.onLanes (x.lanesWith (·.handles)) (fun _ l => { l with pc := l.savedPc, st := l.savedSt, frames := l.toHandler.frames.tail })
            let ks := y.lanesWith (fun l => l.st != .exit)
            !slideSpills y ks && ks.contains 0 && !ks.contains 2))))
    && ((let s := onCord (fun c => { c with escalated := some 2 }) start;
      atCord s (fun b x => b.status.issues && !x.exited && x.handler.isNone && x.escalated == some 2)))
    && ((let s := (window (onCord (fun c => { c with escalated := some 2 }) { start with launches := Tab.empty.set 0 launch0 })).setCtx 0 { Ctx.fresh with faultSize := 4 };
      atCord s (fun b x => b.status.issues && !x.exited && x.escalated == some 2 && (s.ctx b.ctx).faultSize != 0 && windowAllows s ((s.ctx b.ctx).faultBase + 32 * ((s.ctx b.ctx).faultHead % 4)) 32 true
        && (s.launches.get? b.launch).any (fun l => l.status != .failed))))
    && (atOp (withOp { copyOp with state := .suspended, cause := 0x0D, told := true } start) (fun o => o.state == .suspended && o.told && decide (o.escalated.getD 2 < 4) && o.slot != noSlot))
    && (atCord (onBlock (fun b => { b with status := .ended }) (onCord (fun c => { c with escalated := some 2 }) start)) (fun b x => b.status == .ended && x.escalated == some 2))
    && ((let s := (withOp { copyOp with state := .suspended, cause := 0x0D } (window start)).setCtx 0 { Ctx.fresh with faultSize := 4 };
      atOp s (fun o => o.state == .suspended && o.cause != 0 && !o.told && (s.ctx o.ctx).faultSize != 0
        && windowAllows s ((s.ctx o.ctx).faultBase + 32 * ((s.ctx o.ctx).faultHead % 4)) 32 true)))
    && ((let s := withOp { copyOp with state := .failed, cause := 0x0D } (onLanes (fun _ l => { l with st := .exit }) (granted start));
      atOp s (fun o => o.state == .failed && !o.rep && o.det.isNone && o.slot == 0)
        && atCord s (fun b _ => b.status.issues && b.cords.vals.all Cord.exited && (s.launches.get? b.launch).isSome)))) = true := by decide +kernel

theorem witness_Overlays : (
    (meets (.callo { gd := t, off := 3073 }) (onCore (fun c => { c with res := [residency] }) (withOvl start)) (fun s h => !(h.active t).isEmpty && BitVec.ofInt 32 (h.addr + 4 * (3073 : BitVec 28).toInt) == 0x4004 && (coveringOverlay (opened s h) h.ref.core h.block 0x4004).any (fun e => e.caddr == 0x4000
      && (resOf (s.core 0) h.block.ctx e).any (fun r => r.resident)) && !slideSpills h.cord (h.active t)
      && (h.active t).all (fun k => decide ((h.cord.lane k).calls < 4095))))
    && (meets (.callo { gd := t, off := 3073 }) (withOvl start) (fun s h => !(h.active t).isEmpty && (coveringOverlay (opened s h) h.ref.core h.block 0x4004).any (fun e => e.caddr == 0x4000 && (resOf (s.core 0) h.block.ctx e).isNone && !e.demand) && h.cord.calloWait.isNone))
    && ((let r : Residency := { residency with pages := [], npages := 0, done := 0, resident := false, digest := BitVec.ofNat 256 (leNat (shake256 [])) }
      let c := { start.core 0 with res := [r] };
      c.res[0]? == some r && !r.resident && decide (r.npages ≤ r.done) && (loadOps c r).isEmpty && mapRoom (r.npages * r.sharers.length) c
        && r.susp.isNone && !r.evict && digestOf (imageBytes c r) == r.digest && digestOf (imageBytes c r) != 0))
    && (meets (.ovlrel { gd := t, a := 1, la := 0 }) (withS 1 515 (withOp { copyOp with kind := .ovlld, state := .done } start)) (fun s h => (validToken (s.core h.ref.core) h.ref.slot (h.s 1)).any (fun x => x.kind == .ovlld && x.state.finished)))
    && (meets (.ovlrel { gd := t, a := 1, la := 0 }) (withS 1 515 (withOp { copyOp with kind := .ovlld, state := .running } start)) (fun s h => (validToken (s.core h.ref.core) h.ref.slot (h.s 1)).any (fun x => x.kind == .ovlld && !x.state.finished)))
    && (meets (.ovlevict { gd := t, idx := 0, la := 0 }) (onCore (fun c => { c with res := [residency] }) (withOvl start)) (fun s h => (ovlAt (opened s h) h 0).any (fun e => (resOf (s.core h.ref.core) h.block.ctx e).any (fun r => r.resident))))
    && ((let s := onCore (fun c => { c with res := [residency], bad := [(.codeStore, 3 * 512)] }) (mapped start);
      s.memOk && badWord (s.core 0) .codeStore (3 * 4096) 4096 && (s.core 0).res.find? (fun r => r.pages.contains 3) == some residency
      && Except.isOk (engineRead s (loaderOf 0 residency.ctx) (0x20000 + ((residency.pages.findIdx? (· == 3)).getD 0) * 4096) 4096)))) = true := by decide +kernel

theorem witness_Barriers : (
    (meets (.bar { gd := t, qd := 0, a := 1, bn := 2 }) (withS 1 1 (start)) (fun s h => h.arrived.isNone && !writesPending (s.core h.ref.core) h.ref.slot h.ref.cord h.block
      && decide ((h.s 1).toNat % 64 = 1 ∧ arrivalPhase (h.block.barrier 2) h.ref.cord < 4)
      && ((arriveAt (h.block.barrier 2) (arrivalPhase (h.block.barrier 2) h.ref.cord) h.ref.cord 1).phases.head?).any (fun p =>
        phaseDone h.block p && arrivalPhase (h.block.barrier 2) h.ref.cord == 0)))
    && (meets (.bar { gd := t, qd := 0, a := 1, bn := 2 }) (withS 1 2 (withTwo start)) (fun s h => h.arrived.isNone && !writesPending (s.core h.ref.core) h.ref.slot h.ref.cord h.block
      && decide ((h.s 1).toNat % 64 = 2 ∧ arrivalPhase (h.block.barrier 2) h.ref.cord < 4)
      && ((arriveAt (h.block.barrier 2) (arrivalPhase (h.block.barrier 2) h.ref.cord) h.ref.cord 2).phases.head?).any (fun p =>
        !phaseDone h.block p && arrivalPhase (h.block.barrier 2) h.ref.cord == 0)))
    && (meets (.barar { gd := t, a := 1, bn := 2 }) (withS 1 1 (start)) (fun s h => h.arrived.isNone && !writesPending (s.core h.ref.core) h.ref.slot h.ref.cord h.block
      && decide ((h.s 1).toNat % 64 = 1 ∧ arrivalPhase (h.block.barrier 2) h.ref.cord < 4)
      && ((arriveAt (h.block.barrier 2) (arrivalPhase (h.block.barrier 2) h.ref.cord) h.ref.cord 1).phases.head?).any (fun p =>
        phaseDone h.block p && arrivalPhase (h.block.barrier 2) h.ref.cord == 0)))
    && (meets (.barar { gd := t, a := 1, bn := 2 }) (withS 1 2 (withTwo start)) (fun s h => h.arrived.isNone && !writesPending (s.core h.ref.core) h.ref.slot h.ref.cord h.block
      && decide ((h.s 1).toNat % 64 = 2 ∧ arrivalPhase (h.block.barrier 2) h.ref.cord < 4)
      && ((arriveAt (h.block.barrier 2) (arrivalPhase (h.block.barrier 2) h.ref.cord) h.ref.cord 2).phases.head?).any (fun p =>
        !phaseDone h.block p && arrivalPhase (h.block.barrier 2) h.ref.cord == 0)))
    && (meets (.barwt { gd := t, qd := 0, bn := 2 }) start (fun _ h => (h.cord.barars.get? 2).isNone))
    && (meets (.barwt { gd := t, qd := 0, bn := 2 }) (onBlock (fun b => { b with barriers := b.barriers.set 2 { number := 1, phases := [] } }) (onCord (fun c => { c with barars := c.barars.set 2 0 }) start)) (fun _ h => (h.cord.barars.get? 2).any (fun p => decide (p < (h.block.barrier 2).number))))
    && (meets (.bar { gd := t, qd := 0, a := 1, bn := 2 }) (withS 1 40 start) (fun _ h => h.arrived.isNone && decide (32 < (h.s 1).toNat % 64)))
    && (meets (.barar { gd := t, a := 1, bn := 2 }) (withS 1 40 start) (fun _ h => decide (32 < (h.s 1).toNat % 64)))
    && (meets (.bar { gd := t, qd := 0, a := 1, bn := 2 }) (onCord (fun c => { c with barWait := c.barWait.set 0x1000 ⟨List.range 32, 2, 0, some true⟩ }) start) (fun _ h => h.arrived == some ⟨List.range 32, 2, 0, some true⟩))
    && (meets (.bar { gd := t, qd := 0, a := 1, bn := 2 }) (onCord (fun c => { c with barWait := c.barWait.set 0x1000 ⟨List.range 32, 2, 0, none⟩ }) start) (fun _ h => h.arrived == some ⟨List.range 32, 2, 0, none⟩))
    && (meets (.barwt { gd := t, qd := 0, bn := 2 }) (onCord (fun c => { c with barars := c.barars.set 2 0 }) start) (fun _ h => (h.cord.barars.get? 2).any (fun p => decide ((h.block.barrier 2).number ≤ p))))
    && (meets (.fence { gd := t, acq := false, rel := false, scope := .lane }) start (fun _ _ => true))) = true := by decide +kernel

theorem witness_TicketsAndEvents : (
    (meets (.tktwait { gd := t, level := 2 }) (onBlock (fun b => { b with task := some ⟨1, .empty⟩ }) start) (fun _ h => h.block.task.isSome))
    && (meets (.tktwait { gd := t, level := 2 }) (inFour (fun l => { l with passed := [0] }) start) (fun s h => (s.launches.get? h.block.launch).any (fun l => lowerRanks l 2 h.block.rank == [0] && l.passed.contains 0) && h.block.task.isNone))
    && (meets (.tktwait { gd := t, level := 2 }) (inFour (fun l => { l with endedBlocks := [0] }) start) (fun s h => (s.launches.get? h.block.launch).any (fun l => (lowerRanks l 2 h.block.rank).any (neverPasses l)) && h.block.task.isNone))
    && (meets (.tktpass { gd := t }) (inFour id start) (fun s h => (s.launches.get? h.block.launch).isSome && h.block.task.isNone))
    && (((inFour (fun l => { l with passing := [2] }) start).launches.get? 0).any (fun l => !l.passing.isEmpty))
    && (meets (.evset { gd := t, a := 1, slice := 2 }) (granted start) (fun s h => sliceGranted s h.block 2))
    && (meets (.evclr { gd := t, a := 1, slice := 2 }) (granted start) (fun s h => sliceGranted s h.block 2))
    && (meets (.evwait { gd := t, a := 1, slice := 2 }) (granted start) (fun s h => sliceGranted s h.block 2 && ((h.s 1).setWidth 16 : BitVec 16) == 0))
    && (meets (.idleEv { gd := t, a := 1, slice := 2 }) (granted start) (fun s h => sliceGranted s h.block 2 && ((h.s 1).setWidth 16 : BitVec 16) == 0))
    && (meets (.evset { gd := t, a := 1, slice := 2 }) start (fun s h => !sliceGranted s h.block 2))
    && (meets (.evclr { gd := t, a := 1, slice := 2 }) start (fun s h => !sliceGranted s h.block 2))
    && (meets (.evwait { gd := t, a := 1, slice := 2 }) start (fun s h => !sliceGranted s h.block 2))
    && (meets (.idleEv { gd := t, a := 1, slice := 2 }) start (fun s h => !sliceGranted s h.block 2))
    && (meets (.yield { gd := t, wide := false }) start (fun _ _ => true))
    && (atCord (onCord (fun c => { c with rest := some 0 }) { start with clock := 0 }) (fun _ c => c.rest == some 0))) = true := by decide +kernel

theorem witness_QueuesAndChannels : (
    (meets (.idleQ { gd := t, a := 3 }) (withDq 0 1 start) (fun s h => boundQueue h.block (h.s 3) == some 5 && !(queueOf s 5).bad && qFill (queueOf s 5) != 0))
    && (meets (.qpop { gd := t, qd := 0, a := 1, b := 3, imm := 0, la := 0 }) (withDq 0 0 start) (fun s h => boundQueue h.block (h.s 3) == some 5 && !(queueOf s 5).bad && decide (scoreCount ((opened s h).core 0) < 64) && resolve (opened s h) h 0 .lin (h.s 1 + (0 : BitVec 11).signExtend 32) 64 true false true == .ok (.sp 0 0) && !spotHeld (opened s h) true 64 (.sp 0 0) && qFill (queueOf s 5) == 0))
    && (meets (.qpop { gd := t, qd := 0, a := 1, b := 3, imm := 0, la := 0 }) (withDq 0 1 start) (fun s h => boundQueue h.block (h.s 3) == some 5 && !(queueOf s 5).bad && decide (scoreCount ((opened s h).core 0) < 64) && resolve (opened s h) h 0 .lin (h.s 1 + (0 : BitVec 11).signExtend 32) 64 true false true == .ok (.sp 0 0) && !spotHeld (opened s h) true 64 (.sp 0 0) && qFill (queueOf s 5) != 0 && Except.isOk (dieRead s 0 0 (qRing (queueOf s 5)) 64)))
    && (meets (.qpush { gd := t, qd := 0, a := 1, b := 3, imm := 0 }) (withDq 0 4 start) (fun s h => boundQueue h.block (h.s 3) == some 5 && !(queueOf s 5).bad && resolve (opened s h) h 0 .lin (h.s 1 + (0 : BitVec 11).signExtend 32) 64 false true true == .ok (.sp 0 0) && !spotHeld (opened s h) false 64 (.sp 0 0) && qFill (queueOf s 5) == qSize (queueOf s 5)))
    && (meets (.qpush { gd := t, qd := 0, a := 1, b := 3, imm := 0 }) (withDq 0 1 start) (fun s h => boundQueue h.block (h.s 3) == some 5 && !(queueOf s 5).bad && resolve (opened s h) h 0 .lin (h.s 1 + (0 : BitVec 11).signExtend 32) 64 false true true == .ok (.sp 0 0) && !spotHeld (opened s h) false 64 (.sp 0 0) && qFill (queueOf s 5) != qSize (queueOf s 5) && Except.isOk (dieWrite (opened s h) 0 0 (qRing (queueOf s 5) + 64) (List.replicate 64 0) h.agent)))
    && (meets (.qpop { gd := t, qd := 0, a := 1, b := 3, imm := 0, la := 0 }) start (fun _ h => (boundQueue h.block (h.s 3)).isNone))
    && (meets (.qpush { gd := t, qd := 0, a := 1, b := 3, imm := 0 }) start (fun _ h => (boundQueue h.block (h.s 3)).isNone))
    && (meets (.idleQ { gd := t, a := 3 }) start (fun _ h => (boundQueue h.block (h.s 3)).isNone))
    && (meets (.chput { gd := t, ch := 0, a := 1 }) (withChan false 3 5 start) (fun s h => h.block.chans[0]? == some 0 && ((s.core 0).chans.get? 0).any (fun c => !c.eos && decide ((c.tail - c.head).toNat < 2 ^ c.lsize)) && !scoreHeld (s.core 0) true 20 4))
    && (meets (.chget { gd := t, ch := 0, a := 1, qb := 0, la := 0 }) (withChan true 3 3 start) (fun s h => h.block.chans[0]? == some 0 && ((s.core 0).chans.get? 0).any (fun c => c.eos && c.tail == c.head)))
    && (meets (.chget { gd := t, ch := 0, a := 1, qb := 0, la := 0 }) (withChan false 3 5 start) (fun s h => h.block.chans[0]? == some 0 && ((s.core 0).chans.get? 0).any (fun c => c.tail != c.head) && !scoreHeld (s.core 0) false 12 4))
    && (meets (.cheos { gd := t, ch := 0 }) (withChan false 3 5 start) (fun s h => h.block.chans[0]? == some 0 && ((s.core 0).chans.get? 0).any (fun c => !c.eos)))
    && (meets (.chput { gd := t, ch := 0, a := 1 }) (withChan true 3 5 start) (fun s h => h.block.chans[0]? == some 0 && ((s.core 0).chans.get? 0).any (fun c => c.eos)))
    && (meets (.cheos { gd := t, ch := 0 }) (withChan true 3 5 start) (fun s h => h.block.chans[0]? == some 0 && ((s.core 0).chans.get? 0).any (fun c => c.eos)))
    && (meets (.chput { gd := t, ch := 9, a := 1 }) start (fun _ h => h.block.chans[9]?.isNone))
    && (meets (.chget { gd := t, ch := 9, a := 1, qb := 0, la := 0 }) start (fun _ h => h.block.chans[9]?.isNone))
    && (meets (.cheos { gd := t, ch := 9 }) start (fun _ h => h.block.chans[9]?.isNone))) = true := by decide +kernel

theorem witness_OperationIssue : (
    (meets (.cpyIn { gd := t, d := 6, a := 1, b := 2, c := 4, ord := ⟨false, false, .lane⟩, mods := noMods }) (opRegs start) (fun s h => h.block.ops != 0 && h.cord.gathers.isEmpty && opRoom (s.core h.ref.core) h 1 1 && (h.kept 0).isNone && (freeEntry (s.core h.ref.core)).isSome && (h.s 1).toNat % 16 == 0 && (h.s64 2).toNat % 16 == 0 && decide ((h.s 4).toNat = 256 ∧ (h.s 1).toNat + 256 ≤ h.block.splen)))
    && (meets (.cpyOut { gd := t, d := 6, a := 2, b := 1, c := 4, ord := ⟨false, false, .lane⟩, mods := noMods }) (opRegs start) (fun s h => h.block.ops != 0 && h.cord.gathers.isEmpty && opRoom (s.core h.ref.core) h 1 1 && (h.kept 0).isNone && (freeEntry (s.core h.ref.core)).isSome && (h.s 1).toNat % 16 == 0 && (h.s64 2).toNat % 16 == 0 && decide ((h.s 4).toNat = 256 ∧ (h.s 1).toNat + 256 ≤ h.block.splen) && !(raceBad h 0 256).1))
    && (meets (.cpyCk { gd := t, d := 6, a := 1, b := 2, c := 4, ord := ⟨false, false, .lane⟩, mods := noMods }) (opRegs start) (fun s h => h.block.ops != 0 && h.cord.gathers.isEmpty && opRoom (s.core h.ref.core) h 1 1 && (h.kept 0).isNone && (freeEntry (s.core h.ref.core)).isSome && (h.s 1).toNat % 16 == 0 && (h.s64 2).toNat % 16 == 0 && decide (0 < chunkCount (h.s 5) ∧ chunkCount (h.s 5) ≤ 8192 ∧ (h.s 5).toNat / 2 ^ 16 % 4 ≠ 3 ∧ (h.s 5).toNat / 2 ^ 18 = 0 ∧ 128 * chunkCount (h.s 5) * chunkZ (h.s 5) ≤ h.block.splen)))
    && (meets (.cpyCkc { gd := t, d := 6, a := 12, b := 2, c := 4, ord := ⟨false, false, .lane⟩, mods := noMods }) (opRegs start) (fun s h => h.block.ops != 0 && h.cord.gathers.isEmpty && opRoom (s.core h.ref.core) h 1 2 && (h.kept 0).isNone && (freeEntry (s.core h.ref.core)).isSome && (h.s 12).toNat % 16 == 0 && (h.s 13).toNat % 16 == 0 && decide (0 < chunkCount (h.s 5) ∧ 0x2000 + 128 * chunkCount (h.s 5) * chunkZ (h.s 5) ≤ h.block.splen ∧ 16 + 512 * chunkCount (h.s 5) ≤ h.block.splen)))
    && (meets (.cpyIna { gd := t, d := 6, a := 1, b := 2, c := 9, ord := ⟨false, false, .lane⟩, mods := noMods }) (opRegs start) (fun s h => h.block.ops != 0 && h.cord.gathers.isEmpty && opRoom (s.core h.ref.core) h 1 0 && (h.kept 0).isNone && (freeEntry (s.core h.ref.core)).isSome && tileCopyBad h s 1 (h.s 9) (h.s64 2).toNat false == none))
    && (meets (.cpyOuta { gd := t, d := 6, a := 2, b := 1, c := 9, ord := ⟨false, false, .lane⟩, mods := noMods }) (opRegs start) (fun s h => h.block.ops != 0 && h.cord.gathers.isEmpty && opRoom (s.core h.ref.core) h 1 0 && (h.kept 0).isNone && (freeEntry (s.core h.ref.core)).isSome && tileCopyBad h s 1 (h.s 9) (h.s64 2).toNat true == none))
    && (meets (.cpygat { gd := t, d := 6, a := 1, b := 2, c := 8, ord := ⟨false, false, .lane⟩, mods := noMods }) (opRegs start) (fun s h => h.block.ops != 0 && h.cord.gathers.isEmpty && opRoom (s.core h.ref.core) h 1 2 && (h.kept 0).isNone && (freeEntry (s.core h.ref.core)).isSome && decide ((h.s 8).toNat = 0x1000 ∧ (h.s 9).toNat = 4 ∧ (h.s 10).toNat = 64 ∧ (h.s 11).toNat % 16 = 0) && !(raceBad h 0x1000 16).1))
    && (meets (.mred { gd := t, d := 6, a := 1, b := 12, c := 4, fn := .s32, ord := ⟨false, false, .lane⟩, mods := noMods }) (inTrees (opRegs start)) (fun s h => h.block.ops != 0 && h.cord.gathers.isEmpty && opRoom (s.core h.ref.core) h 1 2 && (h.kept 0).isNone && (freeEntry (s.core h.ref.core)).isSome && h.cord.keptRed.isNone && decide (redTree (h.s 4) = 0 ∧ (h.s 4).toNat / 2 ^ 25 = 0 ∧ redCount (h.s 4) = 1) && !(raceBad h 0x2000 4).1 && rtMem (((s.die 0).trees.get 0 Tree.fresh).at 0)))
    && (meets (.coll { gd := t, d := 6, a := 1, b := 12, c := 4, fn := .s32, ord := ⟨false, false, .lane⟩, mods := noMods }) (inTrees (opRegs start)) (fun s h => h.block.ops != 0 && h.cord.gathers.isEmpty && opRoom (s.core h.ref.core) h 1 2 && (h.kept 0).isNone && (freeEntry (s.core h.ref.core)).isSome && h.cord.keptRed.isNone && decide (redTree (h.s 4) = 0 ∧ (h.s 4).toNat / 2 ^ 25 = 0 ∧ redCount (h.s 4) = 1) && !(raceBad h 0x2000 4).1 && rtMem (sysByte s 0)))
    && (meets (.wnw { gd := t, d := 6, a := 1, b := 2, c := 7, ord := ⟨false, false, .lane⟩, mods := noMods }) (opRegs start) (fun s h => h.block.ops != 0 && h.cord.gathers.isEmpty && opRoom (s.core h.ref.core) h 2 1 && (h.kept 0).isNone && (freeEntry (s.core h.ref.core)).isSome && (h.s 1).toNat % 16 == 0 && decide (64 ≤ h.block.splen) && !(raceBad h 0 64).1 && freeEntry (s.core h.ref.core) == some 0 && (List.range 512).find? (fun i => i != 0 && ((s.core h.ref.core).ops.get? i).isNone) == some 1))
    && (meets (.ovlld { gd := t, d := 6, idx := 0, mods := noMods }) (withOvl start) (fun s h => h.block.ops != 0 && h.cord.gathers.isEmpty && opRoom (s.core h.ref.core) h 1 0 && (h.kept 0).isNone && (freeEntry (s.core h.ref.core)).isSome && (ovlAt (opened s h) h 0).any (fun x => !ovlUnfit (s.core 0) h.block.ctx x)))
    && (meets (.cpyIn { gd := t, d := 6, a := 1, b := 2, c := 8, ord := ⟨false, false, .lane⟩, mods := after5 }) (opRegs start) (fun s h => (h.kept (h.s 5)).isNone && (validToken (s.core h.ref.core) h.ref.slot (h.s 5)).isNone))
    && (meets (.cpyOut { gd := t, d := 6, a := 1, b := 2, c := 8, ord := ⟨false, false, .lane⟩, mods := after5 }) (opRegs start) (fun s h => (h.kept (h.s 5)).isNone && (validToken (s.core h.ref.core) h.ref.slot (h.s 5)).isNone))
    && (meets (.cpyCk { gd := t, d := 6, a := 1, b := 2, c := 8, ord := ⟨false, false, .lane⟩, mods := after5 }) (opRegs start) (fun s h => (h.kept (h.s 5)).isNone && (validToken (s.core h.ref.core) h.ref.slot (h.s 5)).isNone))
    && (meets (.cpyCkc { gd := t, d := 6, a := 1, b := 2, c := 8, ord := ⟨false, false, .lane⟩, mods := after5 }) (opRegs start) (fun s h => (h.kept (h.s 5)).isNone && (validToken (s.core h.ref.core) h.ref.slot (h.s 5)).isNone))
    && (meets (.cpyIna { gd := t, d := 6, a := 1, b := 2, c := 8, ord := ⟨false, false, .lane⟩, mods := after5 }) (opRegs start) (fun s h => (h.kept (h.s 5)).isNone && (validToken (s.core h.ref.core) h.ref.slot (h.s 5)).isNone))
    && (meets (.cpyOuta { gd := t, d := 6, a := 1, b := 2, c := 8, ord := ⟨false, false, .lane⟩, mods := after5 }) (opRegs start) (fun s h => (h.kept (h.s 5)).isNone && (validToken (s.core h.ref.core) h.ref.slot (h.s 5)).isNone))
    && (meets (.cpygat { gd := t, d := 6, a := 1, b := 2, c := 8, ord := ⟨false, false, .lane⟩, mods := after5 }) (opRegs start) (fun s h => (h.kept (h.s 5)).isNone && (validToken (s.core h.ref.core) h.ref.slot (h.s 5)).isNone))
    && (meets (.wnw { gd := t, d := 6, a := 1, b := 2, c := 8, ord := ⟨false, false, .lane⟩, mods := after5 }) (opRegs start) (fun s h => (h.kept (h.s 5)).isNone && (validToken (s.core h.ref.core) h.ref.slot (h.s 5)).isNone))
    && (meets (.mred { gd := t, d := 6, a := 1, b := 2, c := 8, fn := .s32, ord := ⟨false, false, .lane⟩, mods := after5 }) (opRegs start) (fun s h => (h.kept (h.s 5)).isNone && (validToken (s.core h.ref.core) h.ref.slot (h.s 5)).isNone))
    && (meets (.coll { gd := t, d := 6, a := 1, b := 2, c := 8, fn := .s32, ord := ⟨false, false, .lane⟩, mods := after5 }) (opRegs start) (fun s h => (h.kept (h.s 5)).isNone && (validToken (s.core h.ref.core) h.ref.slot (h.s 5)).isNone))
    && (meets (.ovlld { gd := t, d := 6, idx := 0, mods := after5 }) (withS 5 1 (withOvl start)) (fun s h => (h.kept (h.s 5)).isNone && (validToken (s.core h.ref.core) h.ref.slot (h.s 5)).isNone))
    && (meets (.cpyIn { gd := t, d := 6, a := 1, b := 2, c := 4, ord := ⟨false, false, .lane⟩, mods := after5 }) (withS 5 515 (withOp { copyOp with state := .running } (opRegs start))) (fun s h => (h.kept (h.s 5)).isNone && (validToken (s.core h.ref.core) h.ref.slot (h.s 5)).any (fun x => x.state != .failed && x.state != .cancelled) && opRoom (s.core 0) h 1 1))) = true := by decide +kernel

theorem witness_OperationWaits : (
    (meets (.opwait { gd := t, a := 1, la := 0 }) (withS 1 515 (withOp { copyOp with state := .done } start)) (fun s h => (validToken (s.core h.ref.core) h.ref.slot (h.s 1)).any (fun x => x.state.finished && x.state != .failed) && (h.kept (h.s 1)).isNone))
    && (meets (.opwait { gd := t, a := 1, la := 0 }) (withS 1 515 (withOp { copyOp with state := .failed, cause := 0x0D } start)) (fun s h => (validToken (s.core h.ref.core) h.ref.slot (h.s 1)).any (fun x => x.state == .failed && !x.rep) && (h.kept (h.s 1)).isNone))
    && (meets (.optest { gd := t, qd := 0, a := 1, la := 0 }) (withS 1 515 (withOp { copyOp with state := .running } start)) (fun s h => (validToken (s.core h.ref.core) h.ref.slot (h.s 1)).isSome))
    && (meets (.opseal { gd := t, la := 0 }) start (fun _ h => !h.cord.batchOpen))
    && (meets (.opseal { gd := t, la := 0 }) (onCord (fun c => { c with batchOpen := true }) start) (fun s h => h.cord.batchOpen && decide (openSealed (s.core h.ref.core) h.ref h.cord < 16)))
    && (meets (.opseal { gd := t, la := 0 }) (onCord (fun c => { c with batchOpen := true, seals := 16 }) (withOps ((List.range 16).map (fun i => { copyOp with bseq := i })) start)) (fun s h => h.cord.batchOpen && decide (16 ≤ openSealed (s.core h.ref.core) h.ref h.cord)))
    && (meets (.opwaitb { gd := t, n := 0, la := 0 }) (onCord (fun c => { c with seals := 2 }) (withOp { copyOp with state := .failed, rep := true } start)) (fun s h => (cordOps (s.core h.ref.core) h.ref).any (fun x => decide (0 < h.cord.seals - x.2.bseq)) && (cordOps (s.core h.ref.core) h.ref).all (fun x => x.2.state.finished && x.2.rep) && h.block.failed.isEmpty))
    && (meets (.opwait { gd := t, a := 1, la := 0 }) (withS 1 99 start) (fun s h => (h.kept (h.s 1)).isNone && (validToken (s.core h.ref.core) h.ref.slot (h.s 1)).isNone))) = true := by decide +kernel

theorem witness_OperationManagement : (
    (meets (.opcancel { gd := t, a := 1, la := 0 }) (withS 1 515 (withOp copyOp start)) (fun s h => (validToken (s.core h.ref.core) h.ref.slot (h.s 1)).any (fun x => x.state == .queued)))
    && (meets (.opcancel { gd := t, a := 1, la := 0 }) (withS 1 515 (withOp { copyOp with state := .running } start)) (fun s h => (validToken (s.core h.ref.core) h.ref.slot (h.s 1)).any (fun x => x.state == .running && x.kind.engine == 0)))
    && (meets (.opcancel { gd := t, a := 1, la := 0 }) (withS 1 515 (withOp { copyOp with state := .done } start)) (fun s h => (validToken (s.core h.ref.core) h.ref.slot (h.s 1)).any (fun x => x.state.finished)))
    && (meets (.opdetach { gd := t, a := 1, b := 2, la := 0 }) (withS 1 515 (withOp copyOp start)) (fun s h => (validToken (s.core h.ref.core) h.ref.slot (h.s 1)).any (fun x => !x.state.finished) && (h.s64 2).toNat % 32 == 0))
    && (meets (.opdetach { gd := t, a := 1, b := 2, la := 0 }) (withS 1 515 (withOp { copyOp with state := .done } start)) (fun s h => (validToken (s.core h.ref.core) h.ref.slot (h.s 1)).any (fun x => x.state.finished) && (h.s64 2).toNat % 32 == 0))
    && (meets (.opdetach { gd := t, a := 1, b := 2, la := 0 }) (withS 2 8 (withS 1 515 (withOp copyOp start))) (fun s h => (validToken (s.core h.ref.core) h.ref.slot (h.s 1)).isSome && (h.s64 2).toNat % 32 != 0))
    && (meets (.opprio { gd := t, a := 1, p := 2, la := 0 }) (withS 1 515 (withOp copyOp start)) (fun s h => (validToken (s.core h.ref.core) h.ref.slot (h.s 1)).isSome))
    && (meets (.opstat { gd := t, d := 4, a := 2, b := 1, la := 0 }) (withS 1 515 (withOp { copyOp with state := .done } start)) (fun s h => (validToken (s.core h.ref.core) h.ref.slot (h.s 1)).any (fun x => x.state.finished) && s.memOk && resolve (opened s h) h 0 .lin (h.s 2) 32 true false false == .ok (.sp 0 0) && !scoreHeld (s.core 0) true 0 32))
    && (meets (.opadopt { gd := t, d := 4, a := 2 }) (withS 2 515 (withOp { copyOp with state := .running, det := some 0 } start)) (fun s h => (((s.core 0).ops.get? ((h.s 2).toNat % 512)).any (fun x => (h.s 3).toNat == h.ref.core && x.token == h.s 2 && x.det.isSome && !x.adopted && !x.state.finished && x.ctx == h.block.ctx && decide (opCount (s.core h.ref.core) h.ref.slot < h.block.ops)))))
    && (meets (.opadopt { gd := t, d := 4, a := 2 }) (withS 2 99 start) (fun s h => !(((s.core 0).ops.get? ((h.s 2).toNat % 512)).any (fun x => (h.s 3).toNat == h.ref.core && x.token == h.s 2 && x.det.isSome && !x.adopted && !x.state.finished && x.ctx == h.block.ctx && decide (opCount (s.core h.ref.core) h.ref.slot < h.block.ops)))))
    && (decide (copyOp.prio < 4 ∧ copyOp.cursor < 2 ^ 64 ∧ copyOp.addr < 2 ^ 64) && copyOp.kind == .cpy 0)) = true := by decide +kernel

theorem witness_OperationProgress : (
    (atOp (withOp copyOp start) (fun o => opReady (withOp copyOp start) 0 o && ((withOp copyOp start).core 0).bad.isEmpty
        && ((withOp copyOp start).core 0).ops.vals.all (fun x => !chosenBefore x o)))
    && (atOp (withOp { copyOp with state := .running, started := true, cancel := true } start) (fun o => o.state == .running && o.cancel))
    && ((let s := onBlock (fun b => { b with status := .saving false }) (withOp { copyOp with state := .running, started := true } start);
      atOp s (fun o => o.state == .running && !o.cancel && saveStops (s.core 0) o)))
    && ((let s := withOp { copyOp with state := .running, started := true } (mapped start);
      atOp s (fun o => o.state == .running && !o.cancel && !saveStops (s.core 0) o && engineNext s 0 0 == some 3 && (match workUnit (served s 0 3 o) 0 3 o with
        | .did _ _ f => !f
        | _ => false))))
    && ((let s := withOp { copyOp with state := .running, started := true, c := [16] } (mapped start);
      atOp s (fun o => o.state == .running && engineNext s 0 0 == some 3 && (match workUnit (served s 0 3 o) 0 3 o with
        | .did _ _ f => f
        | _ => false))))
    && ((let s := withOp { copyOp with state := .running, started := true } start;
      atOp s (fun o => o.state == .running && !o.cancel && !saveStops (s.core 0) o && !tokenless (s.core 0) o && engineNext s 0 0 == some 3 && (match workUnit s 0 3 o with
        | .fault _ f _ _ => !f
        | _ => false))))
    && ((let s := (withOp { copyOp with state := .running, started := true, b := 2 ^ 52 } (window start)).setCtx 0 { Ctx.fresh with faultSize := 4 };
      atOp s (fun o => o.state == .running && !o.cancel && !saveStops (s.core 0) o && engineNext s 0 0 == some 3 && (match workUnit s 0 3 o with
        | .fault _ f c _ => f && c == 0x06
        | _ => false) && o.kind != .ovlld && o.det.isNone && !o.told && windowAllows s ((s.ctx o.ctx).faultBase + 32 * ((s.ctx o.ctx).faultHead % 4)) 32 true)))
    && (atOp (withOp { copyOp with state := .suspended, cause := 0x0C } start) (fun o => o.state == .suspended && !o.pause && engineRoom (start.core 0) o && o.kind != .ovlld
        && !opSaves ((withOp { copyOp with state := .suspended, cause := 0x0C } start).core 0) o))
    && ((let s := withOp { copyOp with state := .running, started := true } (mapped start);
      atOp s (fun o => s.memOk && o.state == .running && o.kind == .cpy 0 && o.tile.isNone && !o.cancel && !saveStops (s.core 0) o && (s.core 0).bad.isEmpty
        && decide (o.cursor + min 4096 ((o.c.getD 0 0).toNat - o.cursor) < (o.c.getD 0 0).toNat)
        && !writeHeld (s.core 0) o (o.a + o.cursor) 4096 && engineNext s 0 0 == some 3 && Except.isOk (engineRead s (o.reader 0) ((o.b + o.cursor) % 2 ^ 64) 4096))))) = true := by decide +kernel

theorem witness_Reductions : (
    ((let r := red ((Tab.empty.set 0 (RedTy.s32, ([5] : List Word))).set 1 (.s32, [7])) .empty
      let s := reducing r (withOp mredOp start)
      let x := (s.die 0).trees.get 0 Tree.fresh
      let want := (if rtMem (x.at 1) then [r.own.get? 1] else []) ++ (liveChildren x 1).map (r.sent.get? ·)
      s.memOk && redOf (s.die 0) 0 0 == some r && r.failed.isNone && (waitingMember s (0, 3) (0, 0)).any (fun o => o.det.isNone && !o.auto)
        && (s.core 0).bad.isEmpty && treeGood x && (r.sent.get? 1).isNone && !(membersBelow x 64 1).isEmpty && !want.contains none && (combinePackets (want.filterMap id)).isSome && rtParent (x.at 1) != 0))
    && ((let r := red ((Tab.empty.set 0 (RedTy.s32, ([5] : List Word))).set 1 (.s32, [7])) (Tab.empty.set 1 (.s32, [7]))
      let s := reducing r (withOp mredOp start)
      let x := (s.die 0).trees.get 0 Tree.fresh
      let want := (if rtMem (x.at 0) then [r.own.get? 0] else []) ++ (liveChildren x 0).map (r.sent.get? ·)
      s.memOk && redOf (s.die 0) 0 0 == some r && r.failed.isNone && (waitingMember s (0, 3) (0, 0)).any (fun o => o.det.isNone && !o.auto)
        && (s.core 0).bad.isEmpty && treeGood x && (r.sent.get? 0).isNone && !(membersBelow x 64 0).isEmpty && !want.contains none && (combinePackets (want.filterMap id)).isSome && rtParent (x.at 0) == 0 && !resultHeld s r.members (0, 0)))
    && ((let r := red ((Tab.empty.set 0 (RedTy.s32, ([5] : List Word))).set 1 (.s32, [7])) (Tab.empty.set 1 (.f32, [7]))
      let s := reducing r (withOp mredOp start)
      let x := (s.die 0).trees.get 0 Tree.fresh
      let want := (if rtMem (x.at 0) then [r.own.get? 0] else []) ++ (liveChildren x 0).map (r.sent.get? ·)
      s.memOk && redOf (s.die 0) 0 0 == some r && r.failed.isNone && (waitingMember s (0, 3) (0, 0)).any (fun o => o.det.isNone && !o.auto)
        && (s.core 0).bad.isEmpty && treeGood x && (r.sent.get? 0).isNone && !(membersBelow x 64 0).isEmpty && !want.contains none && (combinePackets (want.filterMap id)).isNone))
    && ((let r := red ((Tab.empty.set 0 (RedTy.s32, ([5] : List Word))).set 1 (.s32, [7])) .empty
      let s := reducing r (withOp mredOp start)
      let x := (s.die 0).trees.get 0 Tree.fresh
      let want := (if rtMem (x.at 0) then [r.own.get? 0] else []) ++ (liveChildren x 0).map (r.sent.get? ·)
      s.memOk && redOf (s.die 0) 0 0 == some r && r.failed.isNone && (waitingMember s (0, 3) (0, 0)).any (fun o => o.det.isNone && !o.auto)
        && (s.core 0).bad.isEmpty && treeGood x && (r.sent.get? 0).isNone && !(membersBelow x 64 0).isEmpty && (r.own.get? 0).isSome && want.contains none && (liveChildren x 0).any (fun c => (r.sent.get? c).isNone && (membersBelow x 64 c).contains 1)))
    && ((let r : SysReduction := sysRed
      let s := { withOp { mredOp with kind := .coll .s32 } start with
        wires := [⟨0, 1, 1, 3⟩, ⟨0, 2, 1, 1⟩], sysReds := [r]
        sysTrees := Tab.empty.set 0 { timeout := 0, routers := (Tab.empty.set 0 (0x81 : Byte)).set 1 0xB0 } }
      let b := sysByte s 0
      let want := (if rtMem b then [r.own] else []) ++ (liveLinks s 0).map (r.children.get? ·)
      s.memOk && sysRedOf s 0 0 == some r && r.failed.isNone && (waitingMember s (0, 3) (0, 0)).any (fun o => o.det.isNone && !o.auto)
        && (s.core 0).bad.isEmpty && (List.range 5).all (fun k => s.mgmt.linkMask.getLsbD k) && (liveLinks s 0).contains 1 && (r.children.get? 1).isNone && !r.sent && want.contains none))
    && ((let r : SysReduction := { sysRed with sent := true }
      let s := { withOp { mredOp with kind := .coll .s32 } start with
        wires := [⟨0, 1, 1, 3⟩, ⟨0, 2, 1, 1⟩], sysReds := [r]
        sysTrees := Tab.empty.set 0 { timeout := 0, routers := (Tab.empty.set 0 (0xA0 : Byte)).set 1 0x81 } }
      let b := sysByte s 0
      let want := (if rtMem b then [r.own] else []) ++ (liveLinks s 0).map (r.children.get? ·)
      s.memOk && sysRedOf s 0 0 == some r && r.failed.isNone && (waitingMember s (0, 3) (0, 0)).any (fun o => o.det.isNone && !o.auto)
        && (s.core 0).bad.isEmpty && (List.range 5).all (fun k => s.mgmt.linkMask.getLsbD k) && !want.contains none && !(liveLinks s 0).contains 2 && rtParent b == 2 && r.sent && !resultHeld s r.members (0, 0)))
    && ((let r : SysReduction := sysRed
      let s := { withOp { mredOp with kind := .coll .s32 } start with
        wires := [⟨0, 1, 1, 3⟩, ⟨0, 2, 1, 1⟩], sysReds := [r]
        sysTrees := Tab.empty.set 0 { timeout := 0, routers := (Tab.empty.set 0 (0xA0 : Byte)).set 1 0x81 } }
      let b := sysByte s 0
      let want := (if rtMem b then [r.own] else []) ++ (liveLinks s 0).map (r.children.get? ·)
      s.memOk && sysRedOf s 0 0 == some r && r.failed.isNone && (waitingMember s (0, 3) (0, 0)).any (fun o => o.det.isNone && !o.auto)
        && (s.core 0).bad.isEmpty && (List.range 5).all (fun k => s.mgmt.linkMask.getLsbD k) && !r.sent && sysGood s 0 && !want.isEmpty && !want.contains none && (combinePackets (want.filterMap id)).isSome && rtParent b != 0))
    && ((let r : SysReduction := { sysRed with children := Tab.empty.set 1 (.s32, [2]) }
      let s := { withOp { mredOp with kind := .coll .s32 } start with
        wires := [⟨0, 1, 1, 3⟩, ⟨0, 2, 1, 1⟩], sysReds := [r]
        sysTrees := Tab.empty.set 0 { timeout := 0, routers := (Tab.empty.set 0 (0x81 : Byte)).set 1 0xB0 } }
      let b := sysByte s 0
      let want := (if rtMem b then [r.own] else []) ++ (liveLinks s 0).map (r.children.get? ·)
      s.memOk && sysRedOf s 0 0 == some r && r.failed.isNone && (waitingMember s (0, 3) (0, 0)).any (fun o => o.det.isNone && !o.auto)
        && (s.core 0).bad.isEmpty && (List.range 5).all (fun k => s.mgmt.linkMask.getLsbD k) && !r.sent && sysGood s 0 && !want.contains none && (combinePackets (want.filterMap id)).isSome && rtParent b == 0 && !resultHeld s r.members (0, 0)))
    && ((let r : SysReduction := { sysRed with children := Tab.empty.set 1 (.s32, [2, 3]) }
      let s := { withOp { mredOp with kind := .coll .s32 } start with
        wires := [⟨0, 1, 1, 3⟩, ⟨0, 2, 1, 1⟩], sysReds := [r]
        sysTrees := Tab.empty.set 0 { timeout := 0, routers := (Tab.empty.set 0 (0x81 : Byte)).set 1 0xB0 } }
      let b := sysByte s 0
      let want := (if rtMem b then [r.own] else []) ++ (liveLinks s 0).map (r.children.get? ·)
      s.memOk && sysRedOf s 0 0 == some r && r.failed.isNone && (waitingMember s (0, 3) (0, 0)).any (fun o => o.det.isNone && !o.auto)
        && (s.core 0).bad.isEmpty && (List.range 5).all (fun k => s.mgmt.linkMask.getLsbD k) && !r.sent && sysGood s 0 && !want.contains none && (combinePackets (want.filterMap id)).isNone))
    && ((let r : SysReduction := sysRed
      let s := { withOp { mredOp with kind := .coll .s32 } start with
        wires := [⟨0, 1, 1, 3⟩, ⟨0, 2, 1, 1⟩], sysReds := [r]
        sysTrees := Tab.empty.set 0 { timeout := 0, routers := (Tab.empty.set 0 (0x81 : Byte)).set 1 0xB0 } }
      let b := sysByte s 0
      let want := (if rtMem b then [r.own] else []) ++ (liveLinks s 0).map (r.children.get? ·)
      s.memOk && sysRedOf s 0 0 == some r && r.failed.isNone && (waitingMember s (0, 3) (0, 0)).any (fun o => o.det.isNone && !o.auto)
        && (s.core 0).bad.isEmpty && (List.range 5).all (fun k => s.mgmt.linkMask.getLsbD k) && r.own.isSome && want.contains none && !r.sent))
    && ((let r : SysReduction := sysRed
      let s := { withOp { mredOp with kind := .coll .s32 } start with
        wires := [⟨0, 1, 1, 3⟩, ⟨0, 2, 1, 1⟩], sysReds := [r]
        sysTrees := Tab.empty.set 0 { timeout := 0, routers := (Tab.empty.set 0 (0x81 : Byte)).set 1 0xB0 } }
      let b := sysByte s 0
      let want := (if rtMem b then [r.own] else []) ++ (liveLinks s 0).map (r.children.get? ·)
      s.memOk && sysRedOf s 0 0 == some r && r.failed.isNone && (waitingMember s (0, 3) (0, 0)).any (fun o => o.det.isNone && !o.auto)
        && (s.core 0).bad.isEmpty && (List.range 5).all (fun k => s.mgmt.linkMask.getLsbD k) && want.contains none && r.own.isSome && !r.sent && (liveLinks s 0).any (fun l => (r.children.get? l).isNone && (membersVia s 0 l).contains 1)))
    && ((let r : SysReduction := { sysRed with own := none, children := Tab.empty.set 1 (.s32, [2]) }
      let s := { withOp { mredOp with kind := .coll .s32 } start with
        wires := [⟨0, 1, 1, 3⟩, ⟨0, 2, 1, 1⟩], sysReds := [r]
        sysTrees := Tab.empty.set 0 { timeout := 0, routers := (Tab.empty.set 0 (0x81 : Byte)).set 1 0xB0 } }
      let b := sysByte s 0
      let want := (if rtMem b then [r.own] else []) ++ (liveLinks s 0).map (r.children.get? ·)
      s.memOk && sysRedOf s 0 0 == some r && r.failed.isNone && (waitingMember s (0, 3) (0, 0)).any (fun o => o.det.isNone && !o.auto)
        && (s.core 0).bad.isEmpty && (List.range 5).all (fun k => s.mgmt.linkMask.getLsbD k) && want.contains none && !r.children.entries.isEmpty && rtMem b && r.own.isNone))
    && (decide (∀ y ∈ [(RedTy.s32, ([1] : List Word))], y.1 = .s32 ∧ y.2.length = 1))
    && (decide (∃ y ∈ [(RedTy.s32, ([1, 2] : List Word))], y.1 ≠ .s32 ∨ y.2.length ≠ 1))) = true := by decide +kernel

theorem witness_LaunchQueues : (
    (decide (start.mgmt.boot ≠ .recovery) && !qDevice (queueOf start 5) && !qEnabled (queueOf start 5))
    && ((let s := setQueue start 5 (queue false 1 2);
      !qDevice (queueOf s 5) && qEnabled (queueOf s 5) && decide (((4 : Word) - (queueOf s 5).head).toNat ≤ qSize (queueOf s 5))))
    && ((let s := setQueue start 5 (queue true 1 2);
      qDevice (queueOf s 5) && qEnabled (queueOf s 5) && decide (((4 : Word) - (queueOf s 5).head).toNat ≤ qSize (queueOf s 5))))
    && ((let s := setQueue start 5 (queue false 1 3);
      decide (((2 : Word) - (queueOf s 5).head).toNat ≤ qFill (queueOf s 5) ∧ ((2 : Word) - (queueOf s 5).head).toNat ≤ qSize (queueOf s 5)) && qEnabled (queueOf s 5)))
    && ((let s := queued (BitVec.ofNat 512 (2 * 2 ^ 24 + 2 ^ 39)) start;
      (headPacket s 0).any (fun x => (match x with
        | .ok p => (badCrec s (queueDie 0) (qCtx (queueOf s 0)) (pCrec p)).isNone && pType p == 2 && packetReserved p
        | .error _ => false))))
    && ((let s := queued (BitVec.ofNat 512 (2 * 2 ^ 24 + 9)) start;
      (headPacket s 0).any (fun x => (match x with
        | .ok p => (badCrec s (queueDie 0) (qCtx (queueOf s 0)) (pCrec p)).isNone && pType p == 2 && !packetReserved p && (bindOf s 0).any (fun e => decide (bHlast e.2 < pSlot p))
        | .error _ => false))))
    && ((let s := (queued (BitVec.ofNat 512 (2 * 2 ^ 24)) start).setDie 0 { (queued (BitVec.ofNat 512 (2 * 2 ^ 24)) start).die 0 with binds := .empty };
      (headPacket s 0).any (fun x => (match x with
        | .ok p => (badCrec s (queueDie 0) (qCtx (queueOf s 0)) (pCrec p)).isNone && pType p == 2 && !packetReserved p && (bindOf s 0).isNone
        | .error _ => false))))
    && ((let s := queued (BitVec.ofNat 512 (2 * 2 ^ 24 + 0x9000 * 2 ^ 320)) start;
      (headPacket s 0).any (fun x => (match x with
        | .ok p => (badCrec s (queueDie 0) (qCtx (queueOf s 0)) (pCrec p)).isNone && pType p == 2 && !packetReserved p && (bindOf s 0).any (fun e => decide (bHbase e.2 ≤ pSlot p ∧ pSlot p ≤ bHlast e.2)) && pArg p % 128 == 0
          && pLoc p % 256 == 0          && Except.isOk (dieRead s 0 0 (pArg p) 128)
        | .error _ => false))))
    && ((let s := queued (BitVec.ofNat 512 (2 * 2 ^ 24 + 0x9001 * 2 ^ 320)) start;
      (headPacket s 0).any (fun x => (match x with
        | .ok p => (badCrec s (queueDie 0) (qCtx (queueOf s 0)) (pCrec p)).isNone && pType p == 2 && !packetReserved p && (bindOf s 0).any (fun e => decide (bHbase e.2 ≤ pSlot p ∧ pSlot p ≤ bHlast e.2)) && pArg p % 128 != 0
        | .error _ => false))))
    && ((let s := queued packet start;
      (headPacket s 0).any (fun x => (match x with
        | .ok p => (badCrec s (queueDie 0) (qCtx (queueOf s 0)) (pCrec p)).isNone && pType p == 1 && (bindOf s 0).any (fun e => Except.isOk (launchError s 0 p e.2))
        | .error _ => false))))
    && ((let s := queued (packet + 9) start;
      (headPacket s 0).any (fun x => (match x with
        | .ok p => (badCrec s (queueDie 0) (qCtx (queueOf s 0)) (pCrec p)).isNone && pType p == 1 && (bindOf s 0).any (fun e => !Except.isOk (launchError s 0 p e.2))
          && Except.isOk (dieWrite { takePacket (noteCrec s 0 p) 0 with freeCtr := s.freeCtr + 1 } 0 0 (pCrec p) (List.replicate 32 0) (.die 0))
        | .error _ => false))))
    && ((let s := queued (BitVec.ofNat 512 (7 * 2 ^ 24)) start;
      (headPacket s 0).any (fun x => (match x with
        | .ok p => (badCrec s (queueDie 0) (qCtx (queueOf s 0)) (pCrec p)).isNone && pType p == 7
        | .error _ => false))))
    && ((let s := (queued packet start).setDie 0 { (queued packet start).die 0 with binds := .empty };
      (headPacket s 0).any (fun x => (match x with
        | .ok p => (badCrec s (queueDie 0) (qCtx (queueOf s 0)) (pCrec p)).isNone && pType p == 1 && (bindOf s 0).isNone
        | .error _ => false))))
    && ((let s := queued (packet + 2 ^ 384) start;
      (headPacket s 0).any (fun x => (match x with
        | .ok p => pType p != 2 && (badCrec s (queueDie 0) (qCtx (queueOf s 0)) (pCrec p)).isSome
        | .error _ => false))))
    && ((let s := setQueue start 0 (queue false 0 1);
      (headPacket s 0).any (fun x => !x.isOk)))
    && ((let s := up { granted start with launches := Tab.empty.set 0 { launch0 with status := .blocked } };
      s.mgmt.boot == .up && (s.launches.get? 0).any (fun l => l.die == 0 && l.status == .blocked && bindsTo s 0 l)))) = true := by decide +kernel

theorem witness_Placement : (
    ((let s := placing launch0;
      (placeableTask s 0).isNone && (chosenLaunch s 0).any (fun x => !pCores x.2.packet && (nextRank x.2).isSome
        && (bindOf s x.2.queue).any (fun e => (findCore s x.1 x.2 e.2 (footprintOf x.2.header)).isSome))))
    && ((let s := (onBlock id (granted start)).setLaunch 0 ({ launch0 with header := header + BitVec.ofNat 1024 (15 * 2 ^ 109) });
      (placeableTask s 0).isNone && (chosenLaunch s 0).any (fun x => !pCores x.2.packet && (nextRank x.2).isSome
        && (bindOf s x.2.queue).any (fun e => (findCore s x.1 x.2 e.2 (footprintOf x.2.header)).isNone))))
    && ((let s := placing { launch0 with packet := packet + BitVec.ofNat 512 (2 ^ 35) };
      (s.launches.get? 0).any (fun l => pCores l.packet && (chosenLaunch s l.die).map (·.1) == some 0 && (placeableTask s l.die).isNone)
        && (reserveAll 0 2049 s).isSome))
    && ((let s := (granted start).setLaunch 0 { ({ launch0 with header := header + BitVec.ofNat 1024 (15 * 2 ^ 109) }) with packet := packet + BitVec.ofNat 512 (2 ^ 35) };
      (s.launches.get? 0).any (fun l => pCores l.packet && (chosenLaunch s l.die).map (·.1) == some 0 && (placeableTask s l.die).isNone)
        && (reserveAll 0 2049 s).isNone))
    && ((let s := onCore (fun c => { c with res := [residency] }) (onBlock (fun b => { b with status := .reserved, base := some 0x4000 }) (granted start));
      atCord s (fun b _ => b.status == .reserved && b.base.any (residentAt (s.core 0) b.ctx) && (s.launches.get? b.launch).isSome && b.task.isNone)))) = true := by decide +kernel

theorem witness_BlockEndAndPreemption : (
    ((let s := onLanes (fun _ l => { l with st := .exit }) (granted start);
      atCord s (fun b _ => b.status == .running && b.cords.vals.all Cord.exited && gathersDone b && (attachedOps (s.core 0) 0).isEmpty
        && tilesClosed (s.core 0) b && (untold (s.core 0) 0).isEmpty && (s.launches.get? b.launch).isSome && b.task.isNone)))
    && ((let s := placing { launch0 with next := 1 };
      s.memOk && (s.launches.get? 0).any (fun l => l.status != .failed && allPlaced l) && !launchAlive s 0))
    && ((let s := placing { launch0 with next := 1, status := .failed, cause := 0x0D, fblk := some 0 };
      s.memOk && (s.launches.get? 0).any (fun l => l.status == .failed && allPlaced l
        && Except.isOk (dieTranslate s 0 0 (pCrec l.packet) 32 true false)) && !launchAlive (dropTasks s 0) 0))
    && ((let s := ((id) (granted start)).setLaunch 0 { launch0 with prio := 3, status := .blocked } |> withBind (0);
      atCord s (fun b _ => (waiters s).any (isVictim s 0 0 b)
        && (let r := (bindOfBlock s b).map (·.2)
            let handles : Bool := b.cords.vals.any (fun c => c.handler.isSome)
            let drains : Bool := decide ((r.map bDthr).getD 0 ≤ progress b) && (s.launches.get? b.launch).all (fun l => !pPersist l.packet)
            !handles && drains && b.status == .running))))
    && ((let s := ((onBlock (fun b => { b with status := .reserved })) (granted start)).setLaunch 0 { launch0 with prio := 3, status := .blocked } |> withBind (0);
      atCord s (fun b _ => (waiters s).any (isVictim s 0 0 b)
        && (let r := (bindOfBlock s b).map (·.2)
            let handles : Bool := b.cords.vals.any (fun c => c.handler.isSome)
            let drains : Bool := decide ((r.map bDthr).getD 0 ≤ progress b) && (s.launches.get? b.launch).all (fun l => !pPersist l.packet)
            !handles && drains && b.status != .running))))
    && ((let s := ((handling) (granted start)).setLaunch 0 { launch0 with prio := 3, status := .blocked } |> withBind (0);
      atCord s (fun b _ => (waiters s).any (isVictim s 0 0 b)
        && (let handles : Bool := b.cords.vals.any (fun c => c.handler.isSome)
            handles))))
    && ((let s := ((onBlock (fun b => { b with idem := true })) (granted start)).setLaunch 0 { launch0 with prio := 3, status := .blocked } |> withBind (5 * 2 ^ 110 + 8 * 2 ^ 94);
      atCord s (fun b _ => (waiters s).any (isVictim s 0 0 b)
        && (let r := (bindOfBlock s b).map (·.2)
            let handles : Bool := b.cords.vals.any (fun c => c.handler.isSome)
            let drains : Bool := decide ((r.map bDthr).getD 0 ≤ progress b) && (s.launches.get? b.launch).all (fun l => !pPersist l.packet)
            !handles && !drains && b.idem && b.task.isNone && decide (progress b < (r.map bRthr).getD 0)))))
    && ((let s := ((id) (granted start)).setLaunch 0 { launch0 with prio := 3, status := .blocked } |> withBind (5 * 2 ^ 110);
      atCord s (fun b _ => (waiters s).any (isVictim s 0 0 b)
        && (let r := (bindOfBlock s b).map (·.2)
            let handles : Bool := b.cords.vals.any (fun c => c.handler.isSome)
            let drains : Bool := decide ((r.map bDthr).getD 0 ≤ progress b) && (s.launches.get? b.launch).all (fun l => !pPersist l.packet)
            !handles && !drains && !b.idem))))
    && (atCord start (fun b _ => b.cords.vals.any (fun c => !c.exited)))
    && (atCord (onBlock (fun b => { b with status := .draining }) start) (fun b _ => b.status == .draining))
    && (atCord (onBlock (fun b => { b with drain := true }) start) (fun b _ => b.drain))
    && ((let s := onBlock (fun b => { b with status := .saving false }) start;
      atCord s (fun b _ => s.memOk && b.status == .saving false && saveReady (s.core 0) 0 b && (s.core 0).bad.isEmpty)))
    && ((let s := onBlock (fun b => { b with status := .saving true }) (granted start);
      atCord s (fun b _ => b.status == .saving true && (attachedOps (s.core 0) 0).isEmpty && gathersDone b && (s.launches.get? b.launch).isSome)))
    && ((let s := withHbm 0x40000 ovlBytes { placing launch0 with saved := [savedBlock] };
      s.memOk && (restorable s 0).any (fun x => !x.1.block.recomp && x.2.1 == x.1.core && (match execContextRestore 0 s with
        | .next m => (m.block? x.2.1 x.2.2.slot).any (fun b => b.status == .restoring)
        | _ => false))))) = true := by decide +kernel

theorem witness_FirmwareWrites : (
    ((let s := up (withOp mredOp start);
      s.mgmt.boot == .up && atOp s (fun o => onTree false 0 o && o.det.isNone && !o.auto)))
    && ((let s := up (withOp { mredOp with kind := .coll .s32 } start);
      s.mgmt.boot == .up && atOp s (fun o => onTree true 0 o && o.det.isNone && !o.auto)))
    && (decide (5 < 16 ∧ 1 < 2 ∧ 8000 < 8192 ∧ 100 < 128 ∧ 7 < 8))
    && (!start.mgmt.locked && ({ start.mgmt with locked := true } : Mgmt).locked)
    && (decide (start.mgmt.boot ≠ .up))
    && ((let l : LocalLine := ⟨0, 0, 5, Tab.empty.set 3 7⟩
      let s := onCore (fun c => { c with lines := [l] }) (mapped start)
      s.memOk && (s.core 0).bad.isEmpty && (s.core 0).lines[0]? == some l && l.bytes.keys == [3] && translate s 0 false l.ctx (l.addr * 64) 64 false false == .ok (.hbm 320)))) = true := by decide +kernel

theorem witness_OutsideWorld : (
    (atOp (withOp { copyOp with state := .running } start) (fun o => o.state == .running))
    && (decide (start.flitRetries.get 3 0 < 4 ∧ 4 ≤ (Tab.empty.set 3 4).get 3 0))
    && (start.mgmt.linkMask.getLsbD 5 && decide (start.linkReplays.get 5 0 < 9 ∧ 9 ≤ (Tab.empty.set 5 9).get 5 0))
    && (decide (95 * 100 < 100 * 96 ∧ 100 * 80 < 90 * 100))
    && (([(5, true)] : List (Nat × Bool)).any (fun e => e.2 && plinthOf (e.1 * 32) == 0))
    && (([(5, false)] : List (Nat × Bool)).any (fun e => !e.2 && plinthOf (e.1 * 32) == 0))
    && (decide (start.mgmt.boot ≠ .recovery) && start.memOk && !lineLost start 256 4 && lineLost { start with hbmErr := [(8, false)] } 256 4 && decide (256 + 4 ≤ Config.hbmBytes))
    && (peerUp { start with peerLinks := Tab.empty.set 2 0x10 } 2)
    && (!countFree ((start.core 3).perf.get 2 (0, 0)).1)) = true := by decide +kernel

/-- The premises of boot and of staging that an image is signed are about the opaque key of the ROM, so nothing evaluates them: of each image it holds
or it does not, and each case is a clause. -/
theorem witness_ResetAndBoot : (
    ((let s := { start with partitions := Tab.empty.set 0 { clusters := [0, 1], hbms := [2] } };
      (s.partitions.get? 0).any (fun p => p.clusters.contains (clusterOf 3) && (partCores p).contains 3) && decide ((s.cluster 0).spare = none)))
    && (start.mgmt.boot == .reset)
    && ((({ start.mgmt with staged := some ⟨[1], []⟩ } : Mgmt).staged).isSome)
    && (decide (State.reset.mgmt.boot = .reset))
    && ((let s := { granted start with partitions := Tab.empty.set 0 { clusters := [0, 1], hbms := [2] } };
      (s.partitions.get? 0).any (fun p => !(partLaunches s 0 p).isEmpty)))) = true := by decide +kernel

theorem witness_DecodeEncode : (
    (Instr.wf ((.vacs2 { gd := t, u := false, d := 20, a := 21, b := 22, c := 23, ty := .s16, pd := 2 })) && (encode ((.vacs2 { gd := t, u := false, d := 20, a := 21, b := 22, c := 23, ty := .s16, pd := 2 }))).isSome)
    && (Except.isOk (decode 0x1812413C 0))) = true := by decide +kernel

theorem witness_StepRunsDecodedInstruction : (
    ((start.withFetchWord 32 0x1812413C).agenda == [.issue r0])
    && ((let s := start;
      (Place.sp 0 8).exists_ 4 && decide ((Place.sp 0 8).addr % 4 = 0) && pickOk s (.cord 0 0 0) (.sp 0 8)))
    && ((let s := onCord (fun c => { c with fetched := some (0x1000, 0x1812413C, 0) }) start;
      issuer s r0 == some r0
        && (here { s with cur := r0 }).any (fun h => h.block.status.issues && !h.set.isEmpty && (damagedFetch s 0 h.block.ctx h.addr).isNone
        && h.held == some (0x1812413C, 0))))
    && ((issuer start ⟨5, 0, 0⟩).isNone)
    && ((let s := start.withFetchWord 32 0x1812413C;
      issuer s r0 == some r0
        && (here { s with cur := r0 }).any (fun h => h.block.status.issues && !h.set.isEmpty && (damagedFetch s 0 h.block.ctx h.addr).isNone
        && h.held.isNone && (codeWord s 0 h.block.ctx h.addr).any (fun w => lengthOf w == 4))))
    && ((let s := start.withFetchWord 64 0x7110A01C;
      issuer s r0 == some r0
        && (here { s with cur := r0 }).any (fun h => h.block.status.issues && !h.set.isEmpty && (damagedFetch s 0 h.block.ctx h.addr).isNone
        && h.held.isNone && (codeWord s 0 h.block.ctx h.addr).any (fun w => lengthOf w == 8) && (codeWord s 0 h.block.ctx (h.addr + 4)).isSome)))
    && ((let s := onCore (fun c => { c with map := [] }) start;
      issuer s r0 == some r0
        && (here { s with cur := r0 }).any (fun h => h.block.status.issues && !h.set.isEmpty && (damagedFetch s 0 h.block.ctx h.addr).isNone
        && h.held.isNone && (codeWord s 0 h.block.ctx h.addr).isNone)))
    && ((let s := onLanes (fun _ l => { l with pc := 0x1FFC }) (onCore (fun c => { c with code := c.code.write 0xFFC [0x1C, 0xA0, 0x10, 0x71] }) start);
      issuer s r0 == some r0
        && (here { s with cur := r0 }).any (fun h => h.block.status.issues && !h.set.isEmpty && (damagedFetch s 0 h.block.ctx h.addr).isNone
        && h.held.isNone && h.addr == 0x1FFC && (codeWord s 0 h.block.ctx h.addr).any (fun w => lengthOf w == 8) && (codeWord s 0 h.block.ctx 0x2000).isNone)))
    && (Except.isOk (decode 0x1812413C 0) && !Except.isOk (decode 0xFFFFFFFF 0))
    && ((let s := start.withFetchWord 32 0x1812413C;
      (quarterChoice s 0 0 false).any (fun e => e.ref == r0 && !offersUniform s r0)))
    && ((let s := start.withFetchWord 32 0xC0000000;
      (quarterChoice s 0 0 true).any (fun e => e.ref == r0 && offersUniform s r0) && issuer s r0 == some r0))) = true := by decide +kernel

theorem witness_MemoryReadsBack : (
    (Mem.wf [(3, 5), (9, 1)])
    && (start.tracks.isEmpty && start.memOk && decide (Agent.cord 0 0 0 ≠ Agent.cord 0 0 1 ∧ 8 % 4 = 0 ∧ 12 % 4 = 0 ∧ 12 ≠ 8) && (start.track? (.sp 0 12)).isNone)
    && (within .blk (.cord 0 0 0) (.cord 0 0 1) && !within .cord (.cord 0 0 0) (.cord 0 0 1) && !start.raced && ({ start with raced := true } : State).raced && pairs .blk (.cord 0 0 0) .blk (.cord 0 0 1) && !pairs .cord (.cord 0 0 0) .blk (.cord 0 0 1))) = true := by decide +kernel

theorem witness_StepKeepsMemoryCanonical : (
    (start.memOk)
    && ((match step (start.withFetchWord 64 0x7110A01C) with
      | .next _ => true
      | _ => false))) = true := by decide +kernel

/-- With nothing in memory and no translation kept, no address gives DATA_ERR: the walk finds no entry. -/
theorem empty_table_gives_xlate {s : State} (hg : (s.core 0).gtlb = []) (hd : s.dies = .empty) (hm : s.hbm = []) (he : s.hbmErr = [])
    (ctx va n : Nat) (w rd : Bool) : translate s 0 true ctx va n w rd = .error cXlate := by
  have hdie (d : Nat) : s.die d = Die.fresh := by simp [State.die, hd, Tab.get, Tab.get?, Tab.find, Tab.empty]
  have hlost (a k : Nat) : lineLost s a k = false := by simp [lineLost, hdie, he, Die.fresh]
  have hread (a : Nat) : BitVec.ofNat 64 (leNat (s.hbm.read a 8)) = 0 := by
    rw [hm]; simp [Mem.read, Mem.get, leNat]
  have hwalk : walk s ctx va 4 (s.ctx ctx).root = .error cXlate := by simp [walk, hlost, hread, pteV, bit]
  unfold Machine.translate leafOf
  split
  · rfl
  · simp [hg, hdie, Die.fresh, tlbFind, hwalk]

/-- The last premise of `GatherIssue`, over every address: a `gprf` at `start` completes without a note. -/
theorem witness_GatherIssue_prefetch : ∃ h, Executes (.gprf { gd := t, a := 2, b := 0, imm := 0, la := 0 }) start h ∧
    ∀ va, translate (opened start h) h.ref.core true h.block.ctx va 64 false true ≠ .error cDataErr := by
  have hm : meets (.gprf { gd := t, a := 2, b := 0, imm := 0, la := 0 }) start (fun s h => (opened s h).hbm.isEmpty && (opened s h).hbmErr.isEmpty
      && ((opened s h).core 0).gtlb.isEmpty && h.ref.core == 0 && (opened s h).dies == .empty) = true := by decide +kernel
  obtain ⟨h, hx, hp⟩ := executes_of_meets hm
  simp only [Bool.and_eq_true, List.isEmpty_iff, beq_iff_eq] at hp
  obtain ⟨⟨⟨⟨h1, h2⟩, h3⟩, h4⟩, h5⟩ := hp
  exact ⟨h, hx, fun va => by rw [h4, empty_table_gives_xlate h3 h5 h1 h2]; decide⟩

end Sys2Proof.Tests
end

namespace Sys2Proof.Machine

/-! ### The state after reset -/

theorem die_reset (d : Nat) : State.reset.die d = Die.fresh := rfl
theorem queueOf_reset (q : Nat) : queueOf State.reset q = Queue.fresh := by
  simp [queueOf, die_reset, Die.fresh, Tab.get]

/-- Settles O57: every table of the reset state is empty, so each lookup gives the record's reset value. -/
theorem resetState : Obligations.ResetState := by
  unfold Obligations.ResetState
  refine ⟨by decide, rfl, rfl, rfl, rfl, rfl, rfl, rfl, fun n => ?_, fun n x => ⟨rfl, rfl⟩, fun q => ?_, fun d t => ⟨rfl, rfl⟩,
    fun r a b => ⟨rfl, rfl⟩⟩
  · exact ⟨rfl, rfl, rfl, rfl, rfl, rfl, fun _ => rfl, fun _ => rfl, fun _ => ⟨rfl, rfl⟩⟩
  · rw [queueOf_reset]
    exact ⟨rfl, rfl, rfl, by decide⟩

end Sys2Proof.Machine

namespace Sys2Proof.Machine

/-! ### The first of a list in an order -/

/-- The first entry of a list in an order: the model's own choices are folds of this form. -/
def firstOf {α : Type} (f : α → α → Bool) (l : List α) : Option α :=
  l.foldl (fun m x => match m with
    | none => some x
    | some y => if f x y then some x else some y) none

theorem firstBy_eq_firstOf (f : Eligible → Eligible → Bool) (l : List Eligible) : firstBy f l = firstOf f l := by
  unfold firstBy firstOf
  congr
  funext m x
  cases m <;> rfl

theorem firstOf_concat {α : Type} (f : α → α → Bool) (l : List α) (x : α) :
    firstOf f (l ++ [x]) = some (match firstOf f l with
      | none => x
      | some y => if f x y then x else y) := by
  simp only [firstOf, List.foldl_append, List.foldl_cons, List.foldl_nil]
  split
  · rfl
  · split <;> rfl

/-- What is chosen is in the list. -/
theorem mem_of_firstOf {α : Type} {f : α → α → Bool} {l : List α} {x : α} (h : firstOf f l = some x) : x ∈ l := by
  induction l using List.reverseRecOn generalizing x with
  | nil => cases h
  | append_singleton l z ih =>
    rw [firstOf_concat] at h
    cases hl : firstOf f l with
    | none => simp_all
    | some y =>
      have hy := ih hl
      rw [hl] at h
      by_cases hf : f z y = true <;> simp_all

/-- Something is chosen of a list that is not empty. -/
theorem exists_firstOf {α : Type} (f : α → α → Bool) {l : List α} {x : α} (h : x ∈ l) : ∃ y, firstOf f l = some y := by
  rw [← List.dropLast_append_getLast (List.ne_nil_of_mem h), firstOf_concat]
  exact ⟨_, rfl⟩

/-- What is chosen comes before every entry ahead of it in the list, and no entry behind it comes before it. -/
theorem firstOf_split {α : Type} {f : α → α → Bool} (asymm : ∀ x y, f x y = true → f y x = false)
    (weak : ∀ x y z, f x y = true → f z y = false → f x z = true) {l : List α} {x : α} (h : firstOf f l = some x) :
    ∃ l₁ l₂, l = l₁ ++ x :: l₂ ∧ (∀ z ∈ l₁, f x z = true) ∧ ∀ z ∈ l₂, f z x = false := by
  induction l using List.reverseRecOn generalizing x with
  | nil => cases h
  | append_singleton l w ih =>
    rw [firstOf_concat] at h
    cases hl : firstOf f l with
    | none =>
      have hn : l = [] := by
        cases l with
        | nil => rfl
        | cons z r =>
          obtain ⟨y, hy⟩ := exists_firstOf f (List.mem_cons_self (a := z) (l := r))
          rw [hl] at hy; cases hy
      subst hn
      rw [hl] at h
      exact ⟨[], [], by simpa using h, by simp, by simp⟩
    | some y =>
      obtain ⟨l₁, l₂, rfl, h₁, h₂⟩ := ih hl
      rw [hl] at h
      by_cases hf : f w y = true
      · have hw : w = x := by simpa [hf] using h
        subst hw
        refine ⟨l₁ ++ y :: l₂, [], by simp, fun z hz => ?_, by simp⟩
        rcases List.mem_append.1 hz with hz | hz
        · exact weak w y z hf (asymm _ _ (h₁ z hz))
        · rcases List.mem_cons.1 hz with rfl | hz
          · exact hf
          · exact weak w y z hf (h₂ z hz)
      · have hy : y = x := by simpa [hf] using h
        subst hy
        refine ⟨l₁, l₂ ++ [w], by simp, h₁, fun z hz => ?_⟩
        rcases List.mem_append.1 hz with hz | hz
        · exact h₂ z hz
        · simp only [List.mem_singleton] at hz
          subst hz
          simpa using hf

/-- No entry of the list comes before what is chosen. -/
theorem not_before_firstOf {α : Type} {f : α → α → Bool} (asymm : ∀ x y, f x y = true → f y x = false)
    (weak : ∀ x y z, f x y = true → f z y = false → f x z = true) {l : List α} {x z : α} (h : firstOf f l = some x) (hz : z ∈ l) :
    f z x = false := by
  obtain ⟨l₁, l₂, rfl, h₁, h₂⟩ := firstOf_split asymm weak h
  rcases List.mem_append.1 hz with hz | hz
  · exact asymm _ _ (h₁ z hz)
  · rcases List.mem_cons.1 hz with rfl | hz
    · cases hf : f z z
      · rfl
      · exact (asymm _ _ hf).symm.trans hf |>.symm
    · exact h₂ z hz

/-! ### The choice of a quarter and of the uniform pipe (R9, R38) -/

theorem Eligible.before_asymm (x y : Eligible) (h : x.before y = true) : y.before x = false := by
  simp only [Eligible.before, Bool.or_eq_true, Bool.and_eq_true, decide_eq_true_eq, beq_iff_eq, Bool.or_eq_false_iff, Bool.and_eq_false_iff,
    decide_eq_false_iff_not, beq_eq_false_iff_ne] at h ⊢
  omega

theorem Eligible.before_weak (x y z : Eligible) (h : x.before y = true) (h' : z.before y = false) : x.before z = true := by
  simp only [Eligible.before, Bool.or_eq_true, Bool.and_eq_true, decide_eq_true_eq, beq_iff_eq, Bool.or_eq_false_iff, Bool.and_eq_false_iff,
    decide_eq_false_iff_not, beq_eq_false_iff_ne] at h h' ⊢
  omega

theorem Eligible.longer_asymm (x y : Eligible) (h : x.longer y = true) : y.longer x = false := by
  simp only [Eligible.longer, decide_eq_true_eq, decide_eq_false_iff_not] at h ⊢
  omega

theorem Eligible.longer_weak (x y z : Eligible) (h : x.longer y = true) (h' : z.longer y = false) : x.longer z = true := by
  simp only [Eligible.longer, decide_eq_true_eq, decide_eq_false_iff_not] at h h' ⊢
  omega

/-- What a quarter chooses may issue, and is of the quarter and the set asked for. -/
theorem quarterChoice_mem {s : State} {n q : Nat} {u : Bool} {e : Eligible} (h : quarterChoice s n q u = some e) :
    e ∈ eligible s n ∧ e.quarter = q ∧ e.uni = u := by
  unfold quarterChoice at h
  rw [firstBy_eq_firstOf] at h
  simpa using mem_of_firstOf h

/-- Of the cords that may issue there none has a higher priority, and none of its priority has waited longer (R38). -/
theorem quarterChoice_first {s : State} {n q : Nat} {u : Bool} {e y : Eligible} (h : quarterChoice s n q u = some e)
    (hy : y ∈ eligible s n) (hq : y.quarter = q) (hu : y.uni = u) : y.prio < e.prio ∨ (y.prio = e.prio ∧ e.last ≤ y.last) := by
  have hm : y ∈ (eligible s n).filter (fun x => x.quarter == q && x.uni == u) := by simp [hy, hq, hu]
  unfold quarterChoice at h
  rw [firstBy_eq_firstOf] at h
  have := not_before_firstOf Eligible.before_asymm Eligible.before_weak h hm
  simp only [Eligible.before, Bool.or_eq_false_iff, Bool.and_eq_false_iff, decide_eq_false_iff_not, beq_eq_false_iff_ne] at this
  omega

/-- The cord that the uniform pipe takes: a quarter offers it, and none that another quarter offers has waited longer, nor as long in a
quarter before it (R9). -/
theorem pipeChoice_first {s : State} {n q : Nat} {y e : Eligible} (h : pipeChoice s n = some y) (hq : q < 4)
    (he : quarterChoice s n q true = some e) :
    ∃ p, p < 4 ∧ quarterChoice s n p true = some y ∧ y.last ≤ e.last ∧ (y.last = e.last → p ≤ q) := by
  have offered (z : Eligible) (hz : z ∈ (List.range 4).filterMap (fun q => quarterChoice s n q true)) :
      z.quarter < 4 ∧ quarterChoice s n z.quarter true = some z := by
    obtain ⟨p, hp, hz⟩ := List.mem_filterMap.1 hz
    obtain ⟨-, rfl, -⟩ := quarterChoice_mem hz
    exact ⟨List.mem_range.1 hp, hz⟩
  have rising : ((List.range 4).filterMap (fun q => quarterChoice s n q true)).Pairwise (fun a b => a.quarter < b.quarter) := by
    refine List.pairwise_lt_range.filterMap _ (fun a b hab x hx y hy => ?_)
    rw [(quarterChoice_mem hx).2.1, (quarterChoice_mem hy).2.1]
    exact hab
  have hme : e ∈ (List.range 4).filterMap (fun q => quarterChoice s n q true) :=
    List.mem_filterMap.2 ⟨q, List.mem_range.2 hq, he⟩
  unfold pipeChoice at h
  rw [firstBy_eq_firstOf] at h
  have hlast := not_before_firstOf Eligible.longer_asymm Eligible.longer_weak h hme
  obtain ⟨l₁, l₂, hl, h₁, -⟩ := firstOf_split Eligible.longer_asymm Eligible.longer_weak h
  obtain ⟨hy4, hy⟩ := offered y (mem_of_firstOf h)
  have heq : e.quarter = q := (quarterChoice_mem he).2.1
  refine ⟨y.quarter, hy4, hy, by simpa [Eligible.longer] using hlast, fun hee => ?_⟩
  rw [hl] at hme rising
  rcases List.mem_append.1 hme with hm | hm
  · have := h₁ e hm
    simp [Eligible.longer, hee] at this
  · rcases List.mem_cons.1 hm with hm | hm
    · rw [← hm, heq]
    · have := (List.pairwise_cons.1 (List.pairwise_append.1 rising).2.1).1 e hm
      omega

theorem issuer_lane {s : State} {c : CordRef} {x : Cord} {e : Eligible} (hc : s.cord? c = some x) (ho : offersUniform s c = false)
    (he : quarterChoice s c.core x.quarter false = some e) : issuer s c = some e.ref := by
  simp [issuer, hc, ho, he]

theorem issuer_uniform {s : State} {c k : CordRef} {x : Cord} (hc : s.cord? c = some x) (ho : offersUniform s c = true)
    (hk : issuer s c = some k) : ∃ y, pipeChoice s c.core = some y ∧ y.ref = k := by
  simpa [issuer, hc, ho] using hk

/-! ### A step makes the move that the agenda names -/

/-- The state that the first move of the agenda acts on. -/
def State.moved (s : State) (r : List Move) : State := { s with agenda := r, clock := s.clock + 1 }

theorem step_agenda {s : State} {m : Move} {r : List Move} (h : s.agenda = m :: r) : step s = runMove m (s.moved r) := by
  simp only [step, runNext, nextMove, h, State.moved]

theorem runMove_issue {c k : CordRef} {s : State} (h : issuer s c = some k) : runMove (.issue c) s = issueNext k s := by
  simp only [runMove, h]

/-! ### Fetch (R11, R84 to R86, R302) -/

section
variable {s : State} {h : Here} (hh : here s = some h) (hr : h.block.status.issues = true) (hs : h.set ≠ [])
include hh hr hs

/-- The words that the cord has fetched already are not fetched again. -/
theorem fetch_held {w : Word × Word} (hw : h.held = some w) : fetch s = .found w.1 w.2 := by
  have hne : h.set.isEmpty = false := by simpa using hs
  simp [fetch, hh, hr, hne, hw]

theorem fetch_new (hw : h.held = none) : fetch s = fetchAt s h.ref.core h.block.ctx h.addr := by
  have hne : h.set.isEmpty = false := by simpa using hs
  simp [fetch, hh, hr, hne, hw]

end

section
variable {s : State} {core ctx a : Nat} {w : Word} (hd : damagedFetch s core ctx a = none)
include hd

theorem fetchAt_absent (h0 : codeWord s core ctx a = none) : fetchAt s core ctx a = .absent a := by
  simp [fetchAt, hd, h0]

theorem fetchAt_short (h0 : codeWord s core ctx a = some w) (hl : lengthOf w = 4) : fetchAt s core ctx a = .found w 0 := by
  simp [fetchAt, hd, h0, hl]

theorem fetchAt_long {x : Word} (h0 : codeWord s core ctx a = some w) (hl : lengthOf w = 8)
    (h1 : codeWord s core ctx (nextWord a) = some x) : fetchAt s core ctx a = .found w x := by
  simp [fetchAt, hd, h0, hl, h1]

theorem fetchAt_long_absent (h0 : codeWord s core ctx a = some w) (hl : lengthOf w = 8)
    (h1 : codeWord s core ctx (nextWord a) = none) : fetchAt s core ctx a = .absent (nextWord a) := by
  simp [fetchAt, hd, h0, hl, h1]

end

theorem issueNext_found {c : CordRef} {s : State} {h : Here} {w0 w1 : Word} (hh : here { s with cur := c } = some h)
    (hf : fetch { s with cur := c } = .found w0 w1) :
    issueNext c s = exec (decoded w0 w1) (({ s with cur := c } : State).setCord c { h.cord with fetched := some (h.addr, w0, w1) }) := by
  simp only [issueNext, hf, noteFetched, hh]

theorem issueNext_absent {c : CordRef} {s : State} {a : Nat} (hf : fetch { s with cur := c } = .absent a) :
    issueNext c s = codeAbsent a { s with cur := c } := by
  simp only [issueNext, hf]

/-- Settles O56: the first move of the agenda is made, an issue by the cord that the arbitration names, which executes what fetch finds. -/
theorem stepRunsDecodedInstruction : Obligations.StepRunsDecodedInstruction := by
  unfold Obligations.StepRunsDecodedInstruction
  refine ⟨fun s m r hm => ?_, fun w0 w1 i h => by simp [decoded, h], fun w0 w1 x h => by simp [decoded, h], fun s n q u e he => ?_⟩
  · rw [step_agenda hm]
    refine ⟨fun e he => by rw [he]; rfl, fun p hp => ?_, fun a p n hp => by rw [hp]; rfl, fun c hc hn => ?_, ?_⟩
    · rw [hp]
      simp only [runMove, Bool.and_eq_true, beq_iff_eq]
      rfl
    · rw [hc]
      change issuer (s.moved r) c = none at hn
      simp only [runMove, hn]
      rfl
    · intro c k h hc hk t hh hr hs word runs
      have hkk : h.ref = k := (here_cord hh).1
      have hk' : runMove m (s.moved r) = issueNext k (s.moved r) := by rw [hc]; exact runMove_issue hk
      have hfound {w0 w1 : Word} (hf : fetch t = .found w0 w1) : runs w0 w1 := hk'.trans (issueNext_found hh hf)
      have habsent {a : Nat} (hf : fetch t = .absent a) : runMove m (s.moved r) = codeAbsent a t := hk'.trans (issueNext_absent hf)
      refine ⟨fun w hw => hfound (fetch_held hh hr hs hw), fun hw hd => ?_⟩
      have hnew : fetch t = fetchAt s k.core h.block.ctx h.addr := by
        rw [fetch_new hh hr hs hw, hkk]; rfl
      exact ⟨fun w0 h0 hl => hfound (hnew.trans (fetchAt_short hd h0 hl)),
        fun w0 w1 h0 hl h1 => hfound (hnew.trans (fetchAt_long hd h0 hl h1)),
        fun h0 => habsent (hnew.trans (fetchAt_absent hd h0)),
        fun w0 h0 hl h1 => habsent (hnew.trans (fetchAt_long_absent hd h0 hl h1))⟩
  · obtain ⟨hmem, hq, hu⟩ := quarterChoice_mem he
    refine ⟨hmem, hq, hu, fun y hy hyq hyu => quarterChoice_first he hy hyq hyu, ?_, ?_⟩
    · rintro rfl c x hc rfl rfl ho
      exact issuer_lane hc ho he
    · rintro hq4 rfl c x k hc rfl ho hk
      obtain ⟨y, hy, rfl⟩ := issuer_uniform hc ho hk
      obtain ⟨p, hp, hpy, hle, hpq⟩ := pipeChoice_first hy hq4 he
      exact ⟨p, y, hp, hpy, rfl, hle, hpq⟩

end Sys2Proof.Machine

namespace Sys2Proof.Machine

/-! ### Traps, breakpoints and words that are no instruction -/

/-- Parks the active lanes of an instruction for one cause and value; the others go on. -/
theorem parkActive_faults {i : Instr} {s : State} {h : Here} (hx : Issues i s h) {g : Guard} (hg : h.active g ≠ []) {cause : Byte} {tval : Word}
    (hc : cause ≠ cDataErr)
    (e : exec i s = finish h i { s := opened s h, park := (h.active g).map (fun k => (k, cause, tval)) }) :
    Faults i s h (h.active g) (fun k => h.next i (h.cord.lane k)) cause tval :=
  park_faults hx (d := { s := opened s h, park := (h.active g).map (fun k => (k, cause, tval)) }) hx.opened_cord? (opened_apart s h)
    (opened_clock s h) rfl rfl rfl rfl (.inl rfl) (fun _ hx => nomatch hx) hg (hx.nodup.filter _) (fun _ hk => (mem_active.1 hk).1) hc e
    (fun _ _ _ => rfl)

/-- A lane that parks (R27). -/
def Lane.parked (l : Lane) : Lane := { l with st := .park, data := false, served := false }

/-- The cord after an issue that parks the whole executing set, but for the counts of the issue. -/
theorem advance_parkSet {h : Here} (hs : h.set ≠ []) (s : State) (c : Cord) (size n : Nat) (cause : Byte) (tval : Word) :
    ∃ w, advance h size n { s := s, park := h.set.map (fun k => (k, cause, tval)) } c =
      ({ c.onLanes h.set (fun _ l => l.parked) with cause := cause, tval := tval, gfault := none } : Cord).count w h.set n [] [] := by
  let d : Done := { s := s, park := h.set.map (fun k => (k, cause, tval)) }
  have hm : d.movers h = [] := by
    simp only [Done.movers, List.filter_eq_nil_iff, d]
    intro k hk
    simp [hk]
  have hp : d.park.isEmpty = false := by
    cases hh : h.set with
    | nil => exact absurd hh hs
    | cons => simp [d, hh]
  have hpk : d.parked c = { c.onLanes h.set (fun _ l => l.parked) with cause := cause, tval := tval, gfault := none } := by
    simp only [Done.parked, hp]
    rw [park_eq c hs]
    rfl
  refine ⟨d.follows h (d.parked c) (BitVec.ofNat 32 (h.addr + size)), ?_⟩
  rw [← hpk]
  change advance h size n d c = _
  unfold advance
  rw [hm]
  rfl

/-- An issue whose operation parks the whole executing set: each lane stands on its word, sr.cause and sr.tval say why, and nothing outside
the cord changes. -/
theorem finish_parkSet {i : Instr} {s : State} {h : Here} (hx : Issues i s h) {cause : Byte} (hc : cause ≠ cDataErr) (tval : Word) :
    ∃ t c, actOut i h (opened s h) (parkSet h (opened s h) cause tval) = .next t ∧ t.cord? h.ref = some c ∧ Apart h.ref s t ∧
      c.cause = cause ∧ c.tval = tval ∧ ∀ k ∈ h.set, c.lane k = (h.cord.lane k).parked := by
  let d : Done := { s := opened s h, park := h.set.map (fun k => (k, cause, tval)) }
  have hcord : d.s.cord? h.ref = some h.cord := hx.opened_cord?
  obtain ⟨w, hw⟩ := advance_parkSet hx.ne_nil (opened s h) h.cord (sizeOf' i) d.s.clock cause tval
  have hlane (k : Nat) (hk : k ∈ h.set) : (advance h (sizeOf' i) d.s.clock d h.cord).lane k = (h.cord.lane k).parked := by
    rw [hw, Cord.lane_count]
    exact h.cord.lane_onLanes_mem hx.nodup hk _
  have huns : (advance h (sizeOf' i) d.s.clock d h.cord).unserved = true := by
    obtain ⟨k, hk⟩ := List.exists_mem_of_ne_nil _ hx.ne_nil
    obtain ⟨l, hl⟩ := Cord.get?_onLanes h.cord hk (fun _ l => l.parked)
    have hl' : (advance h (sizeOf' i) d.s.clock d h.cord).lanes.get? k = some l := by rw [hw]; exact hl
    have hll : l = (h.cord.lane k).parked := by
      rw [← hlane k hk]; simp [Cord.lane, Tab.get, hl']
    exact unserved_of (Cord.lt_of_mem_execSet (hx.set_eq ▸ hk)) hl' (by rw [hll]; rfl) (by rw [hll]; rfl)
  have hnd : d.park.filter (fun x => x.2.1 == cDataErr) = [] := by
    simp [d, List.filter_eq_nil_iff, hc]
  have hfin : finish h i d = .next { finished h i d h.cord with stalled := [] } := by
    unfold finish
    rw [hcord]
    simp only [hnd, finished, fenced, List.foldl_nil]
  have h2 := finished_cord? (h := h) (i := i) hcord
  have h3 := finished_apart h i d h.cord
  rw [rejoin_unserved huns] at h2
  generalize finished h i d h.cord = t at hfin h2 h3
  exact ⟨{ t with stalled := [] }, _, hfin, h2, ((opened_apart s h).trans h3).trans (apart_stalled _ _ _), by rw [hw]; rfl, by rw [hw]; rfl, hlane⟩

/-- Settles O21: each form is an issue that parks its active lanes, or its whole executing set, for one cause and value. -/
theorem trapsPark : Obligations.TrapsPark := by
  unfold Obligations.TrapsPark
  refine ⟨fun o s h hx hg => ?_, fun o s h hx hg => ?_, fun o s h hx => ?_, fun o s h hx => ?_, fun w s h hx => ?_, fun a s h hx => ?_⟩
  · exact parkActive_faults hx.toIssues hg (by decide) (issue_eq hx _)
  · exact parkActive_faults hx.toIssues hg (by decide) (issue_eq hx _)
  · exact parkSet_faults hx.toIssues (by decide) (issue_eq hx _)
  · exact parkSet_faults hx.toIssues (by decide) (issue_eq hx _)
  · exact parkSet_faults hx.toIssues (by decide) (issue_eq hx _)
  · obtain ⟨t, c, ht, hc, hap, hcause, htval, hl⟩ := finish_parkSet hx.toIssues (cause := cCodeAbsent) (by decide) (BitVec.ofNat 32 a)
    exact ⟨t, c, (issue_eq hx _).trans ht, hc, hap, hcause, htval, hl⟩

end Sys2Proof.Machine

namespace Sys2Proof.Machine

/-! ### Dies after an update -/

theorem State.die_setDie (s : State) (m n : Nat) (x : Die) : (s.setDie n x).die m = if m = n then x else s.die m := by
  simp [State.die, State.setDie, Tab.get_set]
@[simp] theorem State.die_setDie_same (s : State) (n : Nat) (x : Die) : (s.setDie n x).die n = x := by simp [State.die_setDie]

/-! ### What counting corrected errors leaves alone (R265, R311) -/

/-- Only the counters of corrected errors outside the cores differ. -/
structure OnlyCounts (s t : State) : Prop where
  die : ∀ d, t.die d = { s.die d with ce := (t.die d).ce }
  rest : t = { s with dies := t.dies, corrected := t.corrected }

theorem OnlyCounts.refl (s : State) : OnlyCounts s s := ⟨fun _ => rfl, rfl⟩

theorem OnlyCounts.trans {s t u : State} (h : OnlyCounts s t) (h' : OnlyCounts t u) : OnlyCounts s u where
  die d := by rw [h'.die d, h.die d]
  rest := by rw [h'.rest, h.rest]

theorem OnlyCounts.foldl {α : Type} (f : State → α → State) (hf : ∀ s x, OnlyCounts s (f s x)) (l : List α) (s : State) :
    OnlyCounts s (l.foldl f s) := by
  induction l generalizing s with
  | nil => exact .refl s
  | cons x r ih => exact (hf s x).trans (ih _)

theorem countDie_onlyCounts (s : State) (d a k : Nat) : OnlyCounts s (countDie s d a k) := by
  unfold countDie
  split
  · exact .refl s
  · refine ⟨fun e => ?_, rfl⟩
    rw [State.die_setDie]
    split
    · subst_vars; rfl
    · rfl

theorem noteTarget_onlyCounts (s : State) (n : Nat) (t : Target) : OnlyCounts s (noteTarget s n t) := by
  unfold noteTarget
  split
  · dsimp only
    refine OnlyCounts.trans (OnlyCounts.foldl _ (fun s e => ?_) _ s) (countDie_onlyCounts _ _ _ _)
    exact ⟨fun _ => rfl, rfl⟩
  · exact .refl s

theorem noteWalk_onlyCounts (s : State) (d ctx va : Nat) : OnlyCounts s (noteWalk s d ctx va) := by
  unfold noteWalk
  split
  · exact .refl s
  · exact OnlyCounts.foldl _ (fun s a => noteTarget_onlyCounts _ _ _) _ s

theorem noteDie_onlyCounts (s : State) (d ctx va n : Nat) : OnlyCounts s (noteDie s d ctx va n) := by
  unfold noteDie
  split
  · exact noteWalk_onlyCounts s d ctx va
  · exact (noteWalk_onlyCounts s d ctx va).trans (noteTarget_onlyCounts _ _ _)

theorem noteQueue_onlyCounts (s : State) (q : Nat) : OnlyCounts s (noteQueue s q) := countDie_onlyCounts _ _ _ _

theorem noteCrec_onlyCounts (s : State) (q : Nat) (p : BitVec 512) : OnlyCounts s (noteCrec s q p) := by
  unfold noteCrec
  split
  · exact noteWalk_onlyCounts _ _ _ _
  · exact .refl s

/-! ### What a translation of the distributor reads (R307 to R309) -/

/-- Two states in which the distributor translates alike: tables, TLBs, damaged words, DMA windows and links are the same. -/
structure SameTables (s t : State) : Prop where
  hbm : t.hbm = s.hbm
  hbmErr : t.hbmErr = s.hbmErr
  windows : t.mgmt.windows = s.mgmt.windows
  linkMask : t.mgmt.linkMask = s.mgmt.linkMask
  peerLinks : t.peerLinks = s.peerLinks
  tlb : ∀ d, (t.die d).tlb = (s.die d).tlb
  lost : ∀ d, (t.die d).lost = (s.die d).lost
  root : ∀ n, (t.ctx n).root = (s.ctx n).root

theorem SameTables.trans {s t u : State} (h : SameTables s t) (h' : SameTables t u) : SameTables s u where
  hbm := h'.hbm.trans h.hbm
  hbmErr := h'.hbmErr.trans h.hbmErr
  windows := h'.windows.trans h.windows
  linkMask := h'.linkMask.trans h.linkMask
  peerLinks := h'.peerLinks.trans h.peerLinks
  tlb d := (h'.tlb d).trans (h.tlb d)
  lost d := (h'.lost d).trans (h.lost d)
  root n := (h'.root n).trans (h.root n)

theorem OnlyCounts.sameTables {s t : State} (h : OnlyCounts s t) : SameTables s t where
  hbm := by rw [h.rest]
  hbmErr := by rw [h.rest]
  windows := by rw [h.rest]
  linkMask := by rw [h.rest]
  peerLinks := by rw [h.rest]
  tlb d := by rw [h.die d]
  lost d := by rw [h.die d]
  root n := by rw [h.rest]; rfl

section
variable {s t : State} (h : SameTables s t)
include h

theorem lineLost_congr (a n : Nat) : lineLost t a n = lineLost s a n := by
  simp only [lineLost, h.lost, h.hbmErr]

theorem walk_congr (ctx va n node : Nat) : walk t ctx va n node = walk s ctx va n node := by
  induction n generalizing node with
  | zero => rfl
  | succ n ih => simp only [walk, lineLost_congr h, h.hbm, ih]

theorem dieLeaf_congr (d ctx va : Nat) : dieLeaf t d ctx va = dieLeaf s d ctx va := by
  simp only [dieLeaf, h.tlb, h.root, walk_congr h]

theorem windowAllows_congr (a n : Nat) (w : Bool) : windowAllows t a n w = windowAllows s a n w := by
  unfold windowAllows
  rw [h.windows]

theorem peerUp_congr (n : Nat) : peerUp t n = peerUp s n := by
  unfold peerUp
  rw [h.peerLinks, h.linkMask]

theorem checkLeaf_congr (e : TlbEntry) (va n : Nat) (w rd : Bool) : checkLeaf t e va n w rd = checkLeaf s e va n w rd := by
  simp only [checkLeaf, lineLost_congr h, windowAllows_congr h, peerUp_congr h]

theorem dieTranslate_congr (d ctx va n : Nat) (w rd : Bool) : dieTranslate t d ctx va n w rd = dieTranslate s d ctx va n w rd := by
  simp only [dieTranslate, dieLeaf_congr h, checkLeaf_congr h]

theorem badCrec_congr (d ctx a : Nat) : badCrec t d ctx a = badCrec s d ctx a := by
  simp only [badCrec, dieTranslate_congr h]

end

section
variable {s t : State} (h : OnlyCounts s t)
include h

theorem OnlyCounts.queues (d : Nat) : (t.die d).queues = (s.die d).queues := by rw [h.die d]
theorem OnlyCounts.binds (d : Nat) : (t.die d).binds = (s.die d).binds := by rw [h.die d]
theorem OnlyCounts.headers (d : Nat) : (t.die d).headers = (s.die d).headers := by rw [h.die d]
theorem OnlyCounts.notices (d : Nat) : (t.die d).notices = (s.die d).notices := by rw [h.die d]

theorem targetRead_counts (n : Nat) (x : Target) : targetRead t n x = targetRead s n x := by
  rw [h.rest]; cases x <;> rfl

theorem dieRead_counts (d ctx va n : Nat) : dieRead t d ctx va n = dieRead s d ctx va n := by
  simp only [dieRead, dieTranslate_congr h.sameTables, targetRead_counts h]

theorem queueOf_counts (q : Nat) : queueOf t q = queueOf s q := by simp only [queueOf, h.queues]

theorem bindOf_counts (q : Nat) : bindOf t q = bindOf s q := by
  simp only [bindOf, queueOf_counts h, h.binds]

theorem badBinding_counts (q : Nat) (x : BitVec 1024) (p : BitVec 512) : badBinding t q x p = badBinding s q x p := by
  simp only [badBinding, queueOf_counts h]

theorem launchError_counts (q : Nat) (p : BitVec 512) (w : BitVec 256) : launchError t q p w = launchError s q p w := by
  unfold launchError
  rw [h.headers]
  simp only [badBinding_counts h]

end

end Sys2Proof.Machine

namespace Sys2Proof.Machine

/-! ### Queues (R303) -/

@[simp] theorem queueOf_setQueue_same (s : State) (q : Nat) (x : Queue) : queueOf (setQueue s q x) q = x := by
  simp [queueOf, setQueue]

theorem notices_setQueue (s : State) (q : Nat) (x : Queue) (d : Nat) : ((setQueue s q x).die d).notices = (s.die d).notices := by
  simp only [setQueue, State.die_setDie]
  split <;> simp_all

/-- Taking a packet moves the queue's head on, beside what it counts. -/
theorem takePacket_eq (s : State) (q : Nat) :
    ∃ u, OnlyCounts s u ∧ takePacket s q = setQueue u q { queueOf s q with head := (queueOf s q).head + 1 } :=
  ⟨_, (noteQueue_onlyCounts s q).trans (noteDie_onlyCounts _ _ _ _ _), rfl⟩

@[simp] theorem queueOf_takePacket (s : State) (q : Nat) :
    queueOf (takePacket s q) q = { queueOf s q with head := (queueOf s q).head + 1 } := queueOf_setQueue_same _ _ _

theorem freeCtr_takePacket (s : State) (q : Nat) : (takePacket s q).freeCtr = s.freeCtr := by
  obtain ⟨u, hu, e⟩ := takePacket_eq s q
  rw [e]
  change u.freeCtr = _
  rw [hu.rest]

theorem notices_takePacket (s : State) (q d : Nat) : ((takePacket s q).die d).notices = (s.die d).notices := by
  obtain ⟨u, hu, e⟩ := takePacket_eq s q
  rw [e, notices_setQueue, hu.notices]

/-! ### Doorbells (R283) -/

theorem bad_bell_iff (x : Queue) (v : DWord) :
    (!qEnabled x || field v.toNat 32 32 != 0 || decide (qSize x < (v.setWidth 32 - x.head).toNat)) = true ↔
      (qEnabled x = false ∨ v.toNat / 2 ^ 32 ≠ 0 ∨ qSize x < (v.setWidth 32 - x.head).toNat) := by
  have hf : field v.toNat 32 32 = v.toNat / 2 ^ 32 := by
    have := v.isLt
    unfold field
    omega
  rw [hf]
  simp [or_assoc]

section
variable {s : State} {q : Nat} {v : DWord} {device : Bool} (hb : s.mgmt.boot ≠ .recovery) (hd : qDevice (queueOf s q) = device)
include hb hd

theorem ringBell_bad (h : qEnabled (queueOf s q) = false ∨ v.toNat / 2 ^ 32 ≠ 0 ∨
    qSize (queueOf s q) < (v.setWidth 32 - (queueOf s q).head).toNat) : ringBell q v device s = .next (queueErr s q) := by
  have h0 : (s.mgmt.boot == .recovery || qDevice (queueOf s q) != device) = false := by simp [hb, hd]
  unfold ringBell
  simp only [h0, (bad_bell_iff _ _).2 h]
  rfl

theorem ringBell_good (h : ¬(qEnabled (queueOf s q) = false ∨ v.toNat / 2 ^ 32 ≠ 0 ∨
    qSize (queueOf s q) < (v.setWidth 32 - (queueOf s q).head).toNat)) :
    ringBell q v device s = woke (setQueue (s.send .host .sys [.bell q]) q { queueOf s q with
      tail := if (queueOf s q).tail - (queueOf s q).head < v.setWidth 32 - (queueOf s q).head then v.setWidth 32 else (queueOf s q).tail }) := by
  have h0 : (s.mgmt.boot == .recovery || qDevice (queueOf s q) != device) = false := by simp [hb, hd]
  unfold ringBell
  simp only [h0, Bool.eq_false_iff.2 (mt (bad_bell_iff _ _).1 h)]
  rfl

end

/-! ### What a record that is written leaves alone (R288) -/

/-- Only what a write of the distributor touches differs: global memory, its damage and its notes, the tracks, the error log and the free
values. -/
structure OnlyGlobal (s t : State) : Prop where
  die : ∀ d, t.die d = { s.die d with lost := (t.die d).lost, soft := (t.die d).soft, ce := (t.die d).ce }
  rest : t = { s with
    dies := t.dies, hbm := t.hbm, hbmErr := t.hbmErr, host := t.host, peers := t.peers, corrected := t.corrected, tracks := t.tracks
    raced := t.raced, mgmt := { s.mgmt with log := t.mgmt.log }, freeCtr := t.freeCtr }

theorem OnlyGlobal.refl (s : State) : OnlyGlobal s s := ⟨fun _ => rfl, rfl⟩

theorem OnlyGlobal.trans {s t u : State} (h : OnlyGlobal s t) (h' : OnlyGlobal t u) : OnlyGlobal s u where
  die d := by rw [h'.die d, h.die d]
  rest := by rw [h'.rest, h.rest]

theorem OnlyCounts.onlyGlobal {s t : State} (h : OnlyCounts s t) : OnlyGlobal s t where
  die d := by rw [h.die d]
  rest := by rw [h.rest]

theorem OnlyTracks.onlyGlobal {s t : State} (h : OnlyTracks s t) : OnlyGlobal s t where
  die d := by rw [h.rest]; rfl
  rest := by rw [h.rest]

theorem free_onlyGlobal (s : State) : OnlyGlobal s s.free.2 := ⟨fun _ => rfl, rfl⟩

theorem logError_onlyGlobal (s : State) (blk tval token ctx core rung cause : Nat) :
    OnlyGlobal s (logError s blk tval token ctx core rung cause) := ⟨fun _ => rfl, rfl⟩

theorem logDie_onlyGlobal (s : State) (d ctx : Nat) (c : Byte) : OnlyGlobal s (logDie s d ctx c) := by
  unfold logDie
  split
  · exact logError_onlyGlobal _ _ _ _ _ _ _ _
  · exact .refl s

theorem setDie_damage_onlyGlobal (s : State) (n : Nat) (lost soft : List Nat) :
    OnlyGlobal s (s.setDie n { s.die n with lost := lost, soft := soft }) := by
  refine ⟨fun d => ?_, rfl⟩
  rw [State.die_setDie]
  split
  · subst_vars; rfl
  · rfl

theorem targetWrite_onlyGlobal (s : State) (l : List Byte) (x : Target) : OnlyGlobal s (targetWrite s l x) := by
  cases x with
  | hbm a =>
    simp only [targetWrite]
    split
    · exact ⟨fun _ => rfl, rfl⟩
    · exact (setDie_damage_onlyGlobal s _ _ _).trans ⟨fun _ => rfl, rfl⟩
  | host a => exact ⟨fun _ => rfl, rfl⟩
  | peer p a => exact ⟨fun _ => rfl, rfl⟩

theorem dieWrite_onlyGlobal {s t : State} {d ctx va : Nat} {l : List Byte} {x : Agent} (h : dieWrite s d ctx va l x = .ok t) :
    OnlyGlobal s t := by
  unfold dieWrite at h
  split at h
  · cases h
  · cases h
    exact ((noteWalk_onlyCounts _ _ _ _).onlyGlobal.trans (targetWrite_onlyGlobal _ _ _)).trans (wrote_onlyTracks _ _ _ _ _).onlyGlobal

theorem writeRecord_onlyGlobal (s : State) (d ctx crec status cause herr fblk : Nat) :
    OnlyGlobal s (writeRecord s d ctx crec status cause herr fblk) := by
  unfold writeRecord
  dsimp only
  split
  · exact (free_onlyGlobal s).trans ((noteWalk_onlyCounts _ _ _ _).onlyGlobal.trans (logDie_onlyGlobal _ _ _ _))
  · rename_i t ht
    exact (free_onlyGlobal s).trans (dieWrite_onlyGlobal ht)

/-- A record that can be written is written, with a free stamp. -/
theorem writeRecord_of_dieWrite {s m : State} {d ctx crec status cause herr fblk : Nat}
    (h : dieWrite { s with freeCtr := s.freeCtr + 1 } d ctx crec
      (recordBits status cause herr fblk ++ natLe 8 (Config.freeValue s.freeCtr).toNat) (.die d) = .ok m) :
    writeRecord s d ctx crec status cause herr fblk = m := by
  unfold writeRecord State.free
  simp only [h]

theorem OnlyGlobal.queueOf_eq {s t : State} (h : OnlyGlobal s t) (q : Nat) : queueOf t q = queueOf s q := by
  have hd : (t.die (queueDie q)).queues = (s.die (queueDie q)).queues := by rw [h.die]
  simp only [queueOf, hd]

theorem OnlyGlobal.headers_eq {s t : State} (h : OnlyGlobal s t) (d : Nat) : (t.die d).headers = (s.die d).headers := by rw [h.die]

theorem OnlyGlobal.notices_eq {s t : State} (h : OnlyGlobal s t) (d : Nat) : (t.die d).notices = (s.die d).notices := by rw [h.die]

/-! ### Packets that are dropped or refused (R288) -/

/-- A dropped packet is counted and reported, and leaves the queue. -/
theorem dropUnread_next (s : State) (q : Nat) (c : Byte) : ∃ t, dropUnread s q c = .next t ∧
    (t.die (queueDie q)).notices = .dropped q :: (s.die (queueDie q)).notices ∧ (queueOf t q).head = (queueOf s q).head + 1 ∧
    (queueOf t q).errors = if (queueOf s q).errors = 0xFFFF then 0xFFFF else (queueOf s q).errors + 1 := by
  obtain ⟨u, hu⟩ : ∃ u, u = logDie s (queueDie q) (qCtx (queueOf s q)) c := ⟨_, rfl⟩
  have hg : OnlyGlobal s u := hu ▸ logDie_onlyGlobal _ _ _ _
  have hq (t : State) (x : Notice) : queueOf (notify t (queueDie q) x) q = queueOf t q := by simp [queueOf, notify]
  have e : dropUnread s q c = woke (notify (queueErr (takePacket u q) q) (queueDie q) (.dropped q)) := by rw [hu]; rfl
  have h1 : ((notify (queueErr (takePacket u q) q) (queueDie q) (.dropped q)).die (queueDie q)).notices =
      .dropped q :: (s.die (queueDie q)).notices := by
    rw [notify, State.die_setDie_same, queueErr, notices_setQueue, notices_takePacket, hg.notices_eq]
  have h2 : queueOf (notify (queueErr (takePacket u q) q) (queueDie q) (.dropped q)) q =
      qError { queueOf s q with head := (queueOf s q).head + 1 } := by
    rw [hq, queueErr, queueOf_setQueue_same, queueOf_takePacket, hg.queueOf_eq]
  generalize notify (queueErr (takePacket u q) q) (queueDie q) (.dropped q) = t at e h1 h2
  refine ⟨{ t with stalled := [] }, e, h1, (congrArg Queue.head h2).trans rfl, (congrArg Queue.errors h2).trans ?_⟩
  simp only [qError]
  split
  · rename_i e; rw [e]
  · rfl

/-- A refusal takes the packet, and writes the completion record where it can be written. -/
theorem refusePacket_next {s u : State} (hu : OnlyCounts s u) (q : Nat) (p : BitVec 512) (n : Nat) :
    ∃ t, refusePacket u q p n = .next t ∧ ∃ w : DWord, ∀ m,
      dieWrite { takePacket u q with freeCtr := s.freeCtr + 1 } (queueDie q) (qCtx (queueOf s q)) (pCrec p)
        (recordBits 3 0 n 0 ++ natLe 8 w.toNat) (.die (queueDie q)) = .ok m → t = { m with stalled := [] } := by
  have hc : (takePacket u q).freeCtr = s.freeCtr := by rw [freeCtr_takePacket, hu.rest]
  refine ⟨_, rfl, Config.freeValue s.freeCtr, fun m hm => ?_⟩
  rw [← hc] at hm
  rw [queueOf_counts hu, writeRecord_of_dieWrite hm]

end Sys2Proof.Machine

namespace Sys2Proof.Machine

/-! ### A packet at the head of a queue (R284, R285, R288) -/

theorem badCrec_noteCrec {s : State} {q : Nat} {p : BitVec 512}
    (hc : badCrec s (queueDie q) (qCtx (queueOf s q)) (pCrec p) = none) :
    badCrec (noteCrec s q p) (queueDie q) (qCtx (queueOf s q)) (pCrec p) = none :=
  (badCrec_congr (noteCrec_onlyCounts s q p).sameTables _ _ _).trans hc

section
variable {s : State} {q : Nat} {p : BitVec 512} (hp : headPacket s q = some (.ok p))
  (hc : badCrec s (queueDie q) (qCtx (queueOf s q)) (pCrec p) = none)
include hp hc

section
variable (ht : pType p = 2)
include ht

theorem execRegisterHeader_reserved (hr : packetReserved p = true) : execRegisterHeader q s = refusePacket (noteCrec s q p) q p 4 := by
  simp [execRegisterHeader, hp, ht, badCrec_noteCrec hc, hr]

variable (hr : packetReserved p = false)
include hr

theorem execRegisterHeader_unbound (hb : bindOf s q = none) : execRegisterHeader q s = refusePacket (noteCrec s q p) q p 1 := by
  simp [execRegisterHeader, hp, ht, badCrec_noteCrec hc, hr, bindOf_counts (noteCrec_onlyCounts s q p), hb]

variable {e : Nat × BitVec 256} (hb : bindOf s q = some e)
include hb

theorem execRegisterHeader_slot (hs : pSlot p < bHbase e.2 ∨ bHlast e.2 < pSlot p) :
    execRegisterHeader q s = refusePacket (noteCrec s q p) q p 1 := by
  simp [execRegisterHeader, hp, ht, badCrec_noteCrec hc, hr, bindOf_counts (noteCrec_onlyCounts s q p), hb, hs]

variable (hlo : bHbase e.2 ≤ pSlot p) (hhi : pSlot p ≤ bHlast e.2)
include hlo hhi

theorem execRegisterHeader_misaligned (ha : pArg p % 128 ≠ 0 ∨ pLoc p % 256 ≠ 0) :
    execRegisterHeader q s = refusePacket (noteCrec s q p) q p 7 := by
  have hs : ¬(pSlot p < bHbase e.2 ∨ bHlast e.2 < pSlot p) := by omega
  simp [execRegisterHeader, hp, ht, badCrec_noteCrec hc, hr, bindOf_counts (noteCrec_onlyCounts s q p), hb, hs, ha]

/-- A header that can be read fills its slot. -/
theorem execRegisterHeader_fills (ha : pArg p % 128 = 0) (hl : pLoc p % 256 = 0) {l : List Byte}
    (hd : dieRead s (queueDie q) (qCtx (queueOf s q)) (pArg p) 128 = .ok l) :
    ∃ t, execRegisterHeader q s = .next t ∧ (t.die (queueDie q)).headers.get? (pSlot p) = some (BitVec.ofNat 1024 (leNat l)) ∧
      (queueOf t q).head = (queueOf s q).head + 1 := by
  have hs : ¬(pSlot p < bHbase e.2 ∨ bHlast e.2 < pSlot p) := by omega
  have hn := noteCrec_onlyCounts s q p
  obtain ⟨u, hu⟩ : ∃ u, u = noteDie (takePacket (noteCrec s q p) q) (queueDie q) (qCtx (queueOf s q)) (pArg p) 128 := ⟨_, rfl⟩
  have huc : OnlyCounts (takePacket (noteCrec s q p) q) u := hu ▸ noteDie_onlyCounts _ _ _ _ _
  obtain ⟨v, hv⟩ : ∃ v, v = u.setDie (queueDie q)
      { u.die (queueDie q) with headers := (u.die (queueDie q)).headers.set (pSlot p) (BitVec.ofNat 1024 (leNat l)) } := ⟨_, rfl⟩
  have e1 : execRegisterHeader q s = woke (writeRecord v (queueDie q) (qCtx (queueOf s q)) (pCrec p) 1 0 0 0) := by
    rw [hv, hu]
    simp [execRegisterHeader, hp, ht, badCrec_noteCrec hc, hr, bindOf_counts hn, hb, hs, ha, hl, dieRead_counts hn, hd]
  have hw := writeRecord_onlyGlobal v (queueDie q) (qCtx (queueOf s q)) (pCrec p) 1 0 0 0
  generalize writeRecord v (queueDie q) (qCtx (queueOf s q)) (pCrec p) 1 0 0 0 = t at e1 hw
  have hh : (t.die (queueDie q)).headers.get? (pSlot p) = some (BitVec.ofNat 1024 (leNat l)) := by
    rw [hw.headers_eq, hv, State.die_setDie_same]
    exact Tab.get?_set_same _ _ _
  have hq : queueOf v q = queueOf u q := by rw [hv]; simp [queueOf]
  have hh' : (queueOf t q).head = (queueOf s q).head + 1 := by
    rw [hw.queueOf_eq, hq, queueOf_counts huc, queueOf_takePacket, queueOf_counts hn]
  exact ⟨{ t with stalled := [] }, e1, hh, hh'⟩

end

section
variable (ht : pType p = 1)
include ht

theorem execLaunchPacket_unbound (hb : bindOf s q = none) : execLaunchPacket q s = waitBind (noteCrec s q p) q := by
  simp [execLaunchPacket, hp, ht, queueOf_counts (noteCrec_onlyCounts s q p), badCrec_noteCrec hc,
    bindOf_counts (noteCrec_onlyCounts s q p), hb]

variable {e : Nat × BitVec 256} (hb : bindOf s q = some e)
include hb

theorem execLaunchPacket_refused {n : Nat} (hl : launchError s q p e.2 = .error n) :
    execLaunchPacket q s = refusePacket (noteCrec s q p) q p n := by
  simp [execLaunchPacket, hp, ht, queueOf_counts (noteCrec_onlyCounts s q p), badCrec_noteCrec hc,
    bindOf_counts (noteCrec_onlyCounts s q p), hb, launchError_counts (noteCrec_onlyCounts s q p), hl]

/-- A packet that passes every check starts a launch. -/
theorem execLaunchPacket_starts {h : BitVec 1024} (hl : launchError s q p e.2 = .ok h) :
    ∃ t, execLaunchPacket q s = .next t ∧ (queueOf t q).head = (queueOf s q).head + 1 ∧ t.nextLaunch = s.nextLaunch + 1 ∧
      t.launches.get? s.nextLaunch = some (newLaunch q (queueOf s q) p h) := by
  have hn := noteCrec_onlyCounts s q p
  obtain ⟨u, hu⟩ : ∃ u, u = takePacket (noteCrec s q p) q := ⟨_, rfl⟩
  have hq : (queueOf u q).head = (queueOf s q).head + 1 := by rw [hu, queueOf_takePacket, queueOf_counts hn]
  have hnl : (noteCrec s q p).nextLaunch = s.nextLaunch := by rw [hn.rest]
  have e1 : execLaunchPacket q s =
      woke { u.setLaunch s.nextLaunch (newLaunch q (queueOf s q) p h) with nextLaunch := s.nextLaunch + 1 } := by
    rw [hu]
    simp [execLaunchPacket, hp, ht, queueOf_counts hn, badCrec_noteCrec hc, bindOf_counts hn, hb, launchError_counts hn, hl, hnl]
  exact ⟨_, e1, hq, rfl, Tab.get?_set_same _ _ _⟩

end

theorem execLaunchPacket_type (h1 : pType p ≠ 1) (h2 : pType p ≠ 2) : execLaunchPacket q s = refusePacket (noteCrec s q p) q p 4 := by
  simp [execLaunchPacket, hp, h1, h2, queueOf_counts (noteCrec_onlyCounts s q p), badCrec_noteCrec hc]

end

theorem execLaunchPacket_unread {s : State} {q : Nat} {c : Byte} (hp : headPacket s q = some (.error c)) :
    execLaunchPacket q s = dropUnread s q c := by
  simp [execLaunchPacket, hp]

theorem execLaunchPacket_badCrec {s : State} {q : Nat} {p : BitVec 512} {c : Byte} (hp : headPacket s q = some (.ok p)) (ht : pType p ≠ 2)
    (hc : badCrec s (queueDie q) (qCtx (queueOf s q)) (pCrec p) = some c) : execLaunchPacket q s = dropUnread (noteCrec s q p) q c := by
  have hn := noteCrec_onlyCounts s q p
  simp [execLaunchPacket, hp, ht, queueOf_counts hn, badCrec_congr hn.sameTables, hc]

/-! ### The write of a bind record (R304) -/

/-- A write of a bind record keeps the distributor's field, and wakes what waits on the die and on the record. -/
theorem execBindRecordWrite_next {s : State} {d i : Nat} (w : BitVec 256) (hb : s.mgmt.boot = .up) (hd : d < 2) (hi : i < 64) :
    ∃ t, execBindRecordWrite d i w s = .next t ∧
      (t.die d).binds.get? i = some (bSetLast w (bLast ((s.die d).binds.get i 0))) ∧
      (∀ x ∈ (t.die d).queues.vals, x.waiting = false) ∧
      ∀ n l, s.launches.get? n = some l → t.launches.get? n = some (
        if l.die = d ∧ l.status = .blocked ∧ (bindsTo s i l = true ∨ bindsTo t i l = true) then { l with status := .placing, woken := true }
        else l) := by
  have hno : (s.mgmt.boot != .up || decide (Config.dies ≤ d) || decide (64 ≤ i)) = false := by
    simp [hb, show ¬Config.dies ≤ d from Nat.not_le.2 hd, hi]
  obtain ⟨u, hu⟩ : ∃ u, u = s.setDie d { s.die d with
      binds := (s.die d).binds.set i (bSetLast w (bLast ((s.die d).binds.get i 0)))
      queues := (s.die d).queues.map (fun _ q => { q with waiting := false }) } := ⟨_, rfl⟩
  have e1 : execBindRecordWrite d i w s = woke { wakeTasks u (fun l => l.die == d && (bindsTo s i l || bindsTo u i l)) with
      launches := u.launches.map (fun _ l =>
        if l.die == d && l.status == .blocked && (bindsTo s i l || bindsTo u i l) then { l with status := .placing, woken := true } else l) } := by
    unfold execBindRecordWrite
    rw [hno, hu]
    rfl
  have hdie : u.die d = { s.die d with
      binds := (s.die d).binds.set i (bSetLast w (bLast ((s.die d).binds.get i 0)))
      queues := (s.die d).queues.map (fun _ q => { q with waiting := false }) } := by rw [hu, State.die_setDie_same]
  have hl : u.launches = s.launches := by rw [hu]; rfl
  refine ⟨_, e1, ?_, ?_, fun n l hn => ?_⟩
  · change (u.die d).binds.get? i = _
    rw [hdie]
    exact Tab.get?_set_same _ _ _
  · change ∀ x ∈ (u.die d).queues.vals, x.waiting = false
    rw [hdie]
    intro x hx
    obtain ⟨y, hy, rfl⟩ := List.mem_map.1 hx
    obtain ⟨z, -, rfl⟩ := List.mem_map.1 hy
    rfl
  · change (u.launches.map _).get? n = some (if l.die = d ∧ l.status = .blocked ∧ (bindsTo s i l = true ∨ bindsTo u i l = true) then _ else l)
    rw [Tab.get?_map, hl, hn]
    simp [and_assoc]

/-- Settles O48: one clause for each act of the distributor on a queue, the doorbell's, the packets' and the bind record's. -/
theorem launchQueues : Obligations.LaunchQueues := by
  unfold Obligations.LaunchQueues
  refine ⟨fun s q v => ?_, fun s q p hp hc => ?_, ?_, fun s d i w hb hd hi => execBindRecordWrite_next w hb hd hi⟩
  · exact ⟨fun hb hd => ⟨fun h => ringBell_bad hb hd h, fun h => ringBell_good hb hd h⟩,
      fun hb hd => ⟨fun h => ringBell_bad hb hd h, fun h => ringBell_good hb hd h⟩⟩
  · have hn := noteCrec_onlyCounts s q p
    have refused (i : Instr) (n : Nat) (e : exec i s = refusePacket (noteCrec s q p) q p n) := e ▸ refusePacket_next hn q p n
    refine ⟨fun ht => ⟨fun hr => ?_, fun hr hb => ?_, fun hr e hb hs => ?_⟩, fun ht hr e hb hlo hhi => ⟨fun ha => ?_, fun l ha hl hd => ?_⟩,
      fun ht e hb => ⟨fun h hl => ?_, fun n hl => ?_⟩, fun h1 h2 => ?_, fun ht hb => ?_⟩
    · exact refused _ _ (execRegisterHeader_reserved hp hc ht hr)
    · exact refused _ _ (execRegisterHeader_unbound hp hc ht hr hb)
    · exact refused _ _ (execRegisterHeader_slot hp hc ht hr hb hs)
    · exact refused _ _ (execRegisterHeader_misaligned hp hc ht hr hb hlo hhi ha)
    · exact execRegisterHeader_fills hp hc ht hr hb hlo hhi ha hl hd
    · obtain ⟨t, ht, hh, hnl, hl⟩ := execLaunchPacket_starts hp hc ht hb hl
      exact ⟨t, _, ht, hh, hnl, hl, rfl, rfl, rfl, rfl, rfl, rfl⟩
    · exact refused _ _ (execLaunchPacket_refused hp hc ht hb hl)
    · exact refused _ _ (execLaunchPacket_type hp hc h1 h2)
    · refine (execLaunchPacket_unbound hp hc ht hb).trans ?_
      rw [waitBind, queueOf_counts hn]
      rfl
  · rintro s q (⟨c, hp⟩ | ⟨p, hp, ht, hc⟩)
    · rw [show exec (.launchPacket q) s = _ from execLaunchPacket_unread hp]
      exact dropUnread_next s q c
    · obtain ⟨c, hc⟩ := Option.ne_none_iff_exists'.1 hc
      have hn := noteCrec_onlyCounts s q p
      have h := dropUnread_next (noteCrec s q p) q c
      rw [hn.notices, queueOf_counts hn] at h
      rw [show exec (.launchPacket q) s = _ from execLaunchPacket_badCrec hp ht hc]
      exact h

end Sys2Proof.Machine

namespace Sys2Proof.Machine

/-! ### What reads, write-backs and overlay loads leave alone -/

/-- Only the overlay records, the code map, TLBs, counters and notes of errors of a core differ. -/
def Core.Noted (c d : Core) : Prop :=
  d = { c with res := d.res, map := d.map, etlb := d.etlb, gtlb := d.gtlb, perf := d.perf, ce := d.ce, bad := d.bad, soft := d.soft }

theorem Core.Noted.refl (c : Core) : c.Noted c := rfl

theorem Core.Noted.trans {c d e : Core} (h : c.Noted d) (h' : d.Noted e) : c.Noted e := by
  unfold Core.Noted at h h' ⊢
  rw [h', h]

section
variable {c d : Core} (h : c.Noted d)
include h

theorem Core.Noted.blocks : d.blocks = c.blocks := by rw [h]
theorem Core.Noted.spad : d.spad = c.spad := by rw [h]
theorem Core.Noted.acc : d.acc = c.acc := by rw [h]
theorem Core.Noted.ops : d.ops = c.ops := by rw [h]
theorem Core.Noted.tiles : d.tiles = c.tiles := by rw [h]
theorem Core.Noted.lines : d.lines = c.lines := by rw [h]
theorem Core.Noted.tile (p : Nat) : d.tile p = c.tile p := by rw [Core.tile, h.tiles]; rfl

end

/-- So it is with every core, and launches and saved contexts are as they were. -/
structure Quiet (s t : State) : Prop where
  core : ∀ n, (s.core n).Noted (t.core n)
  launches : t.launches = s.launches
  saved : t.saved = s.saved

theorem Quiet.refl (s : State) : Quiet s s := ⟨fun _ => .refl _, rfl, rfl⟩

theorem Quiet.trans {s t u : State} (h : Quiet s t) (h' : Quiet t u) : Quiet s u :=
  ⟨fun n => (h.core n).trans (h'.core n), h'.launches.trans h.launches, h'.saved.trans h.saved⟩

theorem Quiet.foldl {α : Type} (f : State → α → State) (hf : ∀ s x, Quiet s (f s x)) (l : List α) (s : State) : Quiet s (l.foldl f s) := by
  induction l generalizing s with
  | nil => exact .refl s
  | cons x r ih => exact (hf s x).trans (ih _)

theorem Quiet.block? {s t : State} (h : Quiet s t) (n sl : Nat) : t.block? n sl = s.block? n sl := by
  simp only [State.block?, (h.core n).blocks]

/-- Where the cores, launches and saved contexts are the same. -/
theorem Quiet.of_eq {s t : State} (hc : t.cores = s.cores) (hl : t.launches = s.launches) (hs : t.saved = s.saved) : Quiet s t :=
  ⟨fun n => by
    have : t.core n = s.core n := by simp only [State.core, hc]
    rw [this]
    exact .refl _, hl, hs⟩

theorem OnlyGlobal.quiet {s t : State} (h : OnlyGlobal s t) : Quiet s t := .of_eq (by rw [h.rest]) (by rw [h.rest]) (by rw [h.rest])
theorem OnlyCounts.quiet {s t : State} (h : OnlyCounts s t) : Quiet s t := h.onlyGlobal.quiet
theorem OnlyTracks.quiet {s t : State} (h : OnlyTracks s t) : Quiet s t := h.onlyGlobal.quiet

theorem OnlyCe.quiet {s t : State} (h : OnlyCe s t) : Quiet s t :=
  ⟨fun n => by unfold Core.Noted; rw [h.core n], by rw [h.rest], by rw [h.rest]⟩

theorem quiet_setCore {s : State} {n : Nat} {c : Core} (h : (s.core n).Noted c) : Quiet s (s.setCore n c) := by
  refine ⟨fun m => ?_, rfl, rfl⟩
  rw [State.core_setCore]
  split
  · subst_vars; exact h
  · exact .refl _

theorem countPerf_quiet (s : State) (n ev : Nat) : Quiet s (countPerf s n ev) := by
  unfold countPerf
  dsimp only
  split
  · exact quiet_setCore rfl
  · exact .refl s

theorem touchTlb_quiet (s : State) (core : Nat) (g : Bool) (ctx va : Nat) : Quiet s (touchTlb s core g ctx va) := by
  unfold touchTlb
  split
  · exact .refl s
  · refine Quiet.trans (quiet_setCore ?_) (.of_eq rfl rfl rfl)
    cases g <;> rfl

theorem touch_quiet (s : State) (core : Nat) (g : Bool) (ctx va : Nat) : Quiet s (touch s core g ctx va) := by
  have walked (miss : Bool) : Quiet s (touchTlb (if miss then noteWalk s (dieOf core) ctx va else s) core g ctx va) := by
    refine Quiet.trans ?_ (touchTlb_quiet _ _ _ _ _)
    split
    · exact (noteWalk_onlyCounts _ _ _ _).quiet
    · exact .refl s
  unfold touch
  dsimp only
  generalize (decide (va < 2 ^ 52) && (tlbFind (if g then (s.core core).gtlb else (s.core core).etlb) ctx va).isNone) = miss
  cases miss with
  | false => exact walked false
  | true => exact (walked true).trans (countPerf_quiet _ core 9)

theorem touchRange_quiet (s : State) (core : Nat) (g : Bool) (ctx va n : Nat) : Quiet s (touchRange s core g ctx va n) :=
  Quiet.foldl _ (fun _ _ => touch_quiet _ _ _ _ _) _ s

theorem noteGlobal_quiet (s : State) (core : Nat) (g : Bool) (ctx va n : Nat) : Quiet s (noteGlobal s core g ctx va n) := by
  unfold noteGlobal
  split
  · exact .refl s
  · refine Quiet.foldl _ (fun s p => ?_) _ s
    split
    · exact .refl s
    · exact (noteTarget_onlyCounts _ _ _).quiet

theorem noteOvls_quiet (s : State) (core ctx ovtab : Nat) : Quiet s (noteOvls s core ctx ovtab) :=
  Quiet.foldl _ (fun _ _ => (touch_quiet _ _ _ _ _).trans (noteGlobal_quiet _ _ _ _ _ _)) _ s

theorem logError_quiet (s : State) (blk tval token ctx core rung cause : Nat) : Quiet s (logError s blk tval token ctx core rung cause) :=
  (logError_onlyGlobal _ _ _ _ _ _ _ _).quiet

theorem faultEntry_quiet (s : State) (ctx blk tval token core rung cause : Nat) :
    Quiet s (faultEntry s ctx blk tval token core rung cause) := by
  unfold faultEntry
  dsimp only
  split
  · exact .refl s
  · generalize faultBits blk tval token ctx core rung cause ++ natLe 8 s.free.1.toNat = l
    generalize (s.ctx ctx).faultBase + 32 * ((s.ctx ctx).faultHead % (s.ctx ctx).faultSize) = a
    refine Quiet.trans (t := { s.free.2 with host := s.free.2.host.write a l }) (.of_eq rfl rfl rfl) ?_
    exact ((wrote_onlyTracks _ (.die (dieOf core)) (.glob (.host a)) 32 (.rel .sys)).quiet).trans (.of_eq rfl rfl rfl)

theorem globalWrite_quiet (s : State) (core ctx va : Nat) (l : List Byte) (x : Agent) (k : WriteKind) :
    Quiet s (globalWrite s core ctx va l x k) := by
  have key : ∀ (ps : List (Nat × Nat)) (y : State × List Byte), Quiet y.1
      (ps.foldl (fun (s, l) p => match translate s core false ctx p.1 p.2 true false with
        | .error _ => (s, l.drop p.2)
        | .ok t => ((targetWrite s (l.take p.2) t).wrote x (.glob t) p.2 k, l.drop p.2)) y).1 := by
    intro ps
    induction ps with
    | nil => exact fun y => .refl _
    | cons p r ih =>
      intro y
      rw [List.foldl_cons]
      refine Quiet.trans ?_ (ih _)
      dsimp only
      split
      · exact .refl _
      · exact ((targetWrite_onlyGlobal _ _ _).quiet).trans (wrote_onlyTracks _ _ _ _ _).quiet
  exact key _ (s, l)

/-! ### Overlay records (R301, R302) -/

theorem mapRes_noted (c : Core) (ctx a : Nat) (f : Residency → Residency) : c.Noted (mapRes c ctx a f) := rfl
theorem freeRes_noted (c : Core) (dead : Residency → Bool) : c.Noted (freeRes c dead) := rfl

theorem Core.Noted.foldl {α : Type} (f : Core → α → Core) (hf : ∀ (c : Core) x, c.Noted (f c x)) (l : List α) (c : Core) : c.Noted (l.foldl f c) := by
  induction l generalizing c with
  | nil => exact .refl c
  | cons x r ih => exact (hf c x).trans (ih _)

theorem dropTokens_noted (c : Core) (ctx : Nat) (l : List Nat) : c.Noted (dropTokens c ctx l) :=
  (Core.Noted.foldl _ (fun _ _ => mapRes_noted _ _ _ _) l c).trans (freeRes_noted _ _)

theorem dropHolds_noted (c : Core) (ctx : Nat) (fs : List Frame) : c.Noted (dropHolds c ctx fs) := by
  unfold dropHolds
  split
  · exact .refl c
  · rfl

theorem reclaimUntil_noted (may : Residency → Bool) (enough : Core → Bool) (n : Nat) (c : Core) : c.Noted (reclaimUntil may enough n c) := by
  induction n generalizing c with
  | zero => exact .refl c
  | succ n ih =>
    unfold reclaimUntil
    dsimp only
    split
    · exact .refl c
    · split
      · exact .refl c
      · exact (freeRes_noted _ _).trans (ih _)

theorem withRoom_noted {c d : Core} {keep n : Nat} (h : withRoom c keep n = some d) : c.Noted d := by
  unfold withRoom at h
  dsimp only at h
  split at h
  · cases h; exact reclaimUntil_noted _ _ _ _
  · cases h

theorem joinRecord_noted (c : Core) (ctx index caddr : Nat) (r : Residency) (tokens holds : Nat) :
    c.Noted (joinRecord c ctx index caddr r tokens holds) := rfl

theorem beginLoad_quiet (s : State) (core ctx : Nat) (e : OvlEntry) : Quiet s (beginLoad s core ctx e) := by
  have hc : (s.core core).Noted (clearRange (s.core core) ctx e) := freeRes_noted _ _
  unfold beginLoad
  dsimp only
  split
  · rename_i c r h
    obtain ⟨x, -, hx⟩ := Option.bind_eq_some_iff.1 h
    obtain ⟨d, hd, he⟩ := Option.map_eq_some_iff.1 hx
    cases he
    exact quiet_setCore ((hc.trans (withRoom_noted hd)).trans (joinRecord_noted _ _ _ _ _ _ _))
  · refine Quiet.trans (t := { s with serial := s.serial + 1 }) (.of_eq rfl rfl rfl) (quiet_setCore ?_)
    exact hc.trans rfl

/-! ### The local-memory path (R260) -/

theorem mend_noted (c : Core) (a : ErrArray) (addr n : Nat) : c.Noted (mend c a addr n) := rfl

theorem clearLine_quiet (s : State) (core : Nat) (l : LocalLine) : Quiet s (clearLine s core l) := quiet_setCore (mend_noted _ _ _ _)

theorem loseLine_quiet (s : State) (core line : Nat) : Quiet s (loseLine s core line) := by
  unfold loseLine
  dsimp only
  refine Quiet.trans (t := logData s core 0 0 (line * 64 % 2 ^ 32) 0) (logError_quiet _ _ _ _ _ _ _ _) ?_
  split
  · exact .refl _
  · split
    · exact .of_eq rfl rfl rfl
    · refine Quiet.trans (logError_quiet _ 0 (line * 64 % 2 ^ 32) 0 0 core 3 cDataErr.toNat) ?_
      split
      · exact .refl _
      · exact .of_eq rfl rfl rfl

theorem writeLine_quiet (s : State) (core : Nat) (l : LocalLine) : Quiet s (writeLine s core l) := by
  have ht := touch_quiet s core false l.ctx (l.addr * 64)
  unfold writeLine
  dsimp only
  split
  · exact clearLine_quiet _ _ _
  · split
    · refine ht.trans (Quiet.trans ?_ (clearLine_quiet _ _ _))
      split
      · exact logError_quiet _ _ _ _ _ _ _ _
      · exact .refl _
    · refine ht.trans ?_
      split
      · refine Quiet.trans ?_ (clearLine_quiet _ _ _)
        split
        · exact loseLine_quiet _ _ _
        · exact logError_quiet _ _ _ _ _ _ _ _
      · refine Quiet.trans ((noteRead_onlyCe _ _ _ _ _).quiet.trans (clearLine_quiet _ _ _)) (Quiet.foldl _ (fun _ _ => ?_) _ _)
        exact (targetWrite_onlyGlobal _ _ _).quiet.trans (wrote_onlyTracks _ _ _ _ _).quiet

/-- Writing back a block's lines takes them off the path. -/
theorem writeLines_eq (s : State) (core slot : Nat) : ∃ u, Quiet s u ∧
    writeLines s core slot = u.setCore core { u.core core with lines := (u.core core).lines.filter (fun l => l.slot != slot) } :=
  ⟨_, Quiet.foldl _ (fun _ _ => writeLine_quiet _ _ _) _ s, rfl⟩

end Sys2Proof.Machine

namespace Sys2Proof.Machine

/-! ### Operations that finish -/

/-- A block without what the end of an operation tells it. -/
def Block.body (b : Block) : Block := { b with cords := .empty, failed := [], resid := [] }

/-- Besides what `Core.Noted` leaves open, the blocks and the op table of a core may differ. -/
def Core.OpsEnded (c d : Core) : Prop :=
  d = { c with blocks := d.blocks, ops := d.ops, res := d.res, map := d.map, etlb := d.etlb, gtlb := d.gtlb, perf := d.perf, ce := d.ce
               bad := d.bad, soft := d.soft }

theorem Core.OpsEnded.refl (c : Core) : c.OpsEnded c := rfl

theorem Core.OpsEnded.trans {c d e : Core} (h : c.OpsEnded d) (h' : d.OpsEnded e) : c.OpsEnded e := by
  unfold Core.OpsEnded at h h' ⊢
  rw [h', h]

theorem Core.Noted.opsEnded {c d : Core} (h : c.Noted d) : c.OpsEnded d := by
  unfold Core.OpsEnded
  rw [h]

section
variable {c d : Core} (h : c.OpsEnded d)
include h

theorem Core.OpsEnded.spad : d.spad = c.spad := by rw [h]
theorem Core.OpsEnded.acc : d.acc = c.acc := by rw [h]

end

theorem Quiet.ite {s t u : State} {p : Prop} [Decidable p] (h : Quiet s t) (h' : Quiet s u) : Quiet s (if p then t else u) := by
  split
  · exact h
  · exact h'

/-- What the end of operations leaves of the state: cores but for their op tables, every block but for what it is told, launches. -/
structure OpsEnd (s t : State) : Prop where
  core : ∀ n, (s.core n).OpsEnded (t.core n)
  body : ∀ n sl, (t.block? n sl).map Block.body = (s.block? n sl).map Block.body
  launches : t.launches = s.launches

theorem OpsEnd.refl (s : State) : OpsEnd s s := ⟨fun _ => .refl _, fun _ _ => rfl, rfl⟩

theorem OpsEnd.trans {s t u : State} (h : OpsEnd s t) (h' : OpsEnd t u) : OpsEnd s u :=
  ⟨fun n => (h.core n).trans (h'.core n), fun n sl => (h'.body n sl).trans (h.body n sl), h'.launches.trans h.launches⟩

theorem OpsEnd.foldl {α : Type} (f : State → α → State) (hf : ∀ s x, OpsEnd s (f s x)) (l : List α) (s : State) : OpsEnd s (l.foldl f s) := by
  induction l generalizing s with
  | nil => exact .refl s
  | cons x r ih => exact (hf s x).trans (ih _)

theorem Quiet.opsEnd {s t : State} (h : Quiet s t) : OpsEnd s t :=
  ⟨fun n => (h.core n).opsEnded, fun n sl => by rw [h.block?], h.launches⟩

/-- A block that is there stays there. -/
theorem OpsEnd.block? {s t : State} (h : OpsEnd s t) {n sl : Nat} {b : Block} (hb : s.block? n sl = some b) :
    ∃ x, t.block? n sl = some x ∧ x.body = b.body := by
  have := h.body n sl
  rw [hb, Option.map_some, Option.map_eq_some_iff] at this
  exact this

theorem opsEnd_setCore {s : State} {n : Nat} {c : Core} (h : (s.core n).OpsEnded c) (hb : c.blocks = (s.core n).blocks) :
    OpsEnd s (s.setCore n c) := by
  refine ⟨fun m => ?_, fun m sl => ?_, rfl⟩
  · rw [State.core_setCore]
    split
    · subst_vars; exact h
    · exact .refl _
  · simp only [State.block?, State.core_setCore]
    split
    · subst_vars; rw [hb]
    · rfl

theorem opsEnd_setBlock {s : State} {n sl : Nat} {b x : Block} (hb : s.block? n sl = some b) (hx : x.body = b.body) :
    OpsEnd s (s.setBlock n sl x) := by
  refine ⟨fun m => ?_, fun m k => ?_, rfl⟩
  · simp only [State.setBlock, State.core_setCore]
    split
    · subst_vars; rfl
    · exact .refl _
  · rw [State.block?_setBlock]
    split
    · rename_i h
      rw [h.1, h.2, hb, Option.map_some, Option.map_some, hx]
    · rfl

theorem setOp_opsEnd (s : State) (core e : Nat) (o : OpEntry) : OpsEnd s (setOp s core e o) := opsEnd_setCore rfl rfl

theorem Block.body_tell (core : Nat) (o : OpEntry) (b : Block) : (b.tell core o).body = b.body := by
  unfold Block.tell
  split <;> rfl

/-- One change made to every core. -/
theorem State.core_map {s : State} {f : Core → Core} (hf : f Core.fresh = Core.fresh) (l : List Saved) (n : Nat) :
    ({ s with cores := s.cores.map (fun _ c => f c), saved := l } : State).core n = f (s.core n) := by
  simp only [State.core, Tab.get, Tab.get?_map]
  cases s.cores.get? n with
  | none => exact hf.symm
  | some c => rfl

theorem tellBlocks_opsEnd (s : State) (core : Nat) (o : OpEntry) (l : List Saved) :
    OpsEnd s { s with cores := s.cores.map (fun _ c => { c with blocks := c.blocks.map (fun _ b => b.tell core o) }), saved := l } := by
  have hc := State.core_map (s := s) (f := fun c => { c with blocks := c.blocks.map (fun _ b => b.tell core o) }) rfl l
  refine ⟨fun n => ?_, fun n sl => ?_, rfl⟩
  · rw [hc]; rfl
  · simp only [State.block?, hc, Tab.get?_map, Option.map_map]
    congr 1
    funext b
    exact Block.body_tell core o b

theorem freeOp_opsEnd (s : State) (core e : Nat) : OpsEnd s (freeOp s core e) := by
  unfold freeOp
  split
  · exact .refl s
  · rename_i o _
    have h : OpsEnd s (s.setCore core { s.core core with ops := (s.core core).ops.erase e }) := opsEnd_setCore rfl rfl
    dsimp only
    split
    · exact h
    · exact h.trans (tellBlocks_opsEnd _ core o _)

theorem keepFailed_opsEnd (s : State) (core : Nat) (o : OpEntry) : OpsEnd s (keepFailed s core o) := by
  unfold keepFailed
  split
  · exact .refl s
  · rename_i b hb
    exact opsEnd_setBlock hb rfl

theorem dropLoad_opsEnd (s : State) (core e : Nat) (o : OpEntry) : OpsEnd s (dropLoad s core e o) := by
  unfold dropLoad
  extract_lets s0 s1 driven
  have released : OpsEnd s s1 := by
    unfold s1
    split
    · exact .refl s
    · refine OpsEnd.trans (t := s0) ?_ (quiet_setCore (dropTokens_noted _ _ _)).opsEnd
      unfold s0
      split
      · exact .refl s
      · rename_i b hb
        exact opsEnd_setBlock hb rfl
  split
  · exact released
  · exact released.trans (quiet_setCore (freeRes_noted _ _)).opsEnd

/-- The completion record of a detached operation, and the report of its failure. -/
theorem endOne_opsEnd (s : State) (core e : Nat) (o : OpEntry) (st : OpState) : OpsEnd s (endOne s core e o st) := by
  unfold endOne
  extract_lets s1 own s2 o2 s3
  have h1 : OpsEnd s s1 := by
    unfold s1
    split
    · exact dropLoad_opsEnd _ _ _ _
    · exact .refl s
  have h2 : OpsEnd s1 s2 := (send_onlyTracks _ _ _ _).quiet.opsEnd
  have h3 : OpsEnd s2 s3 := by
    unfold s3
    split
    · exact .refl _
    · rename_i a _
      extract_lets s4 s5 s6
      have h4 : Quiet s2 s4 := touchRange_quiet s2 core false o2.ctx a 32
      have h5 : Quiet s4 s5 := .ite (logError_quiet _ _ _ _ _ _ _ _) (.refl _)
      have h6 : Quiet s5 s6 := globalWrite_quiet _ _ _ _ _ _ _
      exact (h4.trans (h5.trans (h6.trans (.ite (faultEntry_quiet _ _ _ _ _ _ _ _) (.refl _))))).opsEnd
  refine h1.trans (h2.trans (h3.trans ?_))
  split
  · exact (keepFailed_opsEnd _ _ _).trans ((setOp_opsEnd _ _ _ _).trans (freeOp_opsEnd _ _ _))
  · split
    · split
      · exact setOp_opsEnd _ _ _ _
      · exact (setOp_opsEnd _ _ _ _).trans (freeOp_opsEnd _ _ _)
    · split
      · exact setOp_opsEnd _ _ _ _
      · exact (setOp_opsEnd _ _ _ _).trans (freeOp_opsEnd _ _ _)

theorem cancelWaiting_opsEnd (fuel : Nat) (ts : List (Nat × Word)) (s : State) : OpsEnd s (cancelWaiting fuel ts s) := by
  induction fuel generalizing ts s with
  | zero => exact .refl s
  | succ n ih =>
    cases ts with
    | nil => exact .refl s
    | cons t ts => exact (OpsEnd.foldl _ (fun _ _ => endOne_opsEnd _ _ _ _ _) _ s).trans (ih _ _)

theorem endPair_opsEnd (s : State) (core : Nat) (o : OpEntry) (st : OpState) : OpsEnd s (endPair s core o st).1 := by
  unfold endPair
  split
  · split
    · exact .refl s
    · split
      · exact .refl s
      · split
        · split
          · exact setOp_opsEnd _ _ _ _
          · exact endOne_opsEnd _ _ _ _ _
        · exact setOp_opsEnd _ _ _ _
  · exact .refl s

theorem finishOp_opsEnd (s : State) (core e : Nat) (o : OpEntry) (st : OpState) : OpsEnd s (finishOp s core e o st) := by
  unfold finishOp
  extract_lets s1 s2
  have h1 : OpsEnd s s1 := by
    unfold s1
    split
    · exact (logError_quiet _ _ _ _ _ _ _ _).opsEnd
    · exact .refl s
  have h2 : OpsEnd s (endPair s2 core o st).1 := (h1.trans (endOne_opsEnd _ _ _ _ _)).trans (endPair_opsEnd _ _ _ _)
  dsimp only
  split
  · exact h2
  · exact h2.trans (cancelWaiting_opsEnd _ _ _)

theorem cancelOp_opsEnd (s : State) (core e : Nat) : OpsEnd s (cancelOp s core e) := by
  unfold cancelOp
  split
  · exact .refl s
  · split
    · exact .refl s
    · split
      · exact setOp_opsEnd _ _ _ _
      · exact finishOp_opsEnd _ _ _ _ _

theorem cancelBlockOps_opsEnd (s : State) (core slot : Nat) : OpsEnd s (cancelBlockOps s core slot) :=
  OpsEnd.foldl _ (fun _ _ => cancelOp_opsEnd _ _ _) _ s

end Sys2Proof.Machine

namespace Sys2Proof.Machine

/-! ### The base overlay of a block (R15, R301), and its failure (R299, R317) -/

/-- No core's scratchpad or accumulator differs. -/
def SameMems (s t : State) : Prop := ∀ n, (t.core n).spad = (s.core n).spad ∧ (t.core n).acc = (s.core n).acc

theorem SameMems.trans {s t u : State} (h : SameMems s t) (h' : SameMems t u) : SameMems s u :=
  fun n => ⟨(h' n).1.trans (h n).1, (h' n).2.trans (h n).2⟩

theorem OpsEnd.sameMems {s t : State} (h : OpsEnd s t) : SameMems s t := fun n => ⟨(h.core n).spad, (h.core n).acc⟩
theorem Quiet.sameMems {s t : State} (h : Quiet s t) : SameMems s t := h.opsEnd.sameMems

theorem sameMems_setCore {s : State} {n : Nat} {c : Core} (h : c.spad = (s.core n).spad) (h' : c.acc = (s.core n).acc) :
    SameMems s (s.setCore n c) := by
  intro m
  rw [State.core_setCore]
  split
  · subst_vars; exact ⟨h, h'⟩
  · exact ⟨rfl, rfl⟩

theorem failLaunch_core (s : State) (n blk : Nat) (cause : Byte) : ∀ m, (failLaunch s n blk cause).core m = s.core m := by
  intro m
  unfold failLaunch
  split <;> rfl

/-- What `endBlock` does to the block that it ends. -/
theorem endBlock_block? {s : State} {core slot : Nat} {b : Block} (hb : s.block? core slot = some b) (hs : b.status ≠ .ended) (cause : Byte) :
    SameMems s (endBlock s core slot cause) ∧
    ∃ x, (endBlock s core slot cause).block? core slot = some x ∧ x.body = { b with status := .ended }.body := by
  unfold endBlock
  split
  · rename_i h
    rw [hb] at h
    cases h
  rename_i y hy
  obtain rfl : b = y := Option.some.inj (hb.symm.trans hy)
  rw [if_neg (by simpa using hs)]
  extract_lets s1 s2 s3 s4
  have h4 (m : Nat) : s4.core m = s2.core m := by
    have : s4.core m = s3.core m := by
      unfold s4
      split
      · rfl
      · split <;> rfl
    exact this.trans (failLaunch_core _ _ _ _ m)
  have h1 : SameMems s s4 := by
    have h01 : SameMems s s1 := sameMems_setCore rfl rfl
    have h12 : SameMems s1 s2 := sameMems_setCore rfl rfl
    intro m
    rw [h4]
    exact (h01.trans h12) m
  have he := cancelBlockOps_opsEnd s4 core slot
  refine ⟨h1.trans he.sameMems, he.block? ?_⟩
  simp only [State.block?, h4]
  simp [s2, s1, dropInstances, State.setBlock]

theorem baseFault_block? {s : State} {core slot : Nat} {b : Block} (hb : s.block? core slot = some b) (hs : b.status ≠ .ended) (a : Nat)
    (cause : Byte) : SameMems s (baseFault s core slot a cause) ∧
    ∃ x, (baseFault s core slot a cause).block? core slot = some x ∧ x.body = { b with status := .ended }.body := by
  unfold baseFault
  rw [hb]
  dsimp only
  rw [if_neg (by simpa using hs)]
  have hq := faultEntry_quiet s b.ctx b.index (a % 2 ^ 32) 0 core 2 cause.toNat
  obtain ⟨hm, hx⟩ := endBlock_block? ((hq.block? core slot).trans hb) hs cause
  exact ⟨hq.sameMems.trans hm, hx⟩

/-- Holding a base overlay changes overlay records and the launch only. -/
theorem holdBase_noted {s t : State} {core n a : Nat} {l : Launch} (h : holdBase s core n l = .ok (t, a)) (m : Nat) :
    (s.core m).Noted (t.core m) := by
  unfold holdBase at h
  split at h
  · cases h
  · split at h
    · cases h; exact .refl _
    · split at h
      · cases h
      · rename_i e _ _ _
        extract_lets s1 s2 at h
        cases h
        have h1 : Quiet s s1 := .ite (beginLoad_quiet _ _ _ _) (.refl s)
        exact (h1.trans (quiet_setCore (mapRes_noted _ _ _ _))).core m

/-- After `addBase` the block holds its base overlay, or has ended; scratchpad and accumulator are as they were. -/
theorem addBase_block? {s : State} {core slot : Nat} {b : Block} (hb : s.block? core slot = some b) (hs : b.status ≠ .ended) (n : Nat) :
    SameMems s (addBase s core slot n) ∧ ∃ x, (addBase s core slot n).block? core slot = some x ∧
      ((∃ a, x = { b with base := a }) ∧ ((addBase s core slot n).core core).tiles = (s.core core).tiles ∨
        x.body = { b with status := .ended }.body) := by
  unfold addBase
  split
  · exact ⟨(Quiet.refl s).sameMems, b, hb, .inl ⟨⟨_, rfl⟩, rfl⟩⟩
  · rename_i l _
    have hq := noteOvls_quiet s core l.ctx (hOvtab l.header)
    split
    · rename_i e a _
      extract_lets s1 blk
      have h2 : Quiet s (if e = cDataErr then logData s1 core l.ctx blk (a % 2 ^ 32) 0 else s1) :=
        hq.trans (.ite (logError_quiet _ _ _ _ _ _ _ _) (.refl _))
      obtain ⟨hm, x, hx, hbody⟩ := baseFault_block? ((h2.block? core slot).trans hb) hs a e
      exact ⟨h2.sameMems.trans hm, x, hx, .inr hbody⟩
    · rename_i t a hok
      have hn (m : Nat) : (s.core m).Noted (t.core m) := (hq.core m).trans (holdBase_noted hok m)
      have hbt : t.block? core slot = some b := by
        simp only [State.block?, (hn core).blocks]
        exact hb
      rw [hbt]
      refine ⟨fun m => ?_, _, (State.block?_setBlock _ _ _ _ _ _).trans (if_pos ⟨rfl, rfl⟩), .inl ⟨⟨_, rfl⟩, ?_⟩⟩
      · have hset : SameMems t (t.setBlock core slot { b with base := some a }) := sameMems_setCore rfl rfl
        rw [(hset m).1, (hset m).2]
        exact ⟨(hn m).spad, (hn m).acc⟩
      · simpa [State.setBlock] using (hn core).tiles

end Sys2Proof.Machine

namespace Sys2Proof.Machine

/-! ### Tables from lists -/

/-- What a table reads is listed. -/
theorem Tab.mem_of_get? {β : Type} {t : Tab β} {k : Nat} {x : β} (h : t.get? k = some x) : (k, x) ∈ t.entries := by
  suffices ∀ l : List (Nat × β), Tab.find l k = some x → (k, x) ∈ l from this _ h
  intro l hl
  induction l with
  | nil => cases hl
  | cons e r ih =>
    obtain ⟨j, y⟩ := e
    rw [Tab.find] at hl
    split at hl
    · rename_i hj
      obtain rfl := hj
      cases hl
      exact List.mem_cons_self
    · exact List.mem_cons_of_mem _ (ih hl)

theorem Tab.get?_ofList_mem {β : Type} (f : Nat → β) {l : List Nat} {k : Nat} (h : k ∈ l) :
    (Tab.ofList (l.map (fun j => (j, f j)))).get? k = some (f k) := by
  induction l with
  | nil => cases h
  | cons j r ih =>
    have hcons : (Tab.ofList ((j :: r).map (fun j => (j, f j)))).get? k =
        if j = k then some (f j) else (Tab.ofList (r.map (fun j => (j, f j)))).get? k := rfl
    rw [hcons]
    split
    · rename_i hj
      rw [hj]
    · exact ih ((List.mem_cons.1 h).resolve_left (Ne.symm ‹_›))

/-- The cords that a fit places. -/
theorem get?_cordsOf {places : List (Nat × Nat)} {f : Nat → Cord} {i : Nat} {y : Cord} (h : (cordsOf places f).get? i = some y) :
    y = { f i with quarter := y.quarter, pos := y.pos } := by
  obtain ⟨x, -, hx⟩ := List.mem_map.1 (Tab.mem_of_get? h)
  cases hx
  rfl

/-! ### Reservations (R36, R37, R292) -/

theorem mem_bitsFrom {x k : Nat} (n i : Nat) (h : k ∈ bitsFrom x i n) : i ≤ k ∧ k < i + n ∧ bit x k = true := by
  induction n generalizing i with
  | zero => cases h
  | succ n ih =>
    have later (h : k ∈ bitsFrom x (i + 1) n) : i ≤ k ∧ k < i + (n + 1) ∧ bit x k = true := by
      obtain ⟨h1, h2, h3⟩ := ih (i + 1) h
      exact ⟨by omega, by omega, h3⟩
    rw [bitsFrom] at h
    split at h
    · rename_i hb
      rcases List.mem_cons.1 h with rfl | h
      · exact ⟨by omega, by omega, hb⟩
      · exact later h
    · exact later h

/-- The cores that a launch may use are named by its record and lie in its queue's partition. -/
theorem mem_coreOrder {s : State} {l : Launch} {w : BitVec 256} {c : Nat} (h : c ∈ coreOrder s l w) :
    c / 64 = l.die ∧ bit (bCores w) (c % 64) = true ∧ inPartition s l.queue c = true := by
  obtain ⟨hm, hp⟩ := List.mem_filter.1 h
  obtain ⟨k, hk, rfl⟩ := List.mem_map.1 hm
  have hk : k ∈ bindCores w := by
    rcases List.mem_append.1 hk with hk | hk <;> exact (List.mem_filter.1 hk).1
  obtain ⟨-, hlt, hb⟩ := mem_bitsFrom _ _ hk
  have hlt : k < 64 := by simpa [Config.coresPerDie] using hlt
  have hdiv : (l.die * Config.coresPerDie + k) / 64 = l.die := by
    rw [show Config.coresPerDie = 64 from rfl]
    omega
  have hmod : (l.die * Config.coresPerDie + k) % 64 = k := by
    rw [show Config.coresPerDie = 64 from rfl]
    omega
  exact ⟨hdiv, by rw [hmod]; exact hb, hp⟩

theorem findCore_mem {s : State} {n c : Nat} {l : Launch} {w : BitVec 256} {f : Footprint} {x : Fit}
    (h : findCore s n l w f = some (c, x)) : c ∈ coreOrder s l w := by
  unfold findCore blockCore at h
  split at h
  · cases h
  · obtain ⟨a, ha, hf⟩ := List.exists_of_findSome?_eq_some h
    split at hf
    · cases hf
    · obtain ⟨y, -, hy⟩ := Option.map_eq_some_iff.1 hf
      cases hy
      exact ha

/-- A block whose base overlay has been asked for: it holds it, or has ended. -/
def BasedOrEnded (x b : Block) : Prop := (∃ a, b = { x with base := a }) ∨ b.body = { x with status := .ended }.body

theorem BasedOrEnded.body {x b : Block} (h : BasedOrEnded x b) :
    b.body = { x with status := b.status, base := b.base }.body ∧ (b.status = x.status ∨ b.status = .ended) := by
  rcases h with ⟨a, rfl⟩ | h
  · exact ⟨rfl, .inl rfl⟩
  · have hs : b.status = .ended := congrArg Block.status h
    have hb := congrArg Block.base h
    change b.base = x.base at hb
    rw [hs, hb]
    exact ⟨h, .inr rfl⟩

theorem BasedOrEnded.based {x b : Block} (h : BasedOrEnded x b) (hs : b.status ≠ .ended) : ∃ a, b = { x with base := a } :=
  h.resolve_right (fun h => hs (congrArg Block.status h))

/-- The block that a reservation leaves is that of its rank. -/
theorem reserveBlock_block? (s : State) (n : Nat) (l : Launch) (core rank bind : Nat) (w : BitVec 256) (f : Footprint) (x : Fit) :
    ∃ b, (reserveBlock s n l core rank bind w f x).block? core x.slot = some b ∧
      BasedOrEnded (blockOf s n l rank f x) b := by
  unfold reserveBlock
  extract_lets s1 s2 l1 l2 s3
  have hb : s3.block? core x.slot = some (blockOf s n l rank f x) := by
    have : s2.block? core x.slot = some (blockOf s1 n l rank f x) := (State.block?_setBlock _ _ _ _ _ _).trans (if_pos ⟨rfl, rfl⟩)
    exact this
  obtain ⟨-, b, hb, hcase⟩ := addBase_block? hb (show BlockStatus.reserved ≠ .ended by decide) n
  exact ⟨b, hb, hcase.imp And.left id⟩

/-- The reserved cords of a block are as R244 resets them. -/
theorem blockOf_cord {s : State} {n : Nat} {l : Launch} {rank : Nat} {f : Footprint} {x : Fit} {i : Nat} {y : Cord}
    (h : (blockOf s n l rank f x).cords.get? i = some y) : y = { Cord.fresh with
      role := y.role, present := 0xFFFFFFFF, vbud := y.vbud, ubud := y.ubud, entry := y.entry, quarter := y.quarter, pos := y.pos } := by
  have := get?_cordsOf h
  rw [this]

theorem blockReservation_launch {s : State} {d n : Nat} {l : Launch} (ht : placeableTask s d = none) (hl : chosenLaunch s d = some (n, l))
    (hp : pCores l.packet = false) : exec (.blockReservation d) s = placeNext s n l := by
  show execBlockReservation d s = _
  unfold execBlockReservation
  rw [ht, hl]
  simp [hp]

theorem coResidentPlacement_turn {s : State} {n : Nat} {l : Launch} (hl : s.launches.get? n = some l) (hp : pCores l.packet = true)
    (hc : (chosenLaunch s l.die).map (·.1) = some n) (ht : placeableTask s l.die = none) :
    exec (.coResidentPlacement n) s =
      woke ((reserveAll n 2049 s).getD (s.setLaunch n { l with status := .blocked, woken := false })) := by
  show execCoResidentPlacement n s = _
  have h2049 : 32 * Config.coresPerDie + 1 = 2049 := rfl
  unfold execCoResidentPlacement
  rw [hl, h2049]
  dsimp only
  rw [hp, hc, ht]
  cases hall : reserveAll n 2049 s <;> simp

/-- The reservation that a step makes for the launch that is chosen. -/
theorem placeNext_found {s : State} {n : Nat} {l : Launch} {r c : Nat} {e : Nat × BitVec 256} {x : Fit} (hr : nextRank l = some r)
    (he : bindOf s l.queue = some e) (hf : findCore s n l e.2 (footprintOf l.header) = some (c, x)) :
    placeNext s n l = woke (reserveBlock s n l c r e.1 e.2 (footprintOf l.header) x) := by
  unfold placeNext
  rw [hr, he]
  dsimp only
  rw [hf]

theorem placeNext_blocked {s : State} {n : Nat} {l : Launch} {r : Nat} {e : Nat × BitVec 256} (hr : nextRank l = some r)
    (he : bindOf s l.queue = some e) (hf : findCore s n l e.2 (footprintOf l.header) = none) :
    placeNext s n l = woke (s.setLaunch n { l with status := .blocked, woken := false }) := by
  unfold placeNext
  rw [hr, he]
  dsimp only
  rw [hf]

/-! ### The start of a block (R14, R57) -/

theorem blockStart_reserved {s : State} {n sl : Nat} {b : Block} {l : Launch} (hb : s.block? n sl = some b) (hs : b.status = .reserved)
    (hr : b.base.any (residentAt (s.core n) b.ctx) = true) (hl : s.launches.get? b.launch = some l) :
    exec (.blockStart n sl) s = woke (initCords s n sl b l (if b.drain then .draining else .running)) := by
  show execBlockStart n sl s = _
  unfold execBlockStart
  rw [hb]
  dsimp only
  rw [hs]
  dsimp only
  rw [hr, hl]
  rfl

theorem initCords_block? (s : State) (core slot : Nat) (b : Block) (l : Launch) (st : BlockStatus) :
    (initCords s core slot b l st).block? core slot =
      some { b with status := st, cords := if b.task.isSome then b.cords else b.cords.map (launchLanes l b), drain := false } :=
  (State.block?_setBlock _ _ _ _ _ _).trans (if_pos ⟨rfl, rfl⟩)

/-- The lane of a launch's cord at its start. -/
theorem launchLanes_lane (l : Launch) (b : Block) (i : Nat) (c : Cord) {j : Nat} (hj : j < 32) :
    (launchLanes l b i c).lanes.get? j = some (startLane (pSeed l.packet) c.entry
      (BitVec.ofNat 64 (b.index * 2 ^ (5 + hFw l.header % 8) + i * 32 + j))
      ((pLoc l.packet + b.lsize * (32 * (b.index * hCords l.header + i) + j)) % 2 ^ 64)) := by
  have hw : fwW1 (hFw l.header) = hFw l.header % 8 := by simp [fwW1, field]
  unfold launchLanes
  dsimp only
  rw [Tab.get?_ofList_mem _ (List.mem_range.2 hj), hw]
  rfl

/-- Settles O49: a reservation by the block that `blockOf` gives a fit on a core of `coreOrder`, a co-resident launch by `reserveAll`, and
the start of a block by `launchLanes`. -/
theorem placement : Obligations.Placement := by
  unfold Obligations.Placement
  refine ⟨fun s d n l r e ht hl hp hr he => ⟨fun c x hf => ?_, fun hf => ?_⟩, fun s n l hl hp hc ht => ⟨fun t hall => ?_, fun hall => ?_⟩,
    fun s n sl b l hb hs hbase hl htask => ?_⟩
  · obtain ⟨hdie, hbit, hpart⟩ := mem_coreOrder (findCore_mem hf)
    obtain ⟨b, hb, hcase⟩ := reserveBlock_block? s n l c r e.1 e.2 (footprintOf l.header) x
    obtain ⟨hbody, hst⟩ := hcase.body
    refine ⟨_, b, (blockReservation_launch ht hl hp).trans (placeNext_found hr he hf), hb, congrArg Block.launch hbody,
      congrArg Block.rank hbody, congrArg Block.ctx hbody, congrArg Block.spbase hbody, congrArg Block.tiles hbody, hdie, hbit, hpart,
      congrArg Block.placed hbody, congrArg Block.chans hbody, congrArg Block.splen hbody, hst, fun hres i y hy => ?_⟩
    obtain ⟨a, rfl⟩ := hcase.based (by rw [hres]; decide)
    exact blockOf_cord (s := s) (n := n) (rank := r) hy
  · exact (blockReservation_launch ht hl hp).trans (placeNext_blocked hr he hf)
  · rw [Happens, coResidentPlacement_turn hl hp hc ht, hall]
    rfl
  · rw [Happens, coResidentPlacement_turn hl hp hc ht, hall]
    rfl
  · refine ⟨_, _, blockStart_reserved hb hs hbase hl, initCords_block? _ _ _ _ _ _, rfl, fun i c hc => ?_⟩
    rw [htask]
    refine ⟨launchLanes l b i c, by simp [hc], rfl, fun j hj => launchLanes_lane l b i c hj⟩

end Sys2Proof.Machine

namespace Sys2Proof.Machine

/-! ### What a store reads after a run of bytes is written, cut out or pasted (R47) -/

namespace Mem

/-- A write leaves what lies before it. -/
theorem get_write_before {m : Mem} (h : m.wf = true) {a b : Nat} (hb : b < a) (l : List Byte) : (m.write a l).get b = m.get b := by
  induction l generalizing m a with
  | nil => rfl
  | cons x r ih =>
    rw [write, ih (wf_set a x h) (by omega), get_set h, if_neg (by omega)]

/-- A run of bytes reads as it was written. -/
theorem read_write {m : Mem} (h : m.wf = true) (a : Nat) (l : List Byte) : (m.write a l).read a l.length = l := by
  induction l generalizing m a with
  | nil => rfl
  | cons x r ih =>
    have hx : ((m.set a x).write (a + 1) r).get a = x := by
      rw [get_write_before (wf_set a x h) (by omega), get_set h, if_pos rfl]
    rw [write, List.length_cons, read, hx, ih (wf_set a x h)]

/-- What a store reads when only the addresses that `p` admits are kept. -/
theorem get_filter {m : Mem} (h : m.wf = true) (p : Nat → Bool) (b : Nat) :
    Mem.get (m.filter (fun c => p c.1)) b = if p b then m.get b else 0 := by
  suffices ∀ (m : Mem) (i : Nat), sortedFrom i m = true → Mem.get (m.filter (fun c => p c.1)) b = if p b then m.get b else 0 from this m 0 h
  intro m
  induction m with
  | nil => intro i _; simp [get]
  | cons c r ih =>
    intro i hm
    simp only [sortedFrom, Bool.and_eq_true, decide_eq_true_eq] at hm
    have ih := ih _ hm.2
    have low (hb : b ≤ c.1) : get r b = 0 := get_below hm.2 (by omega)
    rw [List.filter_cons]
    split
    · rename_i hp
      simp only [get, ih]
      split_ifs <;> simp_all
    · rename_i hp
      rw [ih]
      simp only [get]
      split_ifs <;> simp_all [Nat.le_of_lt]

theorem get_clear {m : Mem} (h : m.wf = true) (lo hi b : Nat) :
    (m.clear lo hi).get b = if lo ≤ b ∧ b < hi then 0 else m.get b := by
  have := get_filter h (fun a => decide (a < lo) || decide (hi ≤ a)) b
  rw [clear, this]
  by_cases hb : lo ≤ b ∧ b < hi
  · rw [if_pos hb, if_neg (by simp; omega)]
  · rw [if_neg hb, if_pos (by simp; omega)]

/-- Displacing every address down by `lo` displaces what is read. -/
theorem get_shift {m : Mem} {lo : Nat} (hl : ∀ c ∈ m, lo ≤ c.1) (b : Nat) : Mem.get (m.map (fun c => (c.1 - lo, c.2))) b = m.get (lo + b) := by
  induction m with
  | nil => rfl
  | cons c r ih =>
    have hc := hl c List.mem_cons_self
    have ih := ih (fun d hd => hl d (List.mem_cons_of_mem _ hd))
    have heq : c.1 - lo = b ↔ c.1 = lo + b := by omega
    have hlt : b < c.1 - lo ↔ lo + b < c.1 := by omega
    simp only [List.map_cons, get, ih, heq, hlt]

/-- The part of a store reads as the store does there. -/
theorem get_slice {m : Mem} (h : m.wf = true) {lo hi b : Nat} (hb : lo + b < hi) : (m.slice lo hi).get b = m.get (lo + b) := by
  have hm : ∀ c ∈ m.filter (fun c => decide (lo ≤ c.1) && decide (c.1 < hi)), lo ≤ c.1 := by
    intro c hc
    simp only [List.mem_filter, Bool.and_eq_true, decide_eq_true_eq] at hc
    exact hc.2.1
  rw [slice, get_shift hm, get_filter h (fun a => decide (lo ≤ a) && decide (a < hi)), if_pos (by simp; omega)]

/-- A pasted store gives the bytes that it lists. -/
theorem get_paste {m x : Mem} (hm : m.wf = true) (hx : x.wf = true) (off a : Nat) :
    (m.paste off x).get (off + a) = if x.get a = 0 then m.get (off + a) else x.get a := by
  suffices ∀ (x m : Mem) (i : Nat), m.wf = true → sortedFrom i x = true →
      (m.paste off x).get (off + a) = if x.get a = 0 then m.get (off + a) else x.get a from this x m 0 hm hx
  intro x
  induction x with
  | nil => intro m i _ _; simp [paste, get]
  | cons c r ih =>
    intro m i hm hx
    simp only [sortedFrom, Bool.and_eq_true, decide_eq_true_eq, bne_iff_ne] at hx
    have low (ha : a ≤ c.1) : get r a = 0 := get_below hx.2 (by omega)
    rw [paste, ih _ _ (wf_set _ _ hm) hx.2, get_set hm]
    have hget : get (c :: r) a = if c.1 = a then c.2 else if a < c.1 then 0 else get r a := rfl
    rcases Nat.lt_trichotomy a c.1 with h | h | h
    · rw [if_neg (by omega), if_pos h] at hget
      rw [hget, if_pos (low (by omega)), if_neg (by omega), if_pos rfl]
    · rw [if_pos h.symm] at hget
      rw [hget, if_pos (low (by omega)), if_pos (by omega), if_neg hx.1.2]
    · rw [if_neg (by omega), if_neg (by omega)] at hget
      rw [hget, if_neg (by omega : ¬off + a = off + c.1)]

/-- A paste leaves what it does not list. -/
theorem get_paste_ne {m : Mem} (hm : m.wf = true) {off b : Nat} {x : Mem} (h : ∀ z ∈ x, off + z.1 ≠ b) : (m.paste off x).get b = m.get b := by
  induction x generalizing m with
  | nil => rfl
  | cons c r ih =>
    rw [paste, ih (wf_set _ _ hm) (fun z hz => h z (List.mem_cons_of_mem _ hz)), get_set hm, if_neg (Ne.symm (h c List.mem_cons_self))]

end Mem

/-! ### The record that a launch leaves (R288) -/

/-- What is written at a target reads back. -/
theorem targetRead_targetWrite {s : State} (h : s.hbm.wf = true ∧ s.host.wf = true ∧ s.peers.vals.all (fun m => m.wf) = true) (l : List Byte)
    (a : Target) : targetRead (targetWrite s l a) l.length a = l := by
  obtain ⟨hhbm, hhost, hpeers⟩ := h
  cases a with
  | hbm a =>
    have : (targetWrite s l (.hbm a)).hbm = s.hbm.write a l := by
      simp only [targetWrite]
      split <;> rfl
    rw [targetRead, this, Mem.read_write hhbm]
  | host a => exact Mem.read_write hhost a l
  | peer p a =>
    have hp : (s.peers.get p []).wf = true := by
      rw [Tab.get]
      cases hg : s.peers.get? p with
      | none => rfl
      | some m => exact List.all_eq_true.1 hpeers m (List.mem_map.2 ⟨_, Tab.mem_of_get? hg, rfl⟩)
    simp only [targetRead, targetWrite, Tab.get_set_same]
    exact Mem.read_write hp a l

end Sys2Proof.Machine

namespace Sys2Proof.Machine

/-! ### The end of a launch (R17, R288, R325) -/

theorem length_natLe (n x : Nat) : (natLe n x).length = n := by
  induction n generalizing x with
  | zero => rfl
  | succ n ih => rw [natLe, List.length_cons, ih]

theorem length_record (status cause herr fblk : Nat) (x : DWord) : (recordBits status cause herr fblk ++ natLe 8 x.toNat).length = 32 := by
  simp [recordBits, length_natLe]

/-- The memories that the device reaches are in canonical form. -/
def GlobalOk (s : State) : Prop := s.hbm.wf = true ∧ s.host.wf = true ∧ s.peers.vals.all (fun m => m.wf) = true

theorem OnlyTracks.targetRead {s t : State} (h : OnlyTracks s t) (n : Nat) (a : Target) : targetRead t n a = targetRead s n a := by
  rw [h.rest]; cases a <;> rfl

/-- A record whose address translates stands in memory, with some stamp. -/
theorem writeRecord_read {s : State} (hok : GlobalOk s) {d ctx crec : Nat} {a : Target}
    (ha : dieTranslate s d ctx crec 32 true false = .ok a) (status cause herr fblk : Nat) :
    ∃ x : DWord, targetRead (writeRecord s d ctx crec status cause herr fblk) 32 a = recordBits status cause herr fblk ++ natLe 8 x.toNat := by
  generalize hl : recordBits status cause herr fblk ++ natLe 8 (Config.freeValue s.freeCtr).toNat = l
  have hlen : l.length = 32 := hl ▸ length_record _ _ _ _ _
  have hfree : SameTables s { s with freeCtr := s.freeCtr + 1 } := ⟨rfl, rfl, rfl, rfl, rfl, fun _ => rfl, fun _ => rfl, fun _ => rfl⟩
  have hw := writeRecord_of_dieWrite (s := s) (d := d) (ctx := ctx) (crec := crec) (status := status) (cause := cause) (herr := herr)
    (fblk := fblk) (by rw [hl, dieWrite, hlen, dieTranslate_congr hfree, ha])
  have hc := noteWalk_onlyCounts { s with freeCtr := s.freeCtr + 1 } d ctx crec
  refine ⟨Config.freeValue s.freeCtr, ?_⟩
  rw [hw, hl, (wrote_onlyTracks _ _ _ _ _).targetRead, ← hlen]
  refine targetRead_targetWrite ?_ l a
  rw [hc.rest]
  exact hok

/-- Only the tasks of clusters and contexts differ. -/
structure OnlyTasks (s t : State) : Prop where
  rest : t = { s with clusters := t.clusters, ctxs := t.ctxs }
  root : ∀ n, (t.ctx n).root = (s.ctx n).root

theorem OnlyTasks.refl (s : State) : OnlyTasks s s := ⟨rfl, fun _ => rfl⟩

theorem OnlyTasks.trans {s t u : State} (h : OnlyTasks s t) (h' : OnlyTasks t u) : OnlyTasks s u where
  rest := by rw [h'.rest, h.rest]
  root n := (h'.root n).trans (h.root n)

theorem OnlyTasks.foldl {α : Type} (f : State → α → State) (hf : ∀ s x, OnlyTasks s (f s x)) (l : List α) (s : State) :
    OnlyTasks s (l.foldl f s) := by
  induction l generalizing s with
  | nil => exact .refl s
  | cons x r ih => exact (hf s x).trans (ih _)

theorem setOverflow_onlyTasks (s : State) (ctx cl : Nat) (c : Cluster) (f : Tab (List TaskItem)) :
    OnlyTasks s ((s.setCluster cl c).setCtx ctx { s.ctx ctx with overflow := f }) := by
  refine ⟨rfl, fun n => ?_⟩
  simp only [State.ctx, State.setCtx, State.setCluster, Tab.get_set]
  split
  · subst_vars; rfl
  · rfl

theorem refillTasks_onlyTasks (cl : Nat) (l : List Nat) (s : State) : OnlyTasks s (refillTasks cl l s) := by
  induction l generalizing s with
  | nil => exact .refl s
  | cons ctx r ih =>
    rw [refillTasks]
    split
    · exact ih s
    · exact (setOverflow_onlyTasks s ctx cl _ _).trans (ih _)

theorem dropTasks_onlyTasks (s : State) (n : Nat) : OnlyTasks s (dropTasks s n) := by
  unfold dropTasks
  dsimp only
  refine OnlyTasks.trans ⟨rfl, fun m => ?_⟩ (OnlyTasks.foldl _ (fun _ _ => refillTasks_onlyTasks _ _ _) _ _)
  simp only [State.ctx, Tab.get, Tab.get?_map]
  cases s.ctxs.get? m <;> rfl

theorem OnlyTasks.sameTables {s t : State} (h : OnlyTasks s t) : SameTables s t where
  hbm := by rw [h.rest]
  hbmErr := by rw [h.rest]
  windows := by rw [h.rest]
  linkMask := by rw [h.rest]
  peerLinks := by rw [h.rest]
  tlb _ := by rw [h.rest]; rfl
  lost _ := by rw [h.rest]; rfl
  root := h.root

theorem OnlyTasks.globalOk {s t : State} (h : OnlyTasks s t) (hs : GlobalOk s) : GlobalOk t := by
  rw [h.rest]; exact hs

/-- The tokens of base overlays go: only cores differ. -/
theorem dropBases_rest (ctx : Nat) (l : List (Nat × Nat)) (s : State) :
    let t := l.foldl (fun (s : State) x => s.setCore x.1 (dropTokens (s.core x.1) ctx [x.2])) s
    t = { s with cores := t.cores } := by
  induction l generalizing s with
  | nil => rfl
  | cons x r ih =>
    dsimp only
    rw [List.foldl_cons, ih]
    rfl

theorem State.memOk_global {s : State} (h : s.memOk = true) : GlobalOk s := by
  simp only [State.memOk, Bool.and_eq_true] at h
  obtain ⟨⟨⟨⟨h1, h2⟩, h3⟩, -⟩, -⟩ := h
  exact ⟨h1, h2, h3⟩

/-- The end of a launch that no block and no task holds open. -/
theorem launchCompletion_next {s : State} {n : Nat} {l : Launch} (hl : s.launches.get? n = some l) (hp : allPlaced l = true)
    (ha : launchAlive (if l.status == .failed then dropTasks s n else s) n = false) :
    ∃ u, SameTables s u ∧ (GlobalOk s → GlobalOk u) ∧ u.launches = s.launches.erase n ∧
      exec (.launchCompletion n) s = woke (writeRecord u l.die l.ctx (pCrec l.packet) (if l.status = .failed then 2 else 1)
        (if l.status = .failed then l.cause.toNat else 0) 0 (if l.status = .failed then l.fblk.getD 0 else 0)) := by
  obtain ⟨s', hs'⟩ : ∃ s', s' = if l.status == .failed then dropTasks s n else s := ⟨_, rfl⟩
  have ht : OnlyTasks s s' := by
    rw [hs']
    split
    · exact dropTasks_onlyTasks s n
    · exact .refl s
  obtain ⟨s1, hs1⟩ : ∃ s1, s1 = l.bases.foldl (fun (s : State) x => s.setCore x.1 (dropTokens (s.core x.1) l.ctx [x.2])) s' := ⟨_, rfl⟩
  have hb : s1 = { s' with cores := s1.cores } := hs1 ▸ dropBases_rest _ _ _
  have hh : OnlyTracks { s1 with launches := s1.launches.erase n } ({ s1 with launches := s1.launches.erase n }.hear (.die l.die) .sys [.launch n]) :=
    hear_onlyTracks _ _ _ _
  refine ⟨{ s1 with launches := s1.launches.erase n }.hear (.die l.die) .sys [.launch n], ?_, ?_, ?_, ?_⟩
  · refine ht.sameTables.trans ?_
    rw [hh.rest, hb]
    exact ⟨rfl, rfl, rfl, rfl, rfl, fun _ => rfl, fun _ => rfl, fun _ => rfl⟩
  · intro hs
    have := ht.globalOk hs
    rw [hh.rest, hb]
    exact this
  · rw [hh.rest, hb, ht.rest]
  · show execLaunchCompletion n s = _
    unfold execLaunchCompletion
    rw [hl]
    dsimp only
    rw [ha, hp, ← hs', ← hs1]
    by_cases hf : l.status = .failed <;> simp [hf]

theorem launchCompletion_forgets {s : State} {n : Nat} {l : Launch} (hok : s.memOk = true) (hl : s.launches.get? n = some l)
    (hp : allPlaced l = true) (ha : launchAlive (if l.status == .failed then dropTasks s n else s) n = false) :
    ∃ t, exec (.launchCompletion n) s = .next t ∧ t.launches.get? n = none ∧
      ∀ a, dieTranslate s l.die l.ctx (pCrec l.packet) 32 true false = .ok a → ∃ x : DWord, targetRead t 32 a =
        (if l.status = .failed then natLe 4 (2 + l.cause.toNat * 256) ++ natLe 12 0 ++ natLe 8 (l.fblk.getD 0)
          else natLe 4 1 ++ natLe 12 0 ++ natLe 8 0) ++ natLe 8 x.toNat := by
  obtain ⟨u, hu, hg, hul, he⟩ := launchCompletion_next hl hp ha
  refine ⟨_, he, ?_, fun a ht => ?_⟩
  · have := (writeRecord_onlyGlobal u l.die l.ctx (pCrec l.packet) (if l.status = .failed then 2 else 1)
        (if l.status = .failed then l.cause.toNat else 0) 0 (if l.status = .failed then l.fblk.getD 0 else 0)).quiet.launches
    show (writeRecord u _ _ _ _ _ _ _).launches.get? n = none
    rw [this, hul, Tab.get?_erase, if_pos rfl]
  · rw [← dieTranslate_congr hu] at ht
    obtain ⟨x, hx⟩ := writeRecord_read (hg (State.memOk_global hok)) ht (if l.status = .failed then 2 else 1)
        (if l.status = .failed then l.cause.toNat else 0) 0 (if l.status = .failed then l.fblk.getD 0 else 0)
    refine ⟨x, Eq.trans ?_ (hx.trans ?_)⟩
    · cases a <;> rfl
    · split <;> simp [recordBits]

end Sys2Proof.Machine

namespace Sys2Proof.Machine

/-! ### The resources of a block go back (R37, R237) -/

theorem wakeLaunches_core (s : State) (core n : Nat) : (wakeLaunches s core).core n = s.core n := rfl
theorem wakeLaunches_saved (s : State) (core : Nat) : (wakeLaunches s core).saved = s.saved := rfl

/-- A launch that is tried again is otherwise as it was. -/
theorem wakeLaunches_launch {s : State} {core n : Nat} {l : Launch} (h : s.launches.get? n = some l) :
    ∃ x, (wakeLaunches s core).launches.get? n = some x ∧ x = { l with status := x.status, woken := x.woken } := by
  refine ⟨_, (Tab.get?_map _ _ _).trans (by rw [show (wakeTasks s _).launches.get? n = some l from h]; rfl), ?_⟩
  dsimp only
  split <;> rfl

theorem sendCords_onlyTracks (s : State) (core : Nat) (b : Block) (sc : Scope) (ks : List Carrier) : OnlyTracks s (sendCords s core b sc ks) := by
  unfold sendCords
  generalize b.cords.keys = l
  induction l generalizing s with
  | nil => exact .refl s
  | cons x r ih => exact (send_onlyTracks _ _ _ _).trans (ih _)

theorem freeEvicted_noted (c : Core) : c.Noted (freeEvicted c) := freeRes_noted _ _

/-- The holds of the `callo` that cords wait at go. -/
theorem dropCallos_noted (ctx : Nat) (l : List Cord) (c : Core) : c.Noted (l.foldl (fun c x => match x.calloWait with
    | none => c
    | some (a, ks) => freeEvicted (mapRes c ctx a (fun r => { r with holds := r.holds - ks.length }))) c) := by
  refine Core.Noted.foldl _ (fun c x => ?_) l c
  split
  · exact .refl c
  · exact (mapRes_noted _ _ _ _).trans (freeEvicted_noted _)

/-- Writing back lines leaves everything but notes, and takes the lines of the slot off the path. -/
theorem writeLines_core (s : State) (core slot : Nat) :
    ((writeLines s core slot).core core).spad = (s.core core).spad ∧ ((writeLines s core slot).core core).acc = (s.core core).acc ∧
    ((writeLines s core slot).core core).tiles = (s.core core).tiles ∧ ((writeLines s core slot).core core).ops = (s.core core).ops ∧
    ∀ x ∈ ((writeLines s core slot).core core).lines, x.slot ≠ slot := by
  obtain ⟨u, hu, e⟩ := writeLines_eq s core slot
  have hc := hu.core core
  rw [e, State.core_setCore_same]
  exact ⟨hc.spad, hc.acc, hc.tiles, hc.ops, fun x hx => by simpa using (List.mem_filter.1 hx).2⟩

theorem writeLines_rest (s : State) (core slot : Nat) :
    (writeLines s core slot).launches = s.launches ∧ (writeLines s core slot).saved = s.saved := by
  obtain ⟨u, hu, e⟩ := writeLines_eq s core slot
  rw [e]
  exact ⟨hu.launches, hu.saved⟩

/-- A block's resources go back: what becomes of its core, and that waiting launches are tried again. -/
theorem freeBlock_eq {s : State} {core slot : Nat} {b : Block} (hb : s.block? core slot = some b) :
    ∃ (u : State) (c : Core), freeBlock s core slot = wakeLaunches (u.setCore core c) core ∧ u.launches = s.launches ∧ u.saved = s.saved ∧
      c.blocks.get? slot = none ∧ ∀ x ∈ c.lines, x.slot ≠ slot := by
  unfold freeBlock
  split
  · rename_i h
    rw [hb] at h
    cases h
  extract_lets u c1 c2 frames c3 c4 c5
  have hu : OnlyTracks (writeLines s core slot) u := sendCords_onlyTracks _ _ _ _ _
  obtain ⟨hl, hs⟩ := writeLines_rest s core slot
  refine ⟨u, c5, rfl, by rw [hu.rest]; exact hl, by rw [hu.rest]; exact hs, ?_, ?_⟩
  · exact (Tab.get?_erase _ _ _).trans (if_pos rfl)
  · have h4 : c4.lines = (u.core core).lines := by
      have h43 : c4.lines = c3.lines := (dropCallos_noted _ _ _).lines
      have h32 : c3.lines = c2.lines := (dropHolds_noted _ _ _).lines
      have h1 : c1.lines = (u.core core).lines := (dropTokens_noted _ _ _).lines
      exact h43.trans (h32.trans h1)
    have hw : (u.core core).lines = ((writeLines s core slot).core core).lines := by rw [hu.rest]; rfl
    show ∀ x ∈ c4.lines, _
    rw [h4, hw]
    exact (writeLines_core s core slot).2.2.2.2

theorem freeBlock_none {s : State} {core slot : Nat} (hb : s.block? core slot = none) : freeBlock s core slot = s := by
  unfold freeBlock
  rw [hb]

theorem freeBlock_block? (s : State) (core slot : Nat) : (freeBlock s core slot).block? core slot = none := by
  cases hb : s.block? core slot with
  | none => rw [freeBlock_none hb, hb]
  | some b =>
    obtain ⟨u, c, e, -, -, hc, -⟩ := freeBlock_eq hb
    rw [e, State.block?, wakeLaunches_core, State.core_setCore_same, hc]

theorem freeBlock_lines {s : State} {core slot : Nat} (h : ∀ x ∈ (s.core core).lines, x.slot ≠ slot) :
    ∀ x ∈ ((freeBlock s core slot).core core).lines, x.slot ≠ slot := by
  cases hb : s.block? core slot with
  | none => rw [freeBlock_none hb]; exact h
  | some b =>
    obtain ⟨u, c, e, -, -, -, hc⟩ := freeBlock_eq hb
    rw [e, wakeLaunches_core, State.core_setCore_same]
    exact hc

theorem freeBlock_saved (s : State) (core slot : Nat) : (freeBlock s core slot).saved = s.saved := by
  cases hb : s.block? core slot with
  | none => rw [freeBlock_none hb]
  | some b =>
    obtain ⟨u, c, e, -, hs, -⟩ := freeBlock_eq hb
    rw [e, wakeLaunches_saved]
    exact hs

theorem freeBlock_launch {s : State} {core slot n : Nat} {l : Launch} (h : s.launches.get? n = some l) :
    ∃ x, (freeBlock s core slot).launches.get? n = some x ∧ x = { l with status := x.status, woken := x.woken } := by
  cases hb : s.block? core slot with
  | none => exact ⟨l, by rw [freeBlock_none hb, h], rfl⟩
  | some b =>
    obtain ⟨u, c, e, hl, -⟩ := freeBlock_eq hb
    rw [e]
    exact wakeLaunches_launch (by rw [State.launches_setCore, hl, h])

/-! ### The exit of a block (R166, R237) -/

/-- A rank of a launch has passed its ticket. -/
def Passed (s : State) (n r : Nat) : Prop := ∃ l, s.launches.get? n = some l ∧ (r ∈ l.passed ∨ r ∈ l.passing)

theorem Passed.of_launches {s t : State} {n r : Nat} (h : Passed s n r) (e : t.launches = s.launches) : Passed t n r := by
  unfold Passed
  rw [e]
  exact h

theorem Passed.setLaunch {s : State} {n m r : Nat} {l l' : Launch} (h : Passed s n r) (hl : s.launches.get? m = some l)
    (hp : l'.passed = l.passed) (hq : l'.passing = l.passing) : Passed (s.setLaunch m l') n r := by
  obtain ⟨x, hx, hr⟩ := h
  by_cases e : n = m
  · subst e
    obtain rfl : x = l := Option.some.inj (hx.symm.trans hl)
    exact ⟨l', Tab.get?_set_same _ _ _, by rw [hp, hq]; exact hr⟩
  · exact ⟨x, (Tab.get?_set_ne _ e _).trans hx, hr⟩

theorem Passed.freeBlock {s : State} {n r : Nat} (h : Passed s n r) (core slot : Nat) : Passed (freeBlock s core slot) n r := by
  obtain ⟨l, hl, hr⟩ := h
  obtain ⟨x, hx, e⟩ := freeBlock_launch (core := core) (slot := slot) hl
  refine ⟨x, hx, ?_⟩
  rw [e]
  exact hr

theorem exitTicket_cores (s : State) (core : Nat) (b : Block) : (exitTicket s core b).cores = s.cores := by
  have hs : (sendCords s core b .dev [ticketOf b]).cores = s.cores := by rw [(sendCords_onlyTracks _ _ _ _ _).rest]
  unfold exitTicket passTicket
  dsimp only
  split
  · rfl
  · split
    · exact hs
    · split
      · exact hs
      · split <;> exact hs

theorem exitTicket_passed {s : State} {core : Nat} {b : Block} {l : Launch} (hl : s.launches.get? b.launch = some l) (ht : b.task = none) :
    Passed (exitTicket s core b) b.launch b.rank := by
  have hs : (sendCords s core b .dev [ticketOf b]).launches.get? b.launch = some l := by
    rw [(sendCords_onlyTracks _ _ _ _ _).rest]; exact hl
  unfold exitTicket passTicket
  rw [hl, hs, ht]
  simp only [Option.any_some, Option.isSome_none, Bool.false_eq_true, if_false]
  split
  · rename_i h
    exact ⟨l, hl, by simpa using h⟩
  · exact ⟨_, Tab.get?_set_same _ _ _, .inr (by simp)⟩

/-- An exited block drops the tokens of finished loads: its core is otherwise as it was. -/
theorem dropFinished_core (s : State) (core slot : Nat) :
    ((dropFinished s core slot).core core).lines = (s.core core).lines ∧ ((dropFinished s core slot).core core).ops = (s.core core).ops ∧
    ((dropFinished s core slot).core core).tiles = (s.core core).tiles ∧ (dropFinished s core slot).launches = s.launches := by
  unfold dropFinished
  split
  · exact ⟨rfl, rfl, rfl, rfl⟩
  · rename_i b hb
    extract_lets gone s1
    have h := dropTokens_noted (s1.core core) b.ctx gone
    have h1 : s1.core core = { s.core core with blocks := (s1.core core).blocks } := by
      simp only [s1, State.setBlock, State.core_setCore_same]
    rw [State.core_setCore_same, h.lines, h.ops, h.tiles, h1]
    exact ⟨rfl, rfl, rfl, rfl⟩

theorem failLaunch_passed {s : State} {n r : Nat} (h : Passed s n r) (m blk : Nat) (cause : Byte) : Passed (failLaunch s m blk cause) n r := by
  unfold failLaunch
  split
  · exact h
  · rename_i l hl
    exact h.setLaunch hl rfl rfl

/-- Failures that no cord has been told of are reported: cores keep their lines, and passed tickets stay passed. -/
theorem reportFailed_keeps (s : State) (core : Nat) (b : Block) : (∀ n, ((reportFailed s core b).core n).lines = (s.core n).lines) ∧
    ∀ n r, Passed s n r → Passed (reportFailed s core b) n r := by
  unfold reportFailed
  generalize b.failed = l
  induction l generalizing s with
  | nil => exact ⟨fun _ => rfl, fun _ _ h => h⟩
  | cons o os ih =>
    have hq := faultEntry_quiet s b.ctx b.index (o.addr % 2 ^ 32) o.token.toNat core 2 o.cause.toNat
    obtain ⟨hl, hp⟩ := ih (failLaunch (faultEntry s b.ctx b.index (o.addr % 2 ^ 32) o.token.toNat core 2 o.cause.toNat) b.launch b.index o.cause)
    refine ⟨fun n => (hl n).trans ?_, fun n r h => hp n r (failLaunch_passed (h.of_launches hq.launches) _ _ _)⟩
    rw [failLaunch_core]
    exact (hq.core n).lines

/-- A rank is noted to have left its core. -/
def noteGone (s : State) (b : Block) : State :=
  match s.launches.get? b.launch with
  | none => s
  | some l => if b.task.isSome then s else s.setLaunch b.launch { l with gone := b.rank :: l.gone }

theorem noteGone_cores (s : State) (b : Block) : (noteGone s b).cores = s.cores := by
  unfold noteGone
  split
  · rfl
  · split <;> rfl

theorem noteGone_passed {s : State} {n r : Nat} (h : Passed s n r) (b : Block) : Passed (noteGone s b) n r := by
  unfold noteGone
  split
  · exact h
  · rename_i l hl
    split
    · exact h
    · exact h.setLaunch hl rfl rfl

theorem blockExit_exited {s s1 : State} {n sl : Nat} {b : Block} (hb : s.block? n sl = some b) (hs : b.status = .running ∨ b.status = .draining)
    (hx : b.cords.vals.all Cord.exited = true) (hg : gathersDone b = true)
    (h1 : dropFinished (exitTicket (writeLines s n sl) n b) n sl = s1) :
    exec (.blockExit n sl) s = if !blockDone s1 n sl b || !(untold (s1.core n) sl).isEmpty then woke s1 else
      woke (freeBlock (noteGone (reportFailed s1 n b) b) n sl) := by
  show execBlockExit n sl s = _
  unfold execBlockExit
  rw [hb]
  dsimp only
  have hr : (b.status == .running || b.status == .draining) = true := by rcases hs with h | h <;> rw [h] <;> rfl
  rw [hr, hx, hg, ← h1]
  rfl

theorem blockExit_next {s : State} {n sl : Nat} {b : Block} (hb : s.block? n sl = some b) (hs : b.status = .running ∨ b.status = .draining)
    (hx : b.cords.vals.all Cord.exited = true) (hg : gathersDone b = true) :
    ∃ t, exec (.blockExit n sl) s = .next t ∧ (∀ x ∈ (t.core n).lines, x.slot ≠ sl) ∧
      (∀ l, s.launches.get? b.launch = some l → b.task = none → Passed t b.launch b.rank) ∧
      (attachedOps (s.core n) sl = [] → tilesClosed (s.core n) b = true → untold (s.core n) sl = [] → t.block? n sl = none) := by
  obtain ⟨s1, h1⟩ : ∃ s1, dropFinished (exitTicket (writeLines s n sl) n b) n sl = s1 := ⟨_, rfl⟩
  rw [blockExit_exited hb hs hx hg h1]
  obtain ⟨-, -, htiles, hops, hlines⟩ := writeLines_core s n sl
  have hcore : (exitTicket (writeLines s n sl) n b).core n = (writeLines s n sl).core n := by
    simp only [State.core, exitTicket_cores]
  obtain ⟨hl1, ho1, ht1, hla1⟩ := dropFinished_core (exitTicket (writeLines s n sl) n b) n sl
  rw [h1, hcore] at hl1 ho1 ht1
  rw [h1] at hla1
  have hlines1 : ∀ x ∈ (s1.core n).lines, x.slot ≠ sl := by rw [hl1]; exact hlines
  have hpass1 : ∀ l, s.launches.get? b.launch = some l → b.task = none → Passed s1 b.launch b.rank := fun l hl ht =>
    (exitTicket_passed (by rw [(writeLines_rest s n sl).1]; exact hl) ht).of_launches hla1
  split
  · rename_i hwait
    refine ⟨_, rfl, hlines1, hpass1, fun ha hc hu => ?_⟩
    have hops1 : (s1.core n).ops = (s.core n).ops := ho1.trans hops
    have htiles1 : (s1.core n).tiles = (s.core n).tiles := ht1.trans htiles
    have ha1 : attachedOps (s1.core n) sl = [] := by unfold attachedOps; rw [hops1]; exact ha
    have hu1 : untold (s1.core n) sl = [] := by unfold untold; rw [hops1]; exact hu
    have hc1 : tilesClosed (s1.core n) b = true := by unfold tilesClosed Core.tile; rw [htiles1]; exact hc
    simp [blockDone, hx, hg, ha1, hu1, hc1] at hwait
  · obtain ⟨hl2, hp2⟩ := reportFailed_keeps s1 n b
    have hlines2 : ∀ x ∈ ((noteGone (reportFailed s1 n b) b).core n).lines, x.slot ≠ sl := by
      simp only [State.core, noteGone_cores]
      exact (hl2 n).symm ▸ hlines1
    exact ⟨_, rfl, freeBlock_lines hlines2, fun l hl ht => (noteGone_passed (hp2 _ _ (hpass1 l hl ht)) b).freeBlock n sl,
      fun _ _ _ => freeBlock_block? _ _ _⟩

end Sys2Proof.Machine

namespace Sys2Proof.Machine

/-! ### The rows of R327 -/

theorem beginSave_block? (s : State) (core slot : Nat) (b : Block) :
    ∃ y, (beginSave s core slot b).block? core slot = some y ∧ y.status = .saving false := by
  unfold beginSave
  split
  · exact ⟨_, initCords_block? _ _ _ _ _ _, rfl⟩
  · exact ⟨_, (State.block?_setBlock _ _ _ _ _ _).trans (if_pos ⟨rfl, rfl⟩), rfl⟩

/-- The launch of a block is persistent. -/
def persists (s : State) (b : Block) : Bool := (s.launches.get? b.launch).any (fun l => pPersist l.packet)

theorem persists_eq_false {s : State} {b : Block} :
    persists s b = false ↔ ∀ l, s.launches.get? b.launch = some l → pPersist l.packet = false := by
  unfold persists
  cases s.launches.get? b.launch with
  | none => simp
  | some l => simp

/-- A cord of the block is in a handler (row 1). -/
def inHandler (b : Block) : Bool := b.cords.vals.any (fun c => c.handler.isSome)

/-- The block drains (row 2). -/
def rowDrains (s : State) (b : Block) : Prop :=
  (((bindOfBlock s b).map (·.2)).map bDthr).getD 0 ≤ progress b ∧ ∀ l, s.launches.get? b.launch = some l → pPersist l.packet = false

/-- The block is flushed (row 3). -/
def rowFlushes (s : State) (b : Block) : Prop :=
  b.idem = true ∧ b.task = none ∧ progress b < (((bindOfBlock s b).map (·.2)).map bRthr).getD 0

theorem preempt_eq (s : State) (core slot : Nat) (b : Block) : preempt s core slot b =
    if inHandler b then beginSave s core slot b
    else if (((bindOfBlock s b).map (·.2)).map bDthr).getD 0 ≤ progress b && !persists s b then
      s.setBlock core slot (if b.status == .running then { b with status := .draining } else { b with drain := true })
    else if b.idem && b.task.isNone && decide (progress b < (((bindOfBlock s b).map (·.2)).map bRthr).getD 0) then
      cancelBlockOps (s.setBlock core slot { b with status := .saving true }) core slot
    else beginSave s core slot b := by
  unfold preempt inHandler persists
  cases s.launches.get? b.launch <;> rfl

section
variable {s : State} {core slot : Nat} {b : Block}

theorem preempt_inHandler (hh : inHandler b = true) : preempt s core slot b = beginSave s core slot b := by
  rw [preempt_eq, if_pos hh]

theorem not_drains_test (hd : ¬rowDrains s b) :
    ¬(decide ((((bindOfBlock s b).map (·.2)).map bDthr).getD 0 ≤ progress b) && !persists s b) = true := by
  simp only [Bool.and_eq_true, decide_eq_true_eq, Bool.not_eq_true', persists_eq_false]
  exact hd

theorem flushes_test : (b.idem && b.task.isNone && decide (progress b < (((bindOfBlock s b).map (·.2)).map bRthr).getD 0)) = true ↔
    rowFlushes s b := by
  simp only [rowFlushes, Bool.and_eq_true, Option.isNone_iff_eq_none, decide_eq_true_eq, and_assoc]

variable (hh : inHandler b = false)
include hh

theorem preempt_drains (hd : rowDrains s b) : preempt s core slot b =
    s.setBlock core slot (if b.status == .running then { b with status := .draining } else { b with drain := true }) := by
  obtain ⟨hd, hp⟩ := hd
  rw [preempt_eq, hh, if_neg Bool.false_ne_true, persists_eq_false.2 hp, if_pos (by simpa using hd)]

theorem preempt_flushes (hd : ¬rowDrains s b) (hf : rowFlushes s b) :
    preempt s core slot b = cancelBlockOps (s.setBlock core slot { b with status := .saving true }) core slot := by
  rw [preempt_eq, hh, if_neg Bool.false_ne_true, if_neg (not_drains_test hd), if_pos (flushes_test.2 hf)]

theorem preempt_saves (hd : ¬rowDrains s b) (hf : ¬rowFlushes s b) : preempt s core slot b = beginSave s core slot b := by
  rw [preempt_eq, hh, if_neg Bool.false_ne_true, if_neg (not_drains_test hd), if_neg (mt flushes_test.1 hf)]

end

theorem preemptRequest_victim {s : State} {n sl : Nat} {b : Block} {w : Waiting} (hb : s.block? n sl = some b) (hw : w ∈ waiters s)
    (hv : isVictim s n sl b w = true) : exec (.preemptRequest n sl) s = woke (preempt s n sl b) := by
  show execPreemptRequest n sl s = _
  unfold execPreemptRequest
  rw [hb]
  dsimp only
  rw [if_pos (List.any_eq_true.2 ⟨w, hw, hv⟩)]

/-- A flushed block keeps its status while its operations are cancelled. -/
theorem flushing_block? (s : State) (n sl : Nat) (b : Block) :
    ∃ y, (cancelBlockOps (s.setBlock n sl { b with status := .saving true }) n sl).block? n sl = some y ∧ y.status = .saving true := by
  have hset : (s.setBlock n sl { b with status := .saving true }).block? n sl = some { b with status := .saving true } :=
    (State.block?_setBlock _ _ _ _ _ _).trans (if_pos ⟨rfl, rfl⟩)
  obtain ⟨y, hy, hbody⟩ := (cancelBlockOps_opsEnd _ n sl).block? hset
  exact ⟨y, hy, congrArg Block.status hbody⟩

/-! ### The least progress of a block (R327) -/

theorem leastOf_le {l : List Nat} {x : Nat} (h : x ∈ l) : ∃ y, leastOf l = some y ∧ y ≤ x := by
  induction l with
  | nil => cases h
  | cons z r ih =>
    rw [leastOf]
    cases hr : leastOf r with
    | none =>
      rcases List.mem_cons.1 h with rfl | h
      · exact ⟨_, rfl, Nat.le_refl _⟩
      · obtain ⟨y, hy, -⟩ := ih h
        rw [hr] at hy
        cases hy
    | some y =>
      refine ⟨_, rfl, ?_⟩
      rcases List.mem_cons.1 h with rfl | h
      · split <;> omega
      · obtain ⟨y', hy', hle⟩ := ih h
        obtain rfl : y = y' := Option.some.inj (hr.symm.trans hy')
        split <;> omega

theorem leastOf_mem {l : List Nat} {y : Nat} (h : leastOf l = some y) : y ∈ l := by
  induction l generalizing y with
  | nil => cases h
  | cons z r ih =>
    rw [leastOf] at h
    cases hr : leastOf r with
    | none =>
      rw [hr] at h
      cases h
      exact List.mem_cons_self
    | some x =>
      rw [hr] at h
      cases h
      split
      · exact List.mem_cons_self
      · exact List.mem_cons_of_mem _ (ih hr)

/-- P is the progress of some cord that has not exited, and no other's is less. -/
theorem progress_least {b : Block} {c : Cord} (hc : c ∈ b.cords.vals) (hx : c.exited = false) :
    progress b ≤ c.prog.toNat ∧ ∃ c ∈ b.cords.vals, c.exited = false ∧ progress b = c.prog.toNat := by
  have hm : c.prog.toNat ∈ (b.cords.vals.filter (fun c => !c.exited)).map (fun c => c.prog.toNat) :=
    List.mem_map.2 ⟨c, List.mem_filter.2 ⟨hc, by rw [hx]; rfl⟩, rfl⟩
  obtain ⟨y, hy, hle⟩ := leastOf_le hm
  have hp : progress b = y := by rw [progress, hy]; rfl
  obtain ⟨d, hd, rfl⟩ := List.mem_map.1 (leastOf_mem hy)
  obtain ⟨hd, hxd⟩ := List.mem_filter.1 hd
  exact ⟨hp ▸ hle, d, hd, by simpa using hxd, hp⟩

/-! ### The drain that takes too long (R327) -/

theorem drainTimeout_next {s : State} {n sl : Nat} {b : Block} (hb : s.block? n sl = some b) (hd : b.status = .draining ∨ b.drain = true) :
    exec (.drainTimeout n sl) s = woke (beginSave s n sl b) := by
  show execDrainTimeout n sl s = _
  unfold execDrainTimeout
  rw [hb]
  dsimp only
  rw [if_pos (by simpa using hd)]

/-! ### Save and flush (R328, R332) -/

theorem noteSave_onlyCe (s : State) (core slot : Nat) (b : Block) : OnlyCe s (noteSave s core slot b) := by
  unfold noteSave
  extract_lets s1 s2 s3 s4
  have h1 : OnlyCe s s1 := noteRead_onlyCe _ _ _ _ _
  have h2 : OnlyCe s1 s2 := OnlyCe.foldl _ (fun _ _ => noteRead_onlyCe _ _ _ _ _) _ _
  have h3 : OnlyCe s2 s3 := OnlyCe.foldl _ (fun _ _ => noteRead_onlyCe _ _ _ _ _) _ _
  have h4 : OnlyCe s3 s4 := OnlyCe.foldl _ (fun _ _ => noteRead_onlyCe _ _ _ _ _) _ _
  refine h1.trans (h2.trans (h3.trans (h4.trans (OnlyCe.foldl _ (fun _ _ => ?_) _ _))))
  exact (noteRead_onlyCe _ _ _ _ _).trans (noteRead_onlyCe _ _ _ _ _)

theorem contextSave_ready {s : State} {n sl : Nat} {b : Block} (hb : s.block? n sl = some b) (hs : b.status = .saving false)
    (hr : saveReady (s.core n) sl b = true) (hbad : (s.core n).bad = []) : exec (.contextSave n sl) s = woke (saveBlock s n sl b) := by
  show execContextSave n sl s = _
  have hnone : saveBad (s.core n) b = none := by rw [saveBad, hbad]; rfl
  unfold execContextSave
  rw [hb]
  dsimp only
  rw [hs]
  dsimp only
  rw [hr, hnone]
  rfl

theorem contextSave_flush {s : State} {n sl : Nat} {b : Block} (hb : s.block? n sl = some b) (hs : b.status = .saving true)
    (ha : attachedOps (s.core n) sl = []) (hg : gathersDone b = true) : exec (.contextSave n sl) s = woke (flushBlock s n sl b) := by
  show execContextSave n sl s = _
  unfold execContextSave
  rw [hb]
  dsimp only
  rw [hs]
  dsimp only
  rw [ha, hg]
  rfl

/-- What a save takes from the core: the block, its scratchpad and its tiles. -/
theorem saveBlock_saved (s : State) (n sl : Nat) (b : Block) : ∃ v, (saveBlock s n sl b).saved = s.saved ++ [v] ∧
    v.block = { b with cords := b.cords.map (fun _ x => savedCord x) } ∧ v.core = n ∧
    v.spad = (s.core n).spad.slice b.spbase (b.spbase + b.splen) ∧
    v.tiles = b.tiles.map (fun p => ((s.core n).acc.slice (p * 16384) ((p + 1) * 16384), (s.core n).tile p)) := by
  obtain ⟨hspad, hacc, htiles, -, -⟩ := writeLines_core s n sl
  have hn := noteSave_onlyCe (writeLines s n sl) n sl b
  have hc := hn.quiet.core n
  have hsaved : (noteSave (writeLines s n sl) n sl b).saved = s.saved := hn.quiet.saved.trans (writeLines_rest s n sl).2
  have htile (p : Nat) : ((noteSave (writeLines s n sl) n sl b).core n).tile p = (s.core n).tile p := by
    rw [hc.tile, Core.tile, htiles]
    rfl
  have hspad := hc.spad.trans hspad
  have hacc := hc.acc.trans hacc
  unfold saveBlock
  extract_lets s1 c ops v c' s2
  refine ⟨v, ?_, rfl, rfl, ?_, ?_⟩
  · have h2 : s2.saved = s1.saved := freeBlock_saved _ _ _
    show s2.saved ++ [v] = s.saved ++ [v]
    rw [h2, hsaved]
  · exact congrArg (fun m => Mem.slice m b.spbase (b.spbase + b.splen)) hspad
  · refine List.map_congr_left fun p _ => ?_
    exact Prod.ext (congrArg (fun m => Mem.slice m (p * 16384) ((p + 1) * 16384)) hacc) (htile p)

theorem saveBlock_block? (s : State) (n sl : Nat) (b : Block) : (saveBlock s n sl b).block? n sl = none :=
  freeBlock_block? _ _ _

/-- The stores of a core are in canonical form. -/
theorem State.memOk_core {s : State} (h : s.memOk = true) (n : Nat) : (s.core n).memOk = true := by
  simp only [State.memOk, Bool.and_eq_true] at h
  obtain ⟨⟨-, hc⟩, -⟩ := h
  rw [State.core, Tab.get]
  cases hn : s.cores.get? n with
  | none => rfl
  | some c => exact List.all_eq_true.1 hc c (List.mem_map.2 ⟨_, Tab.mem_of_get? hn, rfl⟩)

theorem Core.memOk_iff {c : Core} : c.memOk = true ↔ c.spad.wf = true ∧ c.acc.wf = true ∧ c.code.wf = true := by
  simp only [Core.memOk, Bool.and_eq_true, and_assoc]

theorem contextSave_saves {s : State} {n sl : Nat} {b : Block} (hb : s.block? n sl = some b) (hok : s.memOk = true)
    (hs : b.status = .saving false) (hr : saveReady (s.core n) sl b = true) (hbad : (s.core n).bad = []) :
    ∃ t v, exec (.contextSave n sl) s = .next t ∧ t.block? n sl = none ∧ t.saved = s.saved ++ [v] ∧ v.core = n ∧
      v.block.launch = b.launch ∧ v.block.index = b.index ∧
      (∀ i c, b.cords.get? i = some c → v.block.cords.get? i = some { c with calloWait := none, next := none, fetched := none }) ∧
      (∀ a, a < b.splen → v.spad.get a = (s.core n).spad.get (b.spbase + a)) ∧
      ∀ (i p : Nat), b.tiles[i]? = some p → ∃ m, v.tiles[i]? = some (m, (s.core n).tile p) ∧
        ∀ a, a < 16384 → m.get a = (s.core n).acc.get (p * 16384 + a) := by
  obtain ⟨hspad, hacc, -⟩ := Core.memOk_iff.1 (State.memOk_core hok n)
  obtain ⟨v, hsv, hvb, hvc, hvs, hvt⟩ := saveBlock_saved s n sl b
  refine ⟨_, v, contextSave_ready hb hs hr hbad, saveBlock_block? s n sl b, hsv, hvc, by rw [hvb], by rw [hvb], fun i c hc => ?_,
    fun a ha => ?_, fun i p hp => ?_⟩
  · rw [hvb, Tab.get?_map, hc]
    rfl
  · rw [hvs, Mem.get_slice hspad (by omega)]
  · refine ⟨_, by rw [hvt, List.getElem?_map, hp]; rfl, fun a ha => Mem.get_slice hacc (by omega)⟩

theorem contextSave_flushes {s : State} {n sl : Nat} {b : Block} {l : Launch} (hb : s.block? n sl = some b) (hs : b.status = .saving true)
    (ha : attachedOps (s.core n) sl = []) (hg : gathersDone b = true) (hl : s.launches.get? b.launch = some l) :
    ∃ t l', exec (.contextSave n sl) s = .next t ∧ t.block? n sl = none ∧ t.launches.get? b.launch = some l' ∧ b.rank ∈ l'.back := by
  have e : flushBlock s n sl b = freeBlock ((s.setCore n (dropInstances (s.core n) b.tiles)).setLaunch b.launch
      { l with back := b.rank :: l.back }) n sl := by
    unfold flushBlock
    dsimp only
    rw [State.launches_setCore, hl]
  obtain ⟨l', hl', hx⟩ := freeBlock_launch (s := (s.setCore n (dropInstances (s.core n) b.tiles)).setLaunch b.launch
      { l with back := b.rank :: l.back }) (core := n) (slot := sl) (Tab.get?_set_same _ b.launch _)
  refine ⟨_, l', contextSave_flush hb hs ha hg, ?_, ?_, by rw [hx]; exact List.mem_cons_self⟩
  · rw [e]
    exact freeBlock_block? _ _ _
  · rw [e]
    exact hl'

end Sys2Proof.Machine

namespace Sys2Proof.Machine

/-! ### What the distributor restores, and where (R292, R329) -/

theorem restorable_mem {s : State} {d n : Nat} {v : Saved} {x : Fit} (h : restorable s d = some (v, n, x)) :
    v ∈ s.saved ∧ ∃ p, restoreChoice s d v = some (p, v, n, x) := by
  have hf : restorable s d = (firstOf (fun x y => decide (y.1 < x.1)) (s.saved.filterMap (restoreChoice s d))).map (·.2) := by
    unfold restorable firstOf
    congr 2
    funext m x
    cases m with
    | none => rfl
    | some y => by_cases hy : y.1 < x.1 <;> simp [hy]
  obtain ⟨⟨p, y⟩, hy, rfl⟩ := Option.map_eq_some_iff.1 (hf ▸ h)
  obtain ⟨w, hw, hc⟩ := List.mem_filterMap.1 (mem_of_firstOf hy)
  have hv : v = w := by
    unfold restoreChoice at hc
    split at hc
    · cases hc
    · split at hc
      · cases hc
      · split at hc
        · cases hc
        · obtain ⟨z, -, hz⟩ := Option.map_eq_some_iff.1 hc
          cases hz
          rfl
  exact ⟨hv ▸ hw, p, hv ▸ hc⟩

theorem freeTiles_nodup (c : Core) : (freeTiles c).Nodup := List.Nodup.filter _ List.nodup_range

theorem fits_tiles {c : Core} {f : Footprint} {x : Fit} (h : fits c f = some x) : x.tiles = (freeTiles c).take f.tiles := by
  unfold fits at h
  dsimp only at h
  split at h
  · cases h
  · split at h
    · cases h; rfl
    · cases h

theorem restorable_tiles {s : State} {d n : Nat} {v : Saved} {x : Fit} (h : restorable s d = some (v, n, x)) : x.tiles.Nodup := by
  obtain ⟨-, p, hc⟩ := restorable_mem h
  unfold restoreChoice at hc
  split at hc
  · cases hc
  split at hc
  · cases hc
  split at hc
  · cases hc
  obtain ⟨z, hz, he⟩ := Option.map_eq_some_iff.1 hc
  cases he
  unfold restoreCore at hz
  dsimp only at hz
  split at hz
  · cases hz
  obtain ⟨m, -, hm⟩ := List.exists_of_findSome?_eq_some hz
  split at hm
  · cases hm
  obtain ⟨y, hy, he⟩ := Option.map_eq_some_iff.1 hm
  cases he
  rw [fits_tiles hy]
  exact (freeTiles_nodup _).sublist (List.take_sublist _ _)

/-! ### Operations on their new core (R315) -/

theorem setOp_sameMems (s : State) (core e : Nat) (o : OpEntry) : SameMems s (setOp s core e o) := (setOp_opsEnd s core e o).sameMems

theorem SameMems.refl (s : State) : SameMems s s := fun _ => ⟨rfl, rfl⟩

theorem SameMems.foldl_fst {α β : Type} {f : State × β → α → State × β} (hf : ∀ a x, SameMems a.1 (f a x).1) (l : List α) (a : State × β) :
    SameMems a.1 (l.foldl f a).1 := by
  induction l generalizing a with
  | nil => exact .refl _
  | cons x r ih => exact (hf a x).trans (ih _)

theorem retakeOps_sameMems (s : State) (v : Saved) (n : Nat) : SameMems s (retakeOps s v n).1 := by
  unfold retakeOps
  split
  · exact .refl s
  · have h0 : SameMems s (s.setCore v.core (withoutFrozen (s.core v.core) v)) := sameMems_setCore rfl rfl
    refine h0.trans (SameMems.foldl_fst (fun a x => ?_) v.ops.entries (s.setCore v.core (withoutFrozen (s.core v.core) v), [], []))
    obtain ⟨t, es, m⟩ := a
    dsimp only
    split
    · exact .refl t
    · rename_i e _
      have h1 : SameMems t (t.setCore n (allocEntry (t.core n) e).1) := sameMems_setCore rfl rfl
      exact h1.trans (setOp_sameMems _ _ _ _)

/-- On the saving core tokens keep their names. -/
theorem retakeOps_tokens {s : State} {v : Saved} : (retakeOps s v v.core).2.2 = [] := by
  unfold retakeOps
  rw [if_pos rfl]

/-- A cord on its new core, where no token of a register has a new name. -/
theorem moveCord_sregs (m : TokenMap) (n : Nat) (x : Fit) (i : Nat) (c : Cord) {k : Nat} (hk : k ∉ c.stok) :
    (moveCord m n x i c).sregs.get? k = c.sregs.get? k := by
  have : (moveCord m n x i c).sregs.get? k = (c.sregs.get? k).map (fun w => if c.stok.contains k then newToken m w else w) := Tab.get?_map _ _ _
  rw [this]
  simp [hk]

theorem moveCord_sregs_nil (n : Nat) (x : Fit) (i : Nat) (c : Cord) : (moveCord [] n x i c).sregs = c.sregs := by
  show c.sregs.map (fun k w => if c.stok.contains k then newToken [] w else w) = c.sregs
  have hid : (fun (k : Nat) (w : Word) => if c.stok.contains k then newToken [] w else w) = fun _ w => w := by
    funext k w
    split <;> rfl
  rw [hid]
  simp [Tab.map]

/-! ### Tiles that are restored (R201, R329) -/

/-- One tile of a restored block takes its saved contents. -/
def restoreTile (m : TokenMap) (lo hi : Nat) (c : Core) (y : Nat × Mem × Tile) : Core :=
  ({ c with acc := c.acc.paste (y.1 * Config.tileBytes) y.2.1 } : Core).setTile y.1 (moveTile m lo hi y.2.2)

/-- The accumulator addresses of a tile's saved contents are a tile's. -/
def TileSized (t : Mem × Tile) : Prop := t.1.wf = true ∧ ∀ z ∈ t.1, z.1 < 16384

section
variable {m : TokenMap} {lo hi : Nat}

theorem restoreTile_acc (c : Core) (y : Nat × Mem × Tile) : (restoreTile m lo hi c y).acc = c.acc.paste (y.1 * 16384) y.2.1 := rfl

theorem restoreTile_tile (c : Core) (y : Nat × Mem × Tile) (p : Nat) :
    (restoreTile m lo hi c y).tile p = if p = y.1 then moveTile m lo hi y.2.2 else c.tile p := Tab.get_set _ _ _ _ _

/-- A tile that is not among those restored stays as it is. -/
theorem restoreTiles_other {c : Core} (hc : c.acc.wf = true) {l : List (Nat × Mem × Tile)} (hl : ∀ y ∈ l, TileSized y.2) {p : Nat}
    (hp : ∀ y ∈ l, y.1 ≠ p) : (l.foldl (restoreTile m lo hi) c).tile p = c.tile p ∧
      ∀ a, a < 16384 → (l.foldl (restoreTile m lo hi) c).acc.get (p * 16384 + a) = c.acc.get (p * 16384 + a) := by
  induction l generalizing c with
  | nil => exact ⟨rfl, fun _ _ => rfl⟩
  | cons y r ih =>
    have hy := hp y List.mem_cons_self
    obtain ⟨ht, ha⟩ := ih (c := restoreTile m lo hi c y) (Mem.wf_paste _ _ hc) (fun z hz => hl z (List.mem_cons_of_mem _ hz))
      (fun z hz => hp z (List.mem_cons_of_mem _ hz))
    rw [List.foldl_cons, ht, restoreTile_tile, if_neg (Ne.symm hy)]
    refine ⟨rfl, fun a hlt => ?_⟩
    rw [ha a hlt, restoreTile_acc, Mem.get_paste_ne hc]
    intro z hz
    have := (hl y List.mem_cons_self).2 z hz
    omega

/-- Each tile holds what was saved of it, where the accumulator held +0. -/
theorem restoreTiles_get {ps : List Nat} (hps : ps.Nodup) {ts : List (Mem × Tile)} (hts : ∀ t ∈ ts, TileSized t) {c : Core}
    (hc : c.acc.wf = true) (h0 : ∀ p ∈ ps, ∀ a, a < 16384 → c.acc.get (p * 16384 + a) = 0) {i p : Nat} {t : Mem × Tile}
    (hp : ps[i]? = some p) (ht : ts[i]? = some t) :
    ((ps.zip ts).foldl (restoreTile m lo hi) c).tile p = moveTile m lo hi t.2 ∧
      ∀ a, a < 16384 → ((ps.zip ts).foldl (restoreTile m lo hi) c).acc.get (p * 16384 + a) = t.1.get a := by
  induction ps generalizing ts c i with
  | nil => simp at hp
  | cons q r ih =>
    cases ts with
    | nil => simp at ht
    | cons u us =>
      obtain ⟨hq, hr⟩ := List.nodup_cons.1 hps
      have hu := hts u List.mem_cons_self
      have hus : ∀ t ∈ us, TileSized t := fun t h => hts t (List.mem_cons_of_mem _ h)
      have hwf : (restoreTile m lo hi c (q, u)).acc.wf = true := Mem.wf_paste _ _ hc
      rw [List.zip_cons_cons, List.foldl_cons]
      cases i with
      | zero =>
        obtain rfl : q = p := by simpa using hp
        obtain rfl : u = t := by simpa using ht
        obtain ⟨htile, hacc⟩ := restoreTiles_other (m := m) (lo := lo) (hi := hi) hwf (l := r.zip us) (p := q)
          (fun y hy => hus _ (List.of_mem_zip hy).2)
          (fun y hy e => hq (by rw [← e]; exact (List.of_mem_zip hy).1))
        rw [htile, restoreTile_tile, if_pos rfl]
        refine ⟨rfl, fun a ha => ?_⟩
        rw [hacc a ha, restoreTile_acc, Mem.get_paste hc hu.1, h0 q List.mem_cons_self a ha]
        split
        · exact (‹u.1.get a = 0›).symm
        · rfl
      | succ i =>
        refine ih hr hus hwf (fun p' hp' a ha => ?_) hp ht
        have hne : p' ≠ q := fun e => hq (e ▸ hp')
        rw [restoreTile_acc, Mem.get_paste_ne hc, h0 p' (List.mem_cons_of_mem _ hp') a ha]
        intro z hz
        have := hu.2 z hz
        dsimp only
        omega

end

/-! ### Storage that a block is granted (R201, R254) -/

theorem claimSp_mems (c : Core) (ctx base n : Nat) (hc : c.spad.wf = true) :
    (claimSp c ctx base n).spad.wf = true ∧ (claimSp c ctx base n).acc = c.acc := by
  unfold claimSp
  extract_lets ks foreign c1
  have h1 : c.Noted c1 := Core.Noted.foldl _ (fun _ _ => mend_noted _ _ _ _) _ _
  refine ⟨?_, h1.acc⟩
  show Mem.wf (c1.spad.filter _) = true
  rw [h1.spad]
  exact Mem.wf_filter _ hc

/-- Granted tiles hold +0. -/
theorem claimTiles_mems (c : Core) (ps : List Nat) (hc : c.acc.wf = true) : (claimTiles c ps).spad = c.spad ∧
    (claimTiles c ps).acc.wf = true ∧ ∀ p ∈ ps, ∀ a, a < 16384 → (claimTiles c ps).acc.get (p * 16384 + a) = 0 := by
  unfold claimTiles
  extract_lets c1
  have h1 : c.Noted c1 := Core.Noted.foldl _ (fun _ _ => mend_noted _ _ _ _) _ _
  have hacc : c1.acc = c.acc := h1.acc
  refine ⟨h1.spad, ?_, fun p hp a ha => ?_⟩
  · show Mem.wf (c1.acc.filter _) = true
    rw [hacc]
    exact Mem.wf_filter _ hc
  · show Mem.get (c1.acc.filter (fun x => !ps.contains (x.1 / Config.tileBytes))) _ = 0
    have hdiv : (p * 16384 + a) / Config.tileBytes = p := by
      rw [show Config.tileBytes = 16384 from rfl]
      omega
    rw [hacc, Mem.get_filter hc (fun b => !ps.contains (b / Config.tileBytes)), hdiv, if_neg (by simpa using hp)]

end Sys2Proof.Machine

namespace Sys2Proof.Machine

/-! ### A restored block (R315, R329, R331) -/

/-- The cords of a restored block. -/
def restoredCords (v : Saved) (m : TokenMap) (n : Nat) (x : Fit) : Tab Cord :=
  v.block.cords.map (fun i c => if v.block.recomp then restartCord (moveCord m n x i c) else moveCord m n x i c)

/-- The restored block itself. -/
def restoredBlock (v : Saved) (m : TokenMap) (n : Nat) (x : Fit) (placed : Nat) : Block :=
  { v.block with
    placed := placed, cords := restoredCords v m n x, spbase := x.base, tiles := x.tiles, chans := x.chans, status := .restoring
    barriers := if v.block.recomp then v.block.barriers.map (fun _ r => { r with phases := [] }) else v.block.barriers
    failed := v.block.failed.map (fun o => { o with slot := x.slot }) }

/-- A core with the storage that a restored block is granted there, its scratchpad filled. -/
def grantedCore (c : Core) (v : Saved) (x : Fit) : Core :=
  let c := mendBoard (mend (mendChans (claimTiles (claimSp c v.block.ctx x.base v.block.splen) x.tiles) x.chans) .scratchpad x.base v.block.splen)
  { c with spad := (c.spad.clear x.base (x.base + v.block.splen)).paste x.base v.spad }

/-- The same with its tiles. -/
def tiledCore (c : Core) (v : Saved) (m : TokenMap) (x : Fit) : Core :=
  if v.block.recomp then grantedCore c v x
  else (x.tiles.zip v.tiles).foldl (restoreTile m v.block.spbase x.base) (grantedCore c v x)

theorem mendCords_noted (c : Core) (l : List Cord) : c.Noted (mendCords c l) :=
  Core.Noted.foldl _ (fun _ _ => (mend_noted _ _ _ _).trans (mend_noted _ _ _ _)) _ _

theorem mendChans_noted (c : Core) (l : List Nat) : c.Noted (mendChans c l) := Core.Noted.foldl _ (fun _ _ => mend_noted _ _ _ _) _ _

theorem retakeOverlay_quiet (core ctx ovtab : Nat) (s : State) (v : Nat × Nat × BitVec 256) (tokens holds : Nat) :
    Quiet s (retakeOverlay core ctx ovtab s v tokens holds) := by
  unfold retakeOverlay
  extract_lets s1
  have h1 : Quiet s s1 := by
    unfold s1
    split
    · exact .refl s
    · exact .ite (beginLoad_quiet _ _ _ _) (.refl s)
  exact h1.trans (quiet_setCore (mapRes_noted _ _ _ _))

/-- A restored block stands on its core: overlays are asked for next. -/
theorem restoreBlock_eq {s s1 : State} {v₀ v : Saved} {n : Nat} {x : Fit} {es : List (Nat × Nat)} {m : TokenMap} (hv : toldSince s v₀ = v)
    (hr : retakeOps s v n = (s1, es, m)) : ∃ u : State, restoreBlock s v₀ n x = addBase u n x.slot v.block.launch ∧
      (∃ p, u.block? n x.slot = some (restoredBlock v m n x p)) ∧ (u.core n).spad = (tiledCore (s1.core n) v m x).spad ∧
      (u.core n).acc = (tiledCore (s1.core n) v m x).acc ∧ (u.core n).tiles = (tiledCore (s1.core n) v m x).tiles := by
  subst hv
  unfold restoreBlock
  extract_lets v b f
  split
  rename_i s2 es2 m2 hr2
  obtain ⟨rfl, rfl, rfl⟩ : s1 = s2 ∧ es = es2 ∧ m = m2 := by
    have := hr.symm.trans hr2
    simpa using this
  extract_lets s3 c1 c2 c3 c4 c5 cords frames b' s4 s5 s6 s7
  have h4 : c4 = tiledCore (s1.core n) v m x := rfl
  have hset : ((s3.setCore n (mendCords c5 cords.vals)).setBlock n x.slot b').core n =
      { mendCords c5 cords.vals with blocks := (mendCords c5 cords.vals).blocks.set x.slot b' } := by
    rw [State.setBlock, State.core_setCore_same, State.core_setCore_same]
  have hc5 : c5.Noted (mendCords c5 cords.vals) := mendCords_noted _ _
  have hq : Quiet ((s3.setCore n (mendCords c5 cords.vals)).setBlock n x.slot b') s5 :=
    (noteOvls_quiet _ _ _ _).trans (Quiet.foldl _ (fun _ _ => retakeOverlay_quiet _ _ _ _ _ _ _) _ _)
  have h7 : s7.core n = s5.core n := by
    unfold s7
    split <;> rfl
  have hn := hq.core n
  refine ⟨s7, rfl, ⟨s3.serial, ?_⟩, ?_, ?_, ?_⟩
  · rw [State.block?, h7, hn.blocks, hset]
    exact Tab.get?_set_same _ _ _
  · rw [h7, hn.spad, hset, ← h4]
    exact hc5.spad
  · rw [h7, hn.acc, hset, ← h4]
    exact hc5.acc
  · rw [h7, hn.tiles, hset, ← h4]
    exact hc5.tiles

/-- What a core holds once a saved block is granted its storage there. -/
theorem grantedCore_mems {c : Core} {v : Saved} (x : Fit) (hc : c.spad.wf = true) (ha : c.acc.wf = true) (hv : v.spad.wf = true) :
    (∀ a, a < v.block.splen → (grantedCore c v x).spad.get (x.base + a) = v.spad.get a) ∧ (grantedCore c v x).acc.wf = true ∧
      ∀ p ∈ x.tiles, ∀ a, a < 16384 → (grantedCore c v x).acc.get (p * 16384 + a) = 0 := by
  obtain ⟨hs1, ha1⟩ := claimSp_mems c v.block.ctx x.base v.block.splen hc
  obtain ⟨hs2, hw2, h02⟩ := claimTiles_mems (claimSp c v.block.ctx x.base v.block.splen) x.tiles (by rw [ha1]; exact ha)
  unfold grantedCore
  extract_lets d
  have hd : (claimTiles (claimSp c v.block.ctx x.base v.block.splen) x.tiles).Noted d :=
    (mendChans_noted _ _).trans ((mend_noted _ _ _ _).trans (mend_noted _ _ _ _))
  have hdw : d.spad.wf = true := by rw [hd.spad, hs2]; exact hs1
  refine ⟨fun a hlt => ?_, ?_, ?_⟩
  · show ((d.spad.clear _ _).paste _ _).get _ = _
    have h0 : (d.spad.clear x.base (x.base + v.block.splen)).get (x.base + a) = 0 := by
      rw [Mem.get_clear hdw, if_pos (by omega)]
    rw [Mem.get_paste (Mem.wf_clear _ _ hdw) hv, h0]
    split
    · exact (‹v.spad.get a = 0›).symm
    · rfl
  · show d.acc.wf = true
    rw [hd.acc]
    exact hw2
  · show ∀ p ∈ x.tiles, ∀ a, a < 16384 → d.acc.get (p * 16384 + a) = 0
    rw [hd.acc]
    exact h02

theorem restoreTiles_spad (m : TokenMap) (lo hi : Nat) (l : List (Nat × Mem × Tile)) (c : Core) :
    (l.foldl (restoreTile m lo hi) c).spad = c.spad := by
  induction l generalizing c with
  | nil => rfl
  | cons y r ih => rw [List.foldl_cons, ih]; rfl

theorem tiledCore_spad (c : Core) (v : Saved) (m : TokenMap) (x : Fit) : (tiledCore c v m x).spad = (grantedCore c v x).spad := by
  unfold tiledCore
  split
  · rfl
  · exact restoreTiles_spad _ _ _ _ _

/-- Each tile of a block that is not restarted holds what was saved of it. -/
theorem tiledCore_tile {c : Core} {v : Saved} {m : TokenMap} {x : Fit} (hr : v.block.recomp = false) (hts : ∀ t ∈ v.tiles, TileSized t)
    (hps : x.tiles.Nodup) (hc : (grantedCore c v x).acc.wf = true)
    (h0 : ∀ p ∈ x.tiles, ∀ a, a < 16384 → (grantedCore c v x).acc.get (p * 16384 + a) = 0) {i p : Nat} {t : Mem × Tile}
    (hp : x.tiles[i]? = some p) (ht : v.tiles[i]? = some t) : (tiledCore c v m x).tile p = moveTile m v.block.spbase x.base t.2 ∧
      ∀ a, a < 16384 → (tiledCore c v m x).acc.get (p * 16384 + a) = t.1.get a := by
  rw [tiledCore, hr, if_neg Bool.false_ne_true]
  exact restoreTiles_get hps hts hc h0 hp ht

/-- A cord that is not restarted is restored as it was saved, but for its place and its tokens. -/
theorem restoredCords_cord {v : Saved} (hr : v.block.recomp = false) (m : TokenMap) (n : Nat) (x : Fit) {i : Nat} {c : Cord}
    (hc : v.block.cords.get? i = some c) : (restoredCords v m n x).get? i = some (moveCord m n x i c) := by
  rw [restoredCords, Tab.get?_map, hc, Option.map_some, hr, if_neg Bool.false_ne_true]

theorem Saved.memOk_iff {v : Saved} : v.memOk = true ↔ v.spad.wf = true ∧ ∀ t ∈ v.tiles, t.1.wf = true := by
  simp only [Saved.memOk, Bool.and_eq_true, List.all_eq_true]

theorem State.memOk_saved {s : State} (h : s.memOk = true) {v : Saved} (hv : v ∈ s.saved) : v.memOk = true := by
  simp only [State.memOk, Bool.and_eq_true] at h
  exact List.all_eq_true.1 h.2 v hv

/-- A block that is restored: its scratchpad, and where it has not ended and keeps its state its cords and tiles. -/
theorem contextRestore_next {s : State} {d n : Nat} {v : Saved} {x : Fit} (hok : s.memOk = true) (hrest : restorable s d = some (v, n, x)) :
    ∃ t b, exec (.contextRestore d) s = .next t ∧ t.block? n x.slot = some b ∧
     b.launch = v.block.launch ∧ b.index = v.block.index ∧ b.spbase = x.base ∧ (b.status = .restoring ∨ b.status = .ended) ∧
     (∀ a, a < v.block.splen → (t.core n).spad.get (x.base + a) = v.spad.get a) ∧
     (v.block.recomp = false → b.status = .restoring →
       (∀ i c, v.block.cords.get? i = some c → ∃ y, b.cords.get? i = some y ∧
         y = { c with quarter := y.quarter, pos := y.pos, kept := y.kept, sregs := y.sregs } ∧
         (∀ k, k ∉ c.stok → y.sregs.get? k = c.sregs.get? k) ∧ (n = v.core → y.sregs = c.sregs)) ∧
       ((∀ y ∈ v.tiles, ∀ z ∈ y.1, z.1 < 16384) → ∀ (i p : Nat) y, x.tiles[i]? = some p → v.tiles[i]? = some y →
         ((t.core n).tile p).fault = y.2.fault ∧ ((t.core n).tile p).slots.length = y.2.slots.length ∧
         ∀ a, a < 16384 → (t.core n).acc.get (p * 16384 + a) = y.1.get a)) := by
  obtain ⟨hv, -⟩ := restorable_mem hrest
  obtain ⟨hvs, hvt⟩ := Saved.memOk_iff.1 (State.memOk_saved hok hv)
  obtain ⟨hcs, hca, -⟩ := Core.memOk_iff.1 (State.memOk_core hok n)
  have hexec : exec (.contextRestore d) s = woke (restoreBlock s v n x) := by
    show execContextRestore d s = _
    unfold execContextRestore
    rw [hrest]
  obtain ⟨⟨s1, es, m⟩, hr⟩ : ∃ r, retakeOps s (toldSince s v) n = r := ⟨_, rfl⟩
  have hm1 : SameMems s s1 := by
    have := retakeOps_sameMems s (toldSince s v) n
    rwa [hr] at this
  obtain ⟨hgs, hgw, hg0⟩ := grantedCore_mems (c := s1.core n) (v := toldSince s v) x (by rw [(hm1 n).1]; exact hcs)
    (by rw [(hm1 n).2]; exact hca) hvs
  obtain ⟨u, hu, ⟨p, hub⟩, hus, hua, hut⟩ := restoreBlock_eq (x := x) rfl hr
  obtain ⟨hmem, b, hb, hcase⟩ := addBase_block? hub (show BlockStatus.restoring ≠ .ended by decide) (toldSince s v).block.launch
  rw [← hu] at hmem hb hcase
  have hbased : BasedOrEnded (restoredBlock (toldSince s v) m n x p) b := hcase.imp And.left id
  obtain ⟨hbody, hst⟩ := hbased.body
  refine ⟨_, b, hexec, hb, (congrArg Block.launch hbody :), (congrArg Block.index hbody :), congrArg Block.spbase hbody, hst, fun a ha => ?_,
    fun hre hres => ⟨fun i c hc => ?_, fun hsize i q y hq hy => ?_⟩⟩
  · show ((restoreBlock s v n x).core n).spad.get _ = _
    rw [(hmem n).1, hus, tiledCore_spad]
    exact hgs a ha
  · obtain ⟨a, rfl⟩ := hbased.based (by rw [hres]; decide)
    refine ⟨moveCord m n x i c, restoredCords_cord hre m n x hc, rfl, fun k hk => moveCord_sregs m n x i c hk, fun hn => ?_⟩
    have hnil := retakeOps_tokens (s := s) (v := toldSince s v)
    rw [show (toldSince s v).core = n from hn.symm, hr] at hnil
    obtain rfl : m = [] := hnil
    exact moveCord_sregs_nil n x i c
  · have htiles : ((restoreBlock s v n x).core n).tiles = (u.core n).tiles := by
      rcases hcase with ⟨-, h⟩ | h
      · exact h
      · rw [show b.status = .ended from congrArg Block.status h] at hres
        cases hres
    obtain ⟨htile, hacc⟩ := tiledCore_tile (m := m) (v := toldSince s v) hre (fun t ht => ⟨hvt t ht, hsize t ht⟩) (restorable_tiles hrest)
      hgw hg0 hq hy
    have ht : ((restoreBlock s v n x).core n).tile q = moveTile m v.block.spbase x.base y.2 := by
      rw [Core.tile, htiles, hut]
      exact htile
    refine ⟨?_, ?_, fun a ha => ?_⟩
    · show (((restoreBlock s v n x).core n).tile q).fault = _
      rw [ht]
      rfl
    · show (((restoreBlock s v n x).core n).tile q).slots.length = _
      rw [ht]
      exact List.length_map _
    · show ((restoreBlock s v n x).core n).acc.get _ = _
      rw [(hmem n).2, hua]
      exact hacc a ha

end Sys2Proof.Machine

namespace Sys2Proof.Machine

/-! ### The end of blocks and launches, and pre-emption -/

/-- The rows of R327 as O50 states them. -/
theorem preemptRequest_rows {s : State} {n sl : Nat} {b : Block} {w : Waiting} (hb : s.block? n sl = some b) (hw : w ∈ waiters s)
    (hv : isVictim s n sl b w = true) :
    let becomes (st : BlockStatus) : Prop := ∃ t y, exec (.preemptRequest n sl) s = .next t ∧ t.block? n sl = some y ∧ y.status = st
    (inHandler b = true → becomes (.saving false)) ∧
    (inHandler b = false → rowDrains s b → b.status = .running → becomes .draining) ∧
    (inHandler b = false → rowDrains s b → b.status ≠ .running → ∃ t, exec (.preemptRequest n sl) s = .next t ∧
      t.block? n sl = some { b with drain := true }) ∧
    (inHandler b = false → ¬rowDrains s b → rowFlushes s b → becomes (.saving true)) ∧
    (inHandler b = false → ¬rowDrains s b → ¬rowFlushes s b → becomes (.saving false)) := by
  intro becomes
  have hset (y : Block) : (s.setBlock n sl y).block? n sl = some y := (State.block?_setBlock _ _ _ _ _ _).trans (if_pos ⟨rfl, rfl⟩)
  have hexec := preemptRequest_victim hb hw hv
  have saves (e : preempt s n sl b = beginSave s n sl b) : becomes (.saving false) := by
    obtain ⟨y, hy, hst⟩ := beginSave_block? s n sl b
    rw [e] at hexec
    exact ⟨_, y, hexec, hy, hst⟩
  refine ⟨fun hh => saves (preempt_inHandler hh), fun hh hd hr => ?_, fun hh hd hr => ?_, fun hh hd hf => ?_,
    fun hh hd hf => saves (preempt_saves hh hd hf)⟩
  · rw [preempt_drains hh hd, if_pos (by simpa using hr)] at hexec
    exact ⟨_, _, hexec, hset _, rfl⟩
  · rw [preempt_drains hh hd, if_neg (by simpa using hr)] at hexec
    exact ⟨_, hexec, hset _⟩
  · obtain ⟨y, hy, hst⟩ := flushing_block? s n sl b
    rw [preempt_flushes hh hd hf] at hexec
    exact ⟨_, y, hexec, hy, hst⟩

/-- Settles O50, clause by clause: exit by `freeBlock_eq`, completion by `writeRecord_read`, pre-emption by `preempt_eq`, the save by
`saveBlock_saved`, and the restore by `restoreBlock_eq`. -/
theorem blockEndAndPreemption : Obligations.BlockEndAndPreemption := by
  unfold Obligations.BlockEndAndPreemption
  refine ⟨⟨fun s n sl b hb hs hx hg => ?_, fun s n l hok hl hp ha => launchCompletion_forgets hok hl hp ha⟩,
    fun s n sl b w hb hw hv => preemptRequest_rows hb hw hv,
    fun b => ⟨fun c hc hx => (progress_least hc hx).1, fun c hc hx => (progress_least hc hx).2⟩,
    fun s n sl b hb hd => ?_, fun s n sl b hb hok hs hr hbad => contextSave_saves hb hok hs hr hbad,
    fun s n sl b l hb hs ha hg hl => contextSave_flushes hb hs ha hg hl, fun s d v n x hok hr => contextRestore_next hok hr⟩
  · exact blockExit_next hb hs hx hg
  · obtain ⟨y, hy, hst⟩ := beginSave_block? s n sl b
    exact ⟨_, y, drainTimeout_next hb hd, hy, hst⟩

end Sys2Proof.Machine

namespace Sys2Proof.Machine

/-! ### What a register write leaves alone -/

theorem Lane.put_rest (l : Lane) (key : Nat) (x : Word) : l.put key x = { l with regs := (l.put key x).regs } := by
  unfold Lane.put
  split <;> rfl

@[simp] theorem Lane.st_setV (bud : Nat) (l : Lane) (r : Nat) (x : Word) : (l.setV bud r x).st = l.st := by
  rw [Lane.setV, Lane.put_rest]

@[simp] theorem Cord.lane_setS (c : Cord) (b r : Nat) (x : Word) (k : Nat) : (c.setS b r x).lane k = c.lane k := by
  unfold Cord.setS Cord.sput
  split <;> rfl

/-! ### Bits and masks -/

theorem bit_eq_testBit (x i : Nat) : bit x i = x.testBit i := by
  rw [Nat.testBit_eq_decide_div_mod_eq]
  rfl

/-- Adding a power of two whose bit is clear sets that bit alone. -/
theorem testBit_add_two_pow {m i : Nat} (h : m.testBit i = false) (j : Nat) : (m + 2 ^ i).testBit j = (m.testBit j || decide (j = i)) := by
  rw [Nat.add_comm]
  rcases Nat.lt_trichotomy j i with hj | rfl | hj
  · rw [Nat.testBit_two_pow_add_gt hj, decide_eq_false (by omega), Bool.or_false]
  · rw [Nat.testBit_two_pow_add_eq, h]
    simp
  · have hdiv : (2 ^ i + m) / 2 ^ (i + 1) = m / 2 ^ (i + 1) := by
      have hm : m / 2 ^ i % 2 = 0 := by simpa [Nat.testBit_eq_decide_div_mod_eq] using h
      rw [Nat.pow_succ, ← Nat.div_div_eq_div_mul, ← Nat.div_div_eq_div_mul, Nat.add_div_left _ (Nat.two_pow_pos i)]
      omega
    obtain ⟨n, rfl⟩ : ∃ n, j = n + (i + 1) := ⟨j - (i + 1), by omega⟩
    rw [Nat.testBit_add, Nat.testBit_add, hdiv, decide_eq_false (by omega), Bool.or_false]

/-- The bits of a mask are the numbers listed. -/
theorem testBit_maskOf (l : List Nat) (j : Nat) : (maskOf l).testBit j = l.contains j := by
  have step (m i : Nat) : (if bit m i then m else m + 2 ^ i).testBit j = (m.testBit j || decide (j = i)) := by
    split
    · next h =>
      rw [bit_eq_testBit] at h
      by_cases hj : j = i <;> simp [hj, h]
    · next h => exact testBit_add_two_pow (by simpa [bit_eq_testBit] using h) j
  have key (m : Nat) : (l.foldl (fun m i => if bit m i then m else m + 2 ^ i) m).testBit j = (m.testBit j || l.contains j) := by
    induction l generalizing m with
    | nil => simp
    | cons i r ih => simp only [List.foldl_cons, ih, step, List.contains_cons, Bool.or_assoc, Bool.beq_eq_decide_eq]
  exact (key 0).trans (by rw [Nat.zero_testBit, Bool.false_or])

theorem getLsbD_maskOf (l : List Nat) {j : Nat} (hj : j < 32) : (BitVec.ofNat 32 (maskOf l)).getLsbD j = l.contains j := by
  rw [BitVec.getLsbD_ofNat, testBit_maskOf, decide_eq_true hj, Bool.true_and]

/-- The lanes listed, as `contains` sees them. -/
theorem Cord.contains_lanesWith (c : Cord) (f : Lane → Bool) {j : Nat} (hj : j < 32) :
    (c.lanesWith f).contains j = (c.lanes.get? j).any f := by
  rw [Bool.eq_iff_iff, List.contains_iff_mem]
  simp [Cord.lanesWith, hj]

/-! ### Special registers, one by one (R102) -/

theorem readSr_opened (s : State) (h : Here) (k i : Nat) : readSr (opened s h) h k i = readSr s h k i := by
  have hm : (opened s h).mgmt = s.mgmt := State.mgmt_setCord _ _ _
  unfold readSr
  rw [hm]

/-- The high and the low word of a number make its 64 bits. -/
theorem high_append_low (x : Nat) : (BitVec.ofNat 32 (x / 2 ^ 32) ++ BitVec.ofNat 32 x : DWord) = BitVec.ofNat 64 x := by
  apply BitVec.eq_of_toNat_eq
  rw [BitVec.toNat_append, BitVec.toNat_ofNat, BitVec.toNat_ofNat, BitVec.toNat_ofNat,
    ← Nat.shiftLeft_add_eq_or_of_lt (Nat.mod_lt _ (by decide)), Nat.shiftLeft_eq]
  omega

theorem ofNat_div_toNat (x : DWord) : BitVec.ofNat 32 (x.toNat / 2 ^ 32) = x.extractLsb' 32 32 := by
  apply BitVec.eq_of_toNat_eq
  simp [Nat.shiftRight_eq_div_pow]

/-- The lanes that sr.runm and sr.parkm show (R319). -/
theorem getLsbD_shownMask (c : Cord) (st : LaneState) {j : Nat} (hj : j < 32) :
    (shownMask c st).getLsbD j = (c.lanes.get? j).any (fun l => shownState l == st) := by
  rw [shownMask, getLsbD_maskOf _ hj, c.contains_lanesWith _ hj]

/-- A field of sr.fw, as a width (R30). -/
theorem field_eq_extractLsb' (x : Word) (lo len : Nat) : field x.toNat lo len = (x.extractLsb' lo len).toNat := by
  simp [field, Nat.shiftRight_eq_div_pow]

/-- The bits of sr.mode, by their flags (R248). -/
def modeBit (x8 x4 x3 x2 x1 x0 : Bool) : Nat → Bool
  | 0 => x0
  | 1 => x1
  | 2 => x2
  | 3 => x3
  | 4 => x4
  | 8 => x8
  | _ => false

theorem getLsbD_modeBits : ∀ (x8 x4 x3 x2 x1 x0 : Bool) (j : Fin 32),
    let b (x : Bool) (i : Nat) : Nat := if x then 2 ^ i else 0
    (BitVec.ofNat 32 (b x8 8 + b x4 4 + b x3 3 + b x2 2 + b x1 1 + b x0 0)).getLsbD j = modeBit x8 x4 x3 x2 x1 x0 j := by decide

theorem getLsbD_modeWord (h : Here) {j : Nat} (hj : j < 32) : (modeWord h).getLsbD j = modeBit h.cord.handler.isSome h.block.recomp
    h.block.idem h.cord.lkdis (h.block.race || h.block.det) h.block.det j :=
  getLsbD_modeBits _ _ _ _ _ _ ⟨j, hj⟩

/-- The codes of the lane states (R18). -/
theorem ofNat_code (st : LaneState) : BitVec.ofNat 32 st.code = (match st with
    | .run => 0
    | .wait => 1
    | .park => 2
    | .exit => 3 : Word) := by
  cases st <;> rfl

/-- The fields of the block index (R28, R30). -/
theorem fieldOf_index (h : Here) (ht : h.block.task = none) :
    let w (j : Nat) : Nat := (h.block.fw.extractLsb' (3 + 6 * j) 6).toNat
    fieldOf h 1 = BitVec.ofNat 32 h.ref.cord ∧ fieldOf h 2 = BitVec.ofNat 32 (h.block.index % 2 ^ w 0) ∧
    fieldOf h 3 = BitVec.ofNat 32 (h.block.index / 2 ^ w 0 % 2 ^ w 1) ∧
    fieldOf h 4 = BitVec.ofNat 32 (h.block.index / 2 ^ (w 0 + w 1) % 2 ^ w 2) ∧
    fieldOf h 5 = BitVec.ofNat 32 (h.block.index / 2 ^ (w 0 + w 1 + w 2) % 2 ^ w 3) := by
  have hw (j : Nat) : field h.block.fw.toNat (3 + 6 * j) 6 = (h.block.fw.extractLsb' (3 + 6 * j) 6).toNat := field_eq_extractLsb' _ _ _
  have hf (i : Nat) (hi : 2 ≤ i) : fieldOf h i = BitVec.ofNat 32 (field h.block.index
      (((List.range (i - 2)).map (fun j => (h.block.fw.extractLsb' (3 + 6 * j) 6).toNat)).foldl (· + ·) 0)
      (h.block.fw.extractLsb' (3 + 6 * (i - 2)) 6).toNat) := by
    simp [fieldOf, ht, hw, show i ≠ 1 by omega]
  refine ⟨by simp [fieldOf, ht], ?_, ?_, ?_, ?_⟩ <;> simp [hf, List.range_succ, field]

theorem fieldOf_task (h : Here) {t : TaskInfo} (ht : h.block.task = some t) (i : Nat) : fieldOf h i = 0 := by simp [fieldOf, ht]

/-! ### `srd` and `ssrd` (R103) -/

theorem srd_completes {o : OSrd} {s : State} {h : Here} (hx : Executes (.srd o) s h) :
    Completes (.srd o) s h h.cord (fun k => h.next (.srd o)
      (if (h.cord.lane k).guard o.gd then (h.cord.lane k).setV h.cord.vbud o.d.toNat
        (readSr s h (if o.u then (h.active o.gd).headD k else k) o.idx.toNat) else h.cord.lane k)) [] := by
  let f (k : Nat) (l : Lane) : Lane := l.setV h.cord.vbud o.d.toNat (readSr s h (if o.u then (h.active o.gd).headD k else k) o.idx.toNat)
  have hl (k : Nat) : (h.cord.onLanes (h.active o.gd) f).lane k = if k ∈ h.active o.gd then f k (h.cord.lane k) else h.cord.lane k :=
    h.cord.lane_onLanes (hx.nodup.filter _) k f
  refine Completes.of_rest (x := h.cord.onLanes (h.active o.gd) f) (plain_completes hx.toIssues ?_ (fun k hk => ?_) (fun k hk => ?_)
    (fun k hk => ?_) (fun hs => by cases hs)) (Cord.onLanes_rest _ _ _)
  · refine (issue_eq hx _).trans ?_
    simp only [readSr_opened, actOut, f]
  · simp only [hl, mem_active, hk, true_and, f]
  · split
    · rw [Lane.st_setV]
      exact hx.run hk
    · exact hx.run hk
  · rw [hl, if_neg (fun hm => hk (mem_active.1 hm).1)]

theorem ssrd_completes {o : OSrd} {s : State} {h : Here} (hx : Executes (.ssrd o) s h) :
    Completes (.ssrd o) s h (h.cord.setS h.sbase o.d.toNat (readSr s h (h.set.headD 0) o.idx.toNat))
      (fun k => h.next (.ssrd o) (h.cord.lane k)) [] := by
  refine plain_completes hx.toIssues ?_ (fun k _ => Cord.lane_setS _ _ _ _ _) (fun k hk => hx.run hk)
    (fun k _ => Cord.lane_setS _ _ _ _ _) (fun _ _ _ => rfl)
  refine (issue_eq hx _).trans ?_
  simp only [readSr_opened, actOut, Here.setS]

/-- Settles O14: `srd` and `ssrd` each replace the cord, and what each register holds is read off `readSr`, its masks bit by bit. -/
theorem specialRegisterReads : Obligations.SpecialRegisterReads := by
  unfold Obligations.SpecialRegisterReads
  refine ⟨⟨fun o s h hx => srd_completes hx, fun o s h hx => ssrd_completes hx⟩, fun s h k => ?_, fun s h k => ?_⟩
  · refine ⟨rfl, rfl, rfl, ofNat_div_toNat _, by simp [readSr, field], rfl, rfl, rfl, rfl, rfl, rfl, ofNat_div_toNat _,
      rfl, rfl, rfl, rfl, rfl, rfl, rfl, rfl, rfl, fun hd => ?_, fun hd => ?_, fun hh => ?_, fun hh => ?_⟩
    · exact if_neg (by simp [hd])
    · exact if_pos hd
    · exact if_pos hh
    · exact if_neg (by simp [hh])
  · refine ⟨fun ht => ?_, fun t ht => ?_, ?_, fun j hj => getLsbD_shownMask _ _ hj, fun j hj => getLsbD_shownMask _ _ hj,
      fun j hj => (getLsbD_modeWord h hj).trans rfl, fun j hj => getLsbD_maskOf _ hj, rfl, rfl, rfl⟩
    · obtain ⟨f1, f2, f3, f4, f5⟩ := fieldOf_index h ht
      refine ⟨?_, f1, f2, f3, f4, f5, ?_⟩
      · rw [← high_append_low]
        simp [readSr, ht]
      · simp [readSr, ht]
    · refine ⟨fun i hi => ?_, ?_⟩
      · simp only [List.mem_cons, List.not_mem_nil, or_false] at hi
        rcases hi with rfl | rfl | rfl | rfl | rfl | rfl | rfl <;> simp [readSr, ht, fieldOf_task h ht]
      · simp [readSr, ht]
    · exact ofNat_code (shownState (h.cord.lane k))

end Sys2Proof.Machine

namespace Sys2Proof.Machine

/-! ### Where an issue sends its lanes -/

/-- A lane that the operation names goes where it says, and every other lane to the next instruction. -/
theorem Done.target_eq {d : Done} {ks : List Nat} {f : Nat → Word} (hg : d.go = ks.map (fun k => (k, f k))) (w : Word) (k : Nat) :
    d.target w k = if k ∈ ks then f k else w := by
  have hf : (ks.map (fun k => (k, f k))).find? (fun x => x.1 == k) = if k ∈ ks then some (k, f k) else none := by
    clear hg
    induction ks with
    | nil => rfl
    | cons j r ih =>
      rw [List.map_cons, List.find?_cons, ih]
      by_cases hj : j = k
      · subst hj; simp
      · have hb : (j == k) = false := by simpa using hj
        simp [hb, Ne.symm hj]
  rw [Done.target, hg, hf]
  split <;> rfl

/-- An operation that sends lanes of the executing set, each named once, is of the shape that `goes_completes` asks for. -/
theorem Done.goesOk_map {d : Done} {h : Here} {i : Instr} (hs : sends i = true) {ks : List Nat} {f : Nat → Word}
    (hg : d.go = ks.map (fun k => (k, f k))) (hn : ks.Nodup) (hm : ∀ k ∈ ks, k ∈ h.set) : d.GoesOk h i := by
  refine .inr ⟨hs, ?_, fun x hx => ?_⟩
  · rw [hg, List.map_map]
    exact (List.map_id ks).symm ▸ hn
  · rw [hg] at hx
    obtain ⟨k, hk, rfl⟩ := List.mem_map.1 hx
    exact hm k hk

theorem Here.active_sublist (h : Here) (g : Guard) : (h.active g).Sublist h.set := List.filter_sublist
theorem Issues.nodup_active {i : Instr} {s : State} {h : Here} (hx : Issues i s h) (g : Guard) : (h.active g).Nodup := hx.nodup.filter _

/-- Completion and faults look at a lane where it is of the executing set. -/
theorem Completes.congr {i : Instr} {s : State} {h : Here} {x : Cord} {lane lane' : Nat → Lane} {fl : List InFlight}
    (hc : Completes i s h x lane fl) (hl : ∀ k ∈ h.set, lane k = lane' k) : Completes i s h x lane' fl := by
  obtain ⟨t, c, h1, h2, h3, h4, h5, h6⟩ := hc
  exact ⟨t, c, h1, h2, h3, h4, fun k hk => (h5 k hk).trans (hl k hk), h6⟩

theorem Faults.congr {i : Instr} {s : State} {h : Here} {ks : List Nat} {lane lane' : Nat → Lane} {cause : Byte} {tval : Word}
    (hf : Faults i s h ks lane cause tval) (hl : ∀ k ∈ h.set, k ∉ ks → lane k = lane' k) : Faults i s h ks lane' cause tval := by
  obtain ⟨t, c, h1, h2, h3, h4, h5, h6, h7⟩ := hf
  exact ⟨t, c, h1, h2, h3, h4, h5, fun k hk hn => (h6 k hk hn).trans (hl k hk hn), h7⟩

/-! ### Branches that no misaligned target stops (R138, R139) -/

section
variable {i : Instr} {s : State} {h : Here} (hx : Issues i s h) (hs : sends i = true)
include hx hs

/-- An issue that sends some lanes of its executing set, and does nothing else. -/
theorem sends_completes {ks : List Nat} (hk : ks.Sublist h.set) (f : Nat → Word)
    (e : exec i s = finish h i { s := opened s h, go := ks.map (fun k => (k, f k)) }) :
    Completes i s h h.cord (fun k => { h.cord.lane k with pc := if k ∈ ks then f k else h.after i }) [] :=
  goes_completes hx hx.opened_cord? (opened_apart s h) (opened_clock s h) rfl rfl rfl
    (Done.goesOk_map hs rfl (hx.nodup.sublist hk) (fun _ h => hk.mem h)) e (fun k _ => by rw [Done.target_eq rfl]) (fun _ hk => hx.run hk)
    (fun _ _ => rfl) (fun _ _ _ _ => rfl)

theorem branch_completes {g : Guard} (f : Nat → Word)
    (e : exec i s = finish h i { s := opened s h, go := (h.active g).map (fun k => (k, f k)) }) :
    Completes i s h h.cord (fun k => if (h.cord.lane k).guard g then { h.cord.lane k with pc := f k } else h.next i (h.cord.lane k)) [] :=
  (sends_completes hx hs (h.active_sublist g) f e).congr (fun k hk => by simp only [mem_active, hk, true_and]; split <;> rfl)

theorem branchAll_completes (w : Word) (e : exec i s = finish h i { s := opened s h, go := h.set.map (fun k => (k, w)) }) :
    Completes i s h h.cord (fun k => { h.cord.lane k with pc := w }) [] :=
  (sends_completes hx hs (.refl _) (fun _ => w) e).congr (fun k hk => by simp only [hk, if_true])

end

/-! ### Lanes that park, each with a value of its own (R149) -/

/-- Of lanes that park in ascending order the first gives cause and value. -/
theorem Cord.park_ascending (c : Cord) {x : Nat × Byte × Word} {r : List (Nat × Byte × Word)} (hr : ∀ y ∈ r, x.1 < y.1) :
    c.park (x :: r) = c.park ((x :: r).map (fun y => (y.1, x.2))) := by
  have low : r.foldl (fun (b : Nat × Byte × Word) y => if y.1 < b.1 then y else b) x = x := by
    induction r with
    | nil => rfl
    | cons y r ih =>
      rw [List.foldl_cons, if_neg (by have := hr y (List.mem_cons_self ..); omega)]
      exact ih (fun z hz => hr z (List.mem_cons_of_mem _ hz))
  have hm : (x :: r).map (fun y => (y.1, x.2)) = ((x :: r).map (·.1)).map (fun k => (k, x.2.1, x.2.2)) := by simp
  rw [hm, park_eq _ (by simp)]
  simp only [Cord.park]
  rw [low]

theorem Done.movers_congr {d e : Done} (hp : e.park.map (·.1) = d.park.map (·.1)) (hs : e.stay = d.stay) (h : Here) :
    e.movers h = d.movers h := by
  have key (k : Nat) (l : List (Nat × Byte × Word)) : l.any (fun x => x.1 == k) = (l.map (·.1)).any (· == k) := by
    rw [List.any_map]
    rfl
  simp only [Done.movers, key, hp, hs]

/-- An issue whose lanes park in ascending order ends as one that parks them all for the first one's cause and value. -/
theorem finish_park_first {h : Here} {i : Instr} {d : Done} {x : Nat × Byte × Word} {r : List (Nat × Byte × Word)} (hp : d.park = x :: r)
    (hr : ∀ y ∈ r, x.1 < y.1) (hc : ∀ y ∈ d.park, y.2.1 ≠ cDataErr) :
    finish h i d = finish h i { d with park := d.park.map (fun y => (y.1, x.2)) } := by
  have hx : x.2.1 ≠ cDataErr := hc x (hp ▸ List.mem_cons_self ..)
  obtain ⟨e, he⟩ : ∃ e : Done, e = { d with park := d.park.map (fun y => (y.1, x.2)) } := ⟨_, rfl⟩
  have hep : e.park = d.park.map (fun y => (y.1, x.2)) := by rw [he]
  have hmov : e.movers h = d.movers h := Done.movers_congr (by rw [hep]; simp) (by rw [he]) h
  have hpark (c : Cord) : e.parked c = d.parked c := by
    have hk : e.park.map (·.1) = d.park.map (·.1) := by rw [hep]; simp
    have hg : e.gf = d.gf := by rw [he]
    have hs : e.park.isEmpty = d.park.isEmpty := by rw [hep, List.isEmpty_map]
    have hc : c.park e.park = c.park d.park := by rw [hep, hp, c.park_ascending hr]
    simp only [Done.parked, hs, hk, hg, hc]
  have hfol (c : Cord) (w : Word) : e.follows h c w = d.follows h c w := by rw [he]; rfl
  have htgt (w : Word) (k : Nat) : e.target w k = d.target w k := by rw [he]; rfl
  have hadv (size n : Nat) (c : Cord) : advance h size n e c = advance h size n d c := by
    simp only [advance, hmov, hpark, hfol, htgt]
    rw [he]
  have hmend (s : State) : mendRegs s h i e = mendRegs s h i d := by
    simp only [mendRegs, hmov]
  have none_ (l : List (Nat × Byte × Word)) (hl : ∀ y ∈ l, y.2.1 ≠ cDataErr) : l.filter (fun y => y.2.1 == cDataErr) = [] :=
    List.filter_eq_nil_iff.2 (fun y hy => by simpa using hl y hy)
  have hd := none_ d.park hc
  have hd' := none_ e.park (fun y hy => by
    rw [hep] at hy
    obtain ⟨z, -, rfl⟩ := List.mem_map.1 hy
    exact hx)
  rw [← he]
  unfold finish
  simp only [hadv, hmend, hd, hd', show e.s = d.s by rw [he]]

/-- The lanes of the executing set are in ascending order (R20). -/
theorem Cord.execSet_ascending (c : Cord) : c.execSet.Pairwise (· < ·) := by
  rcases c.execSet_sublist with h | ⟨a, -, h⟩
  · rw [h]; exact List.Pairwise.nil
  · exact (List.pairwise_lt_range.filter _).sublist h

theorem Issues.ascending {i : Instr} {s : State} {h : Here} (hx : Issues i s h) : h.set.Pairwise (· < ·) :=
  hx.set_eq ▸ h.cord.execSet_ascending

/-- An issue that parks some lanes of its executing set, each with its own value, and sends others elsewhere. -/
theorem parkEach_faults {i : Instr} {s : State} {h : Here} (hx : Issues i s h) {ks gs : List Nat} {cause : Byte} {tval f : Nat → Word}
    (hks : ks.Sublist h.set) (hgs : gs.Sublist h.set) (hdis : ∀ k ∈ gs, k ∉ ks) (hne : ks ≠ []) (hs : sends i = true)
    (hc : cause ≠ cDataErr) (e : exec i s = finish h i
      { s := opened s h, park := ks.map (fun k => (k, cause, tval k)), go := gs.map (fun k => (k, f k)) }) :
    Faults i s h ks (fun k => { h.cord.lane k with pc := if k ∈ gs then f k else h.after i }) cause (tval (ks.headD 0)) := by
  obtain ⟨k₀, r, rfl⟩ := List.exists_cons_of_ne_nil hne
  have hasc := hx.ascending.sublist hks
  rw [finish_park_first (x := (k₀, cause, tval k₀)) (r := r.map (fun k => (k, cause, tval k))) rfl (fun y hy => by
      obtain ⟨k, hk, rfl⟩ := List.mem_map.1 hy
      exact List.rel_of_pairwise_cons hasc hk) (fun y hy => by
      obtain ⟨k, -, rfl⟩ := List.mem_map.1 hy
      exact hc)] at e
  refine park_faults hx (d := { s := opened s h, park := _, go := gs.map (fun k => (k, f k)) }) hx.opened_cord? (opened_apart s h)
    (opened_clock s h) ?_ rfl rfl rfl (Done.goesOk_map hs rfl (hx.nodup.sublist hgs) (fun _ h => hgs.mem h)) ?_ hne
    (hx.nodup.sublist hks) (fun _ h => hks.mem h) hc e (fun k _ _ => by rw [Done.target_eq rfl])
  · simp
  · intro x hx
    obtain ⟨k, hk, rfl⟩ := List.mem_map.1 hx
    exact hdis k hk

/-! ### Branches to register values (R139) -/

theorem misaligned_iff (w : Word) : misaligned w = true ↔ w.toNat % 4 ≠ 0 := by simp [misaligned]

theorem brx_completes {o : OBrx} {s : State} {h : Here} (hx : Executes (.brx o) s h) (ha : ∀ k ∈ h.active o.gd, (h.v k o.a).toNat % 4 = 0) :
    Completes (.brx o) s h h.cord (fun k => if (h.cord.lane k).guard o.gd then { h.cord.lane k with pc := h.v k o.a }
      else h.next (.brx o) (h.cord.lane k)) [] := by
  have hbad : (h.active o.gd).filter (fun k => misaligned (h.v k o.a)) = [] :=
    List.filter_eq_nil_iff.2 (fun k hk => by simp [misaligned, ha k hk])
  have hgood : (h.active o.gd).filter (fun k => !misaligned (h.v k o.a)) = h.active o.gd :=
    List.filter_eq_self.2 (fun k hk => by simp [misaligned, ha k hk])
  refine branch_completes hx.toIssues rfl (fun k => h.v k o.a) ((issue_eq hx _).trans ?_)
  simp only [actOut, hbad, hgood, List.map_nil]

theorem brx_faults {o : OBrx} {s : State} {h : Here} (hx : Executes (.brx o) s h)
    (hb : (h.active o.gd).filter (fun k => (h.v k o.a).toNat % 4 != 0) ≠ []) :
    Faults (.brx o) s h ((h.active o.gd).filter (fun k => (h.v k o.a).toNat % 4 != 0))
      (fun k => if (h.cord.lane k).guard o.gd then { h.cord.lane k with pc := h.v k o.a } else h.next (.brx o) (h.cord.lane k))
      cAlign (h.v (((h.active o.gd).filter (fun k => (h.v k o.a).toNat % 4 != 0)).headD 0) o.a) := by
  refine Faults.congr (parkEach_faults (gs := (h.active o.gd).filter (fun k => !misaligned (h.v k o.a)))
    (f := fun k => h.v k o.a) (tval := fun k => h.v k o.a) hx.toIssues (List.filter_sublist.trans (h.active_sublist _))
    (List.filter_sublist.trans (h.active_sublist _)) (fun k hg hk => ?_) hb rfl (by decide) (issue_eq hx _)) (fun k hk hnb => ?_)
  · have h1 := (List.mem_filter.1 hg).2
    rw [show misaligned (h.v k o.a) = true from (List.mem_filter.1 hk).2] at h1
    cases h1
  · have hgo : k ∈ (h.active o.gd).filter (fun k => !misaligned (h.v k o.a)) ↔ (h.cord.lane k).guard o.gd = true := by
      rw [List.mem_filter, mem_active, Bool.not_eq_true', ← Bool.not_eq_true]
      exact ⟨fun hg => hg.1.2, fun hg => ⟨⟨hk, hg⟩, fun hb => hnb (List.mem_filter.2 ⟨mem_active.2 ⟨hk, hg⟩, hb⟩)⟩⟩
    simp only [hgo]
    split <;> rfl

/-- Settles O17: a branch is an issue that sends lanes, and one whose target is misaligned parks those lanes. -/
theorem branches : Obligations.Branches := by
  unfold Obligations.Branches
  refine ⟨fun o s h hx => ?_, fun o s h hx => ?_, fun o s h hx ha => brx_completes hx ha, fun o s h hx => ?_, fun o s h hx => ?_,
    fun o s h hx ha => ?_, fun o s h hx hb => brx_faults hx hb, fun o s h hx ha => ?_⟩
  · exact branch_completes hx.toIssues rfl _ (issue_eq hx _)
  · exact branch_completes hx.toIssues rfl _ (issue_eq hx _)
  · exact branchAll_completes hx.toIssues rfl _ (issue_eq hx _)
  · exact branchAll_completes hx.toIssues rfl _ (issue_eq hx _)
  · refine branchAll_completes hx.toIssues rfl _ ((issue_eq hx _).trans ?_)
    rw [if_neg (by simp [misaligned, ha])]
    rfl
  · refine parkSet_faults hx.toIssues (by decide) ((issue_eq hx _).trans ?_)
    rw [if_pos ((misaligned_iff _).2 ha)]
    rfl

end Sys2Proof.Machine

namespace Sys2Proof.Machine

/-! ### What keeps every byte of every store -/

theorem SameMemory.refl (s : State) : SameMemory s s :=
  ⟨fun _ _ => rfl, fun _ _ => rfl, fun _ _ => rfl, fun _ => rfl, fun _ => rfl, fun _ _ => rfl⟩

theorem SameMemory.trans {s t u : State} (h : SameMemory s t) (h' : SameMemory t u) : SameMemory s u where
  spad n a := (h'.spad n a).trans (h.spad n a)
  acc n a := (h'.acc n a).trans (h.acc n a)
  code n a := (h'.code n a).trans (h.code n a)
  hbm a := (h'.hbm a).trans (h.hbm a)
  host a := (h'.host a).trans (h.host a)
  peers p a := (h'.peers p a).trans (h.peers p a)

theorem SameMemory.foldl {α : Type} (f : State → α → State) (hf : ∀ s x, SameMemory s (f s x)) (l : List α) (s : State) :
    SameMemory s (l.foldl f s) := by
  induction l generalizing s with
  | nil => exact .refl s
  | cons x r ih => exact (hf s x).trans (ih _)

theorem Apart.sameMemory {r : CordRef} {s t : State} (h : Apart r s t) : SameMemory s t where
  spad n a := by rw [h.spad]
  acc n a := by rw [h.acc]
  code n a := by rw [h.code]
  hbm a := by rw [h.hbm]
  host a := by rw [h.host]
  peers p a := by rw [h.peers]

theorem OnlyTracks.sameMemory {s t : State} (h : OnlyTracks s t) : SameMemory s t := (h.apart ⟨0, 0, 0⟩).sameMemory

/-- Another core record with the same stores. -/
theorem sameMemory_setCore {s : State} {n : Nat} {c : Core} (h1 : c.spad = (s.core n).spad) (h2 : c.acc = (s.core n).acc)
    (h3 : c.code = (s.core n).code) : SameMemory s (s.setCore n c) := by
  have hc (m : Nat) : ((s.setCore n c).core m).spad = (s.core m).spad ∧ ((s.setCore n c).core m).acc = (s.core m).acc ∧
      ((s.setCore n c).core m).code = (s.core m).code := by
    rw [State.core_setCore]
    split
    · subst_vars; exact ⟨h1, h2, h3⟩
    · exact ⟨rfl, rfl, rfl⟩
  exact ⟨fun m a => by rw [(hc m).1], fun m a => by rw [(hc m).2.1], fun m a => by rw [(hc m).2.2],
    fun _ => rfl, fun _ => rfl, fun _ _ => rfl⟩

theorem sameMemory_setBlock (s : State) (n sl : Nat) (b : Block) : SameMemory s (s.setBlock n sl b) := sameMemory_setCore rfl rfl rfl

/-! ### Bits listed and lanes listed -/

theorem mem_bitsFrom_iff {x k : Nat} (n i : Nat) : k ∈ bitsFrom x i n ↔ i ≤ k ∧ k < i + n ∧ bit x k = true := by
  refine ⟨mem_bitsFrom n i, fun h => ?_⟩
  induction n generalizing i with
  | zero => omega
  | succ n ih =>
    obtain ⟨h1, h2, h3⟩ := h
    rw [bitsFrom]
    by_cases hk : k = i
    · subst hk
      rw [if_pos h3]
      exact List.mem_cons_self ..
    · have hm : k ∈ bitsFrom x (i + 1) n := ih (i + 1) ⟨by omega, by omega, h3⟩
      split
      · exact List.mem_cons_of_mem _ hm
      · exact hm

/-- The lanes that satisfy a condition that an absent lane does not satisfy. -/
theorem Cord.mem_lanesWith {c : Cord} {f : Lane → Bool} (hf : f Lane.absent = false) {k : Nat} :
    k ∈ c.lanesWith f ↔ k < 32 ∧ f (c.lane k) = true := by
  refine ⟨Cord.of_mem_lanesWith, fun ⟨hk, h⟩ => List.mem_filter.2 ⟨List.mem_range.2 hk, ?_⟩⟩
  unfold Cord.lane Tab.get at h
  cases hg : c.lanes.get? k with
  | none =>
    rw [hg] at h
    exact absurd (h.symm.trans hf) (by decide)
  | some l =>
    rw [hg] at h
    exact h

theorem Cord.unserved_iff {c : Cord} : c.unserved = true ↔ ∃ k, k < 32 ∧ (c.lane k).st = .park ∧ (c.lane k).served = false := by
  have hm (k : Nat) := Cord.mem_lanesWith (c := c) (f := fun l => l.st == .park && !l.served) rfl (k := k)
  rw [Cord.unserved, Bool.not_eq_true', List.isEmpty_eq_false_iff_exists_mem]
  simp only [hm, Bool.and_eq_true, beq_iff_eq, Bool.not_eq_true']

theorem Cord.lane_foldl_setLane (f : Nat → Lane) (ks : List Nat) (d : Cord) (k : Nat) :
    (ks.foldl (fun d j => d.setLane j (f j)) d).lane k = if k ∈ ks then f k else d.lane k := by
  induction ks generalizing d with
  | nil => rfl
  | cons j r ih =>
    rw [List.foldl_cons, ih]
    by_cases hr : k ∈ r
    · simp [hr]
    · by_cases hj : k = j
      · subst hj; simp [hr]
      · simp [hr, hj, Cord.lane_setLane_ne _ hj]

/-! ### Which lanes a rejoin releases (R24) -/

/-- The lane waits at the `rjoin` at an address. -/
def Lane.joins (l : Lane) (a : Word) : Prop := l.st = .wait ∧ l.data = false ∧ l.pc = a

/-- Every lane of sr.joinm waits at the `rjoin` at an address, or is in PARK or EXIT. -/
def Cord.joined (c : Cord) (a : Word) : Prop :=
  ∀ j, j < 32 → c.joinm.getLsbD j = true → (c.lane j).joins a ∨ (c.lane j).st = .park ∨ (c.lane j).st = .exit

/-- The lanes that the release moves on. -/
def released (c : Cord) : List Nat :=
  (c.lanesWith (fun l => l.st == .wait && !l.data)).filter (fun k => (bitsFrom c.joinm.toNat 0 32).all (fun j =>
    ((c.lane j).st == .wait && !(c.lane j).data && (c.lane j).pc == (c.lane k).pc) || (c.lane j).st == .park || (c.lane j).st == .exit))

theorem mem_released {c : Cord} {k : Nat} :
    k ∈ released c ↔ k < 32 ∧ (c.lane k).st = .wait ∧ (c.lane k).data = false ∧ c.joined (c.lane k).pc := by
  have hj (j : Nat) : j ∈ bitsFrom c.joinm.toNat 0 32 ↔ j < 32 ∧ c.joinm.getLsbD j = true := by
    rw [mem_bitsFrom_iff, bit_eq_testBit, BitVec.testBit_toNat]
    simp
  rw [released, List.mem_filter, Cord.mem_lanesWith rfl]
  simp only [List.all_eq_true, hj, Bool.and_eq_true, Bool.or_eq_true, beq_iff_eq, Bool.not_eq_true', Cord.joined, Lane.joins, and_assoc,
    or_assoc, and_imp]

theorem rejoin_lane_eq {c : Cord} (hu : c.unserved = false) (k : Nat) :
    (rejoin c).lane k = if k ∈ released c then { c.toRun k with pc := (c.lane k).pc + 8 } else c.lane k := by
  have e : rejoin c = (released c).foldl (fun d j => d.setLane j { c.toRun j with pc := (c.lane j).pc + 8 }) c := by
    unfold rejoin
    rw [hu]
    rfl
  rw [e, Cord.lane_foldl_setLane (fun j => { c.toRun j with pc := (c.lane j).pc + 8 })]

/-- A lane that does not wait stays as it is. -/
theorem rejoin_lane_of_ne_wait {c : Cord} {k : Nat} (h : (c.lane k).st ≠ .wait) : (rejoin c).lane k = c.lane k :=
  (rejoin_lane c k).resolve_right (fun hw => h hw.1)

/-! ### The end of an issue whose operation sets some lanes itself -/

/-- The cord after an issue that parks no lane and opens no window. -/
theorem advance_unparked {h : Here} {i : Instr} {d : Done} (c : Cord) (n : Nat) (hp : d.park = []) (hw : d.win = []) :
    advance h (sizeOf' i) n d c = (c.onLanes (d.movers h) (fun k l => { l with pc := d.target (h.after i) k })).count
      (d.follows h (c.onLanes (d.movers h) (fun k l => { l with pc := d.target (h.after i) k })) (h.after i)) h.set n d.fl [] := by
  unfold advance
  rw [hw]
  simp only [List.filter_nil, List.foldl_nil, Done.parked, hp, List.isEmpty_nil, if_true]
  rfl

theorem Done.mem_movers {d : Done} (hp : d.park = []) {h : Here} {k : Nat} : k ∈ d.movers h ↔ k ∈ h.set ∧ k ∉ d.stay := by
  simp [Done.movers, hp]

theorem Done.target_stay {d : Done} (hg : d.go = []) (w : Word) (k : Nat) : d.target w k = w := by rw [Done.target, hg]; rfl

end Sys2Proof.Machine

namespace Sys2Proof.Machine

/-! ### `rjoin` (R24, R146) -/

theorem sizeOf_rjoin : sizeOf' .rjoin = 8 := rfl

/-- A lane of the executing set stands at the issue address. -/
theorem Issues.pc_eq {i : Instr} {s : State} {h : Here} (hx : Issues i s h) {k : Nat} (hk : k ∈ h.set) :
    (h.cord.lane k).pc.toNat = h.addr := by
  have ha := (Cord.of_mem_execSet (hx.set_eq ▸ hk)).2
  rw [hx.lanes] at ha
  exact (Option.some.inj ha).symm

theorem Issues.lt_of_mem {i : Instr} {s : State} {h : Here} (hx : Issues i s h) {k : Nat} (hk : k ∈ h.set) : k < 32 :=
  Cord.lt_of_mem_execSet (hx.set_eq ▸ hk)

theorem Issues.addr_lt {i : Instr} {s : State} {h : Here} (hx : Issues i s h) : h.addr < 2 ^ 32 := by
  obtain ⟨k, hk⟩ := List.exists_mem_of_ne_nil _ hx.ne_nil
  rw [← hx.pc_eq hk]
  exact (h.cord.lane k).pc.isLt

/-- The cord with its executing set waiting at the `rjoin`. -/
def Here.joining (h : Here) : Cord := h.cord.onLanes h.set (fun _ l => { l with st := .wait, data := false })

/-- The cord at the end of the issue, before the release. -/
def Here.joiningCount (h : Here) (clock : Nat) : Cord := h.joining.count (some (h.after .rjoin)) h.set clock [] []

theorem joiningCount_counted (h : Here) (n : Nat) : Counted h .rjoin n [] h.cord (rejoin (h.joiningCount n)) := by
  unfold Counted
  rw [rejoin_rest]
  generalize (rejoin (h.joiningCount n)).lanes = l
  rw [Here.joiningCount, Here.joining, Cord.onLanes_rest]
  rfl

/-- The lane is at the `rjoin` that the cord executes: it executes it now, or waits there. -/
def Here.atJoin (h : Here) (k : Nat) : Prop :=
  k ∈ h.set ∨ ((h.cord.lane k).st = .wait ∧ (h.cord.lane k).data = false ∧ (h.cord.lane k).pc.toNat = h.addr)

section
variable {s : State} {h : Here} (hx : Executes .rjoin s h)
include hx

theorem joining_lane (k : Nat) :
    h.joining.lane k = if k ∈ h.set then { h.cord.lane k with st := .wait, data := false } else h.cord.lane k :=
  h.cord.lane_onLanes hx.nodup k _

/-- The lanes at the `rjoin` wait there without being owed data. -/
theorem joining_lane_atJoin {k : Nat} (hk : h.atJoin k) : h.joining.lane k = { h.cord.lane k with st := .wait, data := false } := by
  rw [joining_lane hx]
  split
  · rfl
  · next hn =>
    obtain ⟨h1, h2, -⟩ := hk.resolve_left hn
    rw [← h1, ← h2]

theorem atJoin_iff (k : Nat) : (h.joining.lane k).joins (BitVec.ofNat 32 h.addr) ↔ h.atJoin k := by
  have hpc (l : Lane) : l.pc = BitVec.ofNat 32 h.addr ↔ l.pc.toNat = h.addr := by
    rw [← BitVec.toNat_inj, BitVec.toNat_ofNat, Nat.mod_eq_of_lt hx.addr_lt]
  rw [joining_lane hx, Lane.joins, Here.atJoin]
  by_cases hk : k ∈ h.set
  · simp [hk, hpc, hx.pc_eq hk]
  · simp [hk, hpc]

theorem joining_unserved : h.joining.unserved = false := by
  rw [← Bool.not_eq_true]
  intro hu
  obtain ⟨k, hk, hp, hs⟩ := Cord.unserved_iff.1 hu
  rw [joining_lane hx] at hp hs
  split at hp
  · cases hp
  · rename_i hn
    rw [if_neg hn] at hs
    have := Cord.unserved_iff.2 ⟨k, hk, hp, hs⟩
    rw [hx.parked rfl] at this
    cases this

/-- A lane is released where all of sr.joinm have joined. -/
theorem joining_joined : h.joining.joined (BitVec.ofNat 32 h.addr) ↔ ∀ j, j < 32 → h.cord.joinm.getLsbD j = true →
    h.atJoin j ∨ (h.cord.lane j).st = .park ∨ (h.cord.lane j).st = .exit := by
  have hm : h.joining.joinm = h.cord.joinm := by rw [Here.joining, Cord.onLanes_rest]
  unfold Cord.joined
  rw [hm]
  refine forall_congr' (fun j => forall_congr' (fun hj => forall_congr' (fun hb => ?_)))
  rw [atJoin_iff hx]
  by_cases hk : j ∈ h.set
  · exact iff_of_true (.inl (.inl hk)) (.inl (.inl hk))
  · rw [joining_lane hx, if_neg hk]

theorem rjoin_next : ∃ t, exec .rjoin s = .next t ∧ t.cord? h.ref = some (rejoin (h.joiningCount s.clock)) ∧ Apart h.ref s t := by
  let d : Done := { s := (opened s h).setCord h.ref h.joining, stay := h.set }
  have hc : d.s.cord? h.ref = some h.joining := State.cord?_setCord_same hx.opened_cord? _
  have hm : d.movers h = [] := List.eq_nil_iff_forall_not_mem.2 (fun k hk => by
    obtain ⟨h1, h2⟩ := (Done.mem_movers (d := d) rfl).1 hk
    exact h2 h1)
  have hclk : d.s.clock = s.clock := (State.clock_setCord _ _ _).trans (opened_clock s h)
  have hadv : advance h (sizeOf' .rjoin) d.s.clock d h.joining = h.joiningCount s.clock := by
    rw [advance_unparked h.joining d.s.clock rfl rfl, hm, hclk]
    rfl
  obtain ⟨t, h1, h2, h3⟩ := finish_next (i := .rjoin) hc (d := d) rfl
  rw [hadv] at h2
  exact ⟨t, (issue_eq hx _).trans h1, h2, ((opened_apart s h).trans (apart_setCord _ _ _)).trans h3⟩

/-- What the release makes of a lane. -/
theorem joiningCount_lane (n k : Nat) : (rejoin (h.joiningCount n)).lane k = if k ∈ released h.joining then
    { h.joining.toRun k with pc := (h.joining.lane k).pc + 8 } else h.joining.lane k :=
  rejoin_lane_eq (c := h.joiningCount n) (joining_unserved hx) k

theorem joining_toRun {k : Nat} (hk : h.atJoin k) : h.joining.toRun k = h.cord.toRun k := by
  have ho : h.joining.owes k = h.cord.owes k := by rw [Here.joining, Cord.onLanes_rest]; rfl
  unfold Cord.toRun
  rw [ho, joining_lane_atJoin hx hk]

theorem after_rjoin {k : Nat} (hk : h.atJoin k) : (h.cord.lane k).pc + 8 = h.after .rjoin := by
  have hpc : (h.cord.lane k).pc.toNat = h.addr := hk.elim hx.pc_eq (fun hw => hw.2.2)
  apply BitVec.eq_of_toNat_eq
  rw [Here.after, sizeOf_rjoin, BitVec.toNat_add, hpc, BitVec.toNat_ofNat]
  rfl

/-- When all have joined, every lane at the `rjoin` goes on past it. -/
theorem joiningCount_lane_joined (hj : h.joining.joined (BitVec.ofNat 32 h.addr)) (n : Nat) {k : Nat} (h32 : k < 32) (hk : h.atJoin k) :
    (rejoin (h.joiningCount n)).lane k = { h.cord.toRun k with pc := h.after .rjoin } := by
  obtain ⟨h1, h2, h3⟩ := (atJoin_iff hx k).2 hk
  rw [joiningCount_lane hx, if_pos (mem_released.2 ⟨h32, h1, h2, h3 ▸ hj⟩), joining_toRun hx hk, joining_lane_atJoin hx hk,
    after_rjoin hx hk]

theorem joiningCount_lane_waits (hj : ¬h.joining.joined (BitVec.ofNat 32 h.addr)) (n : Nat) {k : Nat} (hk : k ∈ h.set) :
    (rejoin (h.joiningCount n)).lane k = { h.cord.lane k with st := .wait, data := false } := by
  obtain ⟨-, -, h3⟩ := (atJoin_iff hx k).2 (.inl hk)
  rw [joiningCount_lane hx, if_neg (fun hr => hj (h3 ▸ (mem_released.1 hr).2.2.2)), joining_lane_atJoin hx (.inl hk)]

end

end Sys2Proof.Machine

namespace Sys2Proof.Machine

/-! ### What leaving lanes change beside their cord (R145, R163, R297) -/

/-- Every store, and the cord at `r`, are as they were. -/
structure KeepsCord (r : CordRef) (s t : State) : Prop where
  cord : t.cord? r = s.cord? r
  mem : SameMemory s t

theorem KeepsCord.refl (r : CordRef) (s : State) : KeepsCord r s s := ⟨rfl, .refl s⟩

theorem KeepsCord.trans {r : CordRef} {s t u : State} (h : KeepsCord r s t) (h' : KeepsCord r t u) : KeepsCord r s u :=
  ⟨h'.cord.trans h.cord, h.mem.trans h'.mem⟩

theorem KeepsCord.foldl {α : Type} {r : CordRef} (f : State → α → State) (hf : ∀ s x, KeepsCord r s (f s x)) (l : List α) (s : State) :
    KeepsCord r s (l.foldl f s) := by
  induction l generalizing s with
  | nil => exact .refl r s
  | cons x q ih => exact (hf s x).trans (ih _)

theorem OnlyTracks.keepsCord {s t : State} (h : OnlyTracks s t) (r : CordRef) : KeepsCord r s t := ⟨h.cord? r, h.sameMemory⟩

theorem keepsCord_setCluster (r : CordRef) (s : State) (n : Nat) (c : Cluster) : KeepsCord r s (s.setCluster n c) :=
  ⟨rfl, fun _ _ => rfl, fun _ _ => rfl, fun _ _ => rfl, fun _ => rfl, fun _ => rfl, fun _ _ => rfl⟩

/-- Another core record with the same blocks and the same stores. -/
theorem keepsCord_setCore (r : CordRef) {s : State} {n : Nat} {c : Core} (hb : c.blocks = (s.core n).blocks) (h1 : c.spad = (s.core n).spad)
    (h2 : c.acc = (s.core n).acc) (h3 : c.code = (s.core n).code) : KeepsCord r s (s.setCore n c) := by
  refine ⟨?_, sameMemory_setCore h1 h2 h3⟩
  unfold State.cord? State.block?
  rw [State.core_setCore]
  split
  · next h => rw [hb, h]
  · rfl

/-- The cord at `r` where its block is replaced. -/
theorem cord?_setBlock_own (s : State) (r : CordRef) (b : Block) : (s.setBlock r.core r.slot b).cord? r = b.cords.get? r.cord := by
  rw [State.cord?, State.block?_setBlock, if_pos ⟨rfl, rfl⟩]
  rfl

/-- The exit of task lanes sets events, and changes no cord and no store. -/
theorem taskExit_keepsCord (s : State) (r : CordRef) (ks : List Nat) : KeepsCord r s (taskExit s r ks) := by
  unfold taskExit
  split
  · next t b _ hb =>
    have hset : KeepsCord r s
        (s.setBlock r.core r.slot { b with task := some { t with sets := ks.foldl (fun x k => x.erase k) t.sets } }) :=
      ⟨(cord?_setBlock_own s r _).trans (by rw [State.cord?, hb]; rfl), sameMemory_setBlock _ _ _ _⟩
    refine (hset.trans ((send_onlyTracks _ _ _ _).keepsCord r)).trans (KeepsCord.foldl _ (fun u e => ?_) _ _)
    split
    · exact .refl r u
    · exact keepsCord_setCluster r u _ _
  · exact .refl r s

/-- A lane in EXIT: the marks of the frames that it made use of are gone. -/
def Lane.exited (l : Lane) : Lane := { l with st := .exit, data := false, frames := unmark l.ownFrames.length l.frames }

theorem exitLanes_keeps {s : State} {r : CordRef} {c : Cord} (hc : s.cord? r = some c) (ks : List Nat) :
    (exitLanes s r ks).cord? r = some (c.onLanes ks (fun _ l => l.exited)) ∧ SameMemory s (exitLanes s r ks) := by
  obtain ⟨b, hb, -⟩ := State.block?_of_cord? hc
  have hn := dropHolds_noted (s.core r.core) b.ctx (ks.flatMap (fun k => (c.lane k).ownFrames))
  have hk := (keepsCord_setCore r (c := dropHolds (s.core r.core) b.ctx (ks.flatMap (fun k => (c.lane k).ownFrames))) hn.blocks hn.spad
    hn.acc (by rw [hn])).trans (taskExit_keepsCord _ r ks)
  unfold exitLanes
  simp only [hb, hc]
  exact ⟨State.cord?_setCord_same (hk.cord.trans hc) _, hk.mem.trans (apart_setCord _ _ _).sameMemory⟩

/-! ### Barriers that an exit completes (R163) -/

/-- Only the flags of barriers differ. -/
def Cord.Flagged (c d : Cord) : Prop := d = { c with barWait := d.barWait, bflags := d.bflags }

theorem Cord.Flagged.refl (c : Cord) : c.Flagged c := rfl

theorem Cord.Flagged.trans {c d e : Cord} (h : c.Flagged d) (h' : d.Flagged e) : c.Flagged e := by
  unfold Cord.Flagged at h h' ⊢
  rw [h', h]

/-- Cord `i` of a block is there after as before, but for the flags of barriers. -/
def Block.CordFlagged (i : Nat) (b b' : Block) : Prop := ∀ c, b.cords.get? i = some c → ∃ d, b'.cords.get? i = some d ∧ c.Flagged d

theorem Block.CordFlagged.refl (i : Nat) (b : Block) : Block.CordFlagged i b b := fun c hc => ⟨c, hc, .refl c⟩

theorem Block.CordFlagged.trans {i : Nat} {b b' b'' : Block} (h : Block.CordFlagged i b b') (h' : Block.CordFlagged i b' b'') :
    Block.CordFlagged i b b'' := by
  intro c hc
  obtain ⟨d, hd, h1⟩ := h c hc
  obtain ⟨e, he, h2⟩ := h' d hd
  exact ⟨e, he, h1.trans h2⟩

theorem Block.CordFlagged.of_map {i : Nat} {b b' : Block} (f : Nat → Cord → Cord) (hb : b'.cords = b.cords.map f)
    (hf : ∀ j (c : Cord), c.Flagged (f j c)) : Block.CordFlagged i b b' := by
  intro c hc
  exact ⟨f i c, by rw [hb, Tab.get?_map, hc]; rfl, hf i c⟩

theorem Block.CordFlagged.ite {i : Nat} {b x y : Block} {p : Prop} [Decidable p] (hx : Block.CordFlagged i b x)
    (hy : Block.CordFlagged i b y) : Block.CordFlagged i b (if p then x else y) := by
  split
  · exact hx
  · exact hy

theorem completePhases_flagged (i fuel : Nat) (b : Block) (n : Nat) : Block.CordFlagged i b (completePhases fuel b n) := by
  induction fuel generalizing b with
  | zero => exact .refl i b
  | succ fuel ih =>
    unfold completePhases
    dsimp only
    split
    · exact .refl i b
    · split
      · exact .refl i b
      · refine Block.CordFlagged.trans (.ite ?_ ?_) (ih _)
        all_goals
          apply Block.CordFlagged.of_map
          · dsimp only
          · exact fun _ _ => rfl

theorem settleBarriers_flagged (i : Nat) (b : Block) : Block.CordFlagged i b (settleBarriers b) := by
  unfold settleBarriers
  induction List.range 16 generalizing b with
  | nil => exact .refl i b
  | cons n r ih => exact (completePhases_flagged i 5 b n).trans (ih _)

theorem settleAt_keeps {s : State} {r : CordRef} {c : Cord} (hc : s.cord? r = some c) :
    (∃ d, (settleAt s r.core r.slot).cord? r = some d ∧ c.Flagged d) ∧ SameMemory s (settleAt s r.core r.slot) := by
  obtain ⟨b, hb, hi⟩ := State.block?_of_cord? hc
  obtain ⟨d, hd, hf⟩ := settleBarriers_flagged r.cord b c hi
  have hset : (s.setBlock r.core r.slot (settleBarriers b)).cord? r = some d := (cord?_setBlock_own s r _).trans hd
  unfold settleAt
  simp only [hb]
  split
  · have hk := keepsCord_setCore r (s := s.setBlock r.core r.slot (settleBarriers b)) (n := r.core)
      (c := { (s.setBlock r.core r.slot (settleBarriers b)).core r.core with
        tiles := ((s.setBlock r.core r.slot (settleBarriers b)).core r.core).tiles.map
          (fun p t => if b.tiles.contains p then { t with writer := none } else t) }) rfl rfl rfl rfl
    exact ⟨⟨d, hk.cord.trans hset, hf⟩, (sameMemory_setBlock _ _ _ _).trans hk.mem⟩
  · exact ⟨⟨d, hset, hf⟩, sameMemory_setBlock _ _ _ _⟩

end Sys2Proof.Machine

namespace Sys2Proof.Machine

theorem Cord.Flagged.lane {c d : Cord} (h : c.Flagged d) (k : Nat) : d.lane k = c.lane k := by
  rw [h]
  rfl

theorem Cord.Flagged.icount {c d : Cord} (h : c.Flagged d) : d.icount = c.icount := by rw [h]

/-- A lane that rests keeps its registers and predicates. -/
theorem Resting.keeps {x c : Lane} (h : Resting x c) : c.regs = x.regs ∧ c.p = x.p := by
  rw [h]
  exact ⟨rfl, rfl⟩

theorem rejoin_icount (c : Cord) : (rejoin c).icount = c.icount := by rw [rejoin_rest]

/-- The cord before the release at the end of an issue, which sends on the lanes that the operation has not placed itself. -/
def Here.movedOn (h : Here) (i : Instr) (d : Done) (x : Cord) : Cord := x.onLanes (d.movers h) (fun _ l => h.next i l)

section
variable {i : Instr} {h : Here} {d : Done} (hp : d.park = [])
include hp

theorem movedOn_lane (hn : h.set.Nodup) (x : Cord) (k : Nat) :
    (h.movedOn i d x).lane k = if k ∈ h.set ∧ k ∉ d.stay then h.next i (x.lane k) else x.lane k := by
  have hm : (d.movers h).Nodup := hn.filter _
  rw [Here.movedOn, x.lane_onLanes hm]
  simp only [Done.mem_movers hp]

/-- An issue that parks and sends no lane, and opens no window. -/
theorem finish_moves {x : Cord} (hc : d.s.cord? h.ref = some x) (hw : d.win = []) (hgo : d.go = []) :
    ∃ t c y, finish h i d = .next t ∧ t.cord? h.ref = some c ∧ Apart h.ref d.s t ∧ c = rejoin y ∧ y.icount = x.icount + 1 ∧
      ∀ k, y.lane k = (h.movedOn i d x).lane k := by
  obtain ⟨t, h1, h2, h3⟩ := finish_next (h := h) (i := i) hc hp
  rw [advance_unparked x d.s.clock hp hw] at h2
  have hm : x.onLanes (d.movers h) (fun k l => { l with pc := d.target (h.after i) k }) = h.movedOn i d x := by
    simp only [Done.target_stay hgo]
    rfl
  rw [hm] at h2
  refine ⟨t, _, _, h1, h2, h3, rfl, ?_, fun k => rfl⟩
  rw [Cord.count, Here.movedOn, Cord.onLanes_rest]

end

/-- The cord once its active lanes have left. -/
def Here.leaving (h : Here) (g : Guard) : Cord := h.cord.onLanes (h.active g) (fun _ l => l.exited)

/-- The state once the active lanes have left, and the barriers that they complete have moved on. -/
def Here.departed (h : Here) (g : Guard) (s : State) : State := settleAt (exitLanes (opened s h) h.ref (h.active g)) h.ref.core h.ref.slot

section
variable {i : Instr} {s : State} {h : Here} (hx : Issues i s h) (g : Guard)
include hx

theorem leaving_lane (k : Nat) : (h.leaving g).lane k = if k ∈ h.active g then (h.cord.lane k).exited else h.cord.lane k :=
  h.cord.lane_onLanes (hx.nodup_active g) k _

theorem departed_keeps :
    (∃ x, (h.departed g s).cord? h.ref = some x ∧ (h.leaving g).Flagged x) ∧ SameMemory s (h.departed g s) := by
  obtain ⟨h1, h2⟩ := exitLanes_keeps hx.opened_cord? (h.active g)
  obtain ⟨h3, h4⟩ := settleAt_keeps h1
  exact ⟨h3, ((opened_apart s h).sameMemory.trans h2).trans h4⟩

/-- So it is where no lane is active, and nothing is done. -/
theorem opened_keeps (ha : h.active g = []) :
    (∃ x, (opened s h).cord? h.ref = some x ∧ (h.leaving g).Flagged x) ∧ SameMemory s (opened s h) :=
  ⟨⟨h.cord, hx.opened_cord?, by rw [Here.leaving, ha]; rfl⟩, (opened_apart s h).sameMemory⟩

/-- An issue whose active lanes leave: they are in EXIT, and the others go on. -/
theorem departs {m : State} (hm : (∃ x, m.cord? h.ref = some x ∧ (h.leaving g).Flagged x) ∧ SameMemory s m)
    (e : exec i s = finish h i { s := m, stay := h.active g }) :
    ∃ t c, exec i s = .next t ∧ t.cord? h.ref = some c ∧ SameMemory s t ∧ c.icount = h.cord.icount + 1 ∧
      (∀ k ∈ h.set, c.lane k = if (h.cord.lane k).guard g then (h.cord.lane k).exited else h.next i (h.cord.lane k)) ∧
      ∀ k, k ∉ h.set → Resting (h.cord.lane k) (c.lane k) := by
  obtain ⟨⟨x, hcord, hfl⟩, hmem⟩ := hm
  obtain ⟨t, c, y, h1, h2, h3, rfl, hcount, hlane⟩ :=
    finish_moves (h := h) (i := i) (d := { s := m, stay := h.active g }) rfl hcord rfl rfl
  have hy (k : Nat) : y.lane k = if k ∈ h.active g then (h.cord.lane k).exited
      else if k ∈ h.set then h.next i (h.cord.lane k) else h.cord.lane k := by
    rw [hlane, movedOn_lane rfl hx.nodup, hfl.lane, leaving_lane hx]
    by_cases ha : k ∈ h.active g
    · simp [ha]
    · simp [ha]
  refine ⟨t, rejoin y, e.trans h1, h2, hmem.trans h3.sameMemory, ?_, fun k hk => ?_, fun k hk => ?_⟩
  · rw [rejoin_icount, hcount, hfl.icount, Here.leaving, Cord.onLanes_rest]
  · have hst : y.lane k = if (h.cord.lane k).guard g then (h.cord.lane k).exited else h.next i (h.cord.lane k) := by
      simp only [hy, mem_active, hk, true_and, if_true]
    rw [rejoin_lane_of_ne_wait, hst]
    rw [hst]
    split
    · exact (by decide : LaneState.exit ≠ .wait)
    · rw [Here.next, hx.run hk]
      decide
  · have hst : y.lane k = h.cord.lane k := by
      rw [hy, if_neg (fun ha => hk (mem_active.1 ha).1), if_neg hk]
    rw [← hst]
    rcases rejoin_lane y k with hr | ⟨-, hr⟩
    · rw [hr]; rfl
    · exact hr

end

theorem taskWaits_eq_false {h : Here} {out : List Nat} (ht : h.block.task.isSome = true → h.cord.gathers = []) :
    taskWaits h out = false := by
  unfold taskWaits
  by_cases hb : h.block.task.isSome = true
  · simp [ht hb]
  · simp [hb]

/-- R145. -/
theorem exit_departs {o : OG} {s : State} {h : Here} (hx : Executes (.exit o) s h) (ht : h.block.task.isSome = true → h.cord.gathers = []) :
    exec (.exit o) s = finish h (.exit o) { s := h.departed o.gd s, stay := h.active o.gd } := by
  refine (issue_eq hx _).trans ?_
  dsimp only
  rw [taskWaits_eq_false ht]
  rfl

/-- R144: a `ret` that every active lane executes at depth 0. -/
theorem ret_departs {o : OG} {s : State} {h : Here} (hx : Executes (.ret o) s h) (ht : h.block.task.isSome = true → h.cord.gathers = [])
    (h0 : ∀ k ∈ h.active o.gd, (h.cord.lane k).frame.ret = none) :
    exec (.ret o) s = finish h (.ret o)
      { s := if (h.active o.gd).isEmpty then opened s h else h.departed o.gd s, stay := h.active o.gd } := by
  have hout : (h.active o.gd).filter (fun k => (h.cord.lane k).frame.ret.isNone) = h.active o.gd :=
    List.filter_eq_self.2 (fun k hk => by rw [h0 k hk]; rfl)
  have hback : (h.active o.gd).filter (fun k => !(h.cord.lane k).frame.ret.isNone) = [] :=
    List.filter_eq_nil_iff.2 (fun k hk => by rw [h0 k hk]; decide)
  refine (issue_eq hx _).trans ?_
  simp only [hout, hback, taskWaits_eq_false ht, retFills, List.any_nil, Bool.false_and, Bool.or_false, Bool.false_eq_true, if_false,
    eachLane, List.map_nil, actOut]
  rfl

/-- The same, for what the statement looks at of a lane: its state, registers and predicates. -/
theorem departs_registers {i : Instr} {s : State} {h : Here} {g : Guard} {m : State} (hx : Issues i s h)
    (hm : (∃ x, m.cord? h.ref = some x ∧ (h.leaving g).Flagged x) ∧ SameMemory s m)
    (e : exec i s = finish h i { s := m, stay := h.active g }) :
    ∃ t c, exec i s = .next t ∧ t.cord? h.ref = some c ∧ SameMemory s t ∧ c.icount = h.cord.icount + 1 ∧
      (∀ k ∈ h.set, if (h.cord.lane k).guard g then (c.lane k).st = .exit ∧ (c.lane k).regs = (h.cord.lane k).regs
        else c.lane k = h.next i (h.cord.lane k)) ∧
      ∀ k, k ∉ h.set → (c.lane k).regs = (h.cord.lane k).regs ∧ (c.lane k).p = (h.cord.lane k).p := by
  obtain ⟨t, c, h1, h2, h3, h4, h5, h6⟩ := departs hx g hm e
  refine ⟨t, c, h1, h2, h3, h4, fun k hk => ?_, fun k hk => (h6 k hk).keeps⟩
  have hl := h5 k hk
  split
  · next hg =>
    rw [if_pos hg] at hl
    rw [hl]
    exact ⟨rfl, rfl⟩
  · next hg => rw [hl, if_neg hg]

/-- Settles O20: lanes that leave change their cord alone, and a rejoin moves the lanes that wait where all have joined. -/
theorem exitAndRejoin : Obligations.ExitAndRejoin := by
  unfold Obligations.ExitAndRejoin
  refine ⟨⟨fun o s h hx ht => ?_, fun o s h hx ht h0 => ?_⟩, fun c k hu hk hw hd => ?_, fun s h hx _ => ?_⟩
  · exact departs_registers hx.toIssues (departed_keeps hx.toIssues o.gd) (exit_departs hx ht)
  · refine departs_registers hx.toIssues ?_ (ret_departs hx ht h0)
    split
    · next ha => exact opened_keeps hx.toIssues o.gd (List.isEmpty_iff.1 ha)
    · exact departed_keeps hx.toIssues o.gd
  · have hr : k ∈ released c ↔ c.joined (c.lane k).pc := by simp only [mem_released, hk, hw, hd, true_and]
    rw [rejoin_lane_eq hu]
    exact ⟨fun hm => if_pos (hr.2 hm), fun hm => if_neg (fun hk => hm (hr.1 hk))⟩
  · obtain ⟨t, h1, h2, h3⟩ := rjoin_next hx
    refine ⟨t, _, h1, h2, h3, joiningCount_counted h s.clock, fun ha k hk ht => ?_, fun ha k hk => ?_⟩
    · exact joiningCount_lane_joined hx ((joining_joined hx).2 ha) s.clock hk ht
    · exact joiningCount_lane_waits hx (fun hj => ha ((joining_joined hx).1 hj)) s.clock hk

end Sys2Proof.Machine

namespace Sys2Proof.Machine

/-! ### A cord listed twice (O28)

The statement is about every state, and a table may list a number twice. `get?` answers from the first entry, while the armature space finds
a cord by its quarter among all entries: it finds the second, which does not run, and writes the lanes of the first, which does. -/

/-- A lane in RUN at 0x1000 whose v1, the address and the value of its store, holds `x`. -/
def twinLane (x : Word) : Lane := { Lane.absent with regs := Tab.empty.set 1 x, st := .run, pc := 0x1000 }

/-- The cord that executes: the address of lane 0 is misaligned, and that of lane 1 is of v2 of lane 1 of the cord in quarter 1. -/
def twinCord : Cord :=
  { Cord.fresh with lanes := ⟨[(0, twinLane 1), (1, twinLane 0x240408)]⟩, present := 3, vbud := 16, ubud := 16 }

/-- A second entry of the same number, in quarter 1. -/
def twinGhost : Cord := { Cord.fresh with quarter := 1, vbud := 16, ubud := 16 }

def twinBlock : Block := { Block.fresh with status := .running, cords := ⟨[(0, twinCord), (0, twinGhost)]⟩ }

def twinState : State := State.reset.setBlock 0 0 twinBlock

def twinHere : Here := { ref := ⟨0, 0, 0⟩, block := twinBlock, cord := twinCord, set := [0, 1], addr := 0x1000 }

/-- A store of v1 to the address in v1, in the armature space. -/
def twinStore : OSt :=
  { gd := ⟨7, false⟩, u := false, a := 1, b := 1, imm := 0, space := .arm, el := 0, rel := false, scope := .lane, la := 0 }

theorem here_twin : here twinState = some twinHere := by decide +kernel

theorem twin_executes : Executes (.st32 twinStore) twinState twinHere where
  stands := ⟨twinHere, here_twin, rfl, by decide, by decide +kernel⟩
  lanes := by decide +kernel
  parked := fun h => by revert h; decide
  latency := by decide
  flags := by decide
  order := by decide
  guard := by decide
  range := by decide
  release := fun _ => rfl
  sound := by decide +kernel

/-- What lane 1 holds in v2 once the store has executed. -/
def twinLeft (o : Out) : Option Word :=
  match o with
  | .next t => (t.cord? twinHere.ref).map (fun c => (c.lane 1).regs.get 2 0)
  | _ => none

theorem twin_left : twinLeft (exec (.st32 twinStore) twinState) = some 0x240408 := by decide +kernel

/-- Refutes O28: beside a lane that parks, another lane of the store completes with a register that the store itself has written, where the
block lists the cord twice: the armature finds the second entry by its quarter, and writes the lanes of the first. -/
theorem not_accessFaultsPark : ¬ Obligations.AccessFaultsPark := by
  unfold Obligations.AccessFaultsPark
  intro h
  -- nothing holds the store back, lane 0 alone faults, the stores are canonical, and the fault is ALIGN
  obtain ⟨t, c, ht, hc, -, -, -, hrest, -⟩ := h.1 4 .st32 (by simp) twinStore twinState twinHere twin_executes (by decide +kernel)
    (by decide +kernel) (by decide +kernel) cAlign (by decide +kernel)
  have hl : c.lane 1 = twinHere.next (.st32 twinStore) (twinCord.lane 1) := hrest 1 (by decide) (by decide +kernel)
  have hv := twin_left
  rw [ht, twinLeft, hc, Option.map_some, hl] at hv
  exact absurd hv (by decide)

end Sys2Proof.Machine

namespace Sys2Proof.Machine

/-! ### What a translation and a read of global memory leave behind (R265, R309, R316) -/

/-- Only micro-TLBs and performance counters of cores, TLBs of dies and counters of corrected errors differ. -/
structure Touched (s t : State) : Prop where
  core : ∀ n, t.core n = { s.core n with etlb := (t.core n).etlb, gtlb := (t.core n).gtlb, perf := (t.core n).perf }
  die : ∀ d, t.die d = { s.die d with tlb := (t.die d).tlb, ce := (t.die d).ce }
  rest : t = { s with cores := t.cores, dies := t.dies, corrected := t.corrected }

theorem Touched.refl (s : State) : Touched s s := ⟨fun _ => rfl, fun _ => rfl, rfl⟩

theorem Touched.trans {s t u : State} (h : Touched s t) (h' : Touched t u) : Touched s u where
  core n := by rw [h'.core n, h.core n]
  die d := by rw [h'.die d, h.die d]
  rest := by rw [h'.rest, h.rest]

theorem OnlyCounts.touched {s t : State} (h : OnlyCounts s t) : Touched s t where
  core n := by rw [h.rest]; rfl
  die d := by rw [h.die d]
  rest := by rw [h.rest]

theorem countPerf_touched (s : State) (n ev : Nat) : Touched s (countPerf s n ev) where
  core m := by rw [countPerf_core]
  die d := by rw [countPerf_rest]; rfl
  rest := by rw [countPerf_rest]

theorem touched_setCore {s : State} {n : Nat} {c : Core} (h : c = { s.core n with etlb := c.etlb, gtlb := c.gtlb, perf := c.perf }) :
    Touched s (s.setCore n c) where
  core m := by
    rw [State.core_setCore]
    split
    · subst_vars; exact h
    · rfl
  die _ := rfl
  rest := rfl

theorem touched_setDie {s : State} {d : Nat} {x : Die} (h : x = { s.die d with tlb := x.tlb, ce := x.ce }) : Touched s (s.setDie d x) where
  core _ := rfl
  die e := by
    rw [State.die_setDie]
    split
    · subst_vars; exact h
    · rfl
  rest := rfl

theorem touchTlb_touched (s : State) (n : Nat) (g : Bool) (ctx va : Nat) : Touched s (touchTlb s n g ctx va) := by
  unfold touchTlb
  split
  · exact .refl s
  · refine Touched.trans (touched_setCore ?_) (touched_setDie rfl)
    cases g <;> rfl

theorem touch_touched (s : State) (n : Nat) (g : Bool) (ctx va : Nat) : Touched s (touch s n g ctx va) := by
  have walked (miss : Bool) : Touched s (touchTlb (if miss then noteWalk s (dieOf n) ctx va else s) n g ctx va) := by
    refine Touched.trans ?_ (touchTlb_touched _ _ _ _ _)
    split
    · exact (noteWalk_onlyCounts _ _ _ _).touched
    · exact .refl s
  unfold touch
  dsimp only
  generalize (decide (va < 2 ^ 52) && (tlbFind (if g then (s.core n).gtlb else (s.core n).etlb) ctx va).isNone) = miss
  cases miss with
  | false => exact walked false
  | true => exact (walked true).trans (countPerf_touched _ n 9)

section
variable {s t : State} (h : Touched s t)
include h

theorem Touched.cord? (r : CordRef) : t.cord? r = s.cord? r := by
  simp only [State.cord?, State.block?]
  rw [h.core]

theorem Touched.reads (r : CordRef) : Reads r s t where
  cords q _ := h.cord? q
  spad n := by rw [h.core n]
  acc n := by rw [h.core n]
  code n := by rw [h.core n]
  map n := by rw [h.core n]
  res n := by rw [h.core n]
  ops n := by rw [h.core n]
  gens n := by rw [h.core n]
  chans n := by rw [h.core n]
  tiles n := by rw [h.core n]
  lines n := ⟨[], by rw [h.core n, List.append_nil], fun _ hx => absurd hx List.not_mem_nil⟩
  hbm := by rw [h.rest]
  host := by rw [h.rest]
  peers := by rw [h.rest]
  clusters := by rw [h.rest]
  dies := h.die
  ctxs := by rw [h.rest]
  saved := by rw [h.rest]
  mgmt := by rw [h.rest]
  tracks e := by rw [h.rest]; exact ⟨e, rfl⟩

theorem Touched.sameMemory : SameMemory s t where
  spad n a := by rw [h.core n]
  acc n a := by rw [h.core n]
  code n a := by rw [h.core n]
  hbm a := by rw [h.rest]
  host a := by rw [h.rest]
  peers p a := by rw [h.rest]

end

/-- What an issue or an access does apart from reads leaves the reads' traces as they are. -/
theorem Reads.apart {r : CordRef} {s t u : State} (h : Reads r s t) (h' : Apart r t u) : Reads r s u where
  cords q hq := (h'.cords q hq).trans (h.cords q hq)
  spad n := (h'.spad n).trans (h.spad n)
  acc n := (h'.acc n).trans (h.acc n)
  code n := (h'.code n).trans (h.code n)
  map n := (h'.map n).trans (h.map n)
  res n := (h'.res n).trans (h.res n)
  ops n := (h'.ops n).trans (h.ops n)
  gens n := (h'.gens n).trans (h.gens n)
  chans n := (h'.chans n).trans (h.chans n)
  tiles n := (h'.tiles n).trans (h.tiles n)
  lines n := by rw [h'.lines n]; exact h.lines n
  hbm := h'.hbm.trans h.hbm
  host := h'.host.trans h.host
  peers := h'.peers.trans h.peers
  clusters := h'.clusters.trans h.clusters
  dies d := by
    have hd : u.die d = t.die d := by simp only [State.die, h'.dies]
    rw [hd]
    exact h.dies d
  ctxs := h'.ctxs.trans h.ctxs
  saved := h'.saved.trans h.saved
  mgmt := h'.mgmt.trans h.mgmt
  tracks e := by
    obtain ⟨e', h1⟩ := h.tracks e
    obtain ⟨e'', h2⟩ := h'.tracks e'
    exact ⟨e'', h2.trans h1⟩

/-! ### What a cord sees of global memory -/

/-- Global memory is the same. -/
structure SameGlobal (s t : State) : Prop where
  hbm : t.hbm = s.hbm
  host : t.host = s.host
  peers : t.peers = s.peers

theorem SameGlobal.targetRead {s t : State} (h : SameGlobal s t) (n : Nat) (x : Target) : targetRead t n x = targetRead s n x := by
  cases x with
  | hbm a => rw [Machine.targetRead, h.hbm]; rfl
  | host a => rw [Machine.targetRead, h.host]; rfl
  | peer p a => rw [Machine.targetRead, h.peers]; rfl

theorem SameGlobal.show_ {s t : State} (h : SameGlobal s t) (p : Place) (l : List Byte) : SameGlobal (s.show_ p l) (t.show_ p l) := by
  unfold State.show_
  split
  · exact ⟨h.hbm, h.host, h.peers⟩
  · exact ⟨by rw [h.hbm], h.host, h.peers⟩
  · exact ⟨h.hbm, by rw [h.host], h.peers⟩
  · exact ⟨h.hbm, h.host, by rw [h.peers]⟩

theorem SameGlobal.showAll {s t : State} (h : SameGlobal s t) (l : List (Place × List Byte)) :
    SameGlobal (l.foldl (fun s x => s.show_ x.1 x.2) s) (l.foldl (fun s x => s.show_ x.1 x.2) t) := by
  induction l generalizing s t with
  | nil => exact h
  | cons x r ih => exact ih (h.show_ _ _)

theorem Touched.sameGlobal {s t : State} (h : Touched s t) : SameGlobal s t := ⟨by rw [h.rest], by rw [h.rest], by rw [h.rest]⟩

/-- A cord sees the same at a target after a translation. -/
theorem Touched.seenBy {s t : State} (h : Touched s t) (y : Eye) : SameGlobal (s.seenBy y) (t.seenBy y) := by
  have ht : t.tracks = s.tracks := by rw [h.rest]
  have hr : t.raced = s.raced := by rw [h.rest]
  unfold State.seenBy
  rw [ht, hr]
  exact h.sameGlobal.showAll _

/-! ### Writes at a target -/

theorem tracks_targetWrite (s : State) (l : List Byte) (x : Target) :
    (targetWrite s l x).tracks = s.tracks ∧ (targetWrite s l x).raced = s.raced := by
  cases x with
  | hbm a =>
    simp only [targetWrite]
    split
    · exact ⟨rfl, rfl⟩
    · exact ⟨rfl, rfl⟩
  | host a => exact ⟨rfl, rfl⟩
  | peer p a => exact ⟨rfl, rfl⟩

theorem targetWrite_onTracks (s : State) (l : List Byte) (x : Target) (ts : List Track) (b : Bool) :
    targetWrite { s with tracks := ts, raced := b } l x = { targetWrite s l x with tracks := ts, raced := b } := by
  cases x with
  | hbm a =>
    simp only [targetWrite]
    split
    · next h1 =>
      split
      · rfl
      · next h2 => exact absurd h1 h2
    · next h1 =>
      split
      · next h2 => exact absurd h2 h1
      · rfl
  | host a => rfl
  | peer p a => rfl

/-- A write at a target changes the same whatever the tracks are. -/
theorem OnlyTracks.targetWrite {s t : State} (h : OnlyTracks s t) (l : List Byte) (x : Target) :
    OnlyTracks (targetWrite s l x) (targetWrite t l x) := by
  obtain ⟨h1, h2⟩ := tracks_targetWrite s l x
  obtain ⟨h3, h4⟩ := tracks_targetWrite t l x
  refine ⟨?_, fun e => ?_⟩
  · rw [h3, h4, ← targetWrite_onTracks, ← h.rest]
  · rw [h1] at e
    rw [h3, h4, h2]
    exact h.nil e

end Sys2Proof.Machine

namespace Sys2Proof.Machine

/-! ### Delivery (R26, R145, R159) -/

theorem sublist_fst_zip {α β : Type} (xs : List α) (ys : List β) : ((xs.zip ys).map (·.1)).Sublist xs := by
  induction xs generalizing ys with
  | nil => exact .slnil
  | cons x r ih =>
    cases ys with
    | nil => exact List.nil_sublist _
    | cons y q => exact (ih q).cons_cons x

theorem Lane.foldl_put_rest (ws : List (Nat × Word)) (l : Lane) :
    ws.foldl (fun l y => l.put y.1 y.2) l = { l with regs := (ws.foldl (fun l y => l.put y.1 y.2) l).regs } := by
  induction ws generalizing l with
  | nil => rfl
  | cons y r ih =>
    rw [List.foldl_cons, ih, l.put_rest]

/-- What delivery makes of one lane, whose destination registers are `ds`. -/
def Access.fill (a : Access) (ws : List Word) (l : Lane) (ds : List Nat) : Lane :=
  if a.gone l then l else (ds.zip ws).foldl (fun l y => l.put y.1 y.2) l

theorem Access.fill_rest (a : Access) (ws : List Word) (l : Lane) (ds : List Nat) :
    a.fill ws l ds = { l with regs := (a.fill ws l ds).regs } := by
  unfold Access.fill
  split
  · rfl
  · exact Lane.foldl_put_rest _ l

/-- Delivery to one lane. -/
def Access.give (a : Access) (ws : List Word) (c : Cord) (x : Nat × List Nat) : Cord :=
  if a.gone (c.lane x.1) then c else c.setLane x.1 ((x.2.zip ws).foldl (fun l y => l.put y.1 y.2) (c.lane x.1))

theorem deliver_eq (c : Cord) (a : Access) (ws : List Word) : deliver c a ws = (a.lanes.zip a.dst).foldl (a.give ws) c := rfl

theorem give_lane (a : Access) (ws : List Word) (c : Cord) (x : Nat × List Nat) (k : Nat) :
    (a.give ws c x).lane k = if k = x.1 then a.fill ws (c.lane k) x.2 else c.lane k := by
  unfold Access.give Access.fill
  split
  · next hg =>
    split
    · subst_vars
      rw [if_pos hg]
    · rfl
  · next hg =>
    split
    · subst_vars
      rw [if_neg hg, Cord.lane_setLane_same]
    · next hk => rw [Cord.lane_setLane_ne _ hk]

theorem give_rest (a : Access) (ws : List Word) (c : Cord) (x : Nat × List Nat) :
    a.give ws c x = { c with lanes := (a.give ws c x).lanes } := by
  unfold Access.give
  split <;> rfl

theorem foldl_give_rest (a : Access) (ws : List Word) (xs : List (Nat × List Nat)) (c : Cord) :
    xs.foldl (a.give ws) c = { c with lanes := (xs.foldl (a.give ws) c).lanes } := by
  induction xs generalizing c with
  | nil => rfl
  | cons x r ih => rw [List.foldl_cons, ih, give_rest]

theorem foldl_give_lane_of_ne (a : Access) (ws : List Word) {xs : List (Nat × List Nat)} (c : Cord) {k : Nat} (hk : ∀ x ∈ xs, k ≠ x.1) :
    (xs.foldl (a.give ws) c).lane k = c.lane k := by
  induction xs generalizing c with
  | nil => rfl
  | cons x r ih =>
    rw [List.foldl_cons, ih _ (fun y hy => hk y (List.mem_cons_of_mem _ hy)), give_lane, if_neg (hk x (List.mem_cons_self ..))]

theorem foldl_give_lane (a : Access) (ws : List Word) {xs : List (Nat × List Nat)} (hn : (xs.map (·.1)).Nodup) (c : Cord) {k : Nat}
    {ds : List Nat} (hk : (k, ds) ∈ xs) : (xs.foldl (a.give ws) c).lane k = a.fill ws (c.lane k) ds := by
  induction xs generalizing c with
  | nil => exact absurd hk List.not_mem_nil
  | cons x r ih =>
    rw [List.map_cons, List.nodup_cons] at hn
    rw [List.foldl_cons]
    rcases List.mem_cons.1 hk with rfl | hr
    · rw [foldl_give_lane_of_ne a ws _ (k := k) (fun y hy e => hn.1 (List.mem_map.2 ⟨y, hy, e.symm⟩)), give_lane, if_pos rfl]
    · rw [ih hn.2 _ hr, give_lane, if_neg]
      exact fun e => hn.1 (e ▸ List.mem_map_of_mem hr)

/-- Delivery changes registers of lanes alone. -/
theorem deliver_lane_rest (c : Cord) (a : Access) (ws : List Word) (k : Nat) :
    (deliver c a ws).lane k = { c.lane k with regs := ((deliver c a ws).lane k).regs } := by
  rw [deliver_eq]
  induction a.lanes.zip a.dst generalizing c with
  | nil => rfl
  | cons x r ih =>
    rw [List.foldl_cons, ih, give_lane]
    split
    · rw [a.fill_rest]
    · rfl

/-! ### Lanes that run on (R26) -/

/-- A lane that waits for data, at the end of the wait. -/
def Cord.woken (c : Cord) (k : Nat) : Lane := if (c.lane k).st == .wait && (c.lane k).data then c.toRun k else c.lane k

/-- One lane wakes. -/
def wakeOne (c : Cord) (k : Nat) : Cord := if (c.lane k).st == .wait && (c.lane k).data then c.setLane k (c.toRun k) else c

theorem wake_eq (c : Cord) (ks : List Nat) : wake c ks = ks.foldl wakeOne c := rfl

theorem wakeOne_rest (c : Cord) (k : Nat) : wakeOne c k = { c with lanes := (wakeOne c k).lanes } := by
  unfold wakeOne
  split <;> rfl

theorem wakeOne_lane (c : Cord) (j k : Nat) : (wakeOne c j).lane k = if k = j then c.woken k else c.lane k := by
  unfold wakeOne Cord.woken
  by_cases hk : k = j
  · subst hk
    rw [if_pos rfl]
    split
    · rw [Cord.lane_setLane_same]
    · rfl
  · rw [if_neg hk]
    split
    · rw [Cord.lane_setLane_ne _ hk]
    · rfl

theorem wakeOne_woken (c : Cord) {j k : Nat} (hk : k ≠ j) : (wakeOne c j).woken k = c.woken k := by
  have ho : (wakeOne c j).owes k = c.owes k := by
    rw [wakeOne_rest]
    rfl
  unfold Cord.woken Cord.toRun
  rw [wakeOne_lane, if_neg hk, ho]

theorem wake_rest (c : Cord) (ks : List Nat) : wake c ks = { c with lanes := (wake c ks).lanes } := by
  rw [wake_eq]
  induction ks generalizing c with
  | nil => rfl
  | cons j r ih => rw [List.foldl_cons, ih, wakeOne_rest]

theorem wake_lane (c : Cord) {ks : List Nat} (hn : ks.Nodup) (k : Nat) : (wake c ks).lane k = if k ∈ ks then c.woken k else c.lane k := by
  rw [wake_eq]
  induction ks generalizing c with
  | nil => rfl
  | cons j r ih =>
    rw [List.nodup_cons] at hn
    rw [List.foldl_cons, ih _ hn.2]
    by_cases hk : k = j
    · subst hk
      rw [if_neg hn.1, wakeOne_lane, if_pos rfl, if_pos (List.mem_cons_self ..)]
    · simp only [wakeOne_woken c hk, wakeOne_lane, hk, if_false, List.mem_cons, false_or]

/-- Waking changes no register. -/
theorem woken_regs (c : Cord) (k : Nat) : (c.woken k).regs = (c.lane k).regs := by
  unfold Cord.woken Cord.toRun
  split
  · split <;> rfl
  · rfl

/-! ### The cord once an access has taken place -/

/-- The cord after access `i`, `a`, has given its words. -/
def Cord.given (c : Cord) (i : Nat) (a : Access) (ws : List Word) : Cord := rejoin (wake (deliver (c.dropAccess i) a ws) a.lanes)

theorem rejoin_regs (c : Cord) (k : Nat) : ((rejoin c).lane k).regs = (c.lane k).regs := by
  rcases rejoin_lane c k with h | ⟨-, h⟩
  · rw [h]
  · exact h.keeps.1

theorem given_gathers (c : Cord) (i : Nat) (a : Access) (ws : List Word) : (c.given i a ws).gathers = c.gathers.eraseIdx i := by
  rw [Cord.given, rejoin_rest, wake_rest, deliver_eq, foldl_give_rest]
  rfl

section
variable (c : Cord) (i : Nat) {a : Access} (hn : a.lanes.Nodup) (ws : List Word)
include hn

theorem given_regs (k : Nat) : ((c.given i a ws).lane k).regs = ((deliver (c.dropAccess i) a ws).lane k).regs := by
  rw [Cord.given, rejoin_regs, wake_lane _ hn]
  split
  · exact woken_regs _ k
  · rfl

/-- Data goes into the registers of a lane that has not exited. -/
theorem given_regs_of_mem {k : Nat} {ds : List Nat} (hk : (k, ds) ∈ a.lanes.zip a.dst) (hg : a.gone (c.lane k) = false) :
    ((c.given i a ws).lane k).regs = ((ds.zip ws).foldl (fun l z => l.put z.1 z.2) (c.lane k)).regs := by
  have hz := hn.sublist (sublist_fst_zip a.lanes a.dst)
  have hl : (c.dropAccess i).lane k = c.lane k := rfl
  rw [given_regs c i hn, deliver_eq, foldl_give_lane a ws hz _ hk, hl, Access.fill, hg]
  rfl

/-- The other lanes keep theirs. -/
theorem given_regs_of_not_mem {k : Nat} (hk : k ∉ a.lanes) : ((c.given i a ws).lane k).regs = (c.lane k).regs := by
  rw [given_regs c i hn, deliver_eq, foldl_give_lane_of_ne a ws _ (k := k) (fun x hx e => hk (e ▸ (List.of_mem_zip hx).1))]
  rfl

/-- A lane that waited for nothing else runs on where it stands. -/
theorem given_runs {k : Nat} (hk : k ∈ a.lanes) (hw : (c.lane k).st = .wait) (hd : (c.lane k).data = true)
    (ho : (c.dropAccess i).owes k = false) : ((c.given i a ws).lane k).st = .run ∧ ((c.given i a ws).lane k).pc = (c.lane k).pc := by
  have hdel := deliver_lane_rest (c.dropAccess i) a ws k
  have ho' : (deliver (c.dropAccess i) a ws).owes k = false := by
    rw [deliver_eq, foldl_give_rest]
    exact ho
  have hwake : (wake (deliver (c.dropAccess i) a ws) a.lanes).lane k =
      { (deliver (c.dropAccess i) a ws).lane k with st := .run, data := false } := by
    have hwait : ((deliver (c.dropAccess i) a ws).lane k).st = .wait := by rw [hdel]; exact hw
    have hdata : ((deliver (c.dropAccess i) a ws).lane k).data = true := by rw [hdel]; exact hd
    rw [wake_lane _ hn, if_pos hk, Cord.woken, hwait, hdata, Cord.toRun, ho']
    rfl
  have hrun : (LaneState.run : LaneState) ≠ .wait := by decide
  rw [Cord.given, rejoin_lane_of_ne_wait (by rw [hwake]; exact hrun), hwake]
  exact ⟨rfl, by rw [hdel]; rfl⟩

end

end Sys2Proof.Machine

namespace Sys2Proof.Machine

/-! ### An access that takes place (R158 to R161) -/

/-- The words of a size that lie in some bytes. -/
def wordsOf (n : Nat) (l : List Byte) : List Word := (List.range (n / 4)).map (fun j => BitVec.ofNat 32 (leNat ((l.drop (4 * j)).take 4)))

/-- The order that the marks of an access bring. -/
def Access.ordered (a : Access) (x : Agent) (s : State) : State :=
  let s := if a.acq then s.order (Wrote.acquire x a.scope) else s
  if a.acq && a.rel then s.order (Wrote.release x a.scope s.clock) else s

theorem Access.ordered_onlyTracks (a : Access) (x : Agent) (s : State) : OnlyTracks s (a.ordered x s) := by
  have hacq : OnlyTracks s (if a.acq then s.order (Wrote.acquire x a.scope) else s) := by
    split
    · exact order_onlyTracks _ _
    · exact .refl s
  unfold Access.ordered
  dsimp only
  split
  · exact hacq.trans (order_onlyTracks _ _)
  · exact hacq

theorem mend_onlyCe (s : State) (n : Nat) {c : Core} (h : c = { s.core n with ce := c.ce, bad := c.bad, soft := c.soft }) :
    OnlyCe s (s.setCore n c) := by
  refine ⟨fun m => ?_, rfl⟩
  rw [State.core_setCore]
  split
  · subst_vars; exact h
  · rfl

/-- Only notes of errors differ where an access mends registers. -/
theorem mendDst_rest (c : Core) (n : Nat) (x : Cord) (a : Access) :
    mendDst c n x a = { c with bad := (mendDst c n x a).bad, soft := (mendDst c n x a).soft } := by
  unfold mendDst
  split
  · rfl
  · refine foldl_mends _ (fun c y => ?_) _ c
    split
    · rfl
    · exact foldl_mends _ (fun _ _ => rfl) _ c

/-- The state once an access has given its words: the registers are mended, and the cord is `y`. -/
def landed (r : CordRef) (c : Cord) (a : Access) (y : Cord) (s : State) : State :=
  (s.setCore r.core (mendDst (s.core r.core) c.slotNo c a)).setCord r y

section
variable {s : State} {r : CordRef} {c : Cord} (hc : s.cord? r = some c)

theorem landed_apart (r : CordRef) (c : Cord) (a : Access) (y : Cord) (s : State) : Apart r s (landed r c a y s) :=
  ((mend_onlyCe s r.core (by rw [mendDst_rest])).apart r).trans (apart_setCord _ _ _)

include hc

theorem landed_cord? (a : Access) (y : Cord) : (landed r c a y s).cord? r = some y :=
  State.cord?_setCord_same (((mend_onlyCe s r.core (by rw [mendDst_rest])).cord? r).trans hc) y

end

section
variable {s : State} {r : CordRef} {i : Nat} {b : Block} {c : Cord} {a : Access} (hb : s.block? r.core r.slot = some b)
  (hc : s.cord? r = some c) (ha : c.gathers[i]? = some a)
include hb hc ha

/-- An access whose address does not translate parks its lanes. -/
theorem perform_faults {e : Byte} (ht : a.target s r.core b.ctx = .error e) :
    ∃ u, KeepsCord r s u ∧ perform r i s = u.setCord r (rejoin (parkLate (c.dropAccess i) a e)) := by
  have hk : KeepsCord r s (touch s r.core true b.ctx a.addr) := ⟨(touch_touched _ _ _ _ _).cord? r, (touch_touched _ _ _ _ _).sameMemory⟩
  unfold perform
  simp only [hb, hc, ha, ht]
  refine ⟨_, ?_, rfl⟩
  split
  · exact hk.trans ⟨rfl, fun _ _ => rfl, fun _ _ => rfl, fun _ _ => rfl, fun _ => rfl, fun _ => rfl, fun _ _ => rfl⟩
  · exact hk

variable {t : Target} (ht : a.target s r.core b.ctx = .ok t)
include ht

theorem perform_load (ho : a.op = .load) :
    ∃ u, OnlyTracks (noteTarget (touch s r.core true b.ctx a.addr) a.size t) u ∧ perform r i s = landed r c a (c.given i a (wordsOf a.size
      (targetRead ((noteTarget (touch s r.core true b.ctx a.addr) a.size t).seenBy ⟨.cord r.core b.id r.cord, a.plain⟩) a.size t))) u := by
  unfold perform
  simp only [hb, hc, ha, ht, ho, AccessOp.reads, AccessOp.isAtom, if_true]
  exact ⟨_, (saw_onlyTracks _ _ _ _ _ _).trans (a.ordered_onlyTracks (.cord r.core b.id r.cord) _), rfl⟩

theorem perform_store {l : List Byte} (ho : a.op = .store l) :
    ∃ u, OnlyTracks (targetWrite (touch s r.core true b.ctx a.addr) l t) u ∧ perform r i s = landed r c a (c.given i a []) u := by
  unfold perform
  simp only [hb, hc, ha, ht, ho, AccessOp.reads]
  exact ⟨_, ((a.ordered_onlyTracks (.cord r.core b.id r.cord) _).targetWrite l t).trans (wroteAt_onlyTracks _ _ _ _ _), rfl⟩

theorem perform_atom {op : AtomOp} {x d : Word} (ho : a.op = .atom op x d) :
    let old := wordsOf a.size (targetRead (noteTarget (touch s r.core true b.ctx a.addr) a.size t) a.size t)
    ∃ u, OnlyTracks
        (targetWrite (noteTarget (touch s r.core true b.ctx a.addr) a.size t) (natLe 4 (atomNew op (old.headD 0) x d).toNat) t) u ∧
      perform r i s = landed r c a (c.given i a old) u := by
  unfold perform
  simp only [hb, hc, ha, ht, ho, AccessOp.reads, AccessOp.isAtom, if_true]
  exact ⟨_, (((saw_onlyTracks _ _ _ _ _ _).trans (a.ordered_onlyTracks (.cord r.core b.id r.cord) _)).targetWrite _ t).trans
    (wroteAt_onlyTracks _ _ _ _ _), rfl⟩

end

end Sys2Proof.Machine

namespace Sys2Proof.Machine

/-! ### Lanes that an access parks late (R27, R149, R158, R318) -/

/-- The lanes of an access that have not exited. -/
def Access.owners (a : Access) (c : Cord) : List Nat := a.lanes.filter (fun k => !a.gone (c.lane k))

theorem parkLate_keeps (c : Cord) (a : Access) (e : Byte) :
    (parkLate c a e).lanes = (c.onLanes (a.owners c) (fun k _ => lateLane c a k)).lanes ∧ (parkLate c a e).gathers = c.gathers := by
  have hg : (c.onLanes (a.owners c) (fun k _ => lateLane c a k)).gathers = c.gathers := by rw [Cord.onLanes_rest]
  unfold parkLate
  dsimp only
  split
  · exact ⟨rfl, hg⟩
  · split
    · exact ⟨rfl, hg⟩
    · exact ⟨rfl, hg⟩

theorem parkLate_lane (c : Cord) {a : Access} (hn : a.lanes.Nodup) (e : Byte) {k : Nat} (hk : k ∈ a.lanes)
    (hg : a.gone (c.lane k) = false) : (parkLate c a e).lane k = lateLane c a k := by
  have hm : k ∈ a.owners c := List.mem_filter.2 ⟨hk, by rw [hg]; rfl⟩
  rw [Cord.lane, (parkLate_keeps c a e).1]
  exact c.lane_onLanes_mem (hn.filter _) hm _

/-- The cord once access `i`, `a`, has parked its lanes. -/
def Cord.faulted (c : Cord) (i : Nat) (a : Access) (e : Byte) : Cord := rejoin (parkLate (c.dropAccess i) a e)

theorem faulted_gathers (c : Cord) (i : Nat) (a : Access) (e : Byte) : (c.faulted i a e).gathers = c.gathers.eraseIdx i := by
  rw [Cord.faulted, rejoin_rest]
  exact (parkLate_keeps _ a e).2

section
variable (c : Cord) (i : Nat) {a : Access} (hn : a.lanes.Nodup) (e : Byte) {k : Nat} (hk : k ∈ a.lanes)
include hn hk

/-- A lane whose code the access belongs to parks on the instruction. -/
theorem faulted_lane (ho : (a.outer && (c.lane k).handles) = false) (hs : (c.lane k).st ≠ .exit) :
    (c.faulted i a e).lane k = { c.lane k with pc := a.pc, st := .park, data := false, served := false } := by
  have hg : a.gone (c.lane k) = false := by
    rw [Access.gone, ho]
    exact beq_eq_false_iff_ne.2 hs
  have hl : (parkLate (c.dropAccess i) a e).lane k = { c.lane k with pc := a.pc, st := .park, data := false, served := false } := by
    have ho' : (a.outer && ((c.dropAccess i).lane k).handles) = false := ho
    rw [parkLate_lane (c.dropAccess i) hn e hk hg, lateLane, ho']
    rfl
  have hp : LaneState.park ≠ .wait := by decide
  rw [Cord.faulted, rejoin_lane_of_ne_wait (by rw [hl]; exact hp), hl]

/-- Of a lane that a handler has interrupted the state that the handler's end restores is parked. -/
theorem faulted_saved (ho : a.outer = true) (hh : (c.lane k).handles = true) (hs : (c.lane k).savedSt ≠ .exit) :
    ((c.faulted i a e).lane k).savedPc = a.pc ∧ ((c.faulted i a e).lane k).savedSt = .park ∧
      ((c.faulted i a e).lane k).regs = (c.lane k).regs := by
  have hg : a.gone (c.lane k) = false := by
    rw [Access.gone, ho, hh]
    exact beq_eq_false_iff_ne.2 hs
  have hl : lateLane (c.dropAccess i) a k = { (c.dropAccess i).woken k with savedPc := a.pc, savedSt := .park, savedData := false } := by
    have hh' : ((c.dropAccess i).lane k).handles = true := hh
    rw [lateLane, ho, hh']
    rfl
  have hr : Resting { (c.dropAccess i).woken k with savedPc := a.pc, savedSt := .park, savedData := false } ((c.faulted i a e).lane k) := by
    rw [← hl, ← parkLate_lane (c.dropAccess i) hn e hk hg]
    rcases rejoin_lane (parkLate (c.dropAccess i) a e) k with h | ⟨-, h⟩
    · rw [Cord.faulted, h]; rfl
    · exact h
  rw [hr]
  exact ⟨rfl, rfl, woken_regs (c.dropAccess i) k⟩

end

/-! ### Where an access has taken place -/

theorem OnlyGlobal.cord? {s t : State} (h : OnlyGlobal s t) (r : CordRef) : t.cord? r = s.cord? r := by
  rw [State.cord?, State.cord?, h.quiet.block?]

theorem landed_stalled {r : CordRef} {c : Cord} {a : Access} {y : Cord} {v u : State} (hu : OnlyTracks v u) (hv : v.cord? r = some c) :
    ({ landed r c a y u with stalled := [] } : State).cord? r = some y ∧ Apart r v { landed r c a y u with stalled := [] } :=
  ⟨landed_cord? ((hu.cord? r).trans hv) a y, ((hu.apart r).trans (landed_apart r c a y u)).trans (apart_stalled r _ [])⟩

/-- The traces of a translation and of a read of what it leads to. -/
theorem noted_touched (s : State) (n ctx va z : Nat) (t : Target) : Touched s (noteTarget (touch s n true ctx va) z t) :=
  (touch_touched _ _ _ _ _).trans (noteTarget_onlyCounts _ _ _).touched

/-! ### The event of an access (R158 to R161, R267, R336) -/

section
variable {s : State} {r : CordRef} {i : Nat} {b : Block} {c : Cord} {a : Access} (hb : s.block? r.core r.slot = some b)
  (hc : s.cord? r = some c) (ha : c.gathers[i]? = some a)
include hb hc ha

/-- Accesses that no earlier one precedes take place in their order. -/
theorem accessEvent_eq {ok : AccessOp → Bool} (hok : ok a.op = true)
    (hwait : ∀ j ∈ lineMates s r.core b.ctx c i a, ∀ x, c.gathers[j]? = some x →
    earlierSame s r.core b.ctx c (lineMates s r.core b.ctx c i a) j x = false) (ho : earlierOther s r b.ctx a = false) :
    accessEvent r i ok s = (lineMates s r.core b.ctx c i a).zipIdx.foldl (fun s x => perform r (x.1 - x.2) s) s := by
  unfold accessEvent
  simp only [hb, hc, ha]
  rw [if_neg]
  rw [Bool.not_eq_true, Bool.or_eq_false_iff, Bool.or_eq_false_iff]
  refine ⟨⟨by rw [hok]; rfl, List.any_eq_false.2 (fun j hj => ?_)⟩, ho⟩
  split
  · decide
  · next x hx => rw [hwait j hj x hx]; decide

/-- So does an access alone. -/
theorem accessEvent_alone {ok : AccessOp → Bool} (hok : ok a.op = true) (hm : lineMates s r.core b.ctx c i a = [i])
    (hs : earlierSame s r.core b.ctx c [i] i a = false) (ho : earlierOther s r b.ctx a = false) : accessEvent r i ok s = perform r i s := by
  rw [accessEvent_eq hb hc ha hok (fun j hj x hx => ?_) ho, hm]
  · rfl
  · rw [hm] at hj ⊢
    obtain rfl := List.mem_singleton.1 hj
    rw [ha] at hx
    obtain rfl := Option.some.inj hx
    exact hs

theorem access_takes_place (hm : lineMates s r.core b.ctx c i a = [i]) (hs : earlierSame s r.core b.ctx c [i] i a = false)
    (ho : earlierOther s r b.ctx a = false) :
    exec (if a.op = .load then .gatherDataArrival r i else .gatherPerformed r i) s = .next { perform r i s with stalled := [] } := by
  by_cases hl : a.op = .load
  · have hok : (a.op == .load) = true := beq_iff_eq.2 hl
    have he : accessEvent r i (fun o => o == .load) s = perform r i s := accessEvent_alone hb hc ha hok hm hs ho
    rw [if_pos hl]
    exact congrArg (fun t : State => (.next { t with stalled := [] } : Out)) he
  · have hok : (a.op != .load) = true := bne_iff_ne.2 hl
    have he : accessEvent r i (fun o => o != .load) s = perform r i s := accessEvent_alone hb hc ha hok hm hs ho
    rw [if_neg hl]
    exact congrArg (fun t : State => (.next { t with stalled := [] } : Out)) he

end

section
variable {s : State} {n ctx : Nat} {c : Cord} {i : Nat} {a : Access} {p : Nat} (hat : a.op.isAtom = true)
  (ht : a.target s n ctx = .ok (.host p))
include hat ht

/-- An atomic on host memory takes place with the atomics of its instruction on the line. -/
theorem mem_lineMates {j : Nat} : j ∈ lineMates s n ctx c i a ↔
    ∃ x q, c.gathers[j]? = some x ∧ x.id = a.id ∧ x.target s n ctx = .ok (.host q) ∧ q / 64 = p / 64 := by
  unfold lineMates
  simp only [hat, ht, List.mem_filter, List.mem_range]
  constructor
  · rintro ⟨-, h⟩
    split at h
    · cases h
    · next x hx =>
      rw [Bool.and_eq_true, beq_iff_eq] at h
      obtain ⟨hid, h⟩ := h
      split at h
      · next q hq => exact ⟨x, q, hx, hid, hq, (beq_iff_eq.1 h).symm⟩
      · cases h
  · rintro ⟨x, q, hx, hid, hq, he⟩
    refine ⟨(List.getElem?_eq_some_iff.1 hx).1, ?_⟩
    simp [hx, hid, hq, he]

theorem lineMates_ascending : (lineMates s n ctx c i a).Pairwise (· < ·) := by
  unfold lineMates
  simp only [hat, ht]
  exact List.pairwise_lt_range.filter _

end

/-- Settles O31: an access alone on its line gives its words, writes, or parks its lanes; those of one line take place in their order. -/
theorem gatherAccesses : Obligations.GatherAccesses := by
  unfold Obligations.GatherAccesses
  refine ⟨fun s r i b c a hb hc ha hm hs ho hn => ?_, fun s r i b c a p hb hc ha hat ht hw ho => ?_⟩
  · intro event tr word gets touched
    have hev : exec event s = .next { perform r i s with stalled := [] } := access_takes_place hb hc ha hm hs ho
    have htr : tr = a.target s r.core b.ctx := by
      simp only [tr, Access.target]
      cases a.op <;> rfl
    have hgets (ws : List Word) : gets c (c.given i a ws) ws :=
      ⟨fun k ds hk hg => given_regs_of_mem c i hn ws hk hg, fun k hk => given_regs_of_not_mem c i hn ws hk,
        fun k hk h1 h2 h3 => given_runs c i hn ws hk h1 h2 h3⟩
    rw [htr]
    refine ⟨fun t ht => ?_, fun e he => ?_⟩
    · cases hop : a.op with
      | load =>
        obtain ⟨u, hu, hp⟩ := perform_load hb hc ha ht hop
        have hv := noted_touched s r.core b.ctx a.addr a.size t
        obtain ⟨h1, h2⟩ := landed_stalled (a := a) (y := c.given i a _) hu ((hv.cord? r).trans hc)
        refine ⟨_, _, hev.trans (by rw [hp]), h1, given_gathers c i a _, fun _ => ⟨(hv.reads r).apart h2, ?_⟩, nofun, nofun⟩
        rw [(hv.seenBy _).targetRead]
        exact hgets _
      | store l =>
        obtain ⟨u, hu, hp⟩ := perform_store hb hc ha ht hop
        have hv := (touch_touched s r.core true b.ctx a.addr).cord? r
        obtain ⟨h1, h2⟩ := landed_stalled (a := a) (y := c.given i a _) hu (((targetWrite_onlyGlobal _ l t).cord? r).trans (hv.trans hc))
        refine ⟨_, _, hev.trans (by rw [hp]), h1, given_gathers c i a _, nofun, fun l' hl => ?_, nofun⟩
        obtain rfl := AccessOp.store.inj hl
        exact ⟨h2, hgets _⟩
      | atom op x d =>
        obtain ⟨u, hu, hp⟩ := perform_atom hb hc ha ht hop
        have hv := noted_touched s r.core b.ctx a.addr a.size t
        rw [hv.sameGlobal.targetRead] at hu hp
        obtain ⟨h1, h2⟩ := landed_stalled (a := a) (y := c.given i a _) hu
          (((targetWrite_onlyGlobal _ _ t).cord? r).trans ((hv.cord? r).trans hc))
        refine ⟨_, _, hev.trans (by rw [hp]), h1, given_gathers c i a _, nofun, nofun, fun op' x' d' hl => ?_⟩
        obtain ⟨rfl, rfl, rfl⟩ := AccessOp.atom.inj hl
        exact ⟨h2, hgets _⟩
    · obtain ⟨u, hu, hp⟩ := perform_faults hb hc ha he
      refine ⟨_, c.faulted i a e, hev, ?_, faulted_gathers c i a e, ?_, fun k hk => ⟨fun h1 h2 => ?_, fun h1 h2 h3 => ?_⟩⟩
      · rw [hp]
        exact State.cord?_setCord_same (hu.cord.trans hc) _
      · rw [hp]
        exact hu.mem.trans (((apart_setCord _ _ _).trans (apart_stalled r _ [])).sameMemory)
      · exact faulted_lane c i hn e hk h1 h2
      · exact faulted_saved c i hn e hk h1 h2 h3
  · have hi : i ∈ lineMates s r.core b.ctx c i a := (mem_lineMates hat ht).2 ⟨a, p, ha, rfl, ht, rfl⟩
    have hok : (a.op != .load) = true := by
      cases h : a.op with
      | atom => rfl
      | load => rw [h] at hat; cases hat
      | store l => rw [h] at hat; cases hat
    have he : accessEvent r i (fun o => o != .load) s = _ := accessEvent_eq hb hc ha hok hw ho
    exact ⟨hi, lineMates_ascending hat ht, fun j hj => (mem_lineMates hat ht).1 hj,
      congrArg (fun t : State => (.next { t with stalled := [] } : Out)) he⟩

end Sys2Proof.Machine

namespace Sys2Proof.Tab

/-- What holds of every value of a table holds of every value after one is set to one of which it holds. -/
theorem vals_set_all {β : Type} {p : β → Bool} {t : Tab β} (k : Nat) {x : β} (h : t.vals.all p = true) (hx : p x = true) :
    (t.set k x).vals.all p = true := by
  simp only [vals, set, List.all_map] at h ⊢
  generalize t.entries = l at h
  induction l with
  | nil => simp [Tab.put, hx]
  | cons e r ih =>
    simp only [List.all_cons, Bool.and_eq_true, Function.comp_apply] at h
    unfold put
    split
    · simp [hx, h]
    · split
      · simp [hx, h]
      · simp only [List.all_cons, Function.comp_apply, h.1, ih h.2, Bool.and_self]

theorem vals_map_all {β γ : Type} {p : β → Bool} {q : γ → Bool} {t : Tab β} {f : Nat → β → γ} (h : t.vals.all p = true)
    (hf : ∀ k x, p x = true → q (f k x) = true) : (t.map f).vals.all q = true := by
  simp only [Tab.vals, Tab.map, List.all_map, List.all_eq_true, Function.comp_apply] at h ⊢
  exact fun e he => hf e.1 e.2 (h e he)

/-- A lookup finds one of the values, or the default. -/
theorem get_all {β : Type} {p : β → Bool} {t : Tab β} (h : t.vals.all p = true) (k : Nat) {d : β} (hd : p d = true) :
    p (t.get k d) = true := by
  simp only [Tab.vals, List.all_map, Tab.get, Tab.get?] at h ⊢
  generalize t.entries = l at h
  induction l with
  | nil => exact hd
  | cons e r ih =>
    simp only [List.all_cons, Bool.and_eq_true] at h
    unfold Tab.find
    split
    · exact h.1
    · exact ih h.2

end Sys2Proof.Tab

namespace Sys2Proof.Machine

-- One theorem after the other: elaborated at the same time, this many of them pass the memory that the check allows.
set_option Elab.async false

/-! ### What the canonical form of every store asks of an update (log entry 3)

`f_memOk` says that `f` keeps every store in canonical form. A function that writes no store keeps the field it reads; one that does
writes through `Mem.write`, `set`, `clear`, `slice`, `paste` or a filter, each of which keeps the form (Laws/Memory.lean).
The routine cases are closed by `grind` without its linear arithmetic, whose search for ordered fields in records is slow. -/

section
variable {s : State} (h : s.memOk = true)
include h

theorem State.setCore_memOk (n : Nat) {c : Core} (hc : c.memOk = true) : (s.setCore n c).memOk = true := by
  simp only [State.memOk, Bool.and_eq_true] at h ⊢
  obtain ⟨⟨h1, h2⟩, h3⟩ := h
  exact ⟨⟨h1, Tab.vals_set_all n h2 hc⟩, h3⟩

theorem State.setDie_memOk (n : Nat) (x : Die) : (s.setDie n x).memOk = true := h
theorem State.setCluster_memOk (n : Nat) (x : Cluster) : (s.setCluster n x).memOk = true := h
theorem State.setCtx_memOk (n : Nat) (x : Ctx) : (s.setCtx n x).memOk = true := h
theorem State.setLaunch_memOk (n : Nat) (x : Launch) : (s.setLaunch n x).memOk = true := h
theorem State.stall_memOk (r : CordRef) : (s.stall r).memOk = true := h
theorem State.free_memOk : s.free.2.memOk = true := h

/-- Blocks are no store. -/
theorem State.setBlock_memOk (n sl : Nat) (b : Block) : (s.setBlock n sl b).memOk = true :=
  State.setCore_memOk h n (State.memOk_core h n)

theorem State.setCord_memOk (r : CordRef) (c : Cord) : (s.setCord r c).memOk = true := by
  unfold State.setCord
  split
  · exact h
  · exact State.setBlock_memOk h _ _ _

/-- The parts of the device's memory. -/
theorem State.global_memOk : s.hbm.wf = true ∧ s.host.wf = true ∧ ∀ p, (s.peers.get p []).wf = true := by
  simp only [State.memOk, Bool.and_eq_true] at h
  obtain ⟨⟨⟨⟨h1, h2⟩, h3⟩, -⟩, -⟩ := h
  exact ⟨h1, h2, fun p => Tab.get_all (p := fun m : Mem => m.wf) h3 p rfl⟩

end

theorem foldl_keeps {α β : Type} {p : β → Prop} {f : β → α → β} (hf : ∀ y x, p y → p (f y x)) (l : List α) {y : β} (h : p y) :
    p (l.foldl f y) := List.foldlRecOn l f h fun y hy x _ => hf y x hy

/-- Steps that keep the stores in canonical form, one for each element of a list. -/
theorem foldl_memOk {α : Type} {f : State → α → State} (hf : ∀ s x, s.memOk = true → (f s x).memOk = true) (l : List α) {s : State}
    (h : s.memOk = true) : (l.foldl f s).memOk = true :=
  foldl_keeps (p := fun s : State => s.memOk = true) hf l h

theorem foldl_core_memOk {α : Type} {f : Core → α → Core} (hf : ∀ c x, c.memOk = true → (f c x).memOk = true) (l : List α)
    {c : Core}
    (h : c.memOk = true) : (l.foldl f c).memOk = true :=
  foldl_keeps (p := fun c : Core => c.memOk = true) hf l h

/-- The state that an operation leaves, if it leaves one, has its stores in canonical form. -/
def Act.memOk : Act → Prop
  | .hold => True
  | .held s => s.memOk = true
  | .wait s => s.memOk = true
  | .did d => d.s.memOk = true

/-- So does a unit of an operation. -/
def UnitRes.memOk : UnitRes → Prop
  | .did s _ _ => s.memOk = true
  | _ => True

/-- So has the next state. -/
def nextMemOk (o : Out) : Prop := ∀ t, o = .next t → t.memOk = true

theorem nextMemOk_next {s : State} (h : s.memOk = true) : nextMemOk (.next s) := fun _ e => Host.Outcome.next.inj e ▸ h
theorem nextMemOk_fault (r : Fault) : nextMemOk (.fault r) := nofun

/-! ### Reads and writes of memory -/

theorem logError_memOk {s : State} (hs : s.memOk = true) (blk tval token ctx core rung cause : Nat) :
    (logError s blk tval token ctx core rung cause).memOk = true := by
  unfold logError
  grind -linarith [State.free_memOk, State.memOk]

theorem logData_memOk {s : State} (hs : s.memOk = true) (core ctx blk tval token : Nat) :
    (logData s core ctx blk tval token).memOk = true := by
  unfold logData
  grind -linarith [logError_memOk]

theorem touchTlb_memOk {s : State} (hs : s.memOk = true) (core : Nat) (gather : Bool) (ctx va : Nat) :
    (touchTlb s core gather ctx va).memOk = true := by
  unfold touchTlb
  grind -linarith [State.memOk_core, State.setCore_memOk, State.setDie_memOk, Core.memOk]

theorem targetWrite_memOk {s : State} (hs : s.memOk = true) (l : List Byte) (a0 : Target) :
    (targetWrite s l a0).memOk = true := by
  unfold targetWrite
  grind -linarith [Mem.wf_write, Tab.vals_set_all, State.global_memOk, State.setDie_memOk, State.memOk]

theorem countDie_memOk {s : State} (hs : s.memOk = true) (d a k : Nat) : (countDie s d a k).memOk = true := by
  unfold countDie
  grind -linarith [State.setDie_memOk]

theorem noteTarget_memOk {s : State} (hs : s.memOk = true) (n : Nat) (a0 : Target) :
    (noteTarget s n a0).memOk = true := by
  unfold noteTarget
  grind -linarith [foldl_memOk, countDie_memOk, State.memOk]

theorem countPerf_memOk {s : State} (hs : s.memOk = true) (core ev : Nat) : (countPerf s core ev).memOk = true := by
  unfold countPerf
  grind -linarith [State.memOk_core, State.setCore_memOk, Core.memOk]

theorem noteWalk_memOk {s : State} (hs : s.memOk = true) (d ctx va : Nat) : (noteWalk s d ctx va).memOk = true := by
  unfold noteWalk
  grind -linarith [foldl_memOk, noteTarget_memOk]

theorem touch_memOk {s : State} (hs : s.memOk = true) (core : Nat) (gather : Bool) (ctx va : Nat) :
    (touch s core gather ctx va).memOk = true := by
  unfold touch
  grind -linarith [touchTlb_memOk, noteWalk_memOk, countPerf_memOk]

theorem noteDie_memOk {s : State} (hs : s.memOk = true) (d ctx va n : Nat) : (noteDie s d ctx va n).memOk = true := by
  unfold noteDie
  grind -linarith [noteWalk_memOk, noteTarget_memOk]

theorem touchRange_memOk {s : State} (hs : s.memOk = true) (core : Nat) (gather : Bool) (ctx va n : Nat) :
    (touchRange s core gather ctx va n).memOk = true := by
  unfold touchRange
  grind -linarith [foldl_memOk, touch_memOk]

theorem noteGlobal_memOk {s : State} (hs : s.memOk = true) (core : Nat) (gather : Bool) (ctx va n : Nat) :
    (noteGlobal s core gather ctx va n).memOk = true := by
  unfold noteGlobal
  grind -linarith [foldl_memOk, noteTarget_memOk]

theorem noteCore_memOk {c : Core} (hc : c.memOk = true) (a : ErrArray) (addr n : Nat) :
    (noteCore c a addr n).memOk = true := by
  unfold noteCore
  grind -linarith [Core.memOk]

theorem noteRead_memOk {s : State} (hs : s.memOk = true) (core : Nat) (a : ErrArray) (addr n : Nat) :
    (noteRead s core a addr n).memOk = true := by
  unfold noteRead
  grind -linarith [State.memOk_core, State.setCore_memOk, noteCore_memOk]

theorem mend_memOk {c : Core} (hc : c.memOk = true) (a : ErrArray) (addr n : Nat) : (mend c a addr n).memOk = true := by
  unfold mend
  grind -linarith [Core.memOk]

theorem localWrite_memOk {s : State} (hs : s.memOk = true) (core slot ctx va : Nat) (l : List Byte) :
    (localWrite s core slot ctx va l).memOk = true := by
  unfold localWrite
  grind -linarith [State.memOk_core, State.setCore_memOk, mend_memOk, Core.memOk]

theorem notePath_memOk {s : State} (hs : s.memOk = true) (core ctx va n : Nat) :
    (notePath s core ctx va n).memOk = true := by
  unfold notePath
  grind -linarith [noteRead_memOk, noteGlobal_memOk]

theorem spotWrite_memOk {s : State} (hs : s.memOk = true) (slot : Nat) (l : List Byte) (a0 : Spot) :
    (spotWrite s slot l a0).memOk = true := by
  unfold spotWrite
  grind -linarith [Mem.wf_write, State.setCore_memOk, mend_memOk, State.memOk_core, localWrite_memOk, State.setCord_memOk, Core.memOk]

theorem noteBoard_memOk {s : State} (hs : s.memOk = true) (a0 : Spot) : (noteBoard s a0).memOk = true := by
  unfold noteBoard
  grind -linarith [noteRead_memOk]

theorem noteSpot_memOk {s : State} (hs : s.memOk = true) (z : Nat) (a0 : Spot) : (noteSpot s z a0).memOk = true := by
  unfold noteSpot
  grind -linarith [noteRead_memOk, notePath_memOk]

/-! ### Who sees which bytes, and translated paths -/

theorem State.order_memOk {s : State} (hs : s.memOk = true) (f : Place → Wrote → Wrote) :
    (State.order s f).memOk = true := by
  unfold State.order
  grind -linarith [State.memOk]

theorem State.noteRace_memOk {s : State} (hs : s.memOk = true) (y : Eye) (ws : List Place) :
    (State.noteRace s y ws).memOk = true := by
  unfold State.noteRace
  grind -linarith [State.memOk]

theorem State.wroteAt_memOk {s : State} (hs : s.memOk = true) (x : Agent) (p : Place) (n : Nat) (k : WriteKind) :
    (State.wroteAt s x p n k).memOk = true := by
  unfold State.wroteAt
  grind -linarith [State.noteRace_memOk, State.order_memOk, State.memOk]

theorem State.wrote_memOk {s : State} (hs : s.memOk = true) (x : Agent) (p : Place) (n : Nat) (k : WriteKind) :
    (State.wrote s x p n k).memOk = true := by
  unfold State.wrote
  grind -linarith [State.order_memOk, State.wroteAt_memOk]

theorem State.wroteSpot_memOk {s : State} (hs : s.memOk = true) (x : Agent) (p : Spot) (n : Nat) (k : WriteKind) :
    (State.wroteSpot s x p n k).memOk = true := by
  unfold State.wroteSpot
  grind -linarith [State.wrote_memOk]

theorem State.showTo_memOk {s : State} (hs : s.memOk = true) (y : Agent) (p : Place) (n : Nat) :
    (State.showTo s y p n).memOk = true := by
  unfold State.showTo
  grind -linarith [State.memOk]

theorem State.send_memOk {s : State} (hs : s.memOk = true) (x : Agent) (sc : Scope) (ks : List Carrier) :
    (State.send s x sc ks).memOk = true := by
  unfold State.send
  grind -linarith [State.order_memOk]

theorem State.hear_memOk {s : State} (hs : s.memOk = true) (y : Agent) (sc : Scope) (ks : List Carrier) :
    (State.hear s y sc ks).memOk = true := by
  unfold State.hear
  grind -linarith [State.order_memOk]

theorem State.unsend_memOk {s : State} (hs : s.memOk = true) (ks : List Carrier) : (State.unsend s ks).memOk = true := by
  unfold State.unsend
  grind -linarith [State.order_memOk]

theorem State.pass_memOk {s : State} (hs : s.memOk = true) (x y : Agent) : (State.pass s x y).memOk = true := by
  unfold State.pass
  grind -linarith [State.order_memOk]

theorem State.fences_memOk {s : State} (hs : s.memOk = true) (x : Agent) (m : Ordr) :
    (State.fences s x m).memOk = true := by
  unfold State.fences
  grind -linarith [State.order_memOk]

theorem State.readWords_memOk {s : State} (hs : s.memOk = true) (y : Eye) (ws : List Place) (newest : Bool) :
    (State.readWords s y ws newest).memOk = true := by
  unfold State.readWords
  grind -linarith [State.order_memOk, State.noteRace_memOk, State.memOk]

theorem State.saw_memOk {s : State} (hs : s.memOk = true) (y : Eye) (p : Place) (n : Nat) (newest : Bool) (acq : Option Scope) :
    (State.saw s y p n newest acq).memOk = true := by
  unfold State.saw
  grind -linarith [State.readWords_memOk, State.hear_memOk]

theorem State.sawSpot_memOk {s : State} (hs : s.memOk = true) (y : Eye) (p : Spot) (n : Nat) (newest : Bool) (acq : Option Scope) :
    (State.sawSpot s y p n newest acq).memOk = true := by
  unfold State.sawSpot
  grind -linarith [State.saw_memOk]

theorem State.holdRead_memOk {s : State} (hs : s.memOk = true) (y : Agent) (p : Place) (n : Nat) (ops : List Agent) :
    (State.holdRead s y p n ops).memOk = true := by
  unfold State.holdRead
  grind -linarith [State.memOk]

theorem State.unhold_memOk {s : State} (hs : s.memOk = true) (y : Agent) : (State.unhold s y).memOk = true := by
  unfold State.unhold
  grind -linarith [State.memOk]

theorem State.show_memOk {s : State} (hs : s.memOk = true) (p : Place) (l : List Byte) :
    (State.show_ s p l).memOk = true := by
  unfold State.show_
  grind -linarith [Mem.wf_write, Tab.vals_set_all, State.global_memOk, State.setCore_memOk, State.memOk_core, State.memOk, Core.memOk]

theorem State.seenBy_memOk {s : State} (hs : s.memOk = true) (y : Eye) : (State.seenBy s y).memOk = true := by
  unfold State.seenBy
  grind -linarith [foldl_memOk, State.show_memOk]

theorem State.track_memOk {s : State} (hs : s.memOk = true) (w : Place) : (State.track s w).memOk = true := by
  unfold State.track
  grind -linarith [State.memOk]

theorem State.pick_memOk {s : State} (hs : s.memOk = true) (y : Agent) (p : Place) (len n : Nat) :
    (State.pick s y p len n).memOk = true := by
  unfold State.pick
  grind -linarith [State.memOk]

theorem State.restartWords_memOk {s : State} (hs : s.memOk = true) (core a n : Nat) :
    (State.restartWords s core a n).memOk = true := by
  unfold State.restartWords
  grind -linarith [State.memOk]

theorem State.dropWords_memOk {s : State} (hs : s.memOk = true) (core a n : Nat) :
    (State.dropWords s core a n).memOk = true := by
  unfold State.dropWords
  grind -linarith [State.memOk]

theorem State.unpick_memOk {s : State} (hs : s.memOk = true) (y : Agent) : (State.unpick s y).memOk = true := by
  unfold State.unpick
  grind -linarith [State.memOk]

theorem State.moveAgents_memOk {s : State} (hs : s.memOk = true) (f : Agent → Agent) (g : Carrier → Carrier) (h : Place → Place) :
    (State.moveAgents s f g h).memOk = true := by
  unfold State.moveAgents
  grind -linarith [State.memOk]

theorem globalWrite_memOk {s : State} (h : s.memOk = true) (core ctx va : Nat) (l : List Byte) (x : Agent) (k : WriteKind) :
    (globalWrite s core ctx va l x k).memOk = true := by
  unfold globalWrite
  refine foldl_keeps (p := fun y : State × List Byte => y.1.memOk = true) (fun y q hy => ?_) _ h
  grind -linarith [targetWrite_memOk, State.wrote_memOk]

theorem globalSaw_memOk {s : State} (hs : s.memOk = true) (core ctx va n : Nat) (y : Eye) (acq : Option Scope) :
    (globalSaw s core ctx va n y acq).memOk = true := by
  unfold globalSaw
  grind -linarith [foldl_memOk, State.saw_memOk]

theorem dieWrite_memOk {s : State} (hs : s.memOk = true) (d ctx va : Nat) (l : List Byte) (x : Agent) :
    ∀ t, dieWrite s d ctx va l x = .ok t → t.memOk = true := by
  unfold dieWrite
  grind -linarith [targetWrite_memOk, noteWalk_memOk, State.wrote_memOk]

theorem loseLine_memOk {s : State} (hs : s.memOk = true) (core line : Nat) : (loseLine s core line).memOk = true := by
  unfold loseLine
  grind -linarith [logData_memOk, State.setDie_memOk, logError_memOk, State.memOk]

theorem clearLine_memOk {s : State} (hs : s.memOk = true) (core : Nat) (l : LocalLine) :
    (clearLine s core l).memOk = true := by
  unfold clearLine
  grind -linarith [State.setCore_memOk, mend_memOk, State.memOk_core]

theorem writeLine_memOk {s : State} (hs : s.memOk = true) (core : Nat) (l : LocalLine) :
    (writeLine s core l).memOk = true := by
  unfold writeLine
  grind -linarith [foldl_memOk, clearLine_memOk, touch_memOk, logData_memOk, loseLine_memOk, noteRead_memOk, targetWrite_memOk,
    State.wrote_memOk]

theorem writeLines_memOk {s : State} (hs : s.memOk = true) (core slot : Nat) : (writeLines s core slot).memOk = true := by
  unfold writeLines
  grind -linarith [foldl_memOk, State.memOk_core, writeLine_memOk, State.setCore_memOk, Core.memOk]

theorem evictLine_memOk {s : State} (hs : s.memOk = true) (core i : Nat) : (evictLine s core i).memOk = true := by
  unfold evictLine
  grind -linarith [State.memOk_core, writeLine_memOk, State.setCore_memOk, Core.memOk]

theorem bringLines_memOk {s : State} (hs : s.memOk = true) (core slot ctx : Nat) (as : List Nat) :
    (bringLines s core slot ctx as).memOk = true := by
  unfold bringLines
  grind -linarith [foldl_memOk, State.memOk_core, evictLine_memOk, State.setCore_memOk, Core.memOk]

/-! ### Lookahead windows, scratchpad spots and lines -/

theorem noteFrame_memOk {s : State} (hs : s.memOk = true) (core : Nat) (a : ErrArray) (at_ ring base n : Nat) :
    (noteFrame s core a at_ ring base n).memOk = true := by
  unfold noteFrame
  grind -linarith [foldl_memOk, noteRead_memOk]

theorem mendFrame_memOk {s : State} (hs : s.memOk = true) (core : Nat) (a : ErrArray) (at_ ring base n : Nat) :
    (mendFrame s core a at_ ring base n).memOk = true := by
  unfold mendFrame
  grind -linarith [foldl_core_memOk, State.memOk_core, State.setCore_memOk, mend_memOk]

theorem spillWrite_memOk {s : State} (hs : s.memOk = true) (ref : CordRef) (ctx va : Nat) (l : List Byte) :
    (spillWrite s ref ctx va l).memOk = true := by
  unfold spillWrite
  grind -linarith [localWrite_memOk, bringLines_memOk, touchRange_memOk]

theorem touchFault_memOk {s : State} (hs : s.memOk = true) (core : Nat) (e : SpillFault) :
    (touchFault s core e).memOk = true := by
  unfold touchFault
  grind -linarith [State.memOk_core, State.setCore_memOk, State.memOk, Core.memOk]

theorem spillV_memOk {s : State} (hs : s.memOk = true) (ref : CordRef) (k : Nat) (e : Nat × Frame) :
    ∀ t, spillV ref k s e = .ok t → t.memOk = true := by
  unfold spillV
  grind -linarith [noteFrame_memOk, spillWrite_memOk, State.setCord_memOk]

theorem spillU_memOk {s : State} (hs : s.memOk = true) (ref : CordRef) (k : Nat) (e : Nat × Frame) :
    ∀ t, spillU ref k s e = .ok t → t.memOk = true := by
  unfold spillU
  grind -linarith [noteFrame_memOk, spillWrite_memOk, State.setCord_memOk]

theorem foldE_memOk {α ε : Type} {f : State → α → Except ε State} (hf : ∀ s x, s.memOk = true → ∀ t, f s x = .ok t → t.memOk = true)
    (l : List α) {s : State} (h : s.memOk = true) : ∀ t, foldE f s l = .ok t → t.memOk = true := by
  induction l generalizing s with
  | nil => intro t ht; exact Except.ok.inj ht ▸ h
  | cons x r ih =>
    intro t ht
    unfold foldE at ht
    split at ht
    · cases ht
    · exact ih (hf s x h _ ‹_›) t ht

theorem slide_memOk {s : State} (h : s.memOk = true) (ref : CordRef) (k : Nat) (ret : Option Word) (hold : Option Nat) :
    ∀ t, slide s ref k ret hold = .ok t → t.memOk = true := by
  intro t ht
  unfold slide at ht
  split at ht
  · exact Except.ok.inj ht ▸ h
  · dsimp only at ht
    split at ht
    · cases ht
    · split at ht
      · cases ht
      · rename_i u hu
        have hv := foldE_memOk (fun s x hs => spillV_memOk hs ref k x) _ h u hu
        split at ht
        · cases ht
        · rename_i v hv'
          have hw := foldE_memOk (fun s x hs => spillU_memOk hs ref k x) _ hv v hv'
          grind -linarith [State.setCord_memOk]

theorem readLines_memOk {s : State} (hs : s.memOk = true) (ref : CordRef) (ctx va n : Nat) :
    (readLines s ref ctx va n).memOk = true := by
  unfold readLines
  grind -linarith [notePath_memOk, bringLines_memOk, touchRange_memOk]

theorem fillV_memOk {s : State} (hs : s.memOk = true) (ref : CordRef) (k i : Nat) :
    ∀ t, fillV s ref k i = .ok t → t.memOk = true := by
  unfold fillV
  grind -linarith [mendFrame_memOk, readLines_memOk, State.setCord_memOk]

theorem fillU_memOk {s : State} (hs : s.memOk = true) (ref : CordRef) (k i : Nat) :
    ∀ t, fillU s ref k i = .ok t → t.memOk = true := by
  unfold fillU
  grind -linarith [mendFrame_memOk, readLines_memOk, State.setCord_memOk]

theorem unslide_memOk {s : State} (h : s.memOk = true) (ref : CordRef) (k : Nat) (fill : Bool) :
    ∀ t, unslide s ref k fill = .ok t → t.memOk = true := by
  have ite_memOk (c : Prop) [Decidable c] {s : State} (hs : s.memOk = true) {x : Except SpillFault State} {t : State}
      (hx : ∀ t, x = .ok t → t.memOk = true) (ht : (if c then x else .ok s) = .ok t) : t.memOk = true := by
    split at ht
    · exact hx t ht
    · exact Except.ok.inj ht ▸ hs
  intro t ht
  unfold unslide at ht
  split at ht
  · exact Except.ok.inj ht ▸ h
  · dsimp only at ht
    split at ht
    · cases ht
    · rename_i u hu
      have hu := ite_memOk _ h (fillV_memOk h _ _ _) hu
      split at ht
      · cases ht
      · rename_i v hv
        have hv := ite_memOk _ hu (fillU_memOk hu _ _ _) hv
        grind -linarith [State.setCord_memOk]

/-! ### Issue, parking and the shapes of an instruction -/

theorem countHold_memOk {s : State} (hs : s.memOk = true) (core : Nat) : (countHold s core).memOk := by
  unfold countHold
  grind -linarith [countPerf_memOk, Act.memOk]

theorem parkSet_memOk {s : State} (hs : s.memOk = true) (h : Here) (cause : Byte) (tval : Word) :
    (parkSet h s cause tval).memOk := by
  unfold parkSet
  grind -linarith [Act.memOk]

theorem parkSetFree_memOk {s : State} (hs : s.memOk = true) (h : Here) (cause : Byte) :
    (parkSetFree h s cause).memOk := by
  unfold parkSetFree
  grind -linarith [State.free_memOk, parkSet_memOk]

theorem begun_memOk {s : State} (hs : s.memOk = true) (b : Block) : (begun s b).memOk = true := by
  unfold begun
  grind -linarith [State.setLaunch_memOk]

theorem noteRegs_memOk {s : State} (hs : s.memOk = true) (h : Here) (i : Instr) : (noteRegs s h i).memOk = true := by
  unfold noteRegs
  grind -linarith [foldl_memOk, noteRead_memOk]

theorem mendRegs_memOk {s : State} (hs : s.memOk = true) (h : Here) (i : Instr) (d : Done) : (mendRegs s h i d).memOk = true := by
  unfold mendRegs
  dsimp only
  split
  · exact hs
  · refine State.setCore_memOk hs _ (foldl_core_memOk (fun _ _ hc => mend_memOk hc _ _ _) _ ?_)
    exact foldl_core_memOk (fun _ _ hc => foldl_core_memOk (fun _ _ hc => mend_memOk hc _ _ _) _ hc) _ (State.memOk_core hs _)

theorem finish_memOk (h : Here) (i : Instr) {d : Done} (hd : d.s.memOk = true) : nextMemOk (finish h i d) := by
  unfold finish
  grind -linarith [foldl_memOk, State.setCord_memOk, State.fences_memOk, State.unhold_memOk, begun_memOk, mendRegs_memOk, noteRegs_memOk,
    logData_memOk,
    countPerf_memOk, State.memOk, nextMemOk_next]

theorem withoutBad_memOk {s : State} (hs : s.memOk = true) (i : Instr) {op : Here → State → Act}
    (hop : ∀ h s, s.memOk = true → (op h s).memOk) (h : Here) : (withoutBad i op h s).memOk := by
  unfold withoutBad
  split
  · exact parkSetFree_memOk hs h _
  · split
    · exact hop h s hs
    · split
      · exact parkSetFree_memOk hs h _
      · dsimp only
        split
        · exact hs
        · have := hop { h with set := h.set.filter fun k => !(badLanes (s.core h.ref.core) h i).contains k } _ (State.free_memOk hs)
          split
          · simp_all [Act.memOk]
          · exact this

theorem State.waitHere_memOk {s : State} (hs : s.memOk = true) (h : Here) : (State.waitHere s h).memOk = true := by
  unfold State.waitHere
  grind -linarith [State.setCord_memOk]

theorem actOut_memOk {s : State} (hs : s.memOk = true) (i : Instr) (h : Here) {a : Act} (ha : a.memOk) :
    nextMemOk (actOut i h s a) := by
  cases a with
  | hold => exact nextMemOk_next (State.waitHere_memOk hs h)
  | held t => exact nextMemOk_next (State.waitHere_memOk ha h)
  | wait t => exact nextMemOk_next (State.waitHere_memOk ha h)
  | did d => exact finish_memOk h i ha

theorem issueAt_memOk {s : State} (hs : s.memOk = true) (i : Instr) (priv : Here → Bool) {op : Here → State → Act}
    (hop : ∀ h s, s.memOk = true → (op h s).memOk) (h : Here) : nextMemOk (issueAt i priv op h s) := by
  have hb := withoutBad_memOk hs i hop h
  unfold issueAt
  grind -linarith [State.setCord_memOk, State.stall_memOk, finish_memOk, actOut_memOk, parkSetFree_memOk, parkSet_memOk, State.memOk,
    nextMemOk_next]

theorem issueP_memOk {s : State} (hs : s.memOk = true) (i : Instr) (priv : Here → Bool) {op : Here → State → Act}
    (hop : ∀ h s, s.memOk = true → (op h s).memOk) : nextMemOk (issueP i priv op s) := by
  unfold issueP
  split
  · exact nextMemOk_fault _
  · split
    · exact nextMemOk_next hs
    · dsimp only
      split
      · exact nextMemOk_next (State.setCord_memOk hs _ _)
      · exact issueAt_memOk (State.setCord_memOk hs _ _) i priv hop _

theorem issue_memOk {s : State} (hs : s.memOk = true) (i : Instr) {op : Here → State → Act}
    (hop : ∀ h s, s.memOk = true → (op h s).memOk) : nextMemOk (issue i op s) := issueP_memOk hs i _ hop

theorem laneOp_memOk {s : State} (hs : s.memOk = true) (i : Instr) (g : Guard) (u : Bool) (f : Nat → Lane → Lane → Lane) :
    nextMemOk (laneOp i g u f s) := issue_memOk hs i fun _ _ hs => State.setCord_memOk hs _ _

theorem laneFlagOp_memOk {s : State} (hs : s.memOk = true) (i : Instr) (g : Guard) (u : Bool)
    (f : Nat → Lane → Lane → Lane × Flags) : nextMemOk (laneFlagOp i g u f s) :=
  issue_memOk hs i fun _ _ hs => State.setCord_memOk hs _ _

theorem cordOp_memOk {s : State} (hs : s.memOk = true) (i : Instr) (f : Here → Cord) : nextMemOk (cordOp i f s) :=
  issue_memOk hs i fun _ _ hs => State.setCord_memOk hs _ _

theorem settleAt_memOk {s : State} (hs : s.memOk = true) (core slot : Nat) : (settleAt s core slot).memOk = true := by
  unfold settleAt
  grind -linarith [State.setBlock_memOk, State.memOk_core, State.setCore_memOk, Core.memOk]

theorem dropHolds_memOk {c : Core} (hc : c.memOk = true) (ctx : Nat) (fs : List Frame) :
    (dropHolds c ctx fs).memOk = true := by
  unfold dropHolds
  grind -linarith [Core.memOk]

theorem taskExit_memOk {s : State} (hs : s.memOk = true) (ref : CordRef) (ks : List Nat) :
    (taskExit s ref ks).memOk = true := by
  unfold taskExit
  grind -linarith [foldl_memOk, State.setBlock_memOk, State.send_memOk, State.setCluster_memOk]

theorem exitLanes_memOk {s : State} (hs : s.memOk = true) (ref : CordRef) (ks : List Nat) :
    (exitLanes s ref ks).memOk = true := by
  unfold exitLanes
  grind -linarith [State.memOk_core, State.setCore_memOk, dropHolds_memOk, taskExit_memOk, State.setCord_memOk]

theorem enterHandler_memOk {s : State} (hs : s.memOk = true) (ref : CordRef) (rung : Nat) (vector : Word) :
    ∀ t, enterHandler s ref rung vector = .ok t → t.memOk = true := by
  intro t ht
  unfold enterHandler at ht
  split at ht
  · exact Except.ok.inj ht ▸ hs
  · dsimp only at ht
    split at ht
    · cases ht
    · rename_i u hu
      have := foldE_memOk (fun s k hs => slide_memOk hs ref k none none) _ hs u hu
      grind -linarith [State.setCord_memOk]

theorem foldUntil_memOk {α ε : Type} {f : State → α → Except ε State}
    (hf : ∀ s x, s.memOk = true → ∀ t, f s x = .ok t → t.memOk = true)
    (l : List α) {s : State} (hs : s.memOk = true) : (foldUntil f s l).memOk = true := by
  induction l generalizing s with
  | nil => exact hs
  | cons x r ih =>
    unfold foldUntil
    split
    · exact hs
    · exact ih (hf s x hs _ ‹_›)

theorem failedEntry_memOk (ref : CordRef) (ks : List Nat) {s : State} (hs : s.memOk = true) :
    (failedEntry ref s ks).memOk = true := by
  induction ks generalizing s with
  | nil => exact hs
  | cons k r ih =>
    have hv (s : State) (x) (hs : s.memOk = true) := spillV_memOk hs ref k x
    have hu (s : State) (x) (hs : s.memOk = true) := spillU_memOk hs ref k x
    unfold failedEntry
    split
    · exact hs
    · split
      · have := ih (slide_memOk hs ref k none none _ ‹_›)
        grind -linarith [State.setCord_memOk]
      · split
        · exact foldUntil_memOk hv _ hs
        · exact foldUntil_memOk hu _ (foldE_memOk hv _ hs _ ‹_›)

theorem abandonCalls_memOk {s : State} (hs : s.memOk = true) (ref : CordRef) (ks : List Nat) :
    (abandonCalls s ref ks).memOk = true := by
  unfold abandonCalls
  grind -linarith [State.memOk_core, State.setCore_memOk, dropHolds_memOk, State.setCord_memOk]

theorem discardHandler_memOk {s : State} (hs : s.memOk = true) (ref : CordRef) : (discardHandler s ref).memOk = true := by
  unfold discardHandler
  grind -linarith [abandonCalls_memOk, State.setCord_memOk, exitLanes_memOk]

theorem offer_memOk (fuel : Nat) {s : State} (hs : s.memOk = true) (ref : CordRef) (rung : Nat) :
    (offer fuel s ref rung).memOk = true := by
  induction fuel generalizing s rung with
  | zero => exact hs
  | succ n ih =>
    unfold offer
    split
    · rename_i b c _ _
      dsimp only
      generalize (if rung = 0 then c.hvec else if rung = 1 then b.bhand else (0 : Word)) = vector
      split
      · exact State.setCord_memOk hs _ _
      · split
        · exact ih hs _
        · split
          · exact enterHandler_memOk hs _ _ _ _ ‹_›
          · have hu := touchFault_memOk (failedEntry_memOk ref (c.lanesWith fun l => l.st != .exit) hs) ref.core ‹SpillFault›
            grind -linarith [State.setCord_memOk, State.free_memOk, logData_memOk]
    · exact hs

theorem takeFault_memOk {s : State} (hs : s.memOk = true) (ref : CordRef) : (takeFault s ref).memOk = true := by
  unfold takeFault
  grind -linarith [offer_memOk, discardHandler_memOk]

theorem leaveHandler_memOk {s : State} (hs : s.memOk = true) (ref : CordRef) (mask : Word) :
    ∀ t, leaveHandler s ref mask = .ok t → t.memOk = true := by
  intro t ht
  have hf (fill : Bool) (s : State) (k : Nat) (hs : s.memOk = true) := unslide_memOk hs ref k fill
  unfold leaveHandler at ht
  split at ht
  · split at ht
    · exact Except.ok.inj ht ▸ hs
    · dsimp only at ht
      split at ht
      · cases ht
      · rename_i u hu
        have hu := foldE_memOk (hf true) _ (abandonCalls_memOk hs ref _) u hu
        split at ht
        · cases ht
        · rename_i v hv
          have hv := foldE_memOk (hf false) _ hu v hv
          grind -linarith [exitLanes_memOk, State.setCord_memOk]
  · exact Except.ok.inj ht ▸ hs

/-! ### Queues, operation entries and their records -/

theorem setQueue_memOk {s : State} (hs : s.memOk = true) (q : Nat) (x : Queue) : (setQueue s q x).memOk = true := by
  unfold setQueue
  grind -linarith [State.setDie_memOk]

theorem noteQueue_memOk {s : State} (hs : s.memOk = true) (q : Nat) : (noteQueue s q).memOk = true := by
  unfold noteQueue
  grind -linarith [countDie_memOk]

theorem notify_memOk {s : State} (hs : s.memOk = true) (d : Nat) (x : Notice) : (notify s d x).memOk = true := by
  unfold notify
  grind -linarith [State.setDie_memOk]

theorem noteOvls_memOk {s : State} (hs : s.memOk = true) (core ctx ovtab : Nat) :
    (noteOvls s core ctx ovtab).memOk = true := by
  unfold noteOvls
  grind -linarith [foldl_memOk, noteGlobal_memOk, touch_memOk]

theorem mapRes_memOk {c : Core} (hc : c.memOk = true) (ctx caddr : Nat) (f : Residency → Residency) :
    (mapRes c ctx caddr f).memOk = true := by
  unfold mapRes
  grind -linarith [Core.memOk]

theorem freeRes_memOk {c : Core} (hc : c.memOk = true) (dead : Residency → Bool) : (freeRes c dead).memOk = true := by
  unfold freeRes
  grind -linarith [Core.memOk]

theorem freeEvicted_memOk {c : Core} (hc : c.memOk = true) : (freeEvicted c).memOk = true := by
  unfold freeEvicted
  grind -linarith [freeRes_memOk]

theorem dropTokens_memOk {c : Core} (hc : c.memOk = true) (ctx : Nat) (l : List Nat) :
    (dropTokens c ctx l).memOk = true := by
  unfold dropTokens
  grind -linarith [foldl_core_memOk, mapRes_memOk, freeEvicted_memOk]

theorem clearRange_memOk {c : Core} (hc : c.memOk = true) (ctx : Nat) (e : OvlEntry) :
    (clearRange c ctx e).memOk = true := by
  unfold clearRange
  grind -linarith [freeRes_memOk]

theorem reclaimUntil_memOk (may : Residency → Bool) (enough : Core → Bool) (fuel : Nat) {c : Core} (hc : c.memOk = true) :
    (reclaimUntil may enough fuel c).memOk = true := by
  induction fuel generalizing c with
  | zero => exact hc
  | succ n ih =>
    unfold reclaimUntil
    grind -linarith [freeRes_memOk]

theorem reclaim_memOk {c : Core} (hc : c.memOk = true) (n fuel : Nat) : (reclaim n fuel c).memOk = true := by
  unfold reclaim
  grind -linarith [reclaimUntil_memOk]

theorem mapPages_memOk {c : Core} (hc : c.memOk = true) (ctx ovl caddr : Nat) (pages : List Nat) :
    (mapPages c ctx ovl caddr pages).memOk = true := by
  unfold mapPages
  grind -linarith [Core.memOk]

theorem withRoom_memOk {c : Core} (hc : c.memOk = true) (keep n : Nat) :
    ∀ t, withRoom c keep n = some t → t.memOk = true := by
  unfold withRoom
  grind -linarith [reclaimUntil_memOk]

theorem joinRecord_memOk {c : Core} (hc : c.memOk = true) (ctx index caddr : Nat) (r : Residency) (tokens holds : Nat) :
    (joinRecord c ctx index caddr r tokens holds).memOk = true := by
  unfold joinRecord
  grind -linarith [mapPages_memOk, Core.memOk]

theorem beginLoad_memOk {s : State} (hs : s.memOk = true) (core ctx : Nat) (e : OvlEntry) :
    (beginLoad s core ctx e).memOk = true := by
  have hc := clearRange_memOk (State.memOk_core hs core) ctx e
  unfold beginLoad
  dsimp only
  split
  · rename_i c r hr
    obtain ⟨r', -, hr'⟩ := Option.bind_eq_some_iff.1 hr
    obtain ⟨c', hc', e'⟩ := Option.map_eq_some_iff.1 hr'
    cases e'
    exact State.setCore_memOk hs _ (joinRecord_memOk (withRoom_memOk hc _ _ _ hc') _ _ _ _ _ _)
  · exact State.setCore_memOk (s := { s with serial := s.serial + 1 }) hs _ hc

theorem mendBoard_memOk {c : Core} (hc : c.memOk = true) : (mendBoard c).memOk = true := by
  unfold mendBoard
  grind -linarith [mend_memOk]

theorem allocEntry_memOk {c : Core} (hc : c.memOk = true) (e : Nat) : (allocEntry c e).1.memOk = true := by
  unfold allocEntry
  grind -linarith [mendBoard_memOk, mend_memOk, Core.memOk]

/-- Blocks are no store, of a core and of a saved context. -/
theorem mapBlocks_memOk {s : State} (hs : s.memOk = true) {f : Nat → Core → Core} {g : Saved → Saved}
    (hf : ∀ n c, (f n c).memOk = c.memOk) (hg : ∀ v, (g v).memOk = v.memOk) :
    ({ s with cores := s.cores.map f, saved := s.saved.map g } : State).memOk = true := by
  simp only [State.memOk, Bool.and_eq_true] at hs ⊢
  obtain ⟨⟨h1, h2⟩, h3⟩ := hs
  refine ⟨⟨h1, Tab.vals_map_all h2 fun n c hc => (hf n c).trans hc⟩, ?_⟩
  simpa only [List.all_map, Function.comp_def, hg] using h3

theorem freeOp_memOk {s : State} (hs : s.memOk = true) (core e : Nat) : (freeOp s core e).memOk = true := by
  unfold freeOp
  split
  · exact hs
  · have ht := State.setCore_memOk hs core (c := { s.core core with ops := (s.core core).ops.erase e }) (State.memOk_core hs core)
    dsimp only
    split
    · exact ht
    · exact mapBlocks_memOk ht (fun _ _ => rfl) (fun _ => rfl)

theorem setOp_memOk {s : State} (hs : s.memOk = true) (core e : Nat) (o : OpEntry) : (setOp s core e o).memOk = true := by
  unfold setOp
  grind -linarith [State.setCore_memOk, State.memOk_core, Core.memOk]

theorem faultEntry_memOk {s : State} (hs : s.memOk = true) (ctx blk tval token core rung cause : Nat) :
    (faultEntry s ctx blk tval token core rung cause).memOk = true := by
  unfold faultEntry
  grind -linarith [Mem.wf_write, State.free_memOk, State.wrote_memOk, State.setCtx_memOk, State.memOk]

theorem keepFailed_memOk {s : State} (hs : s.memOk = true) (core : Nat) (o : OpEntry) :
    (keepFailed s core o).memOk = true := by
  unfold keepFailed
  grind -linarith [State.setBlock_memOk]

theorem dropLoad_memOk {s : State} (hs : s.memOk = true) (core e : Nat) (o : OpEntry) :
    (dropLoad s core e o).memOk = true := by
  unfold dropLoad
  grind -linarith [State.setBlock_memOk, State.setCore_memOk, dropTokens_memOk, State.memOk_core, freeRes_memOk]

theorem engineTouch_memOk {s : State} (hs : s.memOk = true) (core ctx va n : Nat) :
    (engineTouch s core ctx va n).memOk = true := by
  unfold engineTouch
  grind -linarith [touchRange_memOk]

theorem endOne_memOk {s : State} (hs : s.memOk = true) (core e : Nat) (o : OpEntry) (st : OpState) :
    (endOne s core e o st).memOk = true := by
  have hrec (t : State) (ht : t.memOk = true) (o : OpEntry) (a : Nat) (l : List Byte) (x : Agent) (k : WriteKind) :=
    globalWrite_memOk (s := if (rangeFault t core false o.ctx a 32 true false).any (·.1 == cDataErr) then
      logData t core o.ctx o.blk (a % 2 ^ 32) o.token.toNat else t) (by split; exacts [logData_memOk ht _ _ _ _ _, ht]) core
        o.ctx a l x k
  unfold endOne
  extract_lets s own s' o s''
  have h1 : s.memOk = true := by
    subst s; split
    · exact dropLoad_memOk hs _ _ _
    · exact hs
  have h2 : s''.memOk = true := by
    subst s''; split
    · exact State.send_memOk h1 _ _ _
    · dsimp only
      have hw (a) := hrec _ (engineTouch_memOk (State.send_memOk h1 (o.agent core) .sys ([.op core o.token, .batch core own
        o.cord o.bseq] ++
        if o.det.isNone then [.launch o.launch] else [])) core o.ctx a 32)
      split
      · exact faultEntry_memOk (hw _ o _ _ _ _) _ _ _ _ _ _ _
      · exact hw _ o _ _ _ _
  grind -linarith [freeOp_memOk, setOp_memOk, keepFailed_memOk]

theorem cancelWaiting_memOk (fuel : Nat) (ts : List (Nat × Word)) {s : State} (hs : s.memOk = true) :
    (cancelWaiting fuel ts s).memOk = true := by
  induction fuel generalizing ts s with
  | zero => exact hs
  | succ n ih =>
    cases ts with
    | nil => exact hs
    | cons t ts => exact ih _ (foldl_memOk (fun _ _ hs => endOne_memOk hs _ _ _ _) _ hs)

theorem cancelAfter_memOk {s : State} (hs : s.memOk = true) (core fuel : Nat) (ts : List Word) :
    (cancelAfter core fuel ts s).memOk = true := by
  unfold cancelAfter
  grind -linarith [cancelWaiting_memOk]

theorem endPair_memOk {s : State} (hs : s.memOk = true) (core : Nat) (o : OpEntry) (st : OpState) :
    (endPair s core o st).1.memOk = true := by
  unfold endPair
  grind -linarith [setOp_memOk, endOne_memOk]

theorem finishOp_memOk {s : State} (hs : s.memOk = true) (core e : Nat) (o : OpEntry) (st : OpState) :
    (finishOp s core e o st).memOk = true := by
  unfold finishOp
  grind -linarith [logData_memOk, endOne_memOk, endPair_memOk, cancelAfter_memOk]

theorem failUnit_memOk {s : State} (hs : s.memOk = true) (core e : Nat) (o : OpEntry) (cause : Byte) (a : Nat) :
    (failUnit s core e o cause a).memOk = true := by
  unfold failUnit
  grind -linarith [finishOp_memOk, faultEntry_memOk]

/-! ### Branches, calls and register frames -/

theorem branch_memOk {s : State} (hs : s.memOk = true) (i : Instr) (g : Guard) (tgt : Here → Nat → Word) :
    nextMemOk (branch i g tgt s) := by
  unfold branch
  grind -linarith [issue_memOk, Act.memOk]

theorem execBra_memOk {s : State} (hs : s.memOk = true) (o : OBr) : nextMemOk (execBra o s) := by
  unfold execBra
  grind -linarith [branch_memOk]

theorem execBraLong_memOk {s : State} (hs : s.memOk = true) (o : OBrL) : nextMemOk (execBraLong o s) := by
  unfold execBraLong
  grind -linarith [branch_memOk]

theorem execBrx_memOk {s : State} (hs : s.memOk = true) (o : OBrx) : nextMemOk (execBrx o s) := by
  refine issue_memOk hs _ fun h s hs => ?_
  grind -linarith [Act.memOk]

theorem branchAll_memOk {s : State} (hs : s.memOk = true) (i : Instr) (tgt : Here → Word) :
    nextMemOk (branchAll i tgt s) := by
  unfold branchAll
  grind -linarith [issue_memOk, Act.memOk]

theorem execSbra_memOk {s : State} (hs : s.memOk = true) (o : OBr) : nextMemOk (execSbra o s) := by
  unfold execSbra
  grind -linarith [branchAll_memOk]

theorem execSbraLong_memOk {s : State} (hs : s.memOk = true) (o : OBrL) : nextMemOk (execSbraLong o s) := by
  unfold execSbraLong
  grind -linarith [branchAll_memOk]

theorem execSbrx_memOk {s : State} (hs : s.memOk = true) (o : OBrx) : nextMemOk (execSbrx o s) := by
  refine issue_memOk hs _ fun h s hs => ?_
  grind -linarith [parkSet_memOk, Act.memOk]

theorem execFrame_memOk {s : State} (hs : s.memOk = true) (o : OFrame) : nextMemOk (execFrame o s) := by
  refine issue_memOk hs _ fun h s hs => ?_
  grind -linarith [parkSet_memOk, State.setCord_memOk, Act.memOk]

theorem spillTval_memOk {s : State} (hs : s.memOk = true) (h : Here) (e : SpillFault) :
    (spillTval s h e).2.memOk = true := by
  unfold spillTval
  grind -linarith [touchFault_memOk, State.free_memOk]

theorem eachLane_memOk (h : Here) {f : State → Nat → Except SpillFault State}
    (hf : ∀ s k, s.memOk = true → ∀ t, f s k = .ok t → t.memOk = true) (ks : List Nat) {s : State} (hs : s.memOk = true) :
    ∀ x, eachLane h f s ks = .ok x → x.1.memOk = true := by
  induction ks generalizing s with
  | nil => intro x hx; exact Except.ok.inj hx ▸ hs
  | cons k r ih =>
    intro x hx
    unfold eachLane at hx
    split at hx
    · have := ih (hf s k hs _ ‹_›)
      split at hx
      · cases hx
      · cases hx
        rename_i hr
        have ht := this _ hr
        exact ht
    · rename_i e _
      split at hx
      · cases hx
      · have := ih (spillTval_memOk hs h e)
        dsimp only at hx
        split at hx
        · cases hx
        · cases hx
          rename_i hr
          have ht := this _ hr
          exact ht

theorem parkSpill_memOk {s : State} (hs : s.memOk = true) (h : Here) (e : SpillFault) : (parkSpill h s e).memOk := by
  unfold parkSpill
  grind -linarith [spillTval_memOk, parkSet_memOk]

theorem callAct_memOk (h : Here) {s : State} (hs : s.memOk = true) (act : List Nat) (bad : List (Nat × Byte × Word))
    (tgt : Nat → Word) :
    (callAct h s act bad tgt).memOk := by
  unfold callAct
  split
  · trivial
  · dsimp only
    split
    · exact parkSpill_memOk hs h _
    · exact eachLane_memOk h (fun s k hs => slide_memOk hs _ k _ _) act hs (_, _, _) ‹_›

theorem execCall_memOk {s : State} (hs : s.memOk = true) (o : OBr) : nextMemOk (execCall o s) := by
  refine issue_memOk hs _ fun h s hs => ?_
  grind -linarith [callAct_memOk]

theorem execCallLong_memOk {s : State} (hs : s.memOk = true) (o : OBrL) : nextMemOk (execCallLong o s) := by
  refine issue_memOk hs _ fun h s hs => ?_
  grind -linarith [callAct_memOk]

theorem execCallx_memOk {s : State} (hs : s.memOk = true) (o : OBrx) : nextMemOk (execCallx o s) := by
  refine issue_memOk hs _ fun h s hs => ?_
  grind -linarith [callAct_memOk]

theorem addHolds_memOk {s : State} (hs : s.memOk = true) (core ctx caddr n : Nat) :
    (addHolds s core ctx caddr n).memOk = true := by
  unfold addHolds
  grind -linarith [State.setCore_memOk, mapRes_memOk, State.memOk_core]

theorem giveHolds_memOk {s : State} (hs : s.memOk = true) (core ctx caddr n : Nat) :
    (giveHolds s core ctx caddr n).memOk = true := by
  unfold giveHolds
  grind -linarith [State.setCore_memOk, freeEvicted_memOk, mapRes_memOk, State.memOk_core]

theorem setCalloWait_memOk {s : State} (hs : s.memOk = true) (ref : CordRef) (w : Option (Nat × List Nat)) :
    (setCalloWait s ref w).memOk = true := by
  unfold setCalloWait
  grind -linarith [State.setCord_memOk]

theorem endCalloWait_memOk {s : State} (hs : s.memOk = true) (h : Here) : (endCalloWait s h).memOk = true := by
  unfold endCalloWait
  grind -linarith [setCalloWait_memOk, giveHolds_memOk]

theorem execCallo_memOk {s : State} (hs : s.memOk = true) (o : OLbl) : nextMemOk (execCallo o s) := by
  refine issue_memOk hs _ fun h s hs => ?_
  have hslide (s : State) (k) (hs : s.memOk = true) (r a) := slide_memOk hs h.ref k r a
  have hwait {s : State} (hs : s.memOk = true) (e n w) :=
    setCalloWait_memOk (addHolds_memOk hs h.ref.core h.block.ctx e n) h.ref w
  dsimp only
  split
  · exact hs
  · split
    · have := noteOvls_memOk (endCalloWait_memOk hs h) h.ref.core h.block.ctx h.block.ovtab
      split <;> exact this
    · have ht := noteOvls_memOk hs h.ref.core h.block.ctx h.block.ovtab
      have hend := endCalloWait_memOk ht h
      split
      · split
        · exact hend
        · exact hwait (beginLoad_memOk hend _ _ _) _ _ _
      · split
        · split
          · trivial
          · exact hwait hend _ _ _
        · split
          · trivial
          · split
            · exact parkSpill_memOk hend _ _
            · exact endCalloWait_memOk (addHolds_memOk (eachLane_memOk h (fun s k hs => hslide s k hs _ _) _ ht (_, _, _)
              ‹_›) _ _ _ _) _

theorem retLane_memOk {s : State} (hs : s.memOk = true) (ref : CordRef) (k : Nat) :
    ∀ t, retLane ref s k = .ok t → t.memOk = true := by
  unfold retLane
  grind -linarith [State.memOk_core, → unslide_memOk, State.setCore_memOk, dropHolds_memOk]

theorem execRet_memOk {s : State} (hs : s.memOk = true) (o : OG) : nextMemOk (execRet o s) := by
  refine issue_memOk hs _ fun h s hs => ?_
  dsimp only
  split
  · trivial
  · split
    · exact parkSpill_memOk hs _ _
    · have := eachLane_memOk h (fun s k hs => retLane_memOk hs h.ref k) _ hs (_, _, _) ‹_›
      show State.memOk (if _ then _ else _) = true
      split
      · exact this
      · exact settleAt_memOk (exitLanes_memOk this _ _) _ _

theorem execExit_memOk {s : State} (hs : s.memOk = true) (o : OG) : nextMemOk (execExit o s) := by
  refine issue_memOk hs _ fun h s hs => ?_
  grind -linarith [settleAt_memOk, exitLanes_memOk, Act.memOk]

theorem execRjoin_memOk {s : State} (hs : s.memOk = true) : nextMemOk (execRjoin s) := by
  refine issue_memOk hs _ fun h s hs => ?_
  grind -linarith [State.setCord_memOk, Act.memOk]

/-! ### Tiles and engines -/

theorem Core.setTile_memOk {c : Core} (hc : c.memOk = true) (p : Nat) (t : Tile) : (Core.setTile c p t).memOk = true := by
  unfold Core.setTile
  grind -linarith [Core.memOk]

theorem Core.setElem_memOk {c : Core} (hc : c.memOk = true) (p m n : Nat) (w : Word) :
    (Core.setElem c p m n w).memOk = true := by
  unfold Core.setElem
  grind -linarith [Mem.wf_setWord, Core.memOk]

theorem applyGroup_memOk {c : Core} (hc : c.memOk = true) (p spbase : Nat) (a : Arrival) (ps : List Part) (g : Nat) :
    (applyGroup c p spbase a ps g).memOk = true := by
  unfold applyGroup
  grind -linarith [foldl_core_memOk, Core.setElem_memOk]

theorem noteGroup_memOk {c : Core} (hc : c.memOk = true) (p spbase : Nat) (a : Arrival) (ps : List Part) (adds : Bool) :
    (noteGroup c p spbase a ps adds).memOk = true := by
  unfold noteGroup
  grind -linarith [foldl_core_memOk, noteCore_memOk]

theorem stepInstance_memOk {c : Core} (hc : c.memOk = true) (p k : Nat) : (stepInstance c p k).memOk = true := by
  unfold stepInstance
  grind -linarith [Core.setTile_memOk, noteGroup_memOk, applyGroup_memOk]

theorem EngineFault.unit_memOk (f : EngineFault) : (EngineFault.unit f).memOk := by
  unfold EngineFault.unit
  grind -linarith [UnitRes.memOk]

theorem engineSeen_memOk {s : State} (hs : s.memOk = true) (r : Reader) (l : List (Nat × Nat)) :
    (engineSeen s r l).memOk = true := by
  unfold engineSeen
  grind -linarith [foldl_memOk, globalSaw_memOk, noteGlobal_memOk, engineTouch_memOk]

theorem spadSeen_memOk {s : State} (hs : s.memOk = true) (core : Nat) (o : OpEntry) (off n : Nat) :
    (spadSeen s core o off n).memOk = true := by
  unfold spadSeen
  grind -linarith [noteRead_memOk, State.saw_memOk]

theorem opRelease_memOk {s : State} (hs : s.memOk = true) (core : Nat) (o : OpEntry) (ps : List (Place × Nat)) (last : Bool) :
    (opRelease s core o ps last).memOk = true := by
  unfold opRelease
  grind -linarith [State.send_memOk]

theorem opWrite_memOk {s : State} (hs : s.memOk = true) (core : Nat) (o : OpEntry) (off : Nat) (l : List Byte) (last : Bool) :
    (opWrite s core o off l last).memOk = true := by
  unfold opWrite
  grind -linarith [Mem.wf_write, State.memOk_core, State.setCore_memOk, mend_memOk, State.wrote_memOk, State.showTo_memOk,
    opRelease_memOk, Core.memOk]

theorem unitIn_memOk {s : State} (hs : s.memOk = true) (core : Nat) (o : OpEntry) (total : Nat) :
    (unitIn s core o total).memOk := by
  unfold unitIn
  grind -linarith [Mem.wf_write, EngineFault.unit_memOk, engineSeen_memOk, State.memOk_core, State.setCore_memOk, mend_memOk,
    opWrite_memOk, Core.memOk, UnitRes.memOk]

theorem unitOut_memOk {s : State} (hs : s.memOk = true) (core : Nat) (o : OpEntry) (total : Nat) :
    (unitOut s core o total).memOk := by
  unfold unitOut
  grind -linarith [EngineFault.unit_memOk, noteRead_memOk, spadSeen_memOk, globalWrite_memOk, engineTouch_memOk, opRelease_memOk,
    UnitRes.memOk]

theorem unitCk_memOk {s : State} (hs : s.memOk = true) (core : Nat) (o : OpEntry) : (unitCk s core o).memOk := by
  unfold unitCk
  grind -linarith [EngineFault.unit_memOk, opWrite_memOk, engineSeen_memOk, UnitRes.memOk]

theorem unitCkc_memOk {s : State} (hs : s.memOk = true) (core : Nat) (o : OpEntry) : (unitCkc s core o).memOk := by
  unfold unitCkc
  grind -linarith [EngineFault.unit_memOk, opWrite_memOk, engineSeen_memOk, UnitRes.memOk]

theorem unitGat_memOk {s : State} (hs : s.memOk = true) (core : Nat) (o : OpEntry) : (unitGat s core o).memOk := by
  unfold unitGat
  grind -linarith [EngineFault.unit_memOk, spadSeen_memOk, opWrite_memOk, engineSeen_memOk, UnitRes.memOk]

theorem unitRow_memOk {s : State} (hs : s.memOk = true) (core : Nat) (o : OpEntry) (rows : List Nat) (shift : Nat) :
    (unitRow s core o rows shift).memOk := by
  unfold unitRow
  grind -linarith [EngineFault.unit_memOk, opWrite_memOk, engineSeen_memOk, UnitRes.memOk]

theorem giveLists_memOk {s : State} (hs : s.memOk = true) (core : Nat) (o : OpEntry) :
    (giveLists s core o).memOk = true := by
  unfold giveLists
  grind -linarith [setOp_memOk]

theorem unitLists_memOk {s : State} (hs : s.memOk = true) (core : Nat) (o : OpEntry) : (unitLists s core o).memOk := by
  unfold unitLists
  grind -linarith [EngineFault.unit_memOk, spadSeen_memOk, engineSeen_memOk, opWrite_memOk, giveLists_memOk, UnitRes.memOk]

theorem writePage_memOk {c : Core} (hc : c.memOk = true) (page : Nat) (l : List Byte) :
    (writePage c page l).memOk = true := by
  unfold writePage
  grind -linarith [Mem.wf_write, Mem.wf_clear, Core.memOk]

theorem loadPage_memOk {s : State} (hs : s.memOk = true) (core : Nat) (r : Residency) :
    ∀ t, loadPage s core r = .ok t → t.memOk = true := by
  unfold loadPage
  grind -linarith [engineSeen_memOk, writePage_memOk, State.memOk_core, State.setCore_memOk, Core.memOk]

theorem unitPage_memOk {s : State} (hs : s.memOk = true) (core : Nat) (o : OpEntry) : (unitPage s core o).memOk := by
  unfold unitPage
  grind -linarith [→ loadPage_memOk, EngineFault.unit_memOk, UnitRes.memOk]

theorem workUnit_memOk {s : State} (hs : s.memOk = true) (core e : Nat) (o : OpEntry) : (workUnit s core e o).memOk := by
  unfold workUnit
  grind -linarith [unitIn_memOk, unitOut_memOk, unitCk_memOk, unitCkc_memOk, unitGat_memOk, unitRow_memOk, unitLists_memOk,
    unitPage_memOk, UnitRes.memOk]

theorem takePages_memOk {c : Core} (hc : c.memOk = true) (ctx caddr : Nat) : (takePages c ctx caddr).memOk = true := by
  unfold takePages
  grind -linarith [→ withRoom_memOk, joinRecord_memOk, freeRes_memOk, reclaim_memOk, mapRes_memOk]

theorem tileWrote_memOk {c : Core} (hc : c.memOk = true) (o : OpEntry) : (tileWrote c o).memOk = true := by
  unfold tileWrote
  grind -linarith [Core.setTile_memOk]

theorem starting_memOk {s : State} (hs : s.memOk = true) (core e : Nat) (o : OpEntry) :
    (starting s core e o).memOk = true := by
  unfold starting
  grind -linarith [noteRead_memOk, State.hear_memOk]

theorem startOp_memOk {s : State} (hs : s.memOk = true) (core e : Nat) (o : OpEntry) : (startOp s core e o).memOk = true := by
  unfold startOp
  extract_lets c o fail
  have hfail (cause a) : (fail cause a).memOk = true := finishOp_memOk hs ..
  have hset (o) := setOp_memOk hs core e o
  have hdone (o) := finishOp_memOk hs core e o .done
  have ht := State.setCore_memOk hs core (takePages_memOk (State.memOk_core hs core) o.ctx o.caddr)
  have htset (o) := setOp_memOk ht core e o
  have htdone (o) := finishOp_memOk ht core e o .done
  clear_value c o fail
  clear ht
  cases o.kind with
  | wnw =>
    dsimp only
    split
    · exact hset _
    · split
      · exact hfail _ _
      · exact hset _
  | replay =>
    dsimp only
    split
    · exact hdone _
    · exact hset _
  | ovlld =>
    dsimp only
    split
    · exact hfail _ _
    · split
      · exact hfail _ _
      · split
        · exact hdone _
        · split
          · exact hfail _ _
          · split
            · exact htdone _
            · exact htset _
  | cpygat => exact hset _
  | cpy _ => exact hset _
  | mred _ => exact hset _
  | coll _ => exact hset _

theorem woke_memOk {s : State} (hs : s.memOk = true) : nextMemOk (woke s) := by
  unfold woke
  grind -linarith [State.memOk, nextMemOk_next]

theorem served_memOk {s : State} (hs : s.memOk = true) (core e : Nat) (o : OpEntry) :
    (served s core e o).memOk = true := by
  unfold served
  grind -linarith [noteRead_memOk, State.setCore_memOk, State.memOk_core, Core.memOk]

theorem execUnitBoundary_memOk {s : State} (hs : s.memOk = true) (core e : Nat) : nextMemOk (execUnitBoundary core e s) := by
  unfold execUnitBoundary
  split
  · exact nextMemOk_next hs
  · rename_i o _
    have hu := workUnit_memOk (served_memOk hs core e o) core e o
    split
    · exact nextMemOk_next hs
    · split
      · exact woke_memOk (finishOp_memOk hs _ _ _ _)
      · split
        · exact woke_memOk (setOp_memOk hs _ _ _)
        · split
          · exact nextMemOk_next hs
          · split
            · rename_i t p e'
              rw [e'] at hu
              exact woke_memOk (setOp_memOk hu _ _ _)
            · exact nextMemOk_next hs

theorem execOpFinish_memOk {s : State} (hs : s.memOk = true) (core e : Nat) : nextMemOk (execOpFinish core e s) := by
  unfold execOpFinish
  split
  · exact nextMemOk_next hs
  · rename_i o _
    have hu := workUnit_memOk (served_memOk hs core e o) core e o
    split
    · exact nextMemOk_next hs
    · split
      · rename_i t p e'
        rw [e'] at hu
        exact woke_memOk (finishOp_memOk hu _ _ _ _)
      · exact nextMemOk_next hs

theorem execOpReplay_memOk {s : State} (hs : s.memOk = true) (core e : Nat) : nextMemOk (execOpReplay core e s) := by
  unfold execOpReplay
  grind -linarith [State.memOk_core, woke_memOk, State.setCore_memOk, setOp_memOk, Core.memOk, nextMemOk_next]

/-! ### Overlays -/

theorem cancelOp_memOk {s : State} (hs : s.memOk = true) (core e : Nat) : (cancelOp s core e).memOk = true := by
  unfold cancelOp
  grind -linarith [setOp_memOk, finishOp_memOk]

theorem cancelBlockOps_memOk {s : State} (hs : s.memOk = true) (core slot : Nat) :
    (cancelBlockOps s core slot).memOk = true := by
  unfold cancelBlockOps
  grind -linarith [foldl_memOk, cancelOp_memOk]

theorem failLaunch_memOk {s : State} (hs : s.memOk = true) (n blk : Nat) (cause : Byte) :
    (failLaunch s n blk cause).memOk = true := by
  unfold failLaunch
  grind -linarith [State.setLaunch_memOk]

theorem dropInstances_memOk {c : Core} (hc : c.memOk = true) (ps : List Nat) : (dropInstances c ps).memOk = true := by
  unfold dropInstances
  grind -linarith [Core.memOk]

theorem endBlock_memOk {s : State} (hs : s.memOk = true) (core slot : Nat) (cause : Byte) :
    (endBlock s core slot cause).memOk = true := by
  unfold endBlock
  split
  · exact hs
  · rename_i b _
    have ht := failLaunch_memOk (State.setCore_memOk (State.setBlock_memOk hs core slot { b with status := .ended }) core
      (dropInstances_memOk (State.memOk_core (State.setBlock_memOk hs core slot { b with status := .ended }) core) b.tiles))
        b.launch b.index cause
    split
    · exact hs
    · refine cancelBlockOps_memOk ?_ _ _
      split
      · exact ht
      · split
        · exact ht
        · exact State.setLaunch_memOk ht _ _

theorem parkCallo_memOk {s : State} (hs : s.memOk = true) (core ctx caddr : Nat) (cause : Byte) (tval : Word) :
    (parkCallo s core ctx caddr cause tval).memOk = true := by
  unfold parkCallo
  grind -linarith [State.memOk_core, State.setCore_memOk, Core.memOk]

theorem baseFault_memOk {s : State} (hs : s.memOk = true) (core slot addr : Nat) (cause : Byte) :
    (baseFault s core slot addr cause).memOk = true := by
  unfold baseFault
  grind -linarith [endBlock_memOk, faultEntry_memOk]

theorem failLoad_memOk {s : State} (hs : s.memOk = true) (core : Nat) (r : Residency) (unit : Bool) (cause : Byte) (addr : Nat) :
    (failLoad s core r unit cause addr).memOk = true := by
  unfold failLoad
  grind -linarith [foldl_memOk, State.memOk_core, logData_memOk, failUnit_memOk, finishOp_memOk, parkCallo_memOk, State.setCore_memOk,
    freeRes_memOk, baseFault_memOk, State.memOk, Core.memOk]

theorem loadRest_memOk (core order fuel : Nat) {s : State} (hs : s.memOk = true) : (loadRest core order fuel s).1.memOk = true := by
  induction fuel generalizing s with
  | zero => exact hs
  | succ n ih =>
    unfold loadRest
    grind -linarith [→ loadPage_memOk]

theorem endLoad_memOk {s : State} (hs : s.memOk = true) (core : Nat) (r : Residency) :
    (endLoad s core r).memOk = true := by
  unfold endLoad
  grind -linarith [foldl_memOk, foldl_core_memOk, State.memOk_core, failLoad_memOk, → withRoom_memOk, mapPages_memOk,
    State.setCore_memOk, finishOp_memOk, freeEvicted_memOk, Core.memOk]

theorem suspendLoad_memOk {s : State} (hs : s.memOk = true) (core : Nat) (r : Residency) (cause : Byte) (a : Nat) :
    (suspendLoad s core r cause a).memOk = true := by
  unfold suspendLoad
  grind -linarith [State.memOk_core, logData_memOk, State.setCore_memOk, faultEntry_memOk, Core.memOk]

theorem execOverlayDigestCheck_memOk {s : State} (hs : s.memOk = true) (core i : Nat) :
    nextMemOk (execOverlayDigestCheck core i s) := by
  unfold execOverlayDigestCheck
  split
  · exact nextMemOk_next hs
  · rename_i r _
    split
    · exact nextMemOk_next hs
    · split
      · split
        · exact nextMemOk_next hs
        · exact woke_memOk (endLoad_memOk hs _ _)
      · split
        · exact nextMemOk_next hs
        · extract_lets s'
          have hs' : s'.memOk = true := by
            subst s'; split
            · exact State.setCore_memOk hs _ (takePages_memOk (State.memOk_core hs _) _ _)
            · exact hs
          have ht := loadRest_memOk core r.order r.npages hs'
          split
          · exact woke_memOk hs'
          · split
            · exact nextMemOk_next hs
            · dsimp only
              split
              · exact nextMemOk_next hs
              · exact woke_memOk (endLoad_memOk ht _ _)
              · refine woke_memOk ?_
                have hu (l : List Nat) := foldl_memOk (fun t va ht => touch_memOk ht core false r.ctx va) l ht
                split
                · exact suspendLoad_memOk (hu _) ..
                · exact failLoad_memOk (hu _) ..

theorem execOpEndFailed_memOk {s : State} (hs : s.memOk = true) (core e : Nat) :
    nextMemOk (execOpEndFailed core e s) := by
  unfold execOpEndFailed
  grind -linarith [woke_memOk, failLoad_memOk, finishOp_memOk, nextMemOk_next]

theorem execOpSuspend_memOk {s : State} (hs : s.memOk = true) (core e : Nat) : nextMemOk (execOpSuspend core e s) := by
  unfold execOpSuspend
  grind -linarith [foldl_memOk, touch_memOk, served_memOk, woke_memOk, failLoad_memOk, failUnit_memOk, logData_memOk, setOp_memOk,
    nextMemOk_next]

theorem parkFetch_memOk {s : State} (hs : s.memOk = true) (core page : Nat) : (parkFetch s core page).memOk = true := by
  unfold parkFetch
  grind -linarith [State.memOk_core, State.setCore_memOk, Core.memOk]

theorem execCodePageReload_memOk {s : State} (hs : s.memOk = true) (core page : Nat) (ok : Bool) :
    nextMemOk (execCodePageReload core page ok s) := by
  unfold execCodePageReload
  grind -linarith [foldl_memOk, State.memOk_core, logData_memOk, countPerf_memOk, touch_memOk, woke_memOk, parkFetch_memOk,
    engineSeen_memOk, State.setCore_memOk, writePage_memOk, nextMemOk_next]

/-! ### Collectives and combine trees -/

theorem failMembers_memOk {s : State} (hs : s.memOk = true) (ms : List (Nat × Nat)) (ctl : Nat × Nat) (cause : Byte) (a : Nat) :
    (failMembers s ms ctl cause a).memOk = true := by
  unfold failMembers
  grind -linarith [foldl_memOk, finishOp_memOk]

theorem deliverResult_memOk {s : State} (hs : s.memOk = true) (ms : List (Nat × Nat)) (ctl : Nat × Nat) (x : List Word) :
    (deliverResult s ms ctl x).memOk = true := by
  unfold deliverResult
  grind -linarith [foldl_memOk, failUnit_memOk, finishOp_memOk, opWrite_memOk, noteRead_memOk, Core.memOk]

theorem putRed_memOk {s : State} (hs : s.memOk = true) (d : Nat) (r : Reduction) : (putRed s d r).memOk = true := by
  unfold putRed
  grind -linarith [State.setDie_memOk]

theorem dropRed_memOk {s : State} (hs : s.memOk = true) (d tree id : Nat) : (dropRed s d tree id).memOk = true := by
  unfold dropRed
  grind -linarith [State.setDie_memOk]

theorem settleRed_memOk {s : State} (hs : s.memOk = true) (d : Nat) (r : Reduction) : (settleRed s d r).memOk = true := by
  unfold settleRed
  grind -linarith [dropRed_memOk, putRed_memOk]

theorem startMred_memOk {s : State} (hs : s.memOk = true) (core e : Nat) (o : OpEntry) :
    (startMred s core e o).memOk = true := by
  unfold startMred
  grind -linarith [failUnit_memOk, spadSeen_memOk, putRed_memOk, setOp_memOk, settleRed_memOk, finishOp_memOk]

theorem failRed_memOk {s : State} (hs : s.memOk = true) (d : Nat) (r : Reduction) (cause : Byte) (a : Nat) :
    (failRed s d r cause a).memOk = true := by
  unfold failRed
  grind -linarith [settleRed_memOk, failMembers_memOk]

theorem execMredPacketArrival_memOk {s : State} (hs : s.memOk = true) (die tree id router : Nat) :
    nextMemOk (execMredPacketArrival die tree id router s) := by
  unfold execMredPacketArrival
  grind -linarith [woke_memOk, failRed_memOk, putRed_memOk, dropRed_memOk, deliverResult_memOk, nextMemOk_next]

theorem execMredTimeout_memOk {s : State} (hs : s.memOk = true) (die tree id router : Nat) :
    nextMemOk (execMredTimeout die tree id router s) := by
  unfold execMredTimeout
  grind -linarith [woke_memOk, failRed_memOk, nextMemOk_next]

theorem putSysRed_memOk {s : State} (hs : s.memOk = true) (r : SysReduction) : (putSysRed s r).memOk = true := by
  unfold putSysRed
  grind -linarith [State.memOk]

theorem dropSysRed_memOk {s : State} (hs : s.memOk = true) (tree id : Nat) : (dropSysRed s tree id).memOk = true := by
  unfold dropSysRed
  grind -linarith [State.memOk]

theorem settleSys_memOk {s : State} (hs : s.memOk = true) (r : SysReduction) : (settleSys s r).memOk = true := by
  unfold settleSys
  grind -linarith [dropSysRed_memOk, putSysRed_memOk]

theorem freeMember_memOk {s : State} (hs : s.memOk = true) : (freeMember s).2.memOk = true := by
  unfold freeMember
  grind -linarith [State.free_memOk]

theorem startColl_memOk {s : State} (hs : s.memOk = true) (core e : Nat) (o : OpEntry) :
    (startColl s core e o).memOk = true := by
  unfold startColl
  grind -linarith [freeMember_memOk, finishOp_memOk, failUnit_memOk, spadSeen_memOk, settleSys_memOk, putSysRed_memOk, setOp_memOk]

theorem sendLink_memOk {s : State} (hs : s.memOk = true) (tree id link : Nat) (x : RedTy × List Word) (fail : Option (Byte × Nat)) :
    (sendLink s tree id link x fail).memOk = true := by
  unfold sendLink
  grind -linarith [State.memOk]

theorem sendDown_memOk {s : State} (hs : s.memOk = true) (tree id : Nat) (x : RedTy × List Word) (fail : Option (Byte × Nat)) :
    (sendDown s tree id x fail).memOk = true := by
  unfold sendDown
  grind -linarith [foldl_memOk, sendLink_memOk]

theorem collResult_memOk {s : State} (hs : s.memOk = true) (r : SysReduction) (x : RedTy × List Word) :
    (collResult s r x).memOk = true := by
  unfold collResult
  grind -linarith [dropSysRed_memOk, deliverResult_memOk, sendDown_memOk]

theorem sendFailure_memOk {s : State} (hs : s.memOk = true) (r : SysReduction) (f : Byte × Nat) :
    (sendFailure s r f).memOk = true := by
  unfold sendFailure
  grind -linarith [sendDown_memOk, sendLink_memOk]

theorem failSys_memOk {s : State} (hs : s.memOk = true) (r : SysReduction) (cause : Byte) (a : Nat) :
    (failSys s r cause a).memOk = true := by
  unfold failSys
  grind -linarith [settleSys_memOk, failMembers_memOk, sendFailure_memOk]

theorem cutReductions_memOk {s : State} (hs : s.memOk = true) : (cutReductions s).memOk = true := by
  unfold cutReductions
  grind -linarith [foldl_memOk, freeMember_memOk, failSys_memOk]

theorem takeColl_memOk {s : State} (hs : s.memOk = true) (r : SysReduction) (p : CollPacket) :
    (takeColl s r p).memOk = true := by
  unfold takeColl
  grind -linarith [settleSys_memOk, failSys_memOk, putSysRed_memOk, collResult_memOk]

theorem combineColl_memOk {s : State} (hs : s.memOk = true) (r : SysReduction) : (combineColl s r).memOk = true := by
  unfold combineColl
  dsimp only
  split
  · exact hs
  · split
    · exact hs
    · exact hs
    · grind -linarith [failSys_memOk, putSysRed_memOk, sendLink_memOk, collResult_memOk]

theorem execCollPacketArrival_memOk {s : State} (hs : s.memOk = true) (tree id : Nat) (pkt : Option CollPacket) :
    nextMemOk (execCollPacketArrival tree id pkt s) := by
  unfold execCollPacketArrival
  grind -linarith [woke_memOk, takeColl_memOk, combineColl_memOk, nextMemOk_next]

theorem execCollTimeout_memOk {s : State} (hs : s.memOk = true) (tree id missing : Nat) :
    nextMemOk (execCollTimeout tree id missing s) := by
  unfold execCollTimeout
  grind -linarith [woke_memOk, failSys_memOk, nextMemOk_next]

theorem execOpStart_memOk {s : State} (hs : s.memOk = true) (core e : Nat) : nextMemOk (execOpStart core e s) := by
  unfold execOpStart
  grind -linarith [starting_memOk, woke_memOk, failUnit_memOk, startMred_memOk, startColl_memOk, startOp_memOk, nextMemOk_next]

/-! ### Contractions -/

theorem execCtr_memOk {s : State} (hs : s.memOk = true) (o : OCtr) : nextMemOk (execCtr o s) := by
  refine issue_memOk hs _ fun h s hs => ?_
  grind -linarith [parkSet_memOk, State.memOk_core, parkSetFree_memOk, State.setCord_memOk, State.pass_memOk, State.setCore_memOk,
    Core.setTile_memOk, Act.memOk]

theorem execCtrskip_memOk {s : State} (hs : s.memOk = true) (o : OSkip) : nextMemOk (execCtrskip o s) := by
  refine issue_memOk hs _ fun h s hs => ?_
  grind -linarith [parkSet_memOk, State.setCord_memOk, State.memOk_core, State.setCore_memOk, Core.setTile_memOk, Act.memOk]

theorem tileOp_memOk {s : State} (hs : s.memOk = true) (h : Here) (tile : TileN) (w : Bool) (f : Nat → Act)
    (hf : ∀ x, (f x).memOk) :
    (tileOp h s tile w f).memOk := by
  unfold tileOp
  grind -linarith [parkSet_memOk, Act.memOk]

theorem execAcz_memOk {s : State} (hs : s.memOk = true) (o : OAcz) : nextMemOk (execAcz o s) := by
  refine issue_memOk hs _ fun h s hs => ?_
  grind -linarith [Mem.wf_clear, tileOp_memOk, State.memOk_core, parkSetFree_memOk, State.setCore_memOk, mend_memOk, Core.setTile_memOk,
    Core.memOk, Act.memOk]

theorem execAcrd_memOk {s : State} (hs : s.memOk = true) (o : OAcrd) : nextMemOk (execAcrd o s) := by
  refine issue_memOk hs _ fun h s hs => ?_
  grind -linarith [foldl_memOk, tileOp_memOk, parkSetFree_memOk, parkSet_memOk, State.free_memOk, noteRead_memOk, Act.memOk]

theorem execAcwr_memOk {s : State} (hs : s.memOk = true) (o : OAcwr) : nextMemOk (execAcwr o s) := by
  refine issue_memOk hs _ fun h s hs => ?_
  grind -linarith [foldl_core_memOk, Mem.wf_setWord, tileOp_memOk, State.memOk_core, parkSetFree_memOk, State.setCore_memOk,
    Core.setTile_memOk, Core.memOk, Act.memOk]

theorem storedAll_memOk {s : State} (hs : s.memOk = true) (h : Here) (z : Nat) (offs : List Nat) :
    (storedAll s h z offs).memOk = true := by
  unfold storedAll
  grind -linarith [foldl_memOk, State.wrote_memOk]

theorem writeRegion_memOk {s : State} (hs : s.memOk = true) (h : Here) (z : Nat) (offs vals : List Nat) :
    (writeRegion s h z offs vals).memOk = true := by
  obtain ⟨hsp, ha, hc⟩ := Core.memOk_iff.1 (State.memOk_core hs h.ref.core)
  have hm : Mem.wf ((offs.zip vals).foldl (fun m x => Mem.write m (h.block.spbase + x.1) (natLe z x.2)) (s.core
    h.ref.core).spad) = true :=
    foldl_keeps (p := fun m : Mem => m.wf = true) (fun _ _ hm => Mem.wf_write _ _ hm) _ hsp
  have hd : ({ s.core h.ref.core with spad := _ } : Core).memOk = true := Core.memOk_iff.2 ⟨hm, ha, hc⟩
  have he := foldl_core_memOk (f := fun c o => mend c .scratchpad (h.block.spbase + o) z) (fun _ _ hc => mend_memOk hc _ _ _)
    offs hd
  have ht := storedAll_memOk (State.setCore_memOk hs h.ref.core he) h z offs
  unfold writeRegion
  dsimp only
  split
  · exact ht
  · exact State.setBlock_memOk ht _ _ _

theorem noteDrain_memOk {s : State} (hs : s.memOk = true) (h : Here) (p : Nat) (w : Word) (offs : List Nat) (z : Nat) (rd : Bool) :
    (noteDrain s h p w offs z rd).memOk = true := by
  unfold noteDrain
  grind -linarith [foldl_memOk, State.saw_memOk, noteBoard_memOk, noteRead_memOk]

theorem drainOp_memOk {s : State} (hs : s.memOk = true) (i : Instr) (h : Here) (p : Nat) (skw : Bool) (ea w : Word)
    (z : Nat) (rd : Bool) (elems : List Nat → List Nat × Cord) :
    (drainOp i h s p skw ea w z rd elems).memOk := by
  unfold drainOp
  grind -linarith [parkSet_memOk, parkSetFree_memOk, countHold_memOk, writeRegion_memOk, noteDrain_memOk, State.setCord_memOk, Act.memOk]

theorem execAcdrain_memOk {s : State} (hs : s.memOk = true) (o : ODrain) : nextMemOk (execAcdrain o s) := by
  refine issue_memOk hs _ fun h s hs => ?_
  grind -linarith [tileOp_memOk, drainOp_memOk, Act.memOk]

theorem execAcaxpy_memOk {s : State} (hs : s.memOk = true) (o : OAxpy) : nextMemOk (execAcaxpy o s) := by
  refine issue_memOk hs _ fun h s hs => ?_
  grind -linarith [tileOp_memOk, drainOp_memOk, Act.memOk]

theorem execAcrst_memOk {s : State} (hs : s.memOk = true) (o : OLbl) : nextMemOk (execAcrst o s) := by
  refine issue_memOk hs _ fun h s hs => ?_
  grind -linarith [foldl_memOk, parkSetFree_memOk, noteRead_memOk, State.setCord_memOk, Act.memOk]

theorem noteOperands_memOk {s : State} (hs : s.memOk = true) (core tile : Nat) (b : Block) (a : Arrival) (ps : List Part) :
    (noteOperands s core tile b a ps).memOk = true := by
  unfold noteOperands
  grind -linarith [State.noteRace_memOk]

theorem stepSeen_memOk {s : State} (hs : s.memOk = true) (core tile i : Nat) : (stepSeen s core tile i).memOk = true := by
  unfold stepSeen
  grind -linarith [foldl_memOk, State.memOk_core, noteOperands_memOk, State.seenBy_memOk, stepInstance_memOk, State.setCore_memOk,
    State.unpick_memOk, State.memOk, Core.memOk]

theorem execContractionGroup_memOk {s : State} (hs : s.memOk = true) (core tile i : Nat) :
    nextMemOk (execContractionGroup core tile i s) := by
  unfold execContractionGroup
  grind -linarith [foldl_memOk, logData_memOk, stepSeen_memOk, countPerf_memOk, State.memOk, nextMemOk_next]

/-! ### Loads, stores and atomics of the lanes -/

theorem touchSpot_memOk {s : State} (hs : s.memOk = true) (z : Nat) (rd : Bool) (p : Spot) :
    (touchSpot s z rd p).memOk = true := by
  unfold touchSpot
  grind -linarith [touch_memOk, noteSpot_memOk]

theorem bringSpots_memOk {s : State} (hs : s.memOk = true) (h : Here) (z : Nat) (ps : List (Nat × Spot)) :
    (bringSpots s h z ps).memOk = true := by
  unfold bringSpots
  grind -linarith [bringLines_memOk]

theorem noteBoards_memOk {s : State} (hs : s.memOk = true) (ps : List Spot) : (noteBoards s ps).memOk = true := by
  unfold noteBoards
  grind -linarith [foldl_memOk, noteBoard_memOk]

theorem touchBad_memOk {s : State} (hs : s.memOk = true) (h : Here) (sp : Space) (bad : List (Nat × Byte × Word)) :
    (touchBad s h sp bad).memOk = true := by
  unfold touchBad
  grind -linarith [foldl_memOk, touch_memOk]

theorem holdSpots_memOk {s : State} (hs : s.memOk = true) (h : Here) (w : Bool) (z : Nat) (ps : List (Nat × Spot)) :
    (holdSpots s h w z ps).memOk := by
  unfold holdSpots
  grind -linarith [foldl_memOk, countHold_memOk, State.holdRead_memOk, Act.memOk]

theorem countSuppressed_memOk {s : State} (hs : s.memOk = true) (h : Here) (gather : Bool) (va n : Nat) :
    (countSuppressed s h gather va n).memOk = true := by
  unfold countSuppressed
  grind -linarith [touch_memOk, noteTarget_memOk, logData_memOk, State.memOk]

theorem prefetchLine_memOk {s : State} (hs : s.memOk = true) (h : Here) (va : Nat) :
    (prefetchLine h s va).memOk = true := by
  unfold prefetchLine
  grind -linarith [bringLines_memOk, noteTarget_memOk, touch_memOk, countSuppressed_memOk]

theorem laneLoad_memOk {s : State} (hs : s.memOk = true) (i : Instr) (o : OLd) (z : Nat) :
    nextMemOk (laneLoad i o z s) := by
  unfold laneLoad
  grind -linarith [foldl_memOk, issue_memOk, prefetchLine_memOk, holdSpots_memOk, bringSpots_memOk, touchSpot_memOk, State.sawSpot_memOk,
    touchBad_memOk, noteBoards_memOk, Act.memOk]

theorem execLd8_memOk {s : State} (hs : s.memOk = true) (o : OLd) : nextMemOk (execLd8 o s) := by
  unfold execLd8
  grind -linarith [laneLoad_memOk]

theorem execLd16_memOk {s : State} (hs : s.memOk = true) (o : OLd) : nextMemOk (execLd16 o s) := by
  unfold execLd16
  grind -linarith [laneLoad_memOk]

theorem execLd32_memOk {s : State} (hs : s.memOk = true) (o : OLd) : nextMemOk (execLd32 o s) := by
  unfold execLd32
  grind -linarith [laneLoad_memOk]

theorem execLd64_memOk {s : State} (hs : s.memOk = true) (o : OLd) : nextMemOk (execLd64 o s) := by
  unfold execLd64
  grind -linarith [laneLoad_memOk]

theorem execLd128_memOk {s : State} (hs : s.memOk = true) (o : OLd) : nextMemOk (execLd128 o s) := by
  unfold execLd128
  grind -linarith [laneLoad_memOk]

theorem recordSpot_memOk {s : State} (hs : s.memOk = true) (h : Here) (z : Nat) (p : Spot) :
    (recordSpot h s z p).memOk = true := by
  unfold recordSpot
  grind -linarith [State.setBlock_memOk]

theorem laneStore_memOk {s : State} (hs : s.memOk = true) (i : Instr) (o : OSt) (z : Nat) :
    nextMemOk (laneStore i o z s) := by
  unfold laneStore
  grind -linarith [foldl_memOk, issue_memOk, holdSpots_memOk, bringSpots_memOk, spotWrite_memOk, touchSpot_memOk, State.wroteSpot_memOk,
    recordSpot_memOk, touchBad_memOk, noteBoards_memOk, Act.memOk]

theorem execSt8_memOk {s : State} (hs : s.memOk = true) (o : OSt) : nextMemOk (execSt8 o s) := by
  unfold execSt8
  grind -linarith [laneStore_memOk]

theorem execSt16_memOk {s : State} (hs : s.memOk = true) (o : OSt) : nextMemOk (execSt16 o s) := by
  unfold execSt16
  grind -linarith [laneStore_memOk]

theorem execSt32_memOk {s : State} (hs : s.memOk = true) (o : OSt) : nextMemOk (execSt32 o s) := by
  unfold execSt32
  grind -linarith [laneStore_memOk]

theorem execSt64_memOk {s : State} (hs : s.memOk = true) (o : OSt) : nextMemOk (execSt64 o s) := by
  unfold execSt64
  grind -linarith [laneStore_memOk]

theorem execSt128_memOk {s : State} (hs : s.memOk = true) (o : OSt) : nextMemOk (execSt128 o s) := by
  unfold execSt128
  grind -linarith [laneStore_memOk]

theorem execAtom_memOk {s : State} (hs : s.memOk = true) (o : OAtom) : nextMemOk (execAtom o s) := by
  refine issueP_memOk hs _ _ fun h s hs => ?_
  extract_lets act ks ea l good t step
  have ht : t.memOk = true := bringSpots_memOk hs h 4 good
  have hstep (x : State × List Owed) (y : Nat × Spot) (hx : x.1.memOk = true) : (step x y).1.memOk = true :=
    State.wroteSpot_memOk (spotWrite_memOk (State.fences_memOk (State.sawSpot_memOk (touchSpot_memOk hx ..) ..) ..) ..) ..
  have hf := foldl_keeps (p := fun x : State × List Owed => x.1.memOk = true) hstep good
    (y := (noteBoards t (good.map (·.2)), [])) (noteBoards_memOk ht _)
  clear_value step t
  split
  · exact holdSpots_memOk hs ..
  · exact touchBad_memOk hf ..

theorem uniSpot_memOk {s : State} (hs : s.memOk = true) (h : Here) (a : Reg) (imm : BitVec 11) (skw : Bool) (z : Nat)
    (w ex : Bool) (f : Spot → Act) (hf : ∀ x, (f x).memOk) :
    (uniSpot s h a imm skw z w ex f).memOk := by
  unfold uniSpot
  grind -linarith [parkSet_memOk, holdSpots_memOk]

theorem uniLoad_memOk {s : State} (hs : s.memOk = true) (i : Instr) (o : OSld) (z : Nat) :
    nextMemOk (uniLoad i o z s) := by
  unfold uniLoad
  grind -linarith [issue_memOk, uniSpot_memOk, noteSpot_memOk, noteBoard_memOk, State.sawSpot_memOk, State.setCord_memOk, Act.memOk]

theorem uniStore_memOk {s : State} (hs : s.memOk = true) (i : Instr) (o : OSst) (z : Nat) :
    nextMemOk (uniStore i o z s) := by
  unfold uniStore
  grind -linarith [issue_memOk, uniSpot_memOk, spotWrite_memOk, noteBoard_memOk, State.wroteSpot_memOk, recordSpot_memOk, Act.memOk]

theorem execSld32_memOk {s : State} (hs : s.memOk = true) (o : OSld) : nextMemOk (execSld32 o s) := by
  unfold execSld32
  grind -linarith [uniLoad_memOk]

theorem execSld64_memOk {s : State} (hs : s.memOk = true) (o : OSld) : nextMemOk (execSld64 o s) := by
  unfold execSld64
  grind -linarith [uniLoad_memOk]

theorem execSst32_memOk {s : State} (hs : s.memOk = true) (o : OSst) : nextMemOk (execSst32 o s) := by
  unfold execSst32
  grind -linarith [uniStore_memOk]

theorem execSst64_memOk {s : State} (hs : s.memOk = true) (o : OSst) : nextMemOk (execSst64 o s) := by
  unfold execSst64
  grind -linarith [uniStore_memOk]

/-! ### Starting and managing operations -/

theorem createOp_memOk {s : State} (hs : s.memOk = true) (h : Here) (d : Reg) (o : OpEntry) :
    (createOp s h d o).1.memOk = true := by
  unfold createOp
  grind -linarith [State.memOk_core, allocEntry_memOk, setOp_memOk, State.setCore_memOk, State.pass_memOk, State.setCord_memOk]

theorem settleAfter_memOk {s : State} (hs : s.memOk = true) (core : Nat) (t : Word) :
    (settleAfter s core t).memOk = true := by
  unfold settleAfter
  grind -linarith [cancelAfter_memOk]

theorem keep_memOk {s : State} (hs : s.memOk = true) (h : Here) (t : Word) : (keep h s t).memOk := by
  unfold keep
  grind -linarith [State.setCord_memOk, Act.memOk]

theorem enterOp_memOk {s : State} (hs : s.memOk = true) (h : Here) (t : Word) (n k : Nat) (go : State → State)
    (hgo : ∀ x, x.memOk = true → (go x).memOk = true) :
    (enterOp h s t n k go).memOk := by
  unfold enterOp
  grind -linarith [keep_memOk, cancelAfter_memOk, settleAfter_memOk, Act.memOk]

theorem issueOp_memOk {s : State} (hs : s.memOk = true) (h : Here) (m : OpMods) (bad : Option (Byte × Word)) (n k : Nat)
    (go : State → State) (hgo : ∀ x, x.memOk = true → (go x).memOk = true) :
    (issueOp h s m bad n k go).memOk := by
  unfold issueOp
  grind -linarith [foldl_memOk, enterOp_memOk, parkSet_memOk, parkSetFree_memOk, noteRead_memOk]

theorem execCpyIn_memOk {s : State} (hs : s.memOk = true) (o : OCpy) : nextMemOk (execCpyIn o s) := by
  refine issue_memOk hs _ fun h s hs => ?_
  grind -linarith [issueOp_memOk, createOp_memOk]

theorem execCpyOut_memOk {s : State} (hs : s.memOk = true) (o : OCpy) : nextMemOk (execCpyOut o s) := by
  refine issue_memOk hs _ fun h s hs => ?_
  grind -linarith [issueOp_memOk, createOp_memOk]

theorem execCpyCk_memOk {s : State} (hs : s.memOk = true) (o : OCpy) : nextMemOk (execCpyCk o s) := by
  refine issue_memOk hs _ fun h s hs => ?_
  grind -linarith [issueOp_memOk, createOp_memOk]

theorem execCpyCkc_memOk {s : State} (hs : s.memOk = true) (o : OCpy) : nextMemOk (execCpyCkc o s) := by
  refine issue_memOk hs _ fun h s hs => ?_
  grind -linarith [issueOp_memOk, createOp_memOk]

theorem execCpyIna_memOk {s : State} (hs : s.memOk = true) (o : OCpy) : nextMemOk (execCpyIna o s) := by
  refine issue_memOk hs _ fun h s hs => ?_
  grind -linarith [issueOp_memOk, createOp_memOk, State.setCore_memOk, State.memOk_core, tileWrote_memOk]

theorem execCpyOuta_memOk {s : State} (hs : s.memOk = true) (o : OCpy) : nextMemOk (execCpyOuta o s) := by
  refine issue_memOk hs _ fun h s hs => ?_
  grind -linarith [issueOp_memOk, createOp_memOk]

theorem execCpygat_memOk {s : State} (hs : s.memOk = true) (o : OCpy) : nextMemOk (execCpygat o s) := by
  refine issue_memOk hs _ fun h s hs => ?_
  grind -linarith [issueOp_memOk, createOp_memOk]

theorem noteTree_memOk (h : Here) (sys : Bool) (tree : Nat) (a0 : Act) (ha0 : a0.memOk) :
    (noteTree h sys tree a0).memOk := by
  unfold noteTree
  grind -linarith [State.setCord_memOk, Act.memOk]

theorem cutRed_memOk (h : Here) {x : State × Word} (hx : x.1.memOk = true) : (cutRed h x).memOk = true := by
  unfold cutRed
  split
  · exact finishOp_memOk hx ..
  · exact hx

theorem issueRed_memOk {s : State} (hs : s.memOk = true) (h : Here) (o : OMred) (kind : OpKind) (member : Bool) :
    (issueRed h s o kind member).memOk := by
  unfold issueRed
  grind -linarith [noteTree_memOk, issueOp_memOk, cutRed_memOk, createOp_memOk]

theorem execMred_memOk {s : State} (hs : s.memOk = true) (o : OMred) : nextMemOk (execMred o s) := by
  refine issue_memOk hs _ fun h s hs => ?_
  grind -linarith [issueRed_memOk]

theorem execColl_memOk {s : State} (hs : s.memOk = true) (o : OMred) : nextMemOk (execColl o s) := by
  refine issue_memOk hs _ fun h s hs => ?_
  grind -linarith [issueRed_memOk]

theorem pairOps_memOk {s : State} (hs : s.memOk = true) (core : Nat) (t u : Word) :
    (pairOps s core t u).memOk = true := by
  unfold pairOps
  grind -linarith [setOp_memOk]

theorem execWnw_memOk {s : State} (hs : s.memOk = true) (o : OCpy) : nextMemOk (execWnw o s) := by
  refine issue_memOk hs _ fun h s hs => ?_
  grind -linarith [issueOp_memOk, createOp_memOk, pairOps_memOk]

theorem addToken_memOk {s : State} (hs : s.memOk = true) (h : Here) (caddr : Nat) :
    (addToken s h caddr).memOk = true := by
  unfold addToken
  grind -linarith [State.memOk_core, State.setCore_memOk, mapRes_memOk, State.setBlock_memOk]

theorem execOvlld_memOk {s : State} (hs : s.memOk = true) (o : OOvl) : nextMemOk (execOvlld o s) := by
  refine issue_memOk hs _ fun h s hs => ?_
  refine issueOp_memOk (noteOvls_memOk hs ..) h o.mods _ 1 0 _ fun s hs => ?_
  split
  · exact hs
  · rename_i e _
    extract_lets src ent t u
    have ht : t.memOk = true := by
      subst t; split
      · exact beginLoad_memOk hs ..
      · exact hs
    have hu (x) := createOp_memOk (s := u) (addToken_memOk ht h e.caddr) h o.d x
    clear_value ent u
    split
    · exact createOp_memOk hs ..
    · have hv := hu { ent with holds := true }
      generalize createOp u h o.d _ = x at hv ⊢
      obtain ⟨v, w⟩ := x
      dsimp only at hv ⊢
      split
      · exact hv
      · split
        · exact finishOp_memOk hv ..
        · exact hv

theorem tokenOp_memOk {s : State} (hs : s.memOk = true) (h : Here) (r : Reg) (f : State → Nat → OpEntry → Act)
    (hf : ∀ x y z, x.memOk = true → (f x y z).memOk) :
    (tokenOp h s r f).memOk := by
  unfold tokenOp
  grind -linarith [parkSet_memOk, parkSetFree_memOk, noteRead_memOk]

theorem execOvlrel_memOk {s : State} (hs : s.memOk = true) (o : OTok) : nextMemOk (execOvlrel o s) := by
  refine issue_memOk hs _ fun h s hs => ?_
  grind -linarith [tokenOp_memOk, State.memOk_core, parkSet_memOk, State.setBlock_memOk, State.setCore_memOk, dropTokens_memOk,
    freeOp_memOk, setOp_memOk, Act.memOk]

theorem execOvlevict_memOk {s : State} (hs : s.memOk = true) (o : OEvict) : nextMemOk (execOvlevict o s) := by
  refine issue_memOk hs _ fun h s hs => ?_
  grind -linarith [noteOvls_memOk, State.memOk_core, parkSet_memOk, State.setCore_memOk, freeEvicted_memOk, mapRes_memOk, Act.memOk]

theorem onToken_memOk {s : State} (hs : s.memOk = true) (i : Instr) (r : Reg) (f : Here → State → Nat → OpEntry → Act)
    (hf : ∀ x y z w, y.memOk = true → (f x y z w).memOk) :
    nextMemOk (onToken i r f s) := by
  unfold onToken
  grind -linarith [issue_memOk, tokenOp_memOk]

theorem hearOp_memOk {s : State} (hs : s.memOk = true) (h : Here) (t : Word) : (hearOp s h t).memOk = true := by
  unfold hearOp
  grind -linarith [State.hear_memOk]

theorem endWait_memOk {s : State} (hs : s.memOk = true) (h : Here) (e : Nat) (x : OpEntry) : (endWait h s e x).memOk := by
  unfold endWait
  grind -linarith [keep_memOk, parkSet_memOk, setOp_memOk, freeOp_memOk, hearOp_memOk, Act.memOk]

theorem execOpwait_memOk {s : State} (hs : s.memOk = true) (o : OTok) : nextMemOk (execOpwait o s) := by
  refine issue_memOk hs _ fun h s hs => ?_
  grind -linarith [tokenOp_memOk, endWait_memOk, hearOp_memOk, Act.memOk]

theorem execOptest_memOk {s : State} (hs : s.memOk = true) (o : OTest) : nextMemOk (execOptest o s) := by
  unfold execOptest
  grind -linarith [onToken_memOk, State.setCord_memOk, hearOp_memOk, freeOp_memOk, Act.memOk]

theorem execOpseal_memOk {s : State} (hs : s.memOk = true) (o : OSeal) : nextMemOk (execOpseal o s) := by
  refine issue_memOk hs _ fun h s hs => ?_
  grind -linarith [State.setCord_memOk, Act.memOk]

theorem execOpwaitb_memOk {s : State} (hs : s.memOk = true) (o : OWaitb) : nextMemOk (execOpwaitb o s) := by
  refine issue_memOk hs _ fun h s hs => ?_
  grind -linarith [foldl_memOk, parkSetFree_memOk, noteRead_memOk, State.hear_memOk, parkSet_memOk, setOp_memOk, State.setBlock_memOk,
    Act.memOk]

theorem execOpcancel_memOk {s : State} (hs : s.memOk = true) (o : OTok) : nextMemOk (execOpcancel o s) := by
  unfold execOpcancel
  grind -linarith [onToken_memOk, cancelOp_memOk, Act.memOk]

theorem execOpdetach_memOk {s : State} (hs : s.memOk = true) (o : ODet) : nextMemOk (execOpdetach o s) := by
  unfold execOpdetach
  grind -linarith [onToken_memOk, parkSet_memOk, setOp_memOk, Act.memOk]

theorem execOpstat_memOk {s : State} (hs : s.memOk = true) (o : OStat) : nextMemOk (execOpstat o s) := by
  unfold execOpstat
  grind -linarith [onToken_memOk, parkSet_memOk, holdSpots_memOk, spotWrite_memOk, noteBoard_memOk, State.wroteSpot_memOk,
    State.setBlock_memOk, State.setCord_memOk, freeOp_memOk, Act.memOk]

theorem execOpprio_memOk {s : State} (hs : s.memOk = true) (o : OPrio) : nextMemOk (execOpprio o s) := by
  unfold execOpprio
  grind -linarith [onToken_memOk, setOp_memOk, Act.memOk]

theorem execOpadopt_memOk {s : State} (hs : s.memOk = true) (o : OAdopt) : nextMemOk (execOpadopt o s) := by
  refine issue_memOk hs _ fun h s hs => ?_
  grind -linarith [State.setCord_memOk, parkSetFree_memOk, noteRead_memOk, setOp_memOk, Act.memOk]

/-! ### Barriers, tickets, events, queues and channels -/

theorem arrive_memOk {s : State} (hs : s.memOk = true) (h : Here) (a : Reg) (bn : Nat) (f : Cord → Nat → Cord) :
    (arrive h s a bn f).memOk := by
  unfold arrive
  grind -linarith [parkSet_memOk, State.setCord_memOk, State.send_memOk, settleAt_memOk, State.setBlock_memOk, Act.memOk]

theorem hearPhase_memOk {s : State} (hs : s.memOk = true) (h : Here) (bn n : Nat) :
    (hearPhase s h bn n).memOk = true := by
  unfold hearPhase
  grind -linarith [State.hear_memOk]

theorem barWait_memOk {s : State} (hs : s.memOk = true) (h : Here) (addr qd : Nat) : (barWait h s addr qd).memOk := by
  unfold barWait
  grind -linarith [hearPhase_memOk, State.setCord_memOk, Act.memOk]

theorem execBar_memOk {s : State} (hs : s.memOk = true) (o : OBar) : nextMemOk (execBar o s) := by
  refine issue_memOk hs _ fun h s hs => ?_
  grind -linarith [barWait_memOk, arrive_memOk, Act.memOk]

theorem execBarar_memOk {s : State} (hs : s.memOk = true) (o : OBarar) : nextMemOk (execBarar o s) := by
  refine issue_memOk hs _ fun h s hs => ?_
  grind -linarith [arrive_memOk]

theorem execBarwt_memOk {s : State} (hs : s.memOk = true) (o : OBarwt) : nextMemOk (execBarwt o s) := by
  refine issue_memOk hs _ fun h s hs => ?_
  grind -linarith [State.setCord_memOk, hearPhase_memOk, Act.memOk]

theorem execFence_memOk {s : State} (hs : s.memOk = true) (o : OFence) : nextMemOk (execFence o s) := by
  unfold execFence
  grind -linarith [cordOp_memOk]

theorem execTktwait_memOk {s : State} (hs : s.memOk = true) (o : OTkt) : nextMemOk (execTktwait o s) := by
  refine issue_memOk hs _ fun h s hs => ?_
  grind -linarith [parkSetFree_memOk, State.hear_memOk, Act.memOk]

theorem passTicket_memOk {s : State} (hs : s.memOk = true) (b : Block) : (passTicket s b).memOk = true := by
  unfold passTicket
  grind -linarith [State.setLaunch_memOk]

theorem execTktpass_memOk {s : State} (hs : s.memOk = true) (o : OGX) : nextMemOk (execTktpass o s) := by
  refine issue_memOk hs _ fun h s hs => ?_
  grind -linarith [passTicket_memOk, State.send_memOk, Act.memOk]

theorem execTicketFrontierUpdate_memOk {s : State} (hs : s.memOk = true) (launch : Nat) :
    nextMemOk (execTicketFrontierUpdate launch s) := by
  unfold execTicketFrontierUpdate
  grind -linarith [State.setLaunch_memOk, State.memOk, nextMemOk_next]

theorem setEvents_memOk {s : State} (hs : s.memOk = true) (h : Here) (slice : Nat) (x : BitVec 16) :
    (setEvents s h slice x).memOk = true := by
  unfold setEvents
  grind -linarith [State.setCluster_memOk]

theorem eventOp_memOk {s : State} (hs : s.memOk = true) (i : Instr) (o : OEv)
    (f : Here → State → BitVec 16 → BitVec 16 → Act) (hf : ∀ x y z w, y.memOk = true → (f x y z w).memOk) :
    nextMemOk (eventOp i o f s) := by
  unfold eventOp
  grind -linarith [issue_memOk, parkSetFree_memOk]

theorem execEvset_memOk {s : State} (hs : s.memOk = true) (o : OEv) : nextMemOk (execEvset o s) := by
  unfold execEvset
  grind -linarith [eventOp_memOk, setEvents_memOk, State.send_memOk, Act.memOk]

theorem execEvclr_memOk {s : State} (hs : s.memOk = true) (o : OEv) : nextMemOk (execEvclr o s) := by
  unfold execEvclr
  grind -linarith [eventOp_memOk, setEvents_memOk, State.unsend_memOk, Act.memOk]

theorem execEvwait_memOk {s : State} (hs : s.memOk = true) (o : OEv) : nextMemOk (execEvwait o s) := by
  unfold execEvwait
  grind -linarith [eventOp_memOk, State.hear_memOk, Act.memOk]

theorem execIdleEv_memOk {s : State} (hs : s.memOk = true) (o : OEv) : nextMemOk (execIdleEv o s) := by
  unfold execIdleEv
  grind -linarith [eventOp_memOk, Act.memOk]

theorem queueOp_memOk {s : State} (hs : s.memOk = true) (h : Here) (idx : Word) (f : Nat → Queue → Act)
    (hf : ∀ x y, (f x y).memOk) :
    (queueOp h s idx f).memOk := by
  unfold queueOp
  grind -linarith [parkSetFree_memOk]

theorem execIdleQ_memOk {s : State} (hs : s.memOk = true) (o : OBrx) : nextMemOk (execIdleQ o s) := by
  refine issue_memOk hs _ fun h s hs => ?_
  grind -linarith [queueOp_memOk, noteQueue_memOk, Act.memOk]

theorem packetSpot_memOk {s : State} (hs : s.memOk = true) (h : Here) (a : Reg) (imm : BitVec 11) (w : Bool)
    (f : Spot → Act) (hf : ∀ x, (f x).memOk) :
    (packetSpot h s a imm w f).memOk := by
  unfold packetSpot
  grind -linarith [parkSet_memOk, holdSpots_memOk]

theorem execQpop_memOk {s : State} (hs : s.memOk = true) (o : OQpop) : nextMemOk (execQpop o s) := by
  refine issue_memOk hs _ fun h s hs => ?_
  grind -linarith [queueOp_memOk, packetSpot_memOk, noteBoard_memOk, State.setCore_memOk, State.memOk_core, mendBoard_memOk,
    noteQueue_memOk, parkSetFree_memOk, noteDie_memOk, State.hear_memOk, spotWrite_memOk, State.wroteSpot_memOk,
    setQueue_memOk, Act.memOk]

theorem execQpush_memOk {s : State} (hs : s.memOk = true) (o : OQpush) : nextMemOk (execQpush o s) := by
  refine issue_memOk hs _ fun h s hs => ?_
  grind -linarith [queueOp_memOk, packetSpot_memOk, noteQueue_memOk, State.setCord_memOk, → dieWrite_memOk, parkSetFree_memOk,
    noteWalk_memOk, noteSpot_memOk, noteBoard_memOk, State.sawSpot_memOk, State.send_memOk, setQueue_memOk, Act.memOk]

theorem chanOp_memOk {s : State} (hs : s.memOk = true) (h : Here) (n : ChanN) (f : State → Nat → Channel → Act)
    (hf : ∀ x y z, x.memOk = true → (f x y z).memOk) :
    (chanOp h s n f).memOk := by
  unfold chanOp
  grind -linarith [parkSetFree_memOk, noteRead_memOk]

theorem setChan_memOk {s : State} (hs : s.memOk = true) (core p : Nat) (c : Channel) :
    (setChan s core p c).memOk = true := by
  unfold setChan
  grind -linarith [State.setCore_memOk, State.memOk_core, Core.memOk]

theorem execChput_memOk {s : State} (hs : s.memOk = true) (o : OChput) : nextMemOk (execChput o s) := by
  refine issue_memOk hs _ fun h s hs => ?_
  grind -linarith [Mem.wf_setWord, chanOp_memOk, State.memOk_core, parkSetFree_memOk, holdSpots_memOk, noteBoard_memOk,
    State.setCore_memOk, State.wrote_memOk, State.send_memOk, setChan_memOk, Core.memOk, Act.memOk]

theorem execChget_memOk {s : State} (hs : s.memOk = true) (o : OChget) : nextMemOk (execChget o s) := by
  refine issue_memOk hs _ fun h s hs => ?_
  grind -linarith [chanOp_memOk, State.hear_memOk, parkSetFree_memOk, holdSpots_memOk, noteRead_memOk, noteBoard_memOk, State.saw_memOk,
    setChan_memOk, Act.memOk]

theorem execCheos_memOk {s : State} (hs : s.memOk = true) (o : OCheos) : nextMemOk (execCheos o s) := by
  refine issue_memOk hs _ fun h s hs => ?_
  grind -linarith [chanOp_memOk, parkSetFree_memOk, setChan_memOk, State.send_memOk, Act.memOk]

/-! ### Tasks and the distributor -/

theorem enqueueTask_memOk {s : State} (hs : s.memOk = true) (cl : Nat) (x : TaskItem) :
    (enqueueTask s cl x).memOk = true := by
  unfold enqueueTask
  grind -linarith [State.setCluster_memOk, State.setCtx_memOk]

theorem refillTasks_memOk (cl : Nat) (l : List Nat) {s : State} (hs : s.memOk = true) : (refillTasks cl l s).memOk = true := by
  induction l generalizing s with
  | nil => exact hs
  | cons ctx r ih =>
    unfold refillTasks
    dsimp only
    split
    · exact ih hs
    · exact ih hs

theorem execSpawn_memOk {s : State} (hs : s.memOk = true) (o : OSpawn) : nextMemOk (execSpawn o s) := by
  refine issue_memOk hs _ fun h s hs => ?_
  grind -linarith [foldl_memOk, State.free_memOk, State.setCord_memOk, State.send_memOk, enqueueTask_memOk, Act.memOk]

theorem formCord_memOk {s : State} (hs : s.memOk = true) (cl : Nat) (l : List TaskItem) :
    (formCord s cl l).memOk = true := by
  unfold formCord
  grind -linarith [State.setCluster_memOk, refillTasks_memOk]

theorem execTaskCordFormation_memOk {s : State} (hs : s.memOk = true) (die cluster : Nat) :
    nextMemOk (execTaskCordFormation die cluster s) := by
  unfold execTaskCordFormation
  grind -linarith [formCord_memOk, State.memOk, nextMemOk_next]

theorem execTaskReadyTimeout_memOk {s : State} (hs : s.memOk = true) (die cluster : Nat) :
    nextMemOk (execTaskReadyTimeout die cluster s) := by
  unfold execTaskReadyTimeout
  grind -linarith [formCord_memOk, State.memOk, nextMemOk_next]

theorem queueErr_memOk {s : State} (hs : s.memOk = true) (q : Nat) : (queueErr s q).memOk = true := by
  unfold queueErr
  grind -linarith [setQueue_memOk]

theorem ringBell_memOk {s : State} (hs : s.memOk = true) (q : Nat) (v : DWord) (device : Bool) :
    nextMemOk (ringBell q v device s) := by
  unfold ringBell
  grind -linarith [queueErr_memOk, woke_memOk, setQueue_memOk, State.send_memOk, nextMemOk_next]

theorem execDoorbell_memOk {s : State} (hs : s.memOk = true) (q : Nat) (v : DWord) : nextMemOk (execDoorbell q v s) := by
  unfold execDoorbell
  grind -linarith [ringBell_memOk]

theorem execDeviceQueueDoorbell_memOk {s : State} (hs : s.memOk = true) (q : Nat) (v : DWord) :
    nextMemOk (execDeviceQueueDoorbell q v s) := by
  unfold execDeviceQueueDoorbell
  grind -linarith [ringBell_memOk]

theorem logDie_memOk {s : State} (hs : s.memOk = true) (d ctx : Nat) (cause : Byte) :
    (logDie s d ctx cause).memOk = true := by
  unfold logDie
  grind -linarith [logData_memOk]

theorem writeRecord_memOk {s : State} (hs : s.memOk = true) (d ctx crec status cause herr fblk : Nat) :
    (writeRecord s d ctx crec status cause herr fblk).memOk = true := by
  unfold writeRecord
  grind -linarith [State.free_memOk, → dieWrite_memOk, logDie_memOk, noteWalk_memOk]

theorem noteCrec_memOk {s : State} (hs : s.memOk = true) (q : Nat) (p : BitVec 512) : (noteCrec s q p).memOk = true := by
  unfold noteCrec
  grind -linarith [noteWalk_memOk]

theorem takePacket_memOk {s : State} (hs : s.memOk = true) (q : Nat) : (takePacket s q).memOk = true := by
  unfold takePacket
  grind -linarith [noteDie_memOk, noteQueue_memOk, setQueue_memOk]

theorem dropPacket_memOk {s : State} (hs : s.memOk = true) (q : Nat) : nextMemOk (dropPacket s q) := by
  unfold dropPacket
  grind -linarith [woke_memOk, notify_memOk, queueErr_memOk, takePacket_memOk]

theorem dropUnread_memOk {s : State} (hs : s.memOk = true) (q : Nat) (cause : Byte) :
    nextMemOk (dropUnread s q cause) := by
  unfold dropUnread
  grind -linarith [dropPacket_memOk, logDie_memOk]

theorem refusePacket_memOk {s : State} (hs : s.memOk = true) (q : Nat) (p : BitVec 512) (herr : Nat) :
    nextMemOk (refusePacket s q p herr) := by
  unfold refusePacket
  grind -linarith [woke_memOk, writeRecord_memOk, takePacket_memOk]

theorem waitBind_memOk {s : State} (hs : s.memOk = true) (q : Nat) : nextMemOk (waitBind s q) := by
  unfold waitBind
  grind -linarith [woke_memOk, notify_memOk, setQueue_memOk]

theorem execLaunchPacket_memOk {s : State} (hs : s.memOk = true) (q : Nat) : nextMemOk (execLaunchPacket q s) := by
  unfold execLaunchPacket
  split
  · exact nextMemOk_next hs
  · exact dropUnread_memOk hs _ _
  · rename_i p _
    split
    · exact nextMemOk_next hs
    · extract_lets t
      have ht : t.memOk = true := noteCrec_memOk hs q p
      clear_value t
      split
      · exact dropUnread_memOk ht _ _
      · split
        · exact refusePacket_memOk ht _ _ _
        · split
          · exact waitBind_memOk ht _
          · split
            · exact refusePacket_memOk ht _ _ _
            · grind -linarith [takePacket_memOk, State.setLaunch_memOk, woke_memOk, State.memOk]

theorem execRegisterHeader_memOk {s : State} (hs : s.memOk = true) (q : Nat) : nextMemOk (execRegisterHeader q s) := by
  unfold execRegisterHeader
  grind -linarith [noteCrec_memOk, dropUnread_memOk, refusePacket_memOk, noteDie_memOk, takePacket_memOk, State.setDie_memOk, woke_memOk,
    writeRecord_memOk, nextMemOk_next]

theorem wakeTasks_memOk {s : State} (hs : s.memOk = true) (may : Launch → Bool) : (wakeTasks s may).memOk = true := by
  unfold wakeTasks
  grind -linarith [State.memOk]

theorem execBindRecordWrite_memOk {s : State} (hs : s.memOk = true) (die i : Nat) (w : BitVec 256) :
    nextMemOk (execBindRecordWrite die i w s) := by
  unfold execBindRecordWrite
  grind -linarith [State.setDie_memOk, wakeTasks_memOk, woke_memOk, State.memOk, nextMemOk_next]

theorem dropTasks_memOk {s : State} (hs : s.memOk = true) (n : Nat) : (dropTasks s n).memOk = true := by
  unfold dropTasks
  grind -linarith [foldl_memOk, refillTasks_memOk, State.memOk]

theorem execLaunchCompletion_memOk {s : State} (hs : s.memOk = true) (launch : Nat) :
    nextMemOk (execLaunchCompletion launch s) := by
  unfold execLaunchCompletion
  grind -linarith [foldl_memOk, dropTasks_memOk, State.setCore_memOk, dropTokens_memOk, State.memOk_core, State.hear_memOk, woke_memOk,
    writeRecord_memOk, State.memOk, nextMemOk_next]

/-! ### Gathers -/

theorem gatherAct_memOk {s : State} (hs : s.memOk = true) (h : Here) (g : Guard) (u : Bool) (a : Reg) (imm : BitVec 11)
    (z n : Nat) (d : Reg) (ord : Ordr) (op : Nat → AccessOp) (done : Nat → List InFlight × List GatherWindow) :
    (gatherAct h s g u a imm z n d ord op done).memOk := by
  unfold gatherAct
  grind -linarith [State.setCord_memOk, Act.memOk]

theorem gatherLoad_memOk {s : State} (hs : s.memOk = true) (i : Instr) (o : OGld) (z : Nat) :
    nextMemOk (gatherLoad i o z s) := by
  unfold gatherLoad
  grind -linarith [foldl_memOk, issue_memOk, countSuppressed_memOk, gatherAct_memOk, Act.memOk]

theorem execGld32_memOk {s : State} (hs : s.memOk = true) (o : OGld) : nextMemOk (execGld32 o s) := by
  unfold execGld32
  grind -linarith [gatherLoad_memOk]

theorem execGld64_memOk {s : State} (hs : s.memOk = true) (o : OGld) : nextMemOk (execGld64 o s) := by
  unfold execGld64
  grind -linarith [gatherLoad_memOk]

theorem gatherStore_memOk {s : State} (hs : s.memOk = true) (i : Instr) (o : OGst) (z : Nat) :
    nextMemOk (gatherStore i o z s) := by
  unfold gatherStore
  grind -linarith [issue_memOk, gatherAct_memOk]

theorem execGst32_memOk {s : State} (hs : s.memOk = true) (o : OGst) : nextMemOk (execGst32 o s) := by
  unfold execGst32
  grind -linarith [gatherStore_memOk]

theorem execGst64_memOk {s : State} (hs : s.memOk = true) (o : OGst) : nextMemOk (execGst64 o s) := by
  unfold execGst64
  grind -linarith [gatherStore_memOk]

theorem execGatom_memOk {s : State} (hs : s.memOk = true) (o : OAtom) : nextMemOk (execGatom o s) := by
  unfold execGatom
  grind -linarith [issueP_memOk, gatherAct_memOk]

theorem execGprf_memOk {s : State} (hs : s.memOk = true) (o : OGprf) : nextMemOk (execGprf o s) := by
  refine issue_memOk hs _ fun h s hs => ?_
  grind -linarith [foldl_memOk, countSuppressed_memOk, Act.memOk]

theorem mendDst_memOk {c : Core} (hc : c.memOk = true) (slotNo : Nat) (x : Cord) (a : Access) :
    (mendDst c slotNo x a).memOk = true := by
  unfold mendDst
  grind -linarith [foldl_core_memOk, mend_memOk]

theorem OnlyTracks.memOk {s t : State} (h : OnlyTracks s t) (hs : s.memOk = true) : t.memOk = true := by
  rw [h.rest]
  exact hs

theorem landed_memOk {s : State} (hs : s.memOk = true) (r : CordRef) (c : Cord) (a : Access) (y : Cord) :
    (landed r c a y s).memOk = true :=
  State.setCord_memOk (State.setCore_memOk hs _ (mendDst_memOk (State.memOk_core hs _) ..)) ..

theorem perform_memOk {s : State} (hs : s.memOk = true) (ref : CordRef) (i : Nat) : (perform ref i s).memOk = true := by
  cases hb : s.block? ref.core ref.slot with
  | none =>
    unfold perform
    simp only [hb]
    exact hs
  | some b =>
    cases hc : s.cord? ref with
    | none =>
      unfold perform
      simp only [hb, hc]
      exact hs
    | some c =>
      cases ha : c.gathers[i]? with
      | none =>
        unfold perform
        simp only [hb, hc, ha]
        exact hs
      | some a =>
        have htouch := touch_memOk hs ref.core true b.ctx a.addr
        cases ht : a.target s ref.core b.ctx with
        | error e =>
          unfold perform
          simp only [hb, hc, ha, ht]
          split
          · exact State.setCord_memOk (logData_memOk htouch ..) ..
          · exact State.setCord_memOk htouch ..
        | ok t =>
          cases ho : a.op with
          | load =>
            obtain ⟨u, hu, e⟩ := perform_load hb hc ha ht ho
            exact e ▸ landed_memOk (hu.memOk (noteTarget_memOk htouch ..)) ..
          | store l =>
            obtain ⟨u, hu, e⟩ := perform_store hb hc ha ht ho
            exact e ▸ landed_memOk (hu.memOk (targetWrite_memOk htouch ..)) ..
          | atom op x d =>
            obtain ⟨u, hu, e⟩ := perform_atom hb hc ha ht ho
            exact e ▸ landed_memOk (hu.memOk (targetWrite_memOk (noteTarget_memOk htouch ..) ..)) ..

theorem accessEvent_memOk {s : State} (hs : s.memOk = true) (ref : CordRef) (i : Nat) (ok : AccessOp → Bool) :
    (accessEvent ref i ok s).memOk = true := by
  unfold accessEvent
  grind -linarith [foldl_memOk, perform_memOk]

theorem execGatherDataArrival_memOk {s : State} (hs : s.memOk = true) (c : CordRef) (i : Nat) :
    nextMemOk (execGatherDataArrival c i s) := by
  unfold execGatherDataArrival
  grind -linarith [accessEvent_memOk, State.memOk, nextMemOk_next]

theorem execGatherPerformed_memOk {s : State} (hs : s.memOk = true) (c : CordRef) (i : Nat) :
    nextMemOk (execGatherPerformed c i s) := by
  unfold execGatherPerformed
  grind -linarith [accessEvent_memOk, State.memOk, nextMemOk_next]

theorem execLongLatencyCompletion_memOk {s : State} (hs : s.memOk = true) (c : CordRef) (i : Nat) :
    nextMemOk (execLongLatencyCompletion c i s) := by
  unfold execLongLatencyCompletion
  grind -linarith [State.setCord_memOk, State.memOk, nextMemOk_next]

/-! ### Placement, block start and exit -/

theorem claimSp_memOk {c : Core} (hc : c.memOk = true) (ctx base n : Nat) : (claimSp c ctx base n).memOk = true := by
  unfold claimSp
  grind -linarith [foldl_core_memOk, Mem.wf_filter, mend_memOk, Core.memOk]

theorem claimTiles_memOk {c : Core} (hc : c.memOk = true) (ps : List Nat) : (claimTiles c ps).memOk = true := by
  unfold claimTiles
  grind -linarith [foldl_core_memOk, Mem.wf_filter, mend_memOk, Core.memOk]

theorem mendCords_memOk {c : Core} (hc : c.memOk = true) (cords : List Cord) : (mendCords c cords).memOk = true := by
  unfold mendCords
  grind -linarith [foldl_core_memOk, mend_memOk]

theorem mendChans_memOk {c : Core} (hc : c.memOk = true) (ps : List Nat) : (mendChans c ps).memOk = true := by
  unfold mendChans
  grind -linarith [foldl_core_memOk, mend_memOk]

theorem claimChans_memOk {c : Core} (hc : c.memOk = true) (slot base ring rbase : Nat) (ps : List Nat) :
    (claimChans c slot base ring rbase ps).memOk = true := by
  unfold claimChans
  grind -linarith [mendChans_memOk, Core.memOk]

theorem claim_memOk {c : Core} (hc : c.memOk = true) (ctx : Nat) (f : Footprint) (x : Fit) (ring rbase : Nat) :
    (claim c ctx f x ring rbase).memOk = true := by
  unfold claim
  grind -linarith [claimChans_memOk, claimTiles_memOk, claimSp_memOk]

theorem claimAt_memOk {s : State} (hs : s.memOk = true) (core ctx : Nat) (f : Footprint) (x : Fit) (ring rbase : Nat) :
    (claimAt s core ctx f x ring rbase).memOk = true := by
  unfold claimAt
  grind -linarith [State.setCore_memOk, claim_memOk, State.memOk_core, State.restartWords_memOk]

theorem holdBase_memOk {s : State} (hs : s.memOk = true) (core n : Nat) (l : Launch) :
    ∀ x, holdBase s core n l = .ok x → x.1.memOk = true := by
  intro x hx
  unfold holdBase at hx
  split at hx
  · cases hx
  · rename_i e _
    split at hx
    · exact Except.ok.inj hx ▸ hs
    · split at hx
      · cases hx
      · have ht : (if (resOf (s.core core) l.ctx e).isNone then beginLoad s core l.ctx e else s).memOk = true := by
          split
          · exact beginLoad_memOk hs ..
          · exact hs
        rw [← Except.ok.inj hx]
        exact State.setLaunch_memOk (State.setCore_memOk ht _ (mapRes_memOk (State.memOk_core ht _) ..)) ..

theorem addBase_memOk {s : State} (hs : s.memOk = true) (core slot n : Nat) : (addBase s core slot n).memOk = true := by
  unfold addBase
  split
  · exact hs
  · rename_i l _
    have ht := noteOvls_memOk hs core l.ctx (hOvtab l.header)
    split
    · refine baseFault_memOk ?_ ..
      split
      · exact logData_memOk ht ..
      · exact ht
    · have hu := holdBase_memOk ht core n l _ ‹_›
      split
      · exact hu
      · exact State.setBlock_memOk hu ..

theorem notePlaced_memOk {s : State} (hs : s.memOk = true) (d bind core q : Nat) (w : BitVec 256) :
    (notePlaced s d bind core q w).memOk = true := by
  unfold notePlaced
  grind -linarith [State.setDie_memOk, State.memOk]

theorem reserveBlock_memOk {s : State} (hs : s.memOk = true) (n : Nat) (l : Launch) (core rank bind : Nat) (w : BitVec 256)
    (f : Footprint) (x : Fit) :
    (reserveBlock s n l core rank bind w f x).memOk = true := by
  unfold reserveBlock
  grind -linarith [claimAt_memOk, State.setBlock_memOk, notePlaced_memOk, State.setLaunch_memOk, addBase_memOk]

theorem setFormed_memOk {s : State} (hs : s.memOk = true) (t : TaskPlace) (f : TaskCord → TaskCord) :
    (setFormed s t f).memOk = true := by
  unfold setFormed
  grind -linarith [State.setCluster_memOk]

theorem reserveTask_memOk {s : State} (hs : s.memOk = true) (t : TaskPlace) (core : Nat) (x : Fit) :
    (reserveTask s t core x).memOk = true := by
  unfold reserveTask
  grind -linarith [State.setCluster_memOk, claimAt_memOk, notePlaced_memOk, State.setBlock_memOk, addBase_memOk]

theorem placeTask_memOk {s : State} (hs : s.memOk = true) (t : TaskPlace) : nextMemOk (placeTask s t) := by
  unfold placeTask
  grind -linarith [woke_memOk, reserveTask_memOk, setFormed_memOk]

theorem placeNext_memOk {s : State} (hs : s.memOk = true) (n : Nat) (l : Launch) : nextMemOk (placeNext s n l) := by
  unfold placeNext
  grind -linarith [woke_memOk, reserveBlock_memOk, State.setLaunch_memOk, nextMemOk_next]

theorem execBlockReservation_memOk {s : State} (hs : s.memOk = true) (die : Nat) :
    nextMemOk (execBlockReservation die s) := by
  unfold execBlockReservation
  grind -linarith [placeTask_memOk, placeNext_memOk, nextMemOk_next]

theorem reserveAll_memOk (n fuel : Nat) {s : State} (hs : s.memOk = true) : ∀ t, reserveAll n fuel s = some t → t.memOk = true := by
  induction fuel generalizing s with
  | zero => exact fun t ht => Option.some.inj ht ▸ hs
  | succ k ih =>
    intro t ht
    unfold reserveAll at ht
    grind -linarith [reserveBlock_memOk]

theorem execCoResidentPlacement_memOk {s : State} (hs : s.memOk = true) (launch : Nat) :
    nextMemOk (execCoResidentPlacement launch s) := by
  unfold execCoResidentPlacement
  grind -linarith [reserveAll_memOk, woke_memOk, State.setLaunch_memOk, nextMemOk_next]

theorem hearStart_memOk {s : State} (hs : s.memOk = true) (core : Nat) (b : Block) (l : Launch) :
    (hearStart s core b l).memOk = true := by
  unfold hearStart
  grind -linarith [foldl_memOk, State.hear_memOk]

theorem initCords_memOk {s : State} (hs : s.memOk = true) (core slot : Nat) (b : Block) (l : Launch) (st : BlockStatus) :
    (initCords s core slot b l st).memOk = true := by
  unfold initCords
  grind -linarith [hearStart_memOk, State.setCore_memOk, mendCords_memOk, State.memOk_core, State.setBlock_memOk]

theorem execBlockStart_memOk {s : State} (hs : s.memOk = true) (core slot : Nat) :
    nextMemOk (execBlockStart core slot s) := by
  unfold execBlockStart
  grind -linarith [woke_memOk, initCords_memOk, State.setBlock_memOk, nextMemOk_next]

theorem execLocalLineWriteback_memOk {s : State} (hs : s.memOk = true) (core i : Nat) :
    nextMemOk (execLocalLineWriteback core i s) := by
  unfold execLocalLineWriteback
  grind -linarith [woke_memOk, evictLine_memOk, nextMemOk_next]

theorem wakeLaunches_memOk {s : State} (hs : s.memOk = true) (core : Nat) : (wakeLaunches s core).memOk = true := by
  unfold wakeLaunches
  grind -linarith [wakeTasks_memOk, State.memOk]

theorem collectOps_memOk {c : Core} (hc : c.memOk = true) (slot : Nat) : (collectOps c slot).memOk = true := by
  unfold collectOps
  grind -linarith [Core.memOk]

theorem sendCords_memOk {s : State} (hs : s.memOk = true) (core : Nat) (b : Block) (sc : Scope) (ks : List Carrier) :
    (sendCords s core b sc ks).memOk = true := by
  unfold sendCords
  grind -linarith [foldl_memOk, State.send_memOk]

theorem freeBlock_memOk {s : State} (hs : s.memOk = true) (core slot : Nat) : (freeBlock s core slot).memOk = true := by
  unfold freeBlock
  grind -linarith [foldl_core_memOk, sendCords_memOk, writeLines_memOk, dropTokens_memOk, State.memOk_core, collectOps_memOk,
    dropHolds_memOk, freeEvicted_memOk, mapRes_memOk, wakeLaunches_memOk, State.setCore_memOk, Core.memOk]

theorem reportFailed_memOk {s : State} (hs : s.memOk = true) (core : Nat) (b : Block) :
    (reportFailed s core b).memOk = true := by
  unfold reportFailed
  grind -linarith [foldl_memOk, failLaunch_memOk, faultEntry_memOk]

theorem dropFinished_memOk {s : State} (hs : s.memOk = true) (core slot : Nat) :
    (dropFinished s core slot).memOk = true := by
  unfold dropFinished
  grind -linarith [State.memOk_core, State.setBlock_memOk, State.setCore_memOk, dropTokens_memOk]

theorem exitTicket_memOk {s : State} (hs : s.memOk = true) (core : Nat) (b : Block) :
    (exitTicket s core b).memOk = true := by
  unfold exitTicket
  grind -linarith [passTicket_memOk, sendCords_memOk]

theorem execBlockExit_memOk {s : State} (hs : s.memOk = true) (core slot : Nat) : nextMemOk (execBlockExit core slot s) := by
  unfold execBlockExit
  split
  · exact nextMemOk_next hs
  · rename_i b _
    extract_lets runs exited t u v
    have ht : t.memOk = true := by
      subst t; split
      · exact dropFinished_memOk (exitTicket_memOk (writeLines_memOk hs _ _) _ _) _ _
      · exact hs
    clear_value t
    have hu : u.memOk = true := by
      subst u; split
      · exact reportFailed_memOk ht _ _
      · exact ht
    clear_value u
    have hv : v.memOk = true := by
      subst v; split
      · exact hu
      · split
        · exact hu
        · exact State.setLaunch_memOk hu _ _
    clear_value v
    split
    · exact nextMemOk_next hs
    · split
      · exact woke_memOk ht
      · exact woke_memOk (freeBlock_memOk hv _ _)

/-! ### The ladder of handlers, saving and restoring -/

theorem execHandlerEntry_memOk {s : State} (hs : s.memOk = true) (c : CordRef) : nextMemOk (execHandlerEntry c s) := by
  unfold execHandlerEntry
  grind -linarith [woke_memOk, settleAt_memOk, takeFault_memOk, nextMemOk_next]

theorem cordTimeout_memOk {s : State} (hs : s.memOk = true) (c : CordRef) (b : Block) (x : Cord) :
    nextMemOk (cordTimeout c b x s) := by
  unfold cordTimeout
  grind -linarith [discardHandler_memOk, woke_memOk, settleAt_memOk, offer_memOk, State.setCord_memOk, logError_memOk, nextMemOk_next]

theorem opTimeout_memOk {s : State} (hs : s.memOk = true) (core e : Nat) (o : OpEntry) :
    nextMemOk (opTimeout core e o s) := by
  unfold opTimeout
  grind -linarith [woke_memOk, logError_memOk, setOp_memOk, nextMemOk_next]

theorem execHandlerTimeout_memOk {s : State} (hs : s.memOk = true) (src : RungSource) :
    nextMemOk (execHandlerTimeout src s) := by
  unfold execHandlerTimeout
  grind -linarith [cordTimeout_memOk, opTimeout_memOk, nextMemOk_next]

theorem execContextRung_memOk {s : State} (hs : s.memOk = true) (src : RungSource) :
    nextMemOk (execContextRung src s) := by
  unfold execContextRung
  grind -linarith [faultEntry_memOk, State.setCord_memOk, woke_memOk, endBlock_memOk, setOp_memOk, failLaunch_memOk, nextMemOk_next]

theorem beginSave_memOk {s : State} (hs : s.memOk = true) (core slot : Nat) (b : Block) :
    (beginSave s core slot b).memOk = true := by
  unfold beginSave
  grind -linarith [initCords_memOk, State.setBlock_memOk]

theorem preempt_memOk {s : State} (hs : s.memOk = true) (core slot : Nat) (b : Block) :
    (preempt s core slot b).memOk = true := by
  unfold preempt
  grind -linarith [beginSave_memOk, State.setBlock_memOk, cancelBlockOps_memOk]

theorem execPreemptRequest_memOk {s : State} (hs : s.memOk = true) (core slot : Nat) :
    nextMemOk (execPreemptRequest core slot s) := by
  unfold execPreemptRequest
  grind -linarith [woke_memOk, preempt_memOk, nextMemOk_next]

theorem execDrainTimeout_memOk {s : State} (hs : s.memOk = true) (core slot : Nat) :
    nextMemOk (execDrainTimeout core slot s) := by
  unfold execDrainTimeout
  grind -linarith [woke_memOk, beginSave_memOk, nextMemOk_next]

theorem noteSave_memOk {s : State} (hs : s.memOk = true) (core slot : Nat) (b : Block) :
    (noteSave s core slot b).memOk = true := by
  unfold noteSave
  grind -linarith [foldl_memOk, noteRead_memOk]

theorem State.withSaved_memOk {s : State} (hs : s.memOk = true) {l : List Saved} (hl : ∀ v ∈ l, v.memOk = true) :
    ({ s with saved := l } : State).memOk = true := by
  simp only [State.memOk, Bool.and_eq_true] at hs ⊢
  exact ⟨hs.1, List.all_eq_true.2 hl⟩

theorem saveBlock_memOk {s : State} (hs : s.memOk = true) (core slot : Nat) (b : Block) :
    (saveBlock s core slot b).memOk = true := by
  unfold saveBlock
  extract_lets t c ops v c' u
  have ht : t.memOk = true := noteSave_memOk (writeLines_memOk hs _ _) _ _ _
  clear_value t
  have hc : c.memOk = true := State.memOk_core ht core
  have hc' : c'.memOk = true := hc
  obtain ⟨hsp, ha, -⟩ := Core.memOk_iff.1 hc
  have hv : v.memOk = true := Saved.memOk_iff.2 ⟨Mem.wf_slice _ _ hsp, fun x hx => by
    obtain ⟨p, -, rfl⟩ := List.mem_map.1 hx
    exact Mem.wf_slice _ _ ha⟩
  clear_value v c'
  have hf : (freeBlock (t.setCore core c') core slot).memOk = true := freeBlock_memOk (State.setCore_memOk ht core hc') core slot
  have hu : u.memOk = true := State.moveAgents_memOk hf id id (parkPlace core b)
  clear_value u
  refine State.withSaved_memOk hu fun w hw => ?_
  rcases List.mem_append.1 hw with h | h
  · exact State.memOk_saved hu h
  · exact List.mem_singleton.1 h ▸ hv

theorem flushBlock_memOk {s : State} (hs : s.memOk = true) (core slot : Nat) (b : Block) :
    (flushBlock s core slot b).memOk = true := by
  unfold flushBlock
  grind -linarith [State.setCore_memOk, dropInstances_memOk, State.memOk_core, State.setLaunch_memOk, freeBlock_memOk]

theorem execContextSave_memOk {s : State} (hs : s.memOk = true) (core slot : Nat) :
    nextMemOk (execContextSave core slot s) := by
  unfold execContextSave
  grind -linarith [woke_memOk, logData_memOk, baseFault_memOk, saveBlock_memOk, flushBlock_memOk, nextMemOk_next]

theorem withoutFrozen_memOk {c : Core} (hc : c.memOk = true) (v : Saved) : (withoutFrozen c v).memOk = true := by
  unfold withoutFrozen
  grind -linarith [Core.memOk]

theorem retakeOps_memOk {s : State} (hs : s.memOk = true) (v : Saved) (n : Nat) : (retakeOps s v n).1.memOk = true := by
  unfold retakeOps
  split
  · exact hs
  · refine foldl_keeps (p := fun x : State × List (Nat × Nat) × TokenMap => x.1.memOk = true) (fun y x hy => ?_) _
      (State.setCore_memOk hs _ (withoutFrozen_memOk (State.memOk_core hs _) v))
    obtain ⟨t, es, m⟩ := y
    dsimp only at hy ⊢
    split
    · exact hy
    · exact setOp_memOk (State.setCore_memOk hy _ (allocEntry_memOk (State.memOk_core hy _) _)) _ _ _

theorem retakeOverlay_memOk {s : State} (hs : s.memOk = true) (core ctx ovtab : Nat) (v : Nat × Nat × BitVec 256)
    (tokens holds : Nat) :
    (retakeOverlay core ctx ovtab s v tokens holds).memOk = true := by
  unfold retakeOverlay
  extract_lets t
  have ht : t.memOk = true := by
    subst t; split
    · exact hs
    · split
      · exact beginLoad_memOk hs _ _ _
      · exact hs
  exact State.setCore_memOk ht _ (mapRes_memOk (State.memOk_core ht _) _ _ _)

theorem grantedCore_memOk {c : Core} (hc : c.memOk = true) (v : Saved) (x : Fit) : (grantedCore c v x).memOk = true := by
  have hd := mendBoard_memOk (mend_memOk (mendChans_memOk (claimTiles_memOk (claimSp_memOk hc v.block.ctx x.base
    v.block.splen) x.tiles) x.chans)
    .scratchpad x.base v.block.splen)
  obtain ⟨h1, h2, h3⟩ := Core.memOk_iff.1 hd
  exact Core.memOk_iff.2 ⟨Mem.wf_paste _ _ (Mem.wf_clear _ _ h1), h2, h3⟩

theorem tiledCore_memOk {c : Core} (hc : c.memOk = true) (v : Saved) (m : TokenMap) (x : Fit) :
    (tiledCore c v m x).memOk = true := by
  have hg := grantedCore_memOk hc v x
  unfold tiledCore
  split
  · exact hg
  · refine foldl_core_memOk (fun d y hd => ?_) _ hg
    obtain ⟨h1, h2, h3⟩ := Core.memOk_iff.1 hd
    exact Core.memOk_iff.2 ⟨h1, Mem.wf_paste _ _ h2, h3⟩

theorem restoreBlock_memOk {s : State} (hs : s.memOk = true) (v₀ : Saved) (n : Nat) (x : Fit) :
    (restoreBlock s v₀ n x).memOk = true := by
  unfold restoreBlock
  extract_lets v b f
  have hr := retakeOps_memOk hs v n
  split
  rename_i s1 es m hr1
  rw [hr1] at hr
  extract_lets s2 c1 c2 c3 c4 c5 cords frames b' s3 s4 s5 s6
  have h2 : s2.memOk = true := State.moveAgents_memOk (State.dropWords_memOk hr _ _ _) _ _ _
  have h4 : c4.memOk = true := tiledCore_memOk (State.memOk_core h2 n) v m x
  have h5 : c5.memOk = true := h4
  clear_value c5
  have h3 : s3.memOk = true := noteOvls_memOk (State.setBlock_memOk (State.setCore_memOk h2 n (mendCords_memOk h5 _)) _ _ _) _ _ _
  clear_value s3
  have h4 : s4.memOk = true := foldl_memOk (fun _ _ hs => retakeOverlay_memOk hs _ _ _ _ _ _) _ h3
  clear_value s4
  have h5 : s5.memOk = true := State.withSaved_memOk (s := { s4 with serial := s4.serial + 1 }) h4
    fun w hw => State.memOk_saved h4 (List.mem_of_mem_erase hw)
  clear_value s5
  refine addBase_memOk ?_ _ _ _
  subst s6
  split
  · exact State.setLaunch_memOk h5 _ _
  · exact h5

theorem execContextRestore_memOk {s : State} (hs : s.memOk = true) (die : Nat) : nextMemOk (execContextRestore die s) := by
  unfold execContextRestore
  split
  · exact nextMemOk_next hs
  · exact woke_memOk (restoreBlock_memOk hs _ _ _)

/-! ### Firmware writes -/

theorem failOn_memOk {s : State} (hs : s.memOk = true) (sys : Bool) (tree core : Nat) : (failOn sys tree core s).memOk = true := by
  unfold failOn
  refine cancelAfter_memOk (foldl_memOk (fun t x ht => ?_) _ hs) _ _ _
  split
  · exact ht
  · split
    · exact endOne_memOk ht _ _ _ _
    · exact ht

theorem State.map_memOk {s : State} (hs : s.memOk = true) {f : Nat → Core → Core} {g : Saved → Saved}
    (hf : ∀ n c, (f n c).memOk = c.memOk)
    (hg : ∀ v, (g v).memOk = v.memOk) : ({ s with cores := s.cores.map f, saved := s.saved.map g } : State).memOk = true := by
  simp only [State.memOk, Bool.and_eq_true, List.all_eq_true, List.forall_mem_map] at hs ⊢
  obtain ⟨⟨hglobal, hcores⟩, hsaved⟩ := hs
  refine ⟨⟨hglobal, fun c hc => ?_⟩, fun v hv => (hg v).trans (hsaved v hv)⟩
  exact List.all_eq_true.1 (Tab.vals_map_all (q := Core.memOk) (List.all_eq_true.2 hcores) fun n x hx => (hf n x).trans hx) c hc

theorem failTree_memOk {s : State} (hs : s.memOk = true) (cores : List Nat) (sys : Bool) (tree : Nat) :
    (failTree s cores sys tree).memOk = true := by
  unfold failTree
  refine foldl_memOk (fun t x ht => failOn_memOk ht _ _ _) _ (State.map_memOk hs (fun n c => ?_) fun v => ?_)
  · dsimp only
    split <;> rfl
  · split <;> rfl

theorem writeTree_memOk {s : State} (hs : s.memOk = true) (d tree : Nat) (w : TreeWrite) :
    (writeTree s d tree w).memOk = true := by
  unfold writeTree
  grind -linarith [failTree_memOk, State.setDie_memOk]

theorem writeSysTree_memOk {s : State} (hs : s.memOk = true) (tree : Nat) (w : TreeWrite) :
    (writeSysTree s tree w).memOk = true := by
  unfold writeSysTree
  grind -linarith [failTree_memOk, State.memOk]

theorem execCombineTreeWrite_memOk {s : State} (hs : s.memOk = true) (owner : TreeOwner) (tree : Nat) (w : TreeWrite) :
    nextMemOk (execCombineTreeWrite owner tree w s) := by
  unfold execCombineTreeWrite
  grind -linarith [woke_memOk, writeTree_memOk, writeSysTree_memOk, nextMemOk_next]

theorem lockedWrite_memOk {s : State} (hs : s.memOk = true) (f : Mgmt → Mgmt) : (lockedWrite s f).memOk = true := by
  unfold lockedWrite
  grind -linarith [logError_memOk, State.memOk]

theorem execFirmwareRegisterWrite_memOk {s : State} (hs : s.memOk = true) (w : FwWrite) :
    nextMemOk (execFirmwareRegisterWrite w s) := by
  unfold execFirmwareRegisterWrite
  grind -linarith [woke_memOk, setQueue_memOk, State.setCtx_memOk, State.setDie_memOk, cutReductions_memOk, lockedWrite_memOk,
    State.memOk_core, State.setCore_memOk, State.memOk, Core.memOk, nextMemOk_next]

theorem drainCord_memOk {s : State} (hs : s.memOk = true) (ref : CordRef) (lo hi fuel : Nat) :
    (drainCord ref lo hi fuel s).memOk = true := by
  induction fuel generalizing s with
  | zero => exact hs
  | succ fuel ih =>
    unfold drainCord
    grind -linarith [accessEvent_memOk]

theorem drainLines_memOk {s : State} (hs : s.memOk = true) (core ctx lo hi : Nat) :
    (drainLines s core ctx lo hi).memOk = true := by
  unfold drainLines
  grind -linarith [foldl_memOk, State.memOk_core, writeLine_memOk, State.setCore_memOk, Core.memOk]

theorem execTlbInvalidate_memOk {s : State} (hs : s.memOk = true) (ctx lo hi : Nat) :
    nextMemOk (execTlbInvalidate ctx lo hi s) := by
  unfold execTlbInvalidate
  grind -linarith [foldl_memOk, Tab.vals_map_all, drainCord_memOk, drainLines_memOk, woke_memOk, State.memOk, Core.memOk, nextMemOk_next]

/-! ### Lane arithmetic -/

theorem laneAddSub_memOk {s : State} (hs : s.memOk = true) (i : Instr) (o : O3T) (sub : Bool) :
    nextMemOk (laneAddSub i o sub s) := by
  unfold laneAddSub
  split
  · exact laneOp_memOk hs _ _ _ _
  · exact laneOp_memOk hs _ _ _ _

theorem execIadd_memOk {s : State} (hs : s.memOk = true) (o : O3T) : nextMemOk (execIadd o s) := by
  unfold execIadd
  grind -linarith [laneAddSub_memOk]

theorem execIsub_memOk {s : State} (hs : s.memOk = true) (o : O3T) : nextMemOk (execIsub o s) := by
  unfold execIsub
  grind -linarith [laneAddSub_memOk]

theorem laneApprox_memOk {s : State} (hs : s.memOk = true) (i : Instr) (o : OFn) (fn : ApproxFn) :
    nextMemOk (laneApprox i o fn s) := by
  unfold laneApprox
  grind -linarith [issue_memOk, State.setCord_memOk, Act.memOk]

theorem execFrcp_memOk {s : State} (hs : s.memOk = true) (o : OFn) : nextMemOk (execFrcp o s) := by
  unfold execFrcp
  grind -linarith [laneApprox_memOk]

theorem execFrsq_memOk {s : State} (hs : s.memOk = true) (o : OFn) : nextMemOk (execFrsq o s) := by
  unfold execFrsq
  grind -linarith [laneApprox_memOk]

theorem execFsqrt_memOk {s : State} (hs : s.memOk = true) (o : OFn) : nextMemOk (execFsqrt o s) := by
  unfold execFsqrt
  grind -linarith [laneApprox_memOk]

theorem execFexp2_memOk {s : State} (hs : s.memOk = true) (o : OFn) : nextMemOk (execFexp2 o s) := by
  unfold execFexp2
  grind -linarith [laneApprox_memOk]

theorem execFlog2_memOk {s : State} (hs : s.memOk = true) (o : OFn) : nextMemOk (execFlog2 o s) := by
  unfold execFlog2
  grind -linarith [laneApprox_memOk]

theorem crossLane_memOk {s : State} (hs : s.memOk = true) (i : Instr) (g : Guard) (f : Here → List Nat → Nat → Lane → Lane) :
    nextMemOk (crossLane i g f s) := by
  unfold crossLane
  grind -linarith [issue_memOk, State.setCord_memOk, Act.memOk]

theorem execShfl_memOk {s : State} (hs : s.memOk = true) (o : OShfl) : nextMemOk (execShfl o s) := by
  unfold execShfl
  grind -linarith [crossLane_memOk]

theorem execVote_memOk {s : State} (hs : s.memOk = true) (o : OVote) : nextMemOk (execVote o s) := by
  unfold execVote
  grind -linarith [crossLane_memOk]

theorem execLred_memOk {s : State} (hs : s.memOk = true) (o : ORed) : nextMemOk (execLred o s) := by
  refine issue_memOk hs _ fun h s hs => ?_
  grind -linarith [State.setCord_memOk, Act.memOk]

theorem execLscan_memOk {s : State} (hs : s.memOk = true) (o : ORed) : nextMemOk (execLscan o s) := by
  refine issue_memOk hs _ fun h s hs => ?_
  grind -linarith [State.setCord_memOk, Act.memOk]

/-! ### The outside and management -/

theorem execPowerAlarm_memOk {s : State} (hs : s.memOk = true) : nextMemOk (execPowerAlarm s) := by
  unfold execPowerAlarm
  grind -linarith [woke_memOk, State.memOk, nextMemOk_next]

theorem execPowerAlarmClear_memOk {s : State} (hs : s.memOk = true) : nextMemOk (execPowerAlarmClear s) := by
  unfold execPowerAlarmClear
  grind -linarith [woke_memOk, State.memOk, nextMemOk_next]

theorem execSensorSample_memOk {s : State} (hs : s.memOk = true) (temps : List Nat) (p : PowerSample) :
    nextMemOk (execSensorSample temps p s) := by
  unfold execSensorSample
  grind -linarith [woke_memOk, State.memOk]

theorem scrub_memOk {s : State} (hs : s.memOk = true) (which : Nat → Bool) : (scrub s which).memOk = true := by
  unfold scrub
  grind -linarith [foldl_memOk, logData_memOk, State.memOk]

theorem execPatrolScrub_memOk {s : State} (hs : s.memOk = true) (stack : Nat) : nextMemOk (execPatrolScrub stack s) := by
  unfold execPatrolScrub
  grind -linarith [woke_memOk, scrub_memOk]

theorem meshError_memOk {s : State} (hs : s.memOk = true) (core e : Nat) (o : OpEntry) :
    (meshError s core e o).memOk = true := by
  unfold meshError
  grind -linarith [State.free_memOk, failUnit_memOk, logData_memOk, setOp_memOk]

theorem execMeshFlitRetry_memOk {s : State} (hs : s.memOk = true) (core entry : Nat) (ok : Bool) :
    nextMemOk (execMeshFlitRetry core entry ok s) := by
  unfold execMeshFlitRetry
  grind -linarith [woke_memOk, meshError_memOk, logError_memOk, State.memOk, nextMemOk_next]

theorem execLinkFlitReplay_memOk {s : State} (hs : s.memOk = true) (link : Nat) (ok : Bool) :
    nextMemOk (execLinkFlitReplay link ok s) := by
  unfold execLinkFlitReplay
  grind -linarith [woke_memOk, State.memOk, nextMemOk_next]

theorem execLinkRetrain_memOk {s : State} (hs : s.memOk = true) (link : Nat) (ok : Bool) :
    nextMemOk (execLinkRetrain link ok s) := by
  unfold execLinkRetrain
  grind -linarith [woke_memOk, cutReductions_memOk, logError_memOk, State.memOk, nextMemOk_next]

theorem execCxlLinkTraining_memOk {s : State} (hs : s.memOk = true) (width rate : Nat) (ide : Bool) :
    nextMemOk (execCxlLinkTraining width rate ide s) := by
  unfold execCxlLinkTraining
  grind -linarith [woke_memOk, State.memOk, nextMemOk_next]

theorem setAnswer_memOk {s : State} (hs : s.memOk = true) (l : List Byte) : (setAnswer s l).memOk = true := by
  unfold setAnswer
  grind -linarith [State.memOk]

theorem outsideLost_memOk {s : State} (hs : s.memOk = true) (a : Nat) : (outsideLost s a).memOk = true := by
  unfold outsideLost
  grind -linarith [setAnswer_memOk, logError_memOk]

theorem outsideAccess_memOk {s : State} (hs : s.memOk = true) (x : Agent) (a0 : OutsideAccess) :
    (outsideAccess x s a0).memOk = true := by
  unfold outsideAccess
  grind -linarith [setAnswer_memOk, outsideLost_memOk, noteTarget_memOk, State.saw_memOk, targetWrite_memOk, State.wrote_memOk]

theorem execHostMemAccess_memOk {s : State} (hs : s.memOk = true) (a : OutsideAccess) :
    nextMemOk (execHostMemAccess a s) := by
  unfold execHostMemAccess
  grind -linarith [woke_memOk, outsideAccess_memOk, nextMemOk_next]

theorem execPeerAccess_memOk {s : State} (hs : s.memOk = true) (peer : Nat) (a : OutsideAccess) :
    nextMemOk (execPeerAccess peer a s) := by
  unfold execPeerAccess
  grind -linarith [woke_memOk, outsideAccess_memOk, nextMemOk_next]

theorem resetCause_memOk {s : State} (hs : s.memOk = true) (n : Nat) (l : Launch) : (resetCause s n l).2.2.memOk = true := by
  unfold resetCause
  grind -linarith [State.free_memOk]

theorem killLaunch_memOk {s : State} (hs : s.memOk = true) (n : Nat) (l : Launch) : (killLaunch s n l).memOk = true := by
  unfold killLaunch
  grind -linarith [resetCause_memOk, writeRecord_memOk, dropTasks_memOk, State.memOk]

theorem clearCore_memOk (c : Core) : (clearCore c).memOk = true := rfl

theorem resetPartition_memOk {s : State} (hs : s.memOk = true) (n : Nat) (p : Partition) :
    (resetPartition s n p).memOk = true := by
  unfold resetPartition
  grind -linarith [foldl_memOk, Tab.vals_map_all, killLaunch_memOk, clearCore_memOk, scrub_memOk, State.memOk]

theorem execPartitionReset_memOk {s : State} (hs : s.memOk = true) (p : Nat) : nextMemOk (execPartitionReset p s) := by
  unfold execPartitionReset
  grind -linarith [woke_memOk, resetPartition_memOk, nextMemOk_next]

theorem execPartitionUpdate_memOk {s : State} (hs : s.memOk = true) (p : Nat) : nextMemOk (execPartitionUpdate p s) := by
  unfold execPartitionUpdate
  grind -linarith [woke_memOk, resetPartition_memOk, State.memOk, nextMemOk_next]

theorem removeCore_memOk {s : State} (hs : s.memOk = true) (core : Nat) : (removeCore s core).memOk = true := by
  unfold removeCore
  grind -linarith [foldl_memOk, writeTree_memOk, State.setDie_memOk, State.setCore_memOk, State.memOk_core, Core.memOk]

theorem execPartitionRepair_memOk {s : State} (hs : s.memOk = true) (p core : Nat) :
    nextMemOk (execPartitionRepair p core s) := by
  unfold execPartitionRepair
  grind -linarith [resetPartition_memOk, woke_memOk, removeCore_memOk, State.setCluster_memOk, nextMemOk_next]

theorem execDeviceReset_memOk {s : State} (hs : s.memOk = true) : nextMemOk (execDeviceReset s) := by
  obtain ⟨hhbm, hhost, hpeers⟩ : s.hbm.wf = true ∧ s.host.wf = true ∧ s.peers.vals.all (fun m => m.wf) = true := by
    grind -linarith [State.memOk]
  refine nextMemOk_next ?_
  simp only [State.memOk, Bool.and_eq_true]
  exact ⟨⟨⟨⟨hhbm, hhost⟩, hpeers⟩, rfl⟩, rfl⟩

theorem applyRecord_memOk {s : State} (hs : s.memOk = true) (r : ConfigRecord) : (applyRecord s r).memOk = true := by
  unfold applyRecord
  grind -linarith [State.memOk]

theorem execDeviceBoot_memOk {s : State} (hs : s.memOk = true) (mgmt harts : Image) (record sig : List Byte) :
    nextMemOk (execDeviceBoot mgmt harts record sig s) := by
  unfold execDeviceBoot
  grind -linarith [woke_memOk, applyRecord_memOk, State.memOk, nextMemOk_next]

theorem execFirmwareUpdateStage_memOk {s : State} (hs : s.memOk = true) (img : Image) :
    nextMemOk (execFirmwareUpdateStage img s) := by
  unfold execFirmwareUpdateStage
  grind -linarith [woke_memOk, State.memOk, nextMemOk_next]

theorem randomBytes_memOk {s : State} (hs : s.memOk = true) : (randomBytes s).2.memOk = true := by
  unfold randomBytes
  generalize List.range 4 = l
  refine foldl_keeps (p := fun x : List Byte × State => x.2.memOk = true) (fun x _ hx => ?_) l hs
  exact State.free_memOk hx

theorem execGetMeasurements_memOk {s : State} (hs : s.memOk = true) (q : AttestRequest) (nonce : List Byte) :
    nextMemOk (execGetMeasurements q nonce s) := by
  unfold execGetMeasurements
  grind -linarith [randomBytes_memOk, woke_memOk, State.memOk]

theorem execPerfCounterRead_memOk {s : State} (hs : s.memOk = true) (core i : Nat) :
    nextMemOk (execPerfCounterRead core i s) := by
  unfold execPerfCounterRead
  grind -linarith [State.free_memOk, woke_memOk, State.memOk, nextMemOk_next]

theorem execErrorCounterRead_memOk {s : State} (hs : s.memOk = true) (c : ErrCounter) :
    nextMemOk (execErrorCounterRead c s) := by
  unfold execErrorCounterRead
  grind -linarith [woke_memOk, State.memOk]

/-! ### Special registers and uniform arithmetic -/

theorem execSrd_memOk {s : State} (hs : s.memOk = true) (o : OSrd) : nextMemOk (execSrd o s) := by
  refine issue_memOk hs _ fun h s hs => ?_
  grind -linarith [State.setCord_memOk, Act.memOk]

theorem execSsrd_memOk {s : State} (hs : s.memOk = true) (o : OSrd) : nextMemOk (execSsrd o s) := by
  refine issue_memOk hs _ fun h s hs => ?_
  grind -linarith [State.setCord_memOk, Act.memOk]

theorem execSwr_memOk {s : State} (hs : s.memOk = true) (o : OSwr) : nextMemOk (execSwr o s) := by
  unfold execSwr
  grind -linarith [issueP_memOk, State.setCord_memOk, Act.memOk]

theorem execTrap_memOk {s : State} (hs : s.memOk = true) (o : OTrap) : nextMemOk (execTrap o s) := by
  refine issue_memOk hs _ fun h s hs => ?_
  grind -linarith [Act.memOk]

theorem execBrk_memOk {s : State} (hs : s.memOk = true) (o : OG) : nextMemOk (execBrk o s) := by
  refine issue_memOk hs _ fun h s hs => ?_
  grind -linarith [Act.memOk]

theorem execStrap_memOk {s : State} (hs : s.memOk = true) (o : OTrap) : nextMemOk (execStrap o s) := by
  refine issue_memOk hs _ fun h s hs => ?_
  grind -linarith [parkSet_memOk]

theorem execSbrk_memOk {s : State} (hs : s.memOk = true) (o : OG) : nextMemOk (execSbrk o s) := by
  refine issue_memOk hs _ fun h s hs => ?_
  grind -linarith [parkSet_memOk]

theorem execNotAnInstruction_memOk {s : State} (hs : s.memOk = true) (w : Word) :
    nextMemOk (execNotAnInstruction w s) := by
  refine issue_memOk hs _ fun h s hs => ?_
  grind -linarith [parkSet_memOk]

theorem execHret_memOk {s : State} (hs : s.memOk = true) (o : OBrx) : nextMemOk (execHret o s) := by
  unfold execHret
  grind -linarith [issueP_memOk, → leaveHandler_memOk, settleAt_memOk, touchFault_memOk, parkSet_memOk, parkSetFree_memOk, Act.memOk]

theorem execYield_memOk {s : State} (hs : s.memOk = true) (o : OG) : nextMemOk (execYield o s) := by
  refine issue_memOk hs _ fun h s hs => ?_
  grind -linarith [State.setCord_memOk, Act.memOk]

theorem uniAddSub_memOk {s : State} (hs : s.memOk = true) (i : Instr) (o : O3T) (sub : Bool) : nextMemOk (uniAddSub i o sub s) := by
  unfold uniAddSub
  split
  · exact cordOp_memOk hs _ _
  · exact cordOp_memOk hs _ _

theorem execSadd_memOk {s : State} (hs : s.memOk = true) (o : O3T) : nextMemOk (execSadd o s) := by
  unfold execSadd
  grind -linarith [uniAddSub_memOk]

theorem execSsub_memOk {s : State} (hs : s.memOk = true) (o : O3T) : nextMemOk (execSsub o s) := by
  unfold execSsub
  grind -linarith [uniAddSub_memOk]

/-! ### Every instruction, every move, every step -/

/-- No instruction and no event leaves a store out of canonical form. -/
theorem exec_memOk {s : State} (hs : s.memOk = true) (i : Instr) : nextMemOk (exec i s) := by
  cases i with
  | nop _ | mov _ | movi _ | iaddi _ | imul _ | imulhs _ | imulhn _ | imad _ | imins _ | iminn _ | imaxs _ | imaxn _ | iabs _
  | ineg _ | and _ | or _ | xor _ | andn _ | andi _ | ori _ | xori _ | shl _ | shrl _ | shra _ | shli _ | shrli _ | shrai _
  | bfx _ | bfi _ | popc _ | clz _ | brev _ | sel _ | lea _ | vadd2 _ | vsub2 _ | vmax2s _ | vmax2n _ | vmin2s _ | vmin2n _
  | vacs2 _ | icmp _ | plog _ | pmovTov _ | pmovFrv _ | rng _ | fmin _ | fmax _ | fabs _ | fneg _ | fcmp _ | upk _ | fpclass _
  | perm _ =>
    dsimp only [exec,
      execNop, execMov, execMovi, execIaddi, execImul, execImulhs, execImulhn, execImad, execImins, execIminn, execImaxs,
      execImaxn, execIabs, execIneg, execAnd, execOr, execXor, execAndn, execAndi, execOri, execXori, execShl, execShrl,
      execShra, execShli, execShrli, execShrai, execBfx, execBfi, execPopc, execClz, execBrev, execSel, execLea, execVadd2,
      execVsub2, execVmax2s, execVmax2n, execVmin2s, execVmin2n, execVacs2, execIcmp, execPlog, execPmovTov, execPmovFrv,
      execRng, execFmin, execFmax, execFabs, execFneg, execFcmp, execUpk, execFpclass, execPerm, lane1, laneA, laneAB, laneAI,
      laneSh, laneEach16, laneFBits]
    exact laneOp_memOk hs _ _ _ _
  | fadd _ | fsub _ | fmul _ | ffma _ | hfma2 _ | hadd2 _ | cvt _ | pk4 _ =>
    dsimp only [exec,
      execFadd, execFsub, execFmul, execFfma, execHfma2, execHadd2, execCvt, execPk4, laneRound, laneF3, laneHalf]
    exact laneFlagOp_memOk hs _ _ _ _
  | snop _ | smov _ | smovi _ | saddi _ | smul _ | smad _ | smins _ | smaxs _ | sminn _ | smaxn _ | sand _ | sor _ | sxor _
  | sandi _ | sori _ | sshl _ | sshrl _ | sshra _ | sshli _ | sshrli _ | scmp _ | splog _ | ssel _ | spopc _ | sswr _ =>
    dsimp only [exec,
      execSnop, execSmov, execSmovi, execSaddi, execSmul, execSmad, execSmins, execSmaxs, execSminn, execSmaxn, execSand,
      execSor, execSxor, execSandi, execSori, execSshl, execSshrl, execSshra, execSshli, execSshrli, execScmp, execSplog,
      execSsel, execSpopc, execSswr, uni1, uniA, uniAB, uniAI]
    exact cordOp_memOk hs _ _
  | iadd o => exact execIadd_memOk hs o
  | isub o => exact execIsub_memOk hs o
  | srd o => exact execSrd_memOk hs o
  | frcp o => exact execFrcp_memOk hs o
  | frsq o => exact execFrsq_memOk hs o
  | fsqrt o => exact execFsqrt_memOk hs o
  | fexp2 o => exact execFexp2_memOk hs o
  | flog2 o => exact execFlog2_memOk hs o
  | shfl o => exact execShfl_memOk hs o
  | vote o => exact execVote_memOk hs o
  | lred o => exact execLred_memOk hs o
  | lscan o => exact execLscan_memOk hs o
  | bra o => exact execBra_memOk hs o
  | braLong o => exact execBraLong_memOk hs o
  | brx o => exact execBrx_memOk hs o
  | call o => exact execCall_memOk hs o
  | callLong o => exact execCallLong_memOk hs o
  | callx o => exact execCallx_memOk hs o
  | callo o => exact execCallo_memOk hs o
  | ret o => exact execRet_memOk hs o
  | exit o => exact execExit_memOk hs o
  | rjoin => exact execRjoin_memOk hs
  | frame o => exact execFrame_memOk hs o
  | trap o => exact execTrap_memOk hs o
  | brk o => exact execBrk_memOk hs o
  | ld8 o => exact execLd8_memOk hs o
  | ld16 o => exact execLd16_memOk hs o
  | ld32 o => exact execLd32_memOk hs o
  | ld64 o => exact execLd64_memOk hs o
  | ld128 o => exact execLd128_memOk hs o
  | st8 o => exact execSt8_memOk hs o
  | st16 o => exact execSt16_memOk hs o
  | st32 o => exact execSt32_memOk hs o
  | st64 o => exact execSt64_memOk hs o
  | st128 o => exact execSt128_memOk hs o
  | atom o => exact execAtom_memOk hs o
  | gld32 o => exact execGld32_memOk hs o
  | gld64 o => exact execGld64_memOk hs o
  | gst32 o => exact execGst32_memOk hs o
  | gst64 o => exact execGst64_memOk hs o
  | gatom o => exact execGatom_memOk hs o
  | gprf o => exact execGprf_memOk hs o
  | ctr o => exact execCtr_memOk hs o
  | ctrskip o => exact execCtrskip_memOk hs o
  | acz o => exact execAcz_memOk hs o
  | acrd o => exact execAcrd_memOk hs o
  | acwr o => exact execAcwr_memOk hs o
  | acdrain o => exact execAcdrain_memOk hs o
  | acaxpy o => exact execAcaxpy_memOk hs o
  | acrst o => exact execAcrst_memOk hs o
  | spawn o => exact execSpawn_memOk hs o
  | swr o => exact execSwr_memOk hs o
  | sadd o => exact execSadd_memOk hs o
  | ssub o => exact execSsub_memOk hs o
  | sld32 o => exact execSld32_memOk hs o
  | sst32 o => exact execSst32_memOk hs o
  | sld64 o => exact execSld64_memOk hs o
  | sst64 o => exact execSst64_memOk hs o
  | ssrd o => exact execSsrd_memOk hs o
  | sbra o => exact execSbra_memOk hs o
  | sbraLong o => exact execSbraLong_memOk hs o
  | sbrx o => exact execSbrx_memOk hs o
  | bar o => exact execBar_memOk hs o
  | barar o => exact execBarar_memOk hs o
  | barwt o => exact execBarwt_memOk hs o
  | fence o => exact execFence_memOk hs o
  | tktwait o => exact execTktwait_memOk hs o
  | tktpass o => exact execTktpass_memOk hs o
  | evset o => exact execEvset_memOk hs o
  | evclr o => exact execEvclr_memOk hs o
  | evwait o => exact execEvwait_memOk hs o
  | qpop o => exact execQpop_memOk hs o
  | qpush o => exact execQpush_memOk hs o
  | chput o => exact execChput_memOk hs o
  | chget o => exact execChget_memOk hs o
  | cheos o => exact execCheos_memOk hs o
  | cpyIn o => exact execCpyIn_memOk hs o
  | cpyOut o => exact execCpyOut_memOk hs o
  | cpyCk o => exact execCpyCk_memOk hs o
  | cpyCkc o => exact execCpyCkc_memOk hs o
  | cpyIna o => exact execCpyIna_memOk hs o
  | cpyOuta o => exact execCpyOuta_memOk hs o
  | cpygat o => exact execCpygat_memOk hs o
  | mred o => exact execMred_memOk hs o
  | coll o => exact execColl_memOk hs o
  | wnw o => exact execWnw_memOk hs o
  | ovlld o => exact execOvlld_memOk hs o
  | ovlrel o => exact execOvlrel_memOk hs o
  | ovlevict o => exact execOvlevict_memOk hs o
  | opwait o => exact execOpwait_memOk hs o
  | optest o => exact execOptest_memOk hs o
  | opseal o => exact execOpseal_memOk hs o
  | opwaitb o => exact execOpwaitb_memOk hs o
  | opcancel o => exact execOpcancel_memOk hs o
  | opdetach o => exact execOpdetach_memOk hs o
  | opstat o => exact execOpstat_memOk hs o
  | opprio o => exact execOpprio_memOk hs o
  | opadopt o => exact execOpadopt_memOk hs o
  | hret o => exact execHret_memOk hs o
  | yield o => exact execYield_memOk hs o
  | strap o => exact execStrap_memOk hs o
  | sbrk o => exact execSbrk_memOk hs o
  | idleQ o => exact execIdleQ_memOk hs o
  | idleEv o => exact execIdleEv_memOk hs o
  | doorbell q v => exact execDoorbell_memOk hs q v
  | deviceQueueDoorbell q v => exact execDeviceQueueDoorbell_memOk hs q v
  | launchPacket q => exact execLaunchPacket_memOk hs q
  | registerHeader q => exact execRegisterHeader_memOk hs q
  | bindRecordWrite die idx w => exact execBindRecordWrite_memOk hs die idx w
  | combineTreeWrite owner tree w => exact execCombineTreeWrite_memOk hs owner tree w
  | firmwareRegisterWrite w => exact execFirmwareRegisterWrite_memOk hs w
  | tlbInvalidate ctx lo hi => exact execTlbInvalidate_memOk hs ctx lo hi
  | blockReservation die => exact execBlockReservation_memOk hs die
  | coResidentPlacement launch => exact execCoResidentPlacement_memOk hs launch
  | blockStart core slot => exact execBlockStart_memOk hs core slot
  | blockExit core slot => exact execBlockExit_memOk hs core slot
  | launchCompletion launch => exact execLaunchCompletion_memOk hs launch
  | longLatencyCompletion c idx => exact execLongLatencyCompletion_memOk hs c idx
  | gatherDataArrival c idx => exact execGatherDataArrival_memOk hs c idx
  | handlerEntry c => exact execHandlerEntry_memOk hs c
  | handlerTimeout src => exact execHandlerTimeout_memOk hs src
  | contextRung src => exact execContextRung_memOk hs src
  | opStart core entry => exact execOpStart_memOk hs core entry
  | opFinish core entry => exact execOpFinish_memOk hs core entry
  | opSuspend core entry => exact execOpSuspend_memOk hs core entry
  | opReplay core entry => exact execOpReplay_memOk hs core entry
  | opEndFailed core entry => exact execOpEndFailed_memOk hs core entry
  | contractionGroup core tile idx => exact execContractionGroup_memOk hs core tile idx
  | mredPacketArrival die tree id router => exact execMredPacketArrival_memOk hs die tree id router
  | mredTimeout die tree id router => exact execMredTimeout_memOk hs die tree id router
  | collPacketArrival tree id pkt => exact execCollPacketArrival_memOk hs tree id pkt
  | collTimeout tree id missing => exact execCollTimeout_memOk hs tree id missing
  | overlayDigestCheck core rec => exact execOverlayDigestCheck_memOk hs core rec
  | codePageReload core page ok => exact execCodePageReload_memOk hs core page ok
  | ticketFrontierUpdate launch => exact execTicketFrontierUpdate_memOk hs launch
  | taskCordFormation die cluster => exact execTaskCordFormation_memOk hs die cluster
  | taskReadyTimeout die cluster => exact execTaskReadyTimeout_memOk hs die cluster
  | preemptRequest core slot => exact execPreemptRequest_memOk hs core slot
  | drainTimeout core slot => exact execDrainTimeout_memOk hs core slot
  | contextSave core slot => exact execContextSave_memOk hs core slot
  | contextRestore die => exact execContextRestore_memOk hs die
  | deviceReset => exact execDeviceReset_memOk hs
  | powerAlarm => exact execPowerAlarm_memOk hs
  | powerAlarmClear => exact execPowerAlarmClear_memOk hs
  | sensorSample temps p => exact execSensorSample_memOk hs temps p
  | patrolScrub stack => exact execPatrolScrub_memOk hs stack
  | meshFlitRetry core entry ok => exact execMeshFlitRetry_memOk hs core entry ok
  | linkFlitReplay link ok => exact execLinkFlitReplay_memOk hs link ok
  | linkRetrain link ok => exact execLinkRetrain_memOk hs link ok
  | cxlLinkTraining width rate ide => exact execCxlLinkTraining_memOk hs width rate ide
  | hostMemAccess a => exact execHostMemAccess_memOk hs a
  | peerAccess peer a => exact execPeerAccess_memOk hs peer a
  | localLineWriteback core idx => exact execLocalLineWriteback_memOk hs core idx
  | partitionReset p => exact execPartitionReset_memOk hs p
  | partitionUpdate p => exact execPartitionUpdate_memOk hs p
  | partitionRepair p core => exact execPartitionRepair_memOk hs p core
  | deviceBoot mgmt harts record sig => exact execDeviceBoot_memOk hs mgmt harts record sig
  | firmwareUpdateStage img => exact execFirmwareUpdateStage_memOk hs img
  | getMeasurements q nonce => exact execGetMeasurements_memOk hs q nonce
  | perfCounterRead core idx => exact execPerfCounterRead_memOk hs core idx
  | errorCounterRead c => exact execErrorCounterRead_memOk hs c
  | notAnInstruction w => exact execNotAnInstruction_memOk hs w
  | unitBoundary core entry => exact execUnitBoundary_memOk hs core entry
  | gatherPerformed c idx => exact execGatherPerformed_memOk hs c idx

theorem noteFetched_memOk {s : State} (hs : s.memOk = true) (w0 w1 : Word) : (noteFetched s w0 w1).memOk = true := by
  unfold noteFetched
  grind -linarith [State.setCord_memOk]

theorem codeAbsent_memOk {s : State} (hs : s.memOk = true) (a : Nat) : nextMemOk (codeAbsent a s) :=
  issue_memOk hs _ fun h _ ht => parkSet_memOk ht h _ _

theorem issueNext_memOk {s : State} (hs : s.memOk = true) (c : CordRef) : nextMemOk (issueNext c s) := by
  have hc : ({ s with cur := c } : State).memOk = true := hs
  unfold issueNext
  dsimp only
  split
  · exact nextMemOk_next hc
  · exact codeAbsent_memOk hc _
  · exact exec_memOk (noteFetched_memOk hc _ _) _

theorem runMove_memOk {s : State} (hs : s.memOk = true) : ∀ m, nextMemOk (runMove m s)
  | .issue c => by
    simp only [runMove]
    split
    · exact nextMemOk_next hs
    · exact issueNext_memOk hs _
  | .event e => exec_memOk hs e
  | .track p => by
    refine nextMemOk_next ?_
    split
    · exact State.track_memOk hs _
    · exact hs
  | .pick a p n => by
    refine nextMemOk_next ?_
    split
    · exact State.pick_memOk hs _ _ _ _
    · exact hs

theorem nextMove_memOk {s : State} (hs : s.memOk = true) : (nextMove s).2.memOk = true := by
  unfold nextMove
  split <;> exact hs

theorem runNext_memOk {s : State} (hs : s.memOk = true) : nextMemOk (runNext s) := by
  have ht := nextMove_memOk hs
  unfold runNext
  split
  case h_1 m t h =>
    rw [h] at ht
    exact runMove_memOk ht m
  case h_2 t h =>
    rw [h] at ht
    exact nextMemOk_next ht

/-- Settles O59: no function of the model leaves a store out of canonical form, so no instruction, no event, no move of the
agenda and no step does. -/
theorem stepKeepsMemoryCanonical : Obligations.StepKeepsMemoryCanonical := by
  intro s t hs ht
  exact runNext_memOk hs t ht

end Sys2Proof.Machine

namespace Sys2Proof.Machine

/-! ### What lane operations keep of a lane's state -/

@[simp] theorem Lane.st_setP (l : Lane) (i : Nat) (x : Bool) : (l.setP i x).st = l.st := by
  unfold Lane.setP
  split <;> rfl

@[simp] theorem Lane.st_setVs (bud : Nat) (l : Lane) (r : Nat) (xs : List Word) : (l.setVs bud r xs).st = l.st := by
  induction xs generalizing l r with
  | nil => rfl
  | cons x xs ih => rw [Lane.setVs, ih, Lane.st_setV]

/-- A lane instruction that writes one register. -/
theorem lane1_result {i : Instr} {g : Guard} {u : Bool} {d : Reg} {f : Nat → Lane → Word} (e : ∀ s, exec i s = lane1 i g u d f s)
    (hns : sends i = false := by rfl) : LaneResult i g u (fun n a l => l.setV n d.toNat (f n a)) noFlags :=
  laneOp_result e (fun _ _ _ => Lane.st_setV _ _ _ _) hns

/-- A lane instruction that writes one register from two. -/
theorem writes3_result {i : Instr} {o : O3} (f : Word → Word → Word) (e : ∀ s, exec i s = laneAB i o f s)
    (hns : sends i = false := by rfl) : LaneResult i o.gd o.u (writes3 o f) noFlags := lane1_result e hns

/-! ### The generator (R55) -/

/-- The upper half of a number of 64 bits. -/
theorem high_word (t : DWord) : (t >>> 32).setWidth 32 = t.extractLsb' 32 32 := by
  apply BitVec.eq_of_toNat_eq
  simp [Nat.shiftRight_eq_div_pow]

theorem draw_fst (x : DWord) : (draw x).1 = x * 0x5851F42D4C957F2D + 0x14057B7EF767814F := rfl

theorem draw_snd (x : DWord) : (draw x).2 = (draw x).1.extractLsb' 32 32 :=
  high_word _

/-- The two words that sr.rnghi and sr.rnglo show make the generator state. -/
theorem readSr_rng (s : State) (h : Here) (k : Nat) : readSr s h k 0x18 ++ readSr s h k 0x17 = (h.cord.lane k).rng := by
  change (BitVec.ofNat 32 ((h.cord.lane k).rng.toNat / 2 ^ 32) ++ BitVec.ofNat 32 (h.cord.lane k).rng.toNat : DWord) = _
  rw [high_append_low, BitVec.ofNat_toNat, BitVec.setWidth_eq]

/-- Settles O13: `rng` is a lane operation, and its draw is the one of R55. -/
theorem randomDraw : Obligations.RandomDraw := by
  refine ⟨fun o => ?_, readSr_rng⟩
  simp only [← draw_fst, ← draw_snd]
  exact laneOp_result (fun _ => rfl) (fun _ _ _ => Lane.st_setV _ _ _ _)

/-! ### `sswr` (R102) -/

theorem writeSr_lanes (c : Cord) (i : Nat) (x : Word) : (writeSr c i x).lanes = c.lanes := by
  unfold writeSr
  split <;> rfl

/-- `sswr` gives the cord that `writeSr` does. -/
theorem sswr_result (o : OSwr) : CordResult (.sswr o) (fun h => writeSr h.cord o.idx.toNat (h.s o.a)) :=
  cordResult_of (fun _ => rfl) (fun _ => writeSr_lanes _ _ _)

/-- Settles O15: of each register that `sswr` writes, `writeSr` keeps the bits that ignore writes. -/
theorem specialRegisterWrites : Obligations.SpecialRegisterWrites := by
  intro o
  have hr := sswr_result o
  refine ⟨fun h => ?_, fun h => ?_, fun h => ?_, fun h => ?_, fun h => ?_, fun h => ?_⟩ <;> (rw [h] at hr; exact hr)

/-! ### The integer types (R46, R53) -/

/-- The range of an integer type holds 0. -/
theorem intRange_zero (ty : Ty) : (intRange ty).1 ≤ 0 ∧ 0 ≤ (intRange ty).2 := by
  have h1 : (1 : Int) ≤ 2 ^ (ty.width - 1) := one_le_pow₀ (by decide)
  have h2 : (1 : Int) ≤ 2 ^ ty.width := one_le_pow₀ (by decide)
  unfold intRange
  split <;> constructor <;> dsimp only <;> omega

/-- Clamping gives the nearest value of the range. -/
theorem clampTo_eq (ty : Ty) (x : Int) : clampTo ty x = max (intRange ty).1 (min (intRange ty).2 x) := by
  obtain ⟨hlo, hhi⟩ := intRange_zero ty
  unfold clampTo
  dsimp only
  omega

/-- A value in the range of an integer type is what its own bits stand for. -/
theorem bitsInt_intBits {ty : Ty} (ht : ty.isInt = true) {x : Int} (hlo : (intRange ty).1 ≤ x) (hhi : x ≤ (intRange ty).2) :
    bitsInt ty (intBits ty x) = x := by
  cases ty <;> simp [Ty.isInt] at ht <;> simp only [intRange, bitsInt, intBits, sxInt, Ty.isSigned, Ty.width] at * <;>
    simp at * <;> omega

theorem coe_intBits (ty : Ty) (x : Int) : (intBits ty x : Int) = x % 2 ^ ty.width :=
  Int.toNat_of_nonneg (Int.emod_nonneg _ (by positivity))

theorem intBits_lt (ty : Ty) (x : Int) : intBits ty x < 2 ^ ty.width := by
  have h := coe_intBits ty x
  have hlt : x % 2 ^ ty.width < 2 ^ ty.width := Int.emod_lt_of_pos _ (by positivity)
  exact_mod_cast h ▸ hlt

/-- The bits of a clamped result stand for the nearest value of the type. -/
theorem bitsInt_satInt {ty : Ty} (ht : ty.isInt = true) (x : Int) :
    bitsInt ty (satInt ty true x) = max (intRange ty).1 (min (intRange ty).2 x) := by
  obtain ⟨hlo, hhi⟩ := intRange_zero ty
  rw [← clampTo_eq]
  refine bitsInt_intBits ht ?_ ?_ <;> (rw [if_pos rfl, clampTo_eq]; omega)

/-- Two's complement when signed, plain binary when natural. -/
theorem bitsInt_eq (ty : Ty) {w : Nat} (hw : w < 2 ^ ty.width) :
    bitsInt ty w = if ty.isSigned && decide (2 ^ (ty.width - 1) ≤ w) then (w : Int) - 2 ^ ty.width else w := by
  unfold bitsInt sxInt
  rw [Nat.mod_eq_of_lt hw]
  by_cases hs : ty.isSigned = true
  · by_cases h : w < 2 ^ (ty.width - 1)
    · simp [hs, h]
    · simp [hs, h, Nat.not_lt.1 h]
  · simp [hs]

/-- Settles O3: the residue is within the width, and the clamped value within the range, where bits and values agree. -/
theorem integerTypes : Obligations.IntegerTypes := by
  refine ⟨rfl, fun ty ht => ⟨fun w => bitsInt_eq ty, fun x => ⟨intBits_lt ty _, coe_intBits ty _, ?_⟩⟩⟩
  rw [bitsInt_satInt ht]
  unfold intRange
  split <;> rfl

/-! ### Sums, differences and products (R108) -/

/-- `iadd` and `isub` of a 32-bit type write one register. -/
theorem laneAddSub_result {i : Instr} {o : O3T} {sub : Bool} (e : ∀ s, exec i s = laneAddSub i o sub s) (h : o.ty.is64 = false)
    (hns : sends i = false) : LaneResult i o.gd o.u (fun n a l => l.setV n o.d.toNat
      (BitVec.ofNat 32 (addSub (orInt32 o.ty) o.sat sub (a.v n o.a.toNat).toNat (a.v n o.b.toNat).toNat))) noFlags :=
  lane1_result (fun s => by rw [e, laneAddSub, h]; rfl) hns

theorem Lane.setVs_words64 (n : Nat) (l : Lane) (d x : Nat) :
    l.setVs n d (words64 x) = (l.setV n d (BitVec.ofNat 32 x)).setV n (d + 1) (BitVec.ofNat 32 (x / 2 ^ 32)) := rfl

/-- Those of a 64-bit type write a pair of registers. -/
theorem laneAddSub64_result {i : Instr} {o : O3T} {sub : Bool} (e : ∀ s, exec i s = laneAddSub i o sub s) (h : o.ty.is64 = true)
    (hns : sends i = false) : LaneResult i o.gd o.u (fun n a l =>
      (l.setV n o.d.toNat (BitVec.ofNat 32 (addSub o.ty o.sat sub (a.v64 n o.a.toNat).toNat (a.v64 n o.b.toNat).toNat))).setV n
        (o.d.toNat + 1) (BitVec.ofNat 32 (addSub o.ty o.sat sub (a.v64 n o.a.toNat).toNat (a.v64 n o.b.toNat).toNat / 2 ^ 32))) noFlags := by
  simp only [← Lane.setVs_words64]
  exact laneOp_result (fun s => by rw [e, laneAddSub, h]; rfl) (fun _ _ _ => Lane.st_setVs _ _ _ _) hns

/-- Settles O2: each form writes what its exact integer result becomes. -/
theorem laneAddAndMultiply : Obligations.LaneAddAndMultiply := by
  refine ⟨fun o h => ?_, fun o h => ?_, fun o h => ?_, fun o h => ?_, fun o => ?_, fun o => ?_, fun o => ?_, fun o => ?_,
    fun o => ?_, fun o => ?_, fun o => ?_⟩
  · exact laneAddSub_result (sub := false) (fun _ => rfl) h rfl
  · exact laneAddSub64_result (sub := false) (fun _ => rfl) h rfl
  · exact laneAddSub_result (sub := true) (fun _ => rfl) h rfl
  · exact laneAddSub64_result (sub := true) (fun _ => rfl) h rfl
  · exact lane1_result fun _ => rfl
  · exact writes3_result wMul fun _ => rfl
  · exact writes3_result wMulHs fun _ => rfl
  · exact writes3_result wMulHn fun _ => rfl
  · exact lane1_result (f := fun n a => wMad o.ty o.sat (a.v n o.a.toNat) (a.v n o.b.toNat) (a.v n o.c.toNat)) fun _ => rfl
  · exact lane1_result (f := fun n a => wAbs o.sat (a.v n o.a.toNat)) fun _ => rfl
  · exact lane1_result (f := fun n a => wNeg o.sat (a.v n o.a.toNat)) fun _ => rfl

/-! ### Packed arithmetic (R111, R112) -/

theorem elem_lt (w : Word) (n i : Nat) : elem w n i < 2 ^ n := Nat.mod_lt _ (by positivity)

/-- A natural element of 16 bits is its own value. -/
theorem bitsInt_n16 {x : Nat} (h : x < 2 ^ 16) : bitsInt .n16 x = x := congrArg Nat.cast (Nat.mod_eq_of_lt h)

theorem each16_congr {f g : Nat → Nat → Nat} (h : ∀ x y, x < 2 ^ 16 → y < 2 ^ 16 → f x y = g x y) (x y : Word) :
    each16 f x y = each16 g x y := by
  unfold each16
  rw [h _ _ (elem_lt _ _ _) (elem_lt _ _ _), h _ _ (elem_lt _ _ _) (elem_lt _ _ _)]

theorem each16_max (x y : Word) : each16 (max16 .n16) x y = each16 max x y := by
  refine each16_congr (fun x y hx hy => ?_) x y
  unfold max16
  rw [bitsInt_n16 hx, bitsInt_n16 hy]
  split <;> omega

theorem each16_min (x y : Word) : each16 (min16 .n16) x y = each16 min x y := by
  refine each16_congr (fun x y hx hy => ?_) x y
  unfold min16
  rw [bitsInt_n16 hx, bitsInt_n16 hy]
  split <;> omega

/-- The survivor of an add-compare-select, and its decision: the second sum where it is the greater. -/
theorem acs_eq (ty : Ty) (x y : Nat) :
    acs ty x y = (if decide (bitsInt ty y < bitsInt ty x) then y else x, decide (bitsInt ty y < bitsInt ty x)) := by
  unfold acs
  split <;> simp [*]

/-- Settles O6: each packed form applies its operation to both elements, and `vacs2` decides each of its two. -/
theorem lanePacked : Obligations.LanePacked := by
  refine ⟨fun o => ?_, fun o => ?_, fun o => ?_, fun o => ?_, fun o => ?_, fun o => ?_, fun o => ?_⟩
  · exact lane1_result fun _ => rfl
  · exact lane1_result fun _ => rfl
  · exact lane1_result fun _ => rfl
  · have h : LaneResult (.vmax2n o) o.gd o.u (writes3 o (each16 (max16 .n16))) noFlags := lane1_result fun _ => rfl
    rwa [funext fun x => funext (each16_max x)] at h
  · exact lane1_result fun _ => rfl
  · have h : LaneResult (.vmin2n o) o.gd o.u (writes3 o (each16 (min16 .n16))) noFlags := lane1_result fun _ => rfl
    rwa [funext fun x => funext (each16_min x)] at h
  · refine laneOp_result (fun s => ?_) (fun _ _ _ => by simp)
    simp only [exec, execVacs2, acs_eq]
    rfl

end Sys2Proof.Machine

namespace Sys2Proof.Machine

/-! ### Operations over the contributing set (R131) -/

/-- A cord with flags joined to its sr.fpf. -/
def Cord.joinFlags (c : Cord) (fl : Flags) : Cord := { c with fpf := c.fpf ||| fl }

theorem Cord.joinFlags_zero (c : Cord) : c.joinFlags 0 = c := by
  have h : c.fpf ||| 0 = c.fpf := BitVec.or_zero
  rw [Cord.joinFlags, h]

/-- An operation that gives each active lane a value of its own, and joins flags to sr.fpf. -/
theorem onLanes_completes {i : Instr} {g : Guard} {s : State} {h : Here} (hx : Executes i s h) {f : Nat → Lane → Lane} {fl : Flags}
    (e : exec i s = finish h i { s := (opened s h).setCord h.ref ((h.cord.onLanes (h.active g) f).joinFlags fl) })
    (hst : ∀ k l, (f k l).st = l.st) (hns : sends i = false := by rfl) : Completes i s h (h.cord.joinFlags fl)
      (fun k => h.next i (if (h.cord.lane k).guard g then f k (h.cord.lane k) else h.cord.lane k)) [] := by
  have hl (k : Nat) : (h.cord.onLanes (h.active g) f).lane k = if k ∈ h.active g then f k (h.cord.lane k) else h.cord.lane k :=
    h.cord.lane_onLanes (hx.nodup.filter _) k f
  refine Completes.of_rest (plain_completes hx.toIssues e (fun k hk => ?_) (fun k hk => ?_) (fun k hk => ?_)
    (fun hs => by rw [hns] at hs; cases hs)) ?_
  · exact (hl k).trans (by simp only [mem_active, hk, true_and])
  · split
    · exact (hst _ _).trans (hx.run hk)
    · exact hx.run hk
  · exact (hl k).trans (if_neg fun hm => hk (mem_active.1 hm).1)
  · unfold Cord.joinFlags
    rw [Cord.onLanes_rest]

/-- The same without flags: the form of `shfl` and `vote`. -/
theorem crossLane_completes {i : Instr} {g : Guard} {f : Here → List Nat → Nat → Lane → Lane} {s : State} {h : Here}
    (hx : Executes i s h) (e : exec i s = crossLane i g f s) (hst : ∀ k l, (f h (h.active g) k l).st = l.st) (hns : sends i = false := by rfl) :
    Completes i s h h.cord
      (fun k => h.next i (if (h.cord.lane k).guard g then f h (h.active g) k (h.cord.lane k) else h.cord.lane k)) [] := by
  have := onLanes_completes (fl := 0) hx (f := f h (h.active g)) (by
    rw [Cord.joinFlags_zero, e, crossLane, issue_eq hx]
    rfl) hst hns
  rwa [Cord.joinFlags_zero] at this

/-- The lane that a mode of `shfl` names, for lane `k` and an operand of `m` (R132). -/
def shflLane (mode : ShflMode) (k m : Nat) : Int :=
  match mode with
  | .idx => m
  | .up => (k : Int) - m
  | .down => (k : Int) + m
  | .xor => (Nat.xor k (m : Int).toNat : Nat)

/-- The source lane of `shfl` is that one if it is an active lane, else the lane itself. -/
theorem shflSrc_filter (mode : ShflMode) (act : List Nat) (hact : ∀ j ∈ act, j ≤ 31) (k m : Nat) :
    ((shflSrc mode k m).filter (fun j => act.contains j)).getD k =
      if 0 ≤ shflLane mode k m ∧ shflLane mode k m ≤ 31 ∧ (shflLane mode k m).toNat ∈ act then (shflLane mode k m).toNat else k := by
  have key (j : Nat) : ((some j).filter (fun j => act.contains j)).getD k =
      if 0 ≤ (j : Int) ∧ (j : Int) ≤ 31 ∧ (j : Int).toNat ∈ act then (j : Int).toNat else k := by
    by_cases hj : j ∈ act
    · have := hact j hj
      rw [if_pos (by simp [hj]; omega)]
      simp [Option.filter, hj]
    · simp [Option.filter, hj]
  cases mode with
  | idx => exact key m
  | xor => exact key (Nat.xor k m)
  | up =>
    by_cases h : m ≤ k
    · have hc : (k : Int) - m = ((k - m : Nat) : Int) := by omega
      simp only [shflSrc, shflLane, if_pos h, hc]
      exact key (k - m)
    · have hc : ¬ (0 : Int) ≤ (k : Int) - m := by omega
      rw [shflLane, if_neg fun hp => hc hp.1]
      simp [shflSrc, h]
  | down =>
    have hc : (k : Int) + m = ((k + m : Nat) : Int) := by omega
    by_cases h : k + m ≤ 31
    · simp only [shflSrc, if_pos h]
      exact key (k + m)
    · have hn : ¬ ((k + m : Nat) : Int) ≤ 31 := by omega
      rw [shflLane, hc, if_neg fun hp => hn hp.2.1]
      simp [shflSrc, h]

theorem active_le {i : Instr} {s : State} {h : Here} (hx : Issues i s h) (g : Guard) {k : Nat} (hk : k ∈ h.active g) : k ≤ 31 :=
  Nat.le_of_lt_succ (Cord.lt_of_mem_execSet (hx.set_eq ▸ (mem_active.1 hk).1))

/-! ### The pairwise tree of `lred` (R134) -/

/-- One combination of a tree: an absent partner leaves the other, and adds no flags. -/
def joinOpt (f : Word → Word → Word × Flags) : Option Word → Option Word → Option Word × Flags
  | some x, some y => (some (f x y).1, (f x y).2)
  | some x, none => (some x, 0)
  | none, y => (y, 0)

theorem treeLevel_cons (f : Word → Word → Word × Flags) (a b : Option Word) (r : List (Option Word)) :
    treeLevel f (a :: b :: r) = ((joinOpt f a b).1 :: (treeLevel f r).1, (treeLevel f r).2 ||| (joinOpt f a b).2) := by
  rw [treeLevel]
  cases a <;> cases b <;> simp [joinOpt]

/-- A level of the tree over a list of even length and another is the levels over both. -/
theorem treeLevel_append (f : Word → Word → Word × Flags) (n : Nat) {l r : List (Option Word)} (hl : l.length = 2 * n) :
    (treeLevel f (l ++ r)).1 = (treeLevel f l).1 ++ (treeLevel f r).1 ∧
      (treeLevel f (l ++ r)).2 = (treeLevel f l).2 ||| (treeLevel f r).2 ∧ (treeLevel f l).1.length = n := by
  induction n generalizing l with
  | zero =>
    rw [List.length_eq_zero_iff.1 hl]
    exact ⟨rfl, (BitVec.zero_or).symm, rfl⟩
  | succ n ih =>
    obtain _ | ⟨a, _ | ⟨b, l⟩⟩ := l
    · simp at hl
    · simp at hl
      omega
    · obtain ⟨h1, h2, h3⟩ := ih (l := l) (by simp at hl; omega)
      simp only [List.cons_append, treeLevel_cons, h1, h2, List.length_cons, h3, true_and, and_true]
      ac_rfl

/-- The tree over two lists of 2^n positions joins the trees over each. -/
theorem treeReduce_append (f : Word → Word → Word × Flags) (n : Nat) {l r : List (Option Word)} (hl : l.length = 2 ^ n)
    (hr : r.length = 2 ^ n) :
    treeReduce f (n + 1) (l ++ r) = ((joinOpt f (treeReduce f n l).1 (treeReduce f n r).1).1,
      (treeReduce f n l).2 ||| (treeReduce f n r).2 ||| (joinOpt f (treeReduce f n l).1 (treeReduce f n r).1).2) := by
  induction n generalizing l r with
  | zero =>
    obtain ⟨a, rfl⟩ := List.length_eq_one_iff.1 hl
    obtain ⟨b, rfl⟩ := List.length_eq_one_iff.1 hr
    simp [treeReduce, treeLevel_cons, treeLevel]
  | succ n ih =>
    obtain ⟨h1, h2, h3⟩ := treeLevel_append f (2 ^ n) (r := r) (by rw [hl]; omega)
    obtain ⟨-, -, h4⟩ := treeLevel_append f (2 ^ n) (l := r) (r := []) (by rw [hr]; omega)
    have hs (x : List (Option Word)) (m : Nat) : treeReduce f (m + 1) x =
      ((treeReduce f m (treeLevel f x).1).1, (treeLevel f x).2 ||| (treeReduce f m (treeLevel f x).1).2) := rfl
    rw [hs (l ++ r), h1, ih h3 h4, h2, hs l, hs r]
    simp only [Prod.mk.injEq, true_and]
    ac_rfl

theorem pairTree_succ (f : Word → Word → Word × Flags) (x : Nat → Option Word) (n i : Nat) :
    pairTree f x (n + 1) i = ((joinOpt f (pairTree f x n i).1 (pairTree f x n (i + 2 ^ n)).1).1,
      (pairTree f x n i).2 ||| (pairTree f x n (i + 2 ^ n)).2 |||
        (joinOpt f (pairTree f x n i).1 (pairTree f x n (i + 2 ^ n)).1).2) := by
  rw [pairTree]
  cases (pairTree f x n i).1 <;> cases (pairTree f x n (i + 2 ^ n)).1 <;> simp [joinOpt]

/-- The tree that the model reduces level by level is the one that R134 describes from its root. -/
theorem treeReduce_eq_pairTree (f : Word → Word → Word × Flags) (x : Nat → Option Word) (n i : Nat) :
    treeReduce f n ((List.range' i (2 ^ n)).map x) = pairTree f x n i := by
  induction n generalizing i with
  | zero => rfl
  | succ n ih =>
    have hsplit : List.range' i (2 ^ (n + 1)) = List.range' i (2 ^ n) ++ List.range' (i + 2 ^ n) (2 ^ n) := by
      rw [List.range'_append_1, Nat.pow_succ, Nat.mul_two]
    rw [hsplit, List.map_append, treeReduce_append f n (by simp) (by simp), ih, ih, pairTree_succ]

/-! ### The running results of `lscan` (R135) -/

/-- What a scan has after it has combined the values of some lanes, in order, with a value and flags that it had before. -/
def scanRun (f : Word → Word → Word × Flags) (v : Nat → Word) (x : Word × Flags) (l : List Nat) : Word × Flags :=
  l.foldl (fun x j => ((f x.1 (v j)).1, x.2 ||| (f x.1 (v j)).2)) x

/-- Earlier flags only join. -/
theorem scanRun_flags (f : Word → Word → Word × Flags) (v : Nat → Word) (a : Word) (g : Flags) (l : List Nat) :
    scanRun f v (a, g) l = ((scanRun f v (a, 0) l).1, g ||| (scanRun f v (a, 0) l).2) := by
  induction l generalizing a g with
  | nil => simp [scanRun]
  | cons j l ih =>
    simp only [scanRun, List.foldl_cons] at ih ⊢
    have hz : 0 ||| (f a (v j)).2 = (f a (v j)).2 := BitVec.zero_or
    rw [ih, ih (f a (v j)).1 (0 ||| (f a (v j)).2), hz, BitVec.or_assoc]

theorem scanFrom_cons (f : Word → Word → Word × Flags) (a : Word) (k : Nat) (x : Word) (r : List (Nat × Word)) :
    scanFrom f a ((k, x) :: r) =
      ((k, (f a x).1) :: (scanFrom f (f a x).1 r).1, (f a x).2 ||| (scanFrom f (f a x).1 r).2) := rfl

/-- Over lanes in ascending order, a scan gives each the result of those up to it. -/
theorem scanFrom_eq (f : Word → Word → Word × Flags) (v : Nat → Word) (a : Word) {ks : List Nat} (hs : ks.Pairwise (· < ·)) :
    scanFrom f a (ks.map (fun k => (k, v k))) =
      (ks.map (fun k => (k, (scanRun f v (a, 0) (ks.filter (fun j => decide (j ≤ k)))).1)), (scanRun f v (a, 0) ks).2) := by
  induction ks generalizing a with
  | nil => rfl
  | cons k r ih =>
    obtain ⟨hk, hr⟩ := List.pairwise_cons.1 hs
    have hrun (l : List Nat) : scanRun f v (a, 0) (k :: l) =
        ((scanRun f v ((f a (v k)).1, 0) l).1, (f a (v k)).2 ||| (scanRun f v ((f a (v k)).1, 0) l).2) := by
      rw [← scanRun_flags]
      simp [scanRun]
    have hnone : r.filter (fun j => decide (j ≤ k)) = [] :=
      List.filter_eq_nil_iff.2 fun j hj => by simpa using hk j hj
    have hself : (k :: r).filter (fun j => decide (j ≤ k)) = [k] := by simp [hnone]
    rw [List.map_cons, scanFrom_cons, ih _ hr, List.map_cons, hself, hrun r, hrun []]
    refine Prod.ext (congrArg₂ List.cons rfl (List.map_congr_left fun j hj => ?_)) rfl
    have hj' : (k :: r).filter (fun i => decide (i ≤ j)) = k :: r.filter (fun i => decide (i ≤ j)) := by
      rw [List.filter_cons_of_pos (by simpa using (hk j hj).le)]
    rw [hj', hrun]

/-- The executing set is listed in ascending order. -/
theorem Issues.active_pairwise {i : Instr} {s : State} {h : Here} (hx : Issues i s h) (g : Guard) :
    (h.active g).Pairwise (· < ·) := by
  refine List.Pairwise.filter _ ?_
  rw [hx.set_eq]
  rcases h.cord.execSet_sublist with h' | ⟨a, -, h'⟩
  · rw [h']
    exact .nil
  · exact (List.pairwise_lt_range.filter _).sublist h'

theorem canonTy_eq (ty : Ty) (x : Word) :
    canonTy ty x = if ty = .f32 ∧ (Fmt.f32.decode x.toNat).isNan = true then 0x7FC00000 else x := by
  have hnan : BitVec.ofNat 32 Fmt.f32.nanBits = 0x7FC00000 := by decide
  unfold canonTy canon32
  rw [hnan]
  by_cases hty : ty = .f32 <;> simp [hty]

/-- What `lscan` writes in lane `k`: the running result of the active lanes up to it, the canonical NaN where it is alone. -/
def scanned (o : ORed) (h : Here) (k : Nat) : Word :=
  let below := (h.active o.gd).filter (fun j => decide (j ≤ k))
  let y := (scanRun (combine o.op o.ty o.rnd) (h.v · o.a) (h.v (below.headD 0) o.a, 0) below.tail).1
  if below.length = 1 then canonTy o.ty y else y

section
variable {o : ORed} {h : Here} {k : Nat} {r : List Nat} (hact : h.active o.gd = k :: r) (hs : (k :: r).Pairwise (· < ·))
include hact hs

/-- The first active lane writes its own value. -/
theorem scanned_head : scanned o h k = canonTy o.ty (h.v k o.a) := by
  have hnone : r.filter (fun j => decide (j ≤ k)) = [] :=
    List.filter_eq_nil_iff.2 fun j hj => by simpa using (List.pairwise_cons.1 hs).1 j hj
  have hbelow : (h.active o.gd).filter (fun j => decide (j ≤ k)) = [k] := by
    rw [hact, List.filter_cons_of_pos (by simp), hnone]
  unfold scanned
  rw [hbelow]
  rfl

/-- Each other active lane writes what the scan has after it. -/
theorem scanned_tail {j : Nat} (hj : j ∈ r) : scanned o h j =
    (scanRun (combine o.op o.ty o.rnd) (h.v · o.a) (h.v k o.a, 0) (r.filter (fun i => decide (i ≤ j)))).1 := by
  have hbelow : (h.active o.gd).filter (fun i => decide (i ≤ j)) = k :: r.filter (fun i => decide (i ≤ j)) := by
    rw [hact, List.filter_cons_of_pos (by simpa using ((List.pairwise_cons.1 hs).1 j hj).le)]
  have hpos : 0 < (r.filter (fun i => decide (i ≤ j))).length := List.length_pos_of_mem (List.mem_filter.2 ⟨hj, by simp⟩)
  unfold scanned
  rw [hbelow]
  dsimp only [List.length_cons, List.headD_cons, List.tail_cons]
  rw [if_neg (by omega)]

/-- So the scan's list gives each active lane what it writes. -/
theorem scanFrom_scanned :
    (k, canonTy o.ty (h.v k o.a)) :: (scanFrom (combine o.op o.ty o.rnd) (h.v k o.a) (r.map (fun j => (j, h.v j o.a)))).1 =
      (k :: r).map (fun j => (j, scanned o h j)) := by
  rw [scanFrom_eq _ (h.v · o.a) _ (List.pairwise_cons.1 hs).2, List.map_cons, scanned_head hact hs]
  exact congrArg _ (List.map_congr_left fun j hj => by rw [scanned_tail hact hs hj])

end

/-- The effect of `lscan` on a cord with some active lane. -/
theorem execLscan_cons {o : ORed} {s : State} {h : Here} (hx : Executes (.lscan o) s h) {k : Nat} {r : List Nat}
    (hact : h.active o.gd = k :: r) :
    let y := scanFrom (combine o.op o.ty o.rnd) (h.v k o.a) (r.map (fun j => (j, h.v j o.a)))
    exec (.lscan o) s = finish h (.lscan o)
      { s := (opened s h).setCord h.ref ((((k, canonTy o.ty (h.v k o.a)) :: y.1).foldl
        (fun c e => c.setLane e.1 ((c.lane e.1).setV h.cord.vbud o.d.toNat e.2)) h.cord).joinFlags y.2) } := by
  refine (issue_eq hx _).trans ?_
  rw [hact]
  rfl

theorem lscan_completes {o : ORed} {s : State} {h : Here} (hx : Executes (.lscan o) s h) :
    Completes (.lscan o) s h
      (h.cord.joinFlags
        (scanRun (combine o.op o.ty o.rnd) (h.v · o.a) (h.v ((h.active o.gd).headD 0) o.a, 0) (h.active o.gd).tail).2)
      (fun k => h.next (.lscan o) (if (h.cord.lane k).guard o.gd then (h.cord.lane k).setV h.cord.vbud o.d.toNat (scanned o h k)
        else h.cord.lane k)) [] := by
  have hsort := hx.active_pairwise o.gd
  cases hact : h.active o.gd with
  | nil =>
    have he : exec (.lscan o) s = finish h (.lscan o) { s := opened s h } := by
      refine (issue_eq hx _).trans ?_
      rw [hact]
      rfl
    refine ((empty_completes hx.toIssues he).of_rest (y := h.cord.joinFlags 0) ?_).congr fun k hk => ?_
    · rw [Cord.joinFlags_zero]
    · have hg : ¬ (h.cord.lane k).guard o.gd = true := fun hg => by simpa [hact] using mem_active.2 ⟨hk, hg⟩
      rw [if_neg hg]
  | cons k r =>
    rw [hact] at hsort
    refine onLanes_completes hx (f := fun k l => l.setV h.cord.vbud o.d.toNat (scanned o h k)) ?_ (fun _ _ => Lane.st_setV _ _ _ _)
    rw [execLscan_cons hx hact, scanFrom_scanned hact hsort, List.foldl_map, hact,
      scanFrom_eq _ (h.v · o.a) _ (List.pairwise_cons.1 hsort).2]
    rfl

theorem lred_completes {o : ORed} {s : State} {h : Here} (hx : Executes (.lred o) s h) :
    let y := pairTree (combine o.op o.ty o.rnd) (fun k => if k ∈ h.active o.gd then some (h.v k o.a) else none) 5 0
    Completes (.lred o) s h (h.cord.joinFlags y.2)
      (fun k => h.next (.lred o) (if (h.cord.lane k).guard o.gd then (h.cord.lane k).setV h.cord.vbud o.d.toNat (canonTy o.ty (y.1.getD 0))
        else h.cord.lane k)) [] := by
  intro y
  refine onLanes_completes hx (f := fun _ l => l.setV h.cord.vbud o.d.toNat (canonTy o.ty (y.1.getD 0))) ?_ (fun _ _ => Lane.st_setV _ _ _ _)
  refine (issue_eq hx _).trans ?_
  have hy : treeReduce (combine o.op o.ty o.rnd) 5
      ((List.range 32).map (fun k => if (h.active o.gd).contains k then some (h.v k o.a) else none)) = y := by
    simp only [List.contains_iff_mem, List.range_eq_range']
    exact treeReduce_eq_pairTree _ _ 5 0
  dsimp only
  rw [hy]
  rfl

/-- Settles O22: each of the four gives the active lanes its values; the tree of `lred` is the pairwise one, and `lscan` runs over the
active lanes in ascending order. -/
theorem acrossLanes : Obligations.AcrossLanes := by
  refine ⟨fun o s h hx => ?_, fun o s h hx => ?_, fun o s h hx => ?_, fun o s h hx => ?_⟩
  · have e : exec (.shfl o) s = execShfl o s := rfl
    unfold execShfl at e
    refine (crossLane_completes hx e fun _ _ => Lane.st_setV _ _ _ _).congr fun k _ => ?_
    dsimp only
    rw [shflSrc_filter o.mode _ (fun j hj => active_le hx.toIssues _ hj)]
    have hm : field (h.v k o.b).toNat 0 5 = (h.v k o.b).toNat % 32 := by simp [field]
    rw [hm]
    rfl
  · have e : exec (.vote o) s = execVote o s := rfl
    unfold execVote at e
    refine crossLane_completes hx e fun k l => ?_
    dsimp only
    split <;> simp
  · have hc := lred_completes hx
    simp only [canonTy_eq] at hc
    exact hc
  · have hc := lscan_completes hx
    simp only [scanned, canonTy_eq] at hc
    exact hc

end Sys2Proof.Machine

namespace Sys2Proof.Machine

/-! ### Little-endian words (R47) -/

theorem leNat_lt (l : List Byte) : leNat l < 256 ^ l.length := by
  induction l with
  | nil => decide
  | cons b r ih =>
    have := b.isLt
    simp only [leNat, List.length_cons, Nat.pow_succ]
    omega

/-- Without its first bytes a little-endian number is its quotient. -/
theorem leNat_drop (l : List Byte) (n : Nat) : leNat (l.drop n) = leNat l / 256 ^ n := by
  induction n generalizing l with
  | zero => simp
  | succ n ih =>
    cases l with
    | nil => simp [leNat]
    | cons b r =>
      have hb : (b.toNat + 256 * leNat r) / 256 = leNat r := by
        have := b.isLt
        omega
      rw [List.drop_succ_cons, ih, Nat.pow_succ', ← Nat.div_div_eq_div_mul, leNat, hb]

/-- Its first bytes are its residue. -/
theorem leNat_take (l : List Byte) (n : Nat) : leNat (l.take n) = leNat l % 256 ^ n := by
  induction n generalizing l with
  | zero => simp [leNat, Nat.mod_one]
  | succ n ih =>
    cases l with
    | nil => simp [leNat]
    | cons b r =>
      have := b.isLt
      have hb : (b.toNat + 256 * leNat r) / 256 = leNat r := by omega
      rw [List.take_succ_cons, leNat, leNat, ih, Nat.pow_succ', Nat.mod_mul, hb]
      omega

/-- A bit of a little-endian number is a bit of one of its bytes. -/
theorem testBit_leNat (l : List Byte) (k : Nat) {i : Nat} (hi : i < 8) : (leNat l).testBit (8 * k + i) = (l.getD k 0).getLsbD i := by
  induction l generalizing k with
  | nil => simp [leNat]
  | cons b r ih =>
    have hb : leNat (b :: r) = 2 ^ 8 * leNat r + b.toNat := by simp [leNat, Nat.add_comm]
    rw [hb, Nat.testBit_two_pow_mul_add _ b.isLt]
    cases k with
    | zero => simp [hi, BitVec.getLsbD]
    | succ k =>
      rw [if_neg (by omega), show 8 * (k + 1) + i - 8 = 8 * k + i by omega, ih]
      simp

/-! ### An element of a register (R21, R47) -/

theorem getLsbD_setElem (w : Word) (n i x : Nat) {b : Nat} (hb : b < 32) :
    (setElem w n i x).getLsbD b = if n * i ≤ b ∧ b < n * i + n then x.testBit (b - n * i) else w.getLsbD b := by
  simp only [setElem, BitVec.getLsbD_or, BitVec.getLsbD_and, BitVec.getLsbD_not, BitVec.getLsbD_ofNat, hb, decide_true, Bool.true_and,
    Nat.testBit_mul_two_pow, Nat.testBit_two_pow_sub_one, Nat.testBit_mod_two_pow]
  by_cases h1 : n * i ≤ b
  · by_cases h2 : b < n * i + n
    · have h3 : b - n * i < n := by omega
      simp [h1, h2, h3]
    · have h3 : ¬ b - n * i < n := by omega
      simp [h1, h2, h3]
  · simp [h1]

theorem setElem32_eq (w : Word) (z i x : Nat) : loadWords.setElem32 w z i x = setElem w (8 * z) i x := rfl

/-- A byte of a register whose bytes from `z * el` on are those of a little-endian number of `z` bytes. -/
theorem byte_setElem (old : Word) {z el : Nat} (l : List Byte) {j : Nat} (hj : j < 4) :
    (setElem old (8 * z) el (leNat l)).extractLsb' (8 * j) 8 =
      if z * el ≤ j ∧ j < z * el + z then l.getD (j - z * el) 0 else old.extractLsb' (8 * j) 8 := by
  apply BitVec.eq_of_getLsbD_eq
  intro i hi
  rw [BitVec.getLsbD_extractLsb', getLsbD_setElem _ _ _ _ (by omega)]
  have hmul : 8 * z * el = 8 * (z * el) := Nat.mul_assoc _ _ _
  have hin : 8 * z * el ≤ 8 * j + i ∧ 8 * j + i < 8 * z * el + 8 * z ↔ z * el ≤ j ∧ j < z * el + z := by
    rw [hmul]
    omega
  by_cases hc : z * el ≤ j ∧ j < z * el + z
  · rw [if_pos (hin.2 hc), if_pos hc, hmul, show 8 * j + i - 8 * (z * el) = 8 * (j - z * el) + i by omega, testBit_leNat _ _ hi]
    simp [hi]
  · rw [if_neg (mt hin.1 hc), if_neg hc, BitVec.getLsbD_extractLsb']

/-! ### Loads and atomics (R151, R155) -/

/-- A load of whole words gives them, the least significant bytes first. -/
theorem loadWords_words (mode : LdMode) {n : Nat} (hn : 0 < n) (el : Nat) (l : List Byte) (old : Word) :
    loadWords mode (4 * n) el l old = (List.range n).map (fun i => BitVec.ofNat 32 (leNat ((l.drop (4 * i)).take 4))) := by
  unfold loadWords
  rw [if_neg (by omega), Nat.mul_div_cancel_left n (by decide)]
  refine List.map_congr_left fun i _ => ?_
  have hpow : (256 : Nat) ^ (4 * i) = 2 ^ (32 * i) := by
    rw [show (256 : Nat) = 2 ^ 8 from rfl, ← Nat.pow_mul, ← Nat.mul_assoc]
  apply BitVec.eq_of_toNat_eq
  rw [leNat_take, leNat_drop, hpow, BitVec.toNat_ofNat, BitVec.toNat_ofNat]
  exact (Nat.mod_mod _ _).symm

theorem atomNew_mins (old x d : Word) : (atomNew .mins old x d).toInt = min old.toInt x.toInt := by
  change (if old.toInt ≤ x.toInt then old else x).toInt = _
  split <;> omega

theorem atomNew_minn (old x d : Word) : (atomNew .minn old x d).toNat = min old.toNat x.toNat := by
  change (if old.toNat ≤ x.toNat then old else x).toNat = _
  split <;> omega

theorem atomNew_maxs (old x d : Word) : (atomNew .maxs old x d).toInt = max old.toInt x.toInt := by
  change (if old.toInt ≤ x.toInt then x else old).toInt = _
  split <;> omega

theorem atomNew_maxn (old x d : Word) : (atomNew .maxn old x d).toNat = max old.toNat x.toNat := by
  change (if old.toNat ≤ x.toNat then x else old).toNat = _
  split <;> omega

theorem atomNew_cas (old x d : Word) : atomNew .cas old x d = if old = d then x else old := by
  change (if old == d then x else old) = _
  simp only [beq_iff_eq]

/-- Settles O25: whole words are quotients of the little-endian number, and an inserted element sets exactly its own bytes. -/
theorem loadedAndUpdatedValues : Obligations.LoadedAndUpdatedValues := by
  refine ⟨fun mode n el l old _ hn => loadWords_words mode hn el l old, fun z el l old hz _ _ => ?_, fun old x d => ?_⟩
  · have hlt : z < 4 := by omega
    refine ⟨?_, ?_, setElem old (8 * z) el (leNat l), ?_, fun j hj => byte_setElem old l hj⟩
    · exact if_pos hlt
    · exact if_pos hlt
    · exact if_pos hlt
  · exact ⟨rfl, atomNew_mins old x d, atomNew_minn old x d, atomNew_maxs old x d, atomNew_maxn old x d, rfl, rfl, rfl, rfl,
      atomNew_cas old x d, BitVec.toNat_ofNat _ _⟩

end Sys2Proof.Machine

namespace Sys2Proof.Machine

/-! ### What a store reads after an operation on it (R47) -/

namespace Mem

/-- A run of bytes reads as it was written, and every other byte as before. -/
theorem get_write {m : Mem} (h : m.wf = true) (a : Nat) (l : List Byte) (b : Nat) :
    (m.write a l).get b = if a ≤ b ∧ b < a + l.length then l.getD (b - a) 0 else m.get b := by
  induction l generalizing m a with
  | nil =>
    rw [if_neg (by simp)]
    rfl
  | cons x r ih =>
    rw [write, ih (wf_set a x h), get_set h, List.length_cons]
    rcases Nat.lt_trichotomy b a with hb | rfl | hb
    · rw [if_neg (by omega), if_neg (by omega), if_neg (by omega)]
    · rw [if_neg (by omega), if_pos rfl, if_pos (by omega)]
      simp
    · by_cases hr : b < a + (r.length + 1)
      · rw [if_pos (by omega), if_pos (by omega), show b - a = b - (a + 1) + 1 by omega, List.getD_cons_succ]
      · rw [if_neg (by omega), if_neg (by omega), if_neg (by omega)]

/-- Beyond its end the part of a store reads 0. -/
theorem get_slice_high {m : Mem} (h : m.wf = true) {lo hi b : Nat} (hb : ¬ lo + b < hi) : (m.slice lo hi).get b = 0 := by
  have hm : ∀ c ∈ m.filter (fun c => decide (lo ≤ c.1) && decide (c.1 < hi)), lo ≤ c.1 := fun c hc => by
    simp only [List.mem_filter, Bool.and_eq_true, decide_eq_true_eq] at hc
    exact hc.2.1
  rw [slice, get_shift hm, get_filter h (fun a => decide (lo ≤ a) && decide (a < hi)), if_neg (by simp; omega)]

theorem get_paste_eq {m x : Mem} (hm : m.wf = true) (hx : x.wf = true) (off b : Nat) :
    (m.paste off x).get b = if off ≤ b ∧ x.get (b - off) ≠ 0 then x.get (b - off) else m.get b := by
  by_cases hb : off ≤ b
  · have h := get_paste hm hx off (b - off)
    rw [show off + (b - off) = b by omega] at h
    rw [h]
    by_cases h0 : x.get (b - off) = 0 <;> simp [h0, hb]
  · rw [if_neg (by simp [hb]), get_paste_ne hm fun z _ => by omega]

/-- The bytes of a run, one by one. -/
theorem read_eq_map (m : Mem) (a n : Nat) : m.read a n = (List.range n).map (fun i => m.get (a + i)) := by
  induction n generalizing a with
  | zero => rfl
  | succ n ih =>
    rw [read, ih, List.range_succ_eq_map, List.map_cons, List.map_map]
    exact congrArg _ (List.map_congr_left fun i _ => by simp [Nat.add_comm, Nat.add_left_comm])

theorem length_read (m : Mem) (a n : Nat) : (m.read a n).length = n := by simp [read_eq_map]

theorem get_head {c : Host.Cell} {r : Mem} : get (c :: r) c.1 = c.2 := by simp [get]

/-- Two stores in canonical form that read alike are equal: the lowest address that reads other than 0 is the first entry of both. -/
theorem eq_of_get {i : Nat} {m x : Mem} (hm : sortedFrom i m = true) (hx : sortedFrom i x = true) (h : ∀ a, m.get a = x.get a) :
    m = x := by
  induction m generalizing i x with
  | nil =>
    cases x with
    | nil => rfl
    | cons d r =>
      have hd := h d.1
      simp only [sortedFrom, Bool.and_eq_true, bne_iff_ne] at hx
      rw [get_head] at hd
      exact absurd hd.symm hx.1.2
  | cons c r ih =>
    simp only [sortedFrom, Bool.and_eq_true, bne_iff_ne, decide_eq_true_eq] at hm
    cases x with
    | nil =>
      have hc := h c.1
      rw [get_head] at hc
      exact absurd hc hm.1.2
    | cons d q =>
      simp only [sortedFrom, Bool.and_eq_true, bne_iff_ne, decide_eq_true_eq] at hx
      obtain ⟨⟨-, hc0⟩, hr⟩ := hm
      obtain ⟨⟨-, hd0⟩, hq⟩ := hx
      have hcd : c.1 = d.1 := by
        have h1 := h c.1
        have h2 := h d.1
        rw [get_head] at h1 h2
        simp only [get] at h1 h2
        by_contra hne
        rcases Nat.lt_or_gt_of_ne hne with hlt | hlt
        · rw [if_neg (Ne.symm hne), if_pos hlt] at h1
          exact hc0 h1
        · rw [if_neg hne, if_pos hlt] at h2
          exact hd0 h2.symm
      have hval : c.2 = d.2 := by
        have h1 := h c.1
        rwa [get_head, hcd, get_head] at h1
      obtain ⟨k, b⟩ := c
      obtain ⟨k', b'⟩ := d
      simp only at hcd hval hr hq
      subst hcd hval
      refine congrArg _ (ih hr hq fun a => ?_)
      rcases Nat.lt_trichotomy a k with ha | rfl | ha
      · rw [get_below hr (by omega), get_below hq (by omega)]
      · rw [get_below hr (by omega), get_below hq (by omega)]
      · have := h a
        simp only [get] at this
        rwa [if_neg (by omega), if_neg (by omega), if_neg (by omega), if_neg (by omega)] at this

end Mem

/-! ### Words (R47) -/

theorem leNat_natLe (n x : Nat) : leNat (natLe n x) = x % 256 ^ n := by
  induction n generalizing x with
  | zero => simp [natLe, leNat, Nat.mod_one]
  | succ n ih =>
    rw [natLe, leNat, ih, Nat.pow_succ', Nat.mod_mul, BitVec.toNat_ofNat]

theorem getD_natLe {n i : Nat} (h : i < n) (x : Nat) : (natLe n x).getD i 0 = BitVec.ofNat 8 (x / 256 ^ i) := by
  induction n generalizing i x with
  | zero => omega
  | succ n ih =>
    cases i with
    | zero => simp [natLe]
    | succ i => rw [natLe, List.getD_cons_succ, ih (by omega), Nat.pow_succ', Nat.div_div_eq_div_mul]

theorem Mem.word_setWord {m : Mem} (h : m.wf = true) (a : Nat) (w : Word) : (m.setWord a w).word a = w := by
  have hr := Mem.read_write h a (natLe 4 w.toNat)
  rw [length_natLe] at hr
  unfold Mem.word Mem.setWord
  rw [hr, leNat_natLe, show (256 : Nat) ^ 4 = 2 ^ 32 from rfl, Nat.mod_eq_of_lt w.isLt, BitVec.ofNat_toNat, BitVec.setWidth_eq]

theorem Mem.get_setWord {m : Mem} (h : m.wf = true) (a : Nat) (w : Word) {i : Nat} (hi : i < 4) :
    (m.setWord a w).get (a + i) = w.extractLsb' (8 * i) 8 := by
  unfold Mem.setWord
  rw [Mem.get_write h, length_natLe, if_pos (by omega), Nat.add_sub_cancel_left, getD_natLe hi]
  apply BitVec.eq_of_toNat_eq
  rw [BitVec.toNat_ofNat, BitVec.extractLsb'_toNat, Nat.shiftRight_eq_div_pow, Nat.pow_mul]

/-! ### Places -/

@[simp] theorem Place.map_id (p : Place) : p.map (· + 0) = p := by
  unfold Place.map
  split <;> rfl

/-- An aligned word is the one word of its place. -/
theorem Place.words_aligned {p : Place} (h : p.addr % 4 = 0) : p.words 4 = [p] := by
  have hn : (p.addr + 4 + 3) / 4 - p.addr / 4 = 1 := by omega
  have hp : p.map (fun a => (a / 4 + 0) * 4) = p := by
    unfold Place.addr at h
    unfold Place.map
    split <;> simp at h ⊢ <;> omega
  rw [Place.words, hn]
  exact congrArg (· :: []) hp

theorem Place.meets_comm (p q : Place) : p.meets 4 q 4 = q.meets 4 p 4 := by
  rcases p with ⟨c, a⟩ | ⟨⟨a⟩ | ⟨a⟩ | ⟨c, a⟩⟩ <;> rcases q with ⟨d, b⟩ | ⟨⟨b⟩ | ⟨b⟩ | ⟨d, b⟩⟩ <;> grind [Place.meets, overlap]

theorem Place.meets_self (p : Place) : p.meets 4 p 4 = true := by
  rcases p with ⟨c, a⟩ | ⟨⟨a⟩ | ⟨a⟩ | ⟨c, a⟩⟩ <;> simp [Place.meets, overlap]

/-- What is put at a place for a reader's eyes is what is read there. -/
theorem Place.read_show {s : State} (hs : s.memOk = true) (p : Place) (l : List Byte) : p.read (s.show_ p l) l.length = l := by
  obtain ⟨hhbm, hhost, hpeers⟩ := State.global_memOk hs
  rcases p with ⟨c, a⟩ | ⟨⟨a⟩ | ⟨a⟩ | ⟨c, a⟩⟩
  · simp only [Place.read, State.show_, State.core_setCore, if_true]
    exact Mem.read_write (Core.memOk_iff.1 (State.memOk_core hs c)).1 a l
  · exact Mem.read_write hhbm a l
  · exact Mem.read_write hhost a l
  · simp only [Place.read, State.show_, targetRead, Tab.get_set_same]
    exact Mem.read_write (hpeers c) a l

theorem Place.read_onlyTracks {s t : State} (h : OnlyTracks s t) (p : Place) (n : Nat) : p.read t n = p.read s n := by
  rcases p with ⟨c, a⟩ | x
  · exact congrArg (fun c : Core => c.spad.read a n) (h.core c)
  · exact h.targetRead n x

/-! ### One word whose writes are told apart (log entry 10)

`Sole p t v`: of the tracks of `v`, the first, `t`, is that of the word at `p`; the others are of other words, and nobody has picked a
write of them. -/

structure Sole (p : Place) (t : Track) (v : State) : Prop where
  place : t.place = p
  tracks : ∃ r, v.tracks = t :: r ∧ ∀ u ∈ r, u.place.meets 4 p 4 = false ∧ u.picks = []

theorem Place.ne_of_meets {p q : Place} (h : q.meets 4 p 4 = false) : q ≠ p := fun e => by
  rw [e, Place.meets_self] at h
  cases h

namespace Sole

variable {p : Place} {t : Track} {v : State}

/-- A change of each track, which leaves the others' places and picks, leaves the word's alone too. -/
theorem map (h : Sole p t v) {t' : Track} {w : State} (f : Track → Track) (hw : w.tracks = v.tracks.map f) (ht : f t = t')
    (hp : t'.place = p) (hf : ∀ u, u.place.meets 4 p 4 = false → (f u).place = u.place ∧ (f u).picks = u.picks) : Sole p t' w where
  place := hp
  tracks := by
    obtain ⟨r, hr, ho⟩ := h.tracks
    refine ⟨r.map f, by rw [hw, hr, List.map_cons, ht], fun u hu => ?_⟩
    obtain ⟨w, hw, rfl⟩ := List.mem_map.1 hu
    obtain ⟨h1, h2⟩ := hf w (ho w hw).1
    rw [h1, h2]
    exact ho w hw

/-- The word's own track. -/
theorem track?_self (h : Sole p t v) : v.track? p = some t := by
  obtain ⟨r, hr, -⟩ := h.tracks
  unfold State.track?
  rw [hr, List.find?_cons_of_pos (by simp [h.place])]

theorem writesOf_self (h : Sole p t v) : v.writesOf p = t.writes.length := by
  unfold State.writesOf
  rw [h.track?_self]
  rfl

/-- A step of ordering. -/
theorem order (h : Sole p t v) (f : Place → Wrote → Wrote) : Sole p { t with writes := t.writes.map (f p) } (v.order f) :=
  h.map (fun u => { u with writes := u.writes.map (f u.place) }) rfl (by rw [h.place]) h.place (fun _ _ => ⟨rfl, rfl⟩)

/-- A race is noted where one of the word's own writes races. -/
theorem noteRace (h : Sole p t v) (y : Eye) :
    Sole p t (v.noteRace y [p]) ∧ (v.noteRace y [p]).raced = (v.raced || t.writes.any (t.races y)) := by
  obtain ⟨r, hr, ho⟩ := h.tracks
  have hany : v.tracks.any (fun u => [p].contains u.place && u.writes.any (u.races y)) = t.writes.any (t.races y) := by
    have hrest : r.any (fun u => [p].contains u.place && u.writes.any (u.races y)) = false :=
      List.any_eq_false.2 fun u hu => by simp [Place.ne_of_meets (ho u hu).1]
    rw [hr, List.any_cons, hrest]
    simp [h.place]
  unfold State.noteRace
  rw [hany]
  split <;> rename_i hc <;> exact ⟨⟨h.place, r, hr, ho⟩, by simp [hc]⟩

/-- The agenda tells the writes of a word apart that meets no other such word. -/
theorem ofTrack {s : State} (hno : ∀ t ∈ s.tracks, t.place.meets 4 p 4 = false ∧ t.picks = []) :
    Sole p { place := p, last := p.read s 4, writes := [], picks := [], held := [] } (s.track p) := by
  have hnone : s.track? p = none := List.find?_eq_none.2 fun t ht he => Place.ne_of_meets (hno t ht).1 (eq_of_beq he)
  unfold State.track
  rw [hnone]
  exact ⟨rfl, _, rfl, hno⟩

/-- A first write of the word, where no agent's earlier writes of it are told apart. -/
theorem wroteAt (h : Sole p t v) (hw : t.writes = []) (ha : p.addr % 4 = 0) (x : Agent) (k : WriteKind) :
    Sole p (t.push x k.isPlain v.clock (p.read v 4)) (v.wroteAt x p 4 k) ∧ (v.wroteAt x p 4 k).raced = v.raced := by
  obtain ⟨hn, hraced⟩ := h.noteRace ⟨x, k.isPlain⟩
  rw [hw, List.any_nil, Bool.or_false] at hraced
  unfold State.wroteAt
  rw [Place.words_aligned ha]
  extract_lets ws m next u
  have ho : OnlyTracks v u := (noteRace_onlyTracks v _ _).trans (order_onlyTracks _ _)
  have hu : Sole p t u := by
    have := hn.order (Wrote.carry x k (ws.map (fun w => ⟨w, m.writesOf w, next w⟩)))
    rw [hw, List.map_nil, ← hw] at this
    exact this
  have hclock : u.clock = v.clock := by rw [ho.rest]
  refine ⟨hu.map _ rfl ?_ h.place fun w hm => ?_, hraced⟩
  · simp [ws, h.place, hclock, Place.read_onlyTracks ho]
  · simp [ws, Place.ne_of_meets hm]

theorem wrote (h : Sole p t v) (hw : t.writes = []) (ha : p.addr % 4 = 0) (x : Agent) (k : WriteKind) :
    Sole p (t.push x k.isPlain v.clock (p.read v 4)) (v.wrote x p 4 k) ∧ (v.wrote x p 4 k).raced = v.raced := by
  unfold State.wrote
  split
  · rename_i sc _
    have ho := h.order (Wrote.release x sc v.clock)
    rw [hw, List.map_nil, ← hw] at ho
    have hr := ho.wroteAt hw ha x k
    rwa [Place.read_onlyTracks (order_onlyTracks v _)] at hr
  · exact h.wroteAt hw ha x k

/-- What an agent sees of the word when it picks the write before the only one. -/
theorem read_seenBy (h : Sole p t v) (hv : v.memOk = true) (hp : t.picks = []) {e : Wrote} (hw : t.writes = [e])
    (hb : e.before.length = 4) (ha : p.addr % 4 = 0) (y : Eye) :
    p.read ((v.pick y.who p 4 0).seenBy y) 4 = if t.must y v.raced e then p.read v 4 else e.before := by
  obtain ⟨r, hr, ho⟩ := h.tracks
  have hrest : r.map (fun u => if p.meets 4 u.place 4 then u.pick ⟨y.who, p.addr % 4, 4, 0⟩ else u) = r :=
    (List.map_congr_left fun u hu => by rw [Place.meets_comm, (ho u hu).1]; rfl).trans (List.map_id r)
  have htr : (v.pick y.who p 4 0).tracks = { t with picks := [⟨y.who, 0, 4, 0⟩] } :: r := by
    have hm : p.meets 4 t.place 4 = true := by rw [h.place, Place.meets_self]
    change v.tracks.map (fun u => if p.meets 4 u.place 4 then u.pick ⟨y.who, p.addr % 4, 4, 0⟩ else u) = _
    rw [hr, List.map_cons, hrest, if_pos hm, Track.pick, hp, ha]
    rfl
  have hseen : (v.pick y.who p 4 0).seenBy y =
      if t.must y v.raced e then v.pick y.who p 4 0 else (v.pick y.who p 4 0).show_ p e.before := by
    have hnil (u : Track) (hu : u ∈ r) : u.picked y v.raced = [] := by simp [Track.picked, (ho u hu).2]
    have hown : ({ t with picks := [⟨y.who, 0, 4, 0⟩] } : Track).picked y v.raced =
        if t.must y v.raced e then [] else [⟨y.who, 0, 4, 0⟩] := by
      have hmay : ({ t with picks := [⟨y.who, 0, 4, 0⟩] } : Track).may y v.raced 0 = !t.must y v.raced e := by
        change (decide (0 < t.writes.length) && !(t.writes.drop 0).any (t.must y v.raced)) = _
        simp [hw]
      simp only [Track.picked, List.filter_cons, hmay]
      cases t.must y v.raced e <;> simp
    have hbytes : (({ t with picks := [⟨y.who, 0, 4, 0⟩] } : Track).bytesAt 0).take 4 = e.before := by
      simp [Track.bytesAt, hw, List.take_of_length_le hb.le]
    unfold State.seenBy
    rw [htr, show (v.pick y.who p 4 0).raced = v.raced from rfl, List.flatMap_cons,
      List.flatMap_eq_nil_iff.2 fun u hu => by rw [hnil u hu, List.map_nil], hown]
    split
    · rfl
    · simp only [List.map_cons, List.map_nil, List.append_nil, List.foldl_cons, List.foldl_nil, List.drop_zero]
      rw [hbytes, Place.map_id, h.place]
  rw [hseen]
  split
  · exact Place.read_onlyTracks (map_onlyTracks v _) p 4
  · have := Place.read_show (State.pick_memOk hv y.who p 4 0) p e.before
    rwa [hb] at this

theorem congr (h : Sole p t v) {w : State} (hw : w.tracks = v.tracks) : Sole p t w := ⟨h.place, by rw [hw]; exact h.tracks⟩

/-- An agent reads what the word's only write has left: it has seen that write, and one of another agent to global memory has then been
performed at its home. -/
theorem saw (h : Sole p t v) {e : Wrote} (hw : t.writes = [e]) (ha : p.addr % 4 = 0) (y : Eye) :
    (∃ rs, Sole p { t with writes := [{ e with
        seen := if e.seen.contains y.who then e.seen else y.who :: e.seen
        home := e.home || (p.core?.isNone && !(e.by_ == y.who)), reads := rs }] } (v.saw y p 4 true none)) ∧
    (v.saw y p 4 true none).raced = (v.raced || t.races y e) := by
  have hread : Sole p (t.read y.who 1) { v with tracks := v.tracks.map (fun t =>
      if [p].contains t.place then t.read y.who (v.version y t.place true) else t) } :=
    h.map _ rfl (by simp [h.place, State.version, h.writesOf_self, hw]) h.place
      (fun u hu => by simp [Place.ne_of_meets hu])
  have hone : (t.read y.who 1).writes = [{ e with
      seen := if e.seen.contains y.who then e.seen else y.who :: e.seen
      home := e.home || (p.core?.isNone && !(e.by_ == y.who)) }] := by
    simp [Track.read, hw, h.place]
  have hnote := hread.order (Wrote.note y.who (v.carriers y [p] true))
  rw [hone] at hnote
  obtain ⟨hs, hr⟩ := hnote.noteRace y
  unfold State.saw State.readWords
  rw [Place.words_aligned ha]
  refine ⟨⟨_, hs⟩, hr.trans ?_⟩
  simp only [List.map_cons, List.map_nil, List.any_cons, List.any_nil, Bool.or_false]
  rfl

end Sole

/-- While nobody has picked a write, every agent sees the stores as they are. -/
theorem State.seenBy_of_no_picks {s : State} {y : Eye} (h : ∀ t ∈ s.tracks, ∀ p ∈ t.picks, p.who ≠ y.who) : s.seenBy y = s := by
  have hnil : s.tracks.flatMap (fun t => (t.picked y s.raced).map
      (fun p => (t.place.map (· + p.off), ((t.bytesAt p.ver).drop p.off).take p.len))) = [] := by
    refine List.flatMap_eq_nil_iff.2 fun t ht => ?_
    have : t.picked y s.raced = [] := List.filter_eq_nil_iff.2 fun p hp => by simp [h t ht p hp]
    rw [this, List.map_nil]
  unfold State.seenBy
  rw [hnil, List.foldl_nil]

/-- What an agent must see of another's write that it has not heard of, nor seen. -/
theorem Track.must_unheard {t : Track} {e : Wrote} {y : Eye} {raced : Bool} (hheld : t.held = [])
    (hknown : e.known.any (fun k => k.who == y.who) = false) (hseen : e.seen.contains y.who = false) :
    t.must y raced e = (e.home || e.shown.any (fun p => within p.2 p.1 y.who) || !(raced || (y.plain && e.plain))) := by
  have hf : t.follows y.who e = false := by
    simp only [Track.follows, List.any_eq_false, Bool.and_eq_true, not_and] at hknown ⊢
    exact fun k hk hw => absurd hw (hknown k hk)
  rw [Track.must, hf, hseen, Track.heldRead, hheld]
  simp

/-- A read that is not plain makes no race. -/
theorem State.noteRace_ordered (v : State) (x : Agent) (ws : List Place) : v.noteRace ⟨x, false⟩ ws = v := by
  have hany : v.tracks.any (fun t => ws.contains t.place && t.writes.any (t.races ⟨x, false⟩)) = false :=
    List.any_eq_false.2 fun t _ => by simp [Track.races]
  unfold State.noteRace
  rw [hany]
  rfl

namespace Sole

variable {p q : Place} {t : Track} {v : State}

/-- A word whose writes are not told apart stays so under a change of each track that leaves its place. -/
theorem track?_map_none {w : State} {f : Track → Track} (hw : w.tracks = v.tracks.map f) (hf : ∀ u, (f u).place = u.place)
    (hq : v.track? q = none) : w.track? q = none := by
  unfold State.track? at hq ⊢
  rw [List.find?_eq_none] at hq ⊢
  rw [hw]
  intro u hu
  obtain ⟨t, ht, rfl⟩ := List.mem_map.1 hu
  rw [hf]
  exact hq t ht

/-- The word's place is not that of a word whose writes are not told apart. -/
theorem place_ne (h : Sole p t v) (hq : v.track? q = none) : t.place ≠ q := fun e => by
  have := h.track?_self
  rw [← h.place, e, hq] at this
  cases this

/-- A release at another word, whose writes are not told apart. -/
theorem wrote_other (h : Sole p t v) (hq : v.track? q = none) (hqa : q.addr % 4 = 0) (x : Agent) (sc : Scope) :
    Sole p { t with writes := (t.writes.map (Wrote.release x sc v.clock p)).map (Wrote.carry x (.rel sc) [⟨q, 0, 0⟩] p) }
      (v.wrote x q 4 (.rel sc)) ∧ (v.wrote x q 4 (.rel sc)).track? q = none := by
  have hrel := h.order (Wrote.release x sc v.clock)
  have hqr : (v.order (Wrote.release x sc v.clock)).track? q = none := track?_map_none rfl (fun _ => rfl) hq
  have hws : [q].map (fun w => (⟨w, (v.order (Wrote.release x sc v.clock)).writesOf w, (v.order (Wrote.release x sc v.clock)).writesOf w +
      (if ((v.order (Wrote.release x sc v.clock)).track? w).isSome then 1 else 0)⟩ : Rewritten)) = [⟨q, 0, 0⟩] := by
    simp [State.writesOf, hqr]
  unfold State.wrote State.wroteAt
  simp only [WriteKind.scope?, WriteKind.isPlain, Place.words_aligned hqa, State.noteRace_ordered]
  rw [hws]
  have hcar := hrel.order (Wrote.carry x (.rel sc) [⟨q, 0, 0⟩])
  refine ⟨hcar.map _ rfl (by simp [h.place_ne hq]) h.place fun u _ => ?_,
    track?_map_none rfl (fun u => ?_) (track?_map_none rfl (fun _ => rfl) hqr)⟩
  · split <;> exact ⟨rfl, rfl⟩
  · split <;> rfl

/-- An acquire at another word, whose writes are not told apart. -/
theorem saw_other (h : Sole p t v) (hq : v.track? q = none) (hqa : q.addr % 4 = 0) (y : Agent) (sc : Scope) :
    Sole p { t with writes := (t.writes.map (Wrote.note y [.word q 0] p)).map (Wrote.hear y sc [.word q 0] p) }
      (v.saw ⟨y, false⟩ q 4 true (some sc)) := by
  have hver (w : Bool) : v.version ⟨y, false⟩ q w = 0 := by simp [State.version, State.writesOf, hq]
  have hcar : v.carriers ⟨y, false⟩ [q] true = [.word q 0] := by simp [State.carriers, hver]
  have hread : Sole p t { v with tracks := v.tracks.map (fun t =>
      if [q].contains t.place then t.read y (v.version ⟨y, false⟩ t.place true) else t) } :=
    h.map _ rfl (by simp [h.place_ne hq]) h.place (fun u _ => by split <;> exact ⟨rfl, rfl⟩)
  unfold State.saw State.readWords
  rw [Place.words_aligned hqa, State.noteRace_ordered, hcar]
  exact (hread.order _).order _

end Sole

/-! ### The first write of a word -/

/-- A write as it is noted first. -/
def freshWrite (x : Agent) (plain : Bool) (now : Nat) (before : List Byte) : Wrote :=
  { by_ := x, plain := plain, clock := now, before := before, known := [⟨x, [], true⟩], rels := [], reads := []
    seen := [], home := false, shown := [] }

/-- A word with one write told apart. -/
def oneWrite (p : Place) (l : List Byte) (e : Wrote) : Track := { place := p, last := l, writes := [e], picks := [], held := [] }

theorem oneWrite_must_unheard {p : Place} {l : List Byte} {d e : Wrote} {y : Eye} {raced : Bool}
    (hknown : e.known.any (fun k => k.who == y.who) = false) (hseen : e.seen.contains y.who = false) :
    (oneWrite p l d).must y raced e = (e.home || e.shown.any (fun q => within q.2 q.1 y.who) || !(raced || (y.plain && e.plain))) :=
  Track.must_unheard rfl hknown hseen

/-- The first write of the word at `p` is `e`, and has left it with the bytes `l`. -/
structure Watched (p : Place) (l : List Byte) (e : Wrote) (v : State) : Prop where
  sole : Sole p (oneWrite p l e) v
  mem : v.memOk = true
  read : p.read v 4 = l

namespace Watched

variable {p : Place} {l : List Byte} {e : Wrote} {v : State}

/-- What an agent sees of the word when it picks the write before. -/
theorem sees (h : Watched p l e v) (hb : e.before.length = 4) (ha : p.addr % 4 = 0) (y : Eye) :
    p.read ((v.pick y.who p 4 0).seenBy y) 4 = if (oneWrite p l e).must y v.raced e then l else e.before := by
  rw [h.sole.read_seenBy h.mem rfl rfl hb ha, h.read]

/-- An agent that picks nothing sees it as it stands. -/
theorem seenBy (h : Watched p l e v) (y : Eye) : p.read (v.seenBy y) 4 = l := by
  obtain ⟨r, hr, ho⟩ := h.sole.tracks
  rw [State.seenBy_of_no_picks, h.read]
  intro t ht q hq
  rw [hr] at ht
  rcases List.mem_cons.1 ht with rfl | ht
  · cases hq
  · rw [(ho t ht).2] at hq
    cases hq

theorem send (h : Watched p l e v) (x : Agent) (rel : Scope) (ks : List Carrier) :
    Watched p l (Wrote.send x rel ks p e) (v.send x rel ks) :=
  ⟨h.sole.order _, State.send_memOk h.mem _ _ _, (Place.read_onlyTracks (send_onlyTracks _ _ _ _) p 4).trans h.read⟩

theorem hear (h : Watched p l e v) (y : Agent) (acq : Scope) (ks : List Carrier) :
    Watched p l (Wrote.hear y acq ks p e) (v.hear y acq ks) :=
  ⟨h.sole.order _, State.hear_memOk h.mem _ _ _, (Place.read_onlyTracks (hear_onlyTracks _ _ _ _) p 4).trans h.read⟩

theorem saw (h : Watched p l e v) (ha : p.addr % 4 = 0) (y : Eye) :
    ∃ rs, Watched p l { e with
        seen := if e.seen.contains y.who then e.seen else y.who :: e.seen
        home := e.home || (p.core?.isNone && !(e.by_ == y.who)), reads := rs } (v.saw y p 4 true none) := by
  obtain ⟨⟨rs, hs⟩, -⟩ := h.sole.saw rfl ha y
  exact ⟨rs, hs, State.saw_memOk h.mem _ _ _ _ _, (Place.read_onlyTracks (saw_onlyTracks _ _ _ _ _ _) p 4).trans h.read⟩

/-- The first write of a word, by `x`, in the store already. -/
theorem first {s : State} (hno : ∀ t ∈ s.tracks, t.place.meets 4 p 4 = false ∧ t.picks = []) (hv : v.tracks = (s.track p).tracks)
    (hm : v.memOk = true) (ha : p.addr % 4 = 0) (x : Agent) (k : WriteKind) :
    Watched p (p.read v 4) (freshWrite x k.isPlain v.clock (p.read s 4)) (v.wrote x p 4 k) ∧ (v.wrote x p 4 k).raced = v.raced := by
  obtain ⟨hs, hr⟩ := ((Sole.ofTrack hno).congr hv).wrote rfl ha x k
  exact ⟨⟨hs, State.wrote_memOk hm _ _ _ _, Place.read_onlyTracks (wrote_onlyTracks _ _ _ _ _) p 4⟩, hr⟩

end Watched

theorem track_onlyTracks_rest (s : State) (p : Place) : s.track p = { s with tracks := (s.track p).tracks } := by
  unfold State.track
  split <;> rfl

/-- The release that `x` sends of a write that it has just made. -/
theorem send_fresh (x : Agent) (rel : Scope) (c : Carrier) (p : Place) (plain : Bool) (now : Nat) (old : List Byte) :
    Wrote.send x rel [c] p (freshWrite x plain now old) =
      { freshWrite x plain now old with
        rels := [⟨x, rel, c, false⟩], shown := if p.core?.isNone then [(x, rel)] else [] } := by
  cases h : p.core?.isNone <;> simp [Wrote.send, Wrote.perform, Wrote.knows, Wrote.since?, freshWrite, h]

/-- An acquire that meets the one release that a write carries, or does not. -/
theorem hear_one {e : Wrote} {x : Agent} {rel : Scope} {c : Carrier} (he : e.rels = [⟨x, rel, c, false⟩]) (p : Place) (y : Agent) (acq : Scope) :
    Wrote.hear y acq [c] p e = if e.meets p c rel x acq y then e.learnAt p rel acq y else e := by
  unfold Wrote.hear
  rw [he, List.filter_cons, List.filter_nil]
  cases h : e.meets p c rel x acq y <;> simp

theorem WriteKind.isPlain_iff (k : WriteKind) : k.isPlain = true ↔ k = .plain := by cases k <;> simp [WriteKind.isPlain]

/-- Of global memory, an agent hears of a write only where it was to see it anyway: the release was at a scope that holds it (R274). -/
theorem hear_within {e : Wrote} {x y : Agent} {rel : Scope} {c : Carrier} (he : e.rels = [⟨x, rel, c, false⟩]) (hs : e.shown = [(x, rel)])
    (p : Place) (l : List Byte) (d : Wrote) (plain raced : Bool) (acq : Scope) :
    (oneWrite p l d).must ⟨y, plain⟩ raced (Wrote.hear y acq [c] p e) = (oneWrite p l d).must ⟨y, plain⟩ raced e := by
  rw [hear_one he]
  split
  · rename_i hm
    have hw : within rel x y = true := by
      simp only [Wrote.meets, pairs, Bool.and_eq_true] at hm
      exact hm.1.1.1
    have hshown : (e.learnAt p rel acq y).shown = e.shown := by
      unfold Wrote.learnAt Wrote.learn
      split <;> rfl
    simp [Track.must, hshown, hs, hw]
  · rfl

/-- Another agent must see a first write only where its place in the order of plain accesses says so. -/
theorem freshWrite_must {x y : Agent} (hxy : x ≠ y) (p : Place) (l : List Byte) (d : Wrote) (plain kp raced : Bool) (now : Nat) (old : List Byte) :
    (oneWrite p l d).must ⟨y, plain⟩ raced (freshWrite x kp now old) = !(raced || (plain && kp)) := by
  rw [oneWrite_must_unheard (by simp [freshWrite, hxy]) rfl]
  simp [freshWrite]

/-- Of global memory it must also see one that a release follows at a scope that holds it. -/
theorem send_freshWrite_must {x y : Agent} (hxy : x ≠ y) (p : Place) (l : List Byte) (d : Wrote) (plain kp raced : Bool) (now : Nat)
    (old : List Byte) (rel : Scope) (c : Carrier) :
    (oneWrite p l d).must ⟨y, plain⟩ raced (Wrote.send x rel [c] p (freshWrite x kp now old)) =
      ((p.core?.isNone && within rel x y) || !(raced || (plain && kp))) := by
  rw [send_fresh, oneWrite_must_unheard (by simp [freshWrite, hxy]) rfl]
  cases p.core?.isNone <;> simp [freshWrite]

theorem send_fresh_before (x : Agent) (rel : Scope) (c : Carrier) (p : Place) (plain : Bool) (now : Nat) (old : List Byte) :
    (Wrote.send x rel [c] p (freshWrite x plain now old)).before = old := by rw [send_fresh]; rfl

/-- What a test chooses, by when it fails. -/
theorem ite_of_false_iff {α : Type} {b : Bool} {P : Prop} [Decidable P] (h : b = false ↔ P) (new old : α) :
    (if b = true then new else old) = if P then old else new := by
  cases b
  · rw [if_neg Bool.false_ne_true, if_pos (h.1 rfl)]
  · rw [if_pos rfl, if_neg fun hp => Bool.noConfusion (h.2 hp)]

theorem hear_before (y : Agent) (acq : Scope) (ks : List Carrier) (p : Place) (e : Wrote) :
    (Wrote.hear y acq ks p e).before = e.before := by
  unfold Wrote.hear
  generalize e.rels.filter _ = rs
  induction rs generalizing e with
  | nil => rfl
  | cons r rs ih =>
    rw [List.foldl_cons, ih]
    unfold Wrote.learnAt Wrote.learn
    split <;> rfl

/-- What racing readers see of a word of device memory (R272, R274). -/
theorem hbm_sees {s : State} {x y : Agent} {a : Nat} {w : Word} {k : WriteKind} {plain : Bool} (hs : s.memOk = true) (hxy : x ≠ y)
    (ha : a % 4 = 0) (hno : ∀ t ∈ s.tracks, t.place.meets 4 (.glob (.hbm a)) 4 = false ∧ t.picks = []) :
    let p : Place := .glob (.hbm a)
    let old := s.hbm.read a 4
    let new := natLe 4 w.toNat
    let u : State := ({ s.track p with hbm := s.hbm.write a new } : State).wrote x p 4 k
    let sees (t : State) (z : Agent) : List Byte := ((t.pick z p 4 0).seenBy ⟨z, plain⟩).hbm.read a 4
    let late : Prop := s.raced = true ∨ (plain = true ∧ k = .plain)
    (u.seenBy ⟨y, plain⟩).hbm.read a 4 = new ∧ sees u y = (if late then old else new) ∧ sees u x = new ∧
    ((u.saw ⟨y, plain⟩ p 4 true none).raced = true ↔ late) ∧
    (∀ z, z ≠ x → sees (u.saw ⟨z, plain⟩ p 4 true none) y = new) ∧
    ∀ (rel acq : Scope) (c : Carrier), sees (u.send x rel [c]) y = (if within rel x y = false ∧ late then old else new) ∧
      sees ((u.send x rel [c]).hear y acq [c]) y = if within rel x y = false ∧ late then old else new := by
  intro p old new u sees late
  have hrest := track_onlyTracks_rest s p
  have hv : ({ s.track p with hbm := s.hbm.write a new } : State).memOk = true := by
    have h := State.show_memOk (State.track_memOk hs p) p new
    have hh : (s.track p).hbm = s.hbm := by rw [hrest]
    simp only [State.show_, p, hh] at h
    exact h
  have hnew : (s.hbm.write a new).read a 4 = new := by
    have h := Mem.read_write (State.global_memOk hs).1 a new
    rwa [length_natLe] at h
  obtain ⟨hw, hraced⟩ := Watched.first hno (v := { s.track p with hbm := s.hbm.write a new }) rfl hv ha x k
  have hr : u.raced = s.raced := hraced.trans (by rw [hrest])
  change Watched p ((s.hbm.write a new).read a 4) (freshWrite x k.isPlain (s.track p).clock old) u at hw
  rw [hnew] at hw
  generalize (s.track p).clock = now at hw
  generalize u = u at hw hr ⊢
  have hold : old.length = 4 := Mem.length_read _ _ _
  have hlate : late ↔ (s.raced || (plain && k.isPlain)) = true := by simp [late, k.isPlain_iff]
  have hfresh (d : Wrote) :
      (oneWrite p new d).must ⟨y, plain⟩ s.raced (freshWrite x k.isPlain now old) = false ↔ late := by
    rw [freshWrite_must hxy, hlate, Bool.not_eq_false']
  have hsent (d : Wrote) (rel : Scope) (c : Carrier) : (oneWrite p new d).must ⟨y, plain⟩ s.raced
      (Wrote.send x rel [c] p (freshWrite x k.isPlain now old)) = false ↔ within rel x y = false ∧ late := by
    rw [send_freshWrite_must hxy, hlate, Bool.or_eq_false_iff, Bool.not_eq_false']
    simp [p, Place.core?]
  refine ⟨hw.seenBy _, ?_, ?_, ?_, fun z hz => ?_, fun rel acq c => ⟨?_, ?_⟩⟩
  · refine (hw.sees hold ha ⟨y, plain⟩).trans ?_
    rw [hr]
    exact ite_of_false_iff (hfresh _) _ _
  · refine (hw.sees hold ha ⟨x, plain⟩).trans (if_pos ?_)
    simp [Track.must, Track.follows, freshWrite, oneWrite]
  · rw [(hw.sole.saw rfl ha _).2, hr, hlate]
    simp [Track.races, Track.follows, freshWrite, hxy]
  · obtain ⟨rs, hz'⟩ := hw.saw ha ⟨z, plain⟩
    refine (hz'.sees hold ha ⟨y, plain⟩).trans (if_pos ?_)
    simp [Track.must, freshWrite, Place.core?, p, Ne.symm hz]
  · have h := hw.send x rel [c]
    refine (h.sees (send_fresh_before .. ▸ hold) ha ⟨y, plain⟩).trans ?_
    rw [show (u.send x rel [c]).raced = s.raced from hr, send_fresh_before]
    exact ite_of_false_iff (hsent _ rel c) _ _
  · have h := (hw.send x rel [c]).hear y acq [c]
    have hb : (Wrote.hear y acq [c] p (Wrote.send x rel [c] p (freshWrite x k.isPlain now old))).before = old :=
      (hear_before ..).trans (send_fresh_before ..)
    refine (h.sees (hb.symm ▸ hold) ha ⟨y, plain⟩).trans ?_
    rw [show ((u.send x rel [c]).hear y acq [c]).raced = s.raced from hr, hb]
    refine ite_of_false_iff ?_ _ _
    rw [hear_within (x := x) (rel := rel) (by rw [send_fresh]) (by rw [send_fresh]; rfl)]
    exact hsent _ rel c

/-! ### A word of scratchpad (R270, R275) -/

/-- Of two cords of the core, a release and an acquire meet where their scopes hold each other. -/
theorem meets_here {e : Wrote} {n a b i b' j : Nat} {rel acq : Scope} {c : Carrier} (hc : ∀ m f v, c = .word (.sp m f) v → m = n) :
    e.meets (.sp n a) c rel (.cord n b i) acq (.cord n b' j) = pairs rel (.cord n b i) acq (.cord n b' j) := by
  cases c with
  | word q v =>
    cases q with
    | sp m f =>
      cases hc m f v rfl
      simp [Wrote.meets, Agent.core?]
    | glob t => simp [Wrote.meets, Agent.core?]
  | _ => simp [Wrote.meets, Agent.core?]

/-- An agent that has heard of a write in the core's scratchpad must see it, and of no other that may come late. -/
theorem must_heard {e : Wrote} {n a b' j : Nat} {rel acq : Scope} {l : List Byte} {d : Wrote} {raced heard : Bool}
    (hknown : e.known.any (fun k => k.who == .cord n b' j) = false) (hseen : e.seen = []) (hhome : e.home = false) (hshown : e.shown = [])
    (hplain : e.plain = true) :
    (oneWrite (.sp n a) l d).must ⟨.cord n b' j, true⟩ raced
      (if heard = true then e.learnAt (.sp n a) rel acq (.cord n b' j) else e) = heard := by
  cases heard
  · rw [if_neg Bool.false_ne_true, oneWrite_must_unheard hknown (by rw [hseen]; rfl)]
    simp [hhome, hshown, hplain]
  · have hno : e.knows (.cord n b' j) = false := by
      rw [List.any_eq_false] at hknown
      simp only [Wrote.knows, Wrote.since?, Option.isSome_map, Option.isSome_eq_false_iff, Option.isNone_iff_eq_none]
      exact List.find?_eq_none.2 hknown
    have hf : (oneWrite (.sp n a) l d).follows (.cord n b' j) (e.learnAt (.sp n a) rel acq (.cord n b' j)) = true := by
      simp [Track.follows, Wrote.learnAt, Wrote.learn, hno, oneWrite, Place.core?, Agent.core?]
    rw [if_pos rfl, Track.must, hf]
    simp

/-- A plain write of a word tells no other word's writes apart. -/
theorem track?_wrote_plain_none {v : State} {p q : Place} (hq : v.track? q = none) (x : Agent) :
    (v.wrote x p 4 .plain).track? q = none := by
  have hn : (v.noteRace ⟨x, true⟩ (p.words 4)).track? q = none := by
    unfold State.noteRace
    split <;> exact hq
  exact Sole.track?_map_none rfl (fun u => by split <;> rfl) (Sole.track?_map_none rfl (fun _ => rfl) hn)

theorem track?_track_none {s : State} {p q : Place} (hq : s.track? q = none) (hpq : p ≠ q) : (s.track p).track? q = none := by
  unfold State.track
  split
  · exact hq
  · change (_ :: s.tracks).find? _ = none
    rw [List.find?_cons_of_neg (by simpa using hpq)]
    exact hq

theorem unknown_to_other {x y : Agent} (hxy : x ≠ y) (scs : List Scope) :
    ([⟨x, scs, true⟩] : List Knows).any (fun k => k.who == y) = false := by
  simp [hxy]

/-- The flag that a release writes carries the first write of the word (R270). -/
theorem flag_carries {x : Agent} {rel : Scope} {p q : Place} {now then_ : Nat} {old : List Byte} (plain : Bool) (h : now ≠ then_)
    (hp : p.core?.isSome) :
    (Wrote.carry x (.rel rel) [⟨q, 0, 0⟩] p (Wrote.release x rel then_ p (freshWrite x plain now old))) =
      { freshWrite x plain now old with known := [⟨x, [rel], true⟩], rels := [⟨x, rel, .word q 0, false⟩] } := by
  have hp' : p.core?.isNone = false := by rw [← Option.not_isSome, hp]; rfl
  simp [Wrote.release, Wrote.carry, Wrote.perform, Wrote.since?, freshWrite, hp', h, WriteKind.scope?, Rewritten.on]

/-- What racing readers see of a word of scratchpad (R270, R272, R275). -/
theorem spad_sees {s : State} {n b b' i j a f : Nat} {w : Word} (hs : s.memOk = true) (ha : a % 4 = 0) (hf : f % 4 = 0) (hfa : f ≠ a)
    (hxy : Agent.cord n b i ≠ .cord n b' j) (hflag : s.track? (.sp n f) = none)
    (hno : ∀ t ∈ s.tracks, t.place.meets 4 (.sp n a) 4 = false ∧ t.picks = []) :
    let x : Agent := .cord n b i
    let y : Agent := .cord n b' j
    let p : Place := .sp n a
    let old := (s.core n).spad.read a 4
    let new := natLe 4 w.toNat
    let m := s.track p
    let u : State := { (m.setCore n { m.core n with spad := (m.core n).spad.write a new }).wrote x p 4 .plain with clock := s.clock + 1 }
    let sees (t : State) : List Byte := (((t.pick y p 4 0).seenBy ⟨y, true⟩).core n).spad.read a 4
    sees u = old ∧ sees (u.saw ⟨y, true⟩ p 4 true none) = new ∧
    ∀ (rel acq : Scope) (c : Carrier), (∀ q v, c ≠ .word q v) →
      sees (u.send x rel [c]) = old ∧ sees ((u.send x rel [c]).hear y acq [c]) = (if pairs rel x acq y = true then new else old) ∧
      sees ((u.wrote x (.sp n f) 4 (.rel rel)).saw ⟨y, false⟩ (.sp n f) 4 true (some acq)) =
        if pairs rel x acq y = true then new else old := by
  intro x y p old new m u sees
  have hv : (m.setCore n { m.core n with spad := (m.core n).spad.write a new }).memOk = true :=
    State.show_memOk (State.track_memOk hs p) p new
  have hnew : p.read (m.setCore n { m.core n with spad := (m.core n).spad.write a new }) 4 = new :=
    Place.read_show (State.track_memOk hs p) p new
  have hclock : m.clock = s.clock := by rw [show m = _ from track_onlyTracks_rest s p]
  obtain ⟨hfirst, -⟩ := Watched.first hno (v := m.setCore n { m.core n with spad := (m.core n).spad.write a new }) rfl hv ha x .plain
  rw [hnew] at hfirst
  have hw : Watched p new (freshWrite x true s.clock old) u := by
    refine ⟨?_, hfirst.mem, hfirst.read⟩
    have h := hfirst.sole.congr (w := u) rfl
    rwa [show (m.setCore n { m.core n with spad := (m.core n).spad.write a new }).clock = s.clock from hclock] at h
  have hq : u.track? (.sp n f) = none :=
    track?_wrote_plain_none (v := m.setCore n { m.core n with spad := (m.core n).spad.write a new })
      (track?_track_none hflag (by simpa [p] using Ne.symm hfa)) x
  have huc : u.clock = s.clock + 1 := rfl
  generalize u = u at hw hq huc ⊢
  have hold : old.length = 4 := Mem.length_read _ _ _
  have hpick (t : State) (e : Wrote) (ht : Watched p new e t) (hb : e.before = old) (h : Bool)
      (hm : (oneWrite p new e).must ⟨y, true⟩ t.raced e = h) : sees t = if h = true then new else old := by
    refine (ht.sees (hb.symm ▸ hold) ha ⟨y, true⟩).trans ?_
    rw [hm, hb]
  refine ⟨?_, ?_, fun rel acq c hc => ⟨?_, ?_, ?_⟩⟩
  · refine hpick u _ hw rfl false ?_
    rw [freshWrite_must hxy]
    simp
  · obtain ⟨rs, hz⟩ := hw.saw ha ⟨y, true⟩
    refine hpick _ _ hz rfl true ?_
    simp [Track.must, freshWrite]
  · refine hpick _ _ (hw.send x rel [c]) (send_fresh_before ..) false ?_
    rw [send_freshWrite_must hxy]
    simp [p, Place.core?]
  · refine hpick _ _ ((hw.send x rel [c]).hear y acq [c]) ((hear_before ..).trans (send_fresh_before ..)) _ ?_
    rw [hear_one (x := x) (rel := rel) (by rw [send_fresh]), meets_here fun m f v h => absurd h (hc _ _), send_fresh]
    exact must_heard (unknown_to_other hxy []) rfl rfl rfl rfl
  · obtain ⟨hsole, hnone⟩ := hw.sole.wrote_other hq hf x rel
    have hs' := hsole.saw_other hnone hf y acq
    have hcarry := flag_carries (x := x) (rel := rel) (p := p) (q := .sp n f) (old := old) (now := s.clock)
      (then_ := u.clock) true (by omega) rfl
    have hread : p.read ((u.wrote x (.sp n f) 4 (.rel rel)).saw ⟨y, false⟩ (.sp n f) 4 true (some acq)) 4 = new :=
      (Place.read_onlyTracks ((wrote_onlyTracks _ _ _ _ _).trans (saw_onlyTracks _ _ _ _ _ _)) p 4).trans hw.read
    refine hpick _ _ ⟨hs', State.saw_memOk (State.wrote_memOk hw.mem _ _ _ _) _ _ _ _ _, hread⟩ ?_ _ ?_
    · refine (hear_before ..).trans (Eq.trans ?_ (congrArg Wrote.before hcarry))
      rfl
    · have hnote := congrArg (Wrote.note y [.word (.sp n f) 0] p) hcarry
      change (oneWrite p new _).must _ _ (Wrote.hear y acq [.word (.sp n f) 0] p (Wrote.note y [.word (.sp n f) 0] p _)) = _
      rw [hnote, hear_one (x := x) (rel := rel) rfl, meets_here fun m f v h => by cases h; rfl]
      exact must_heard (unknown_to_other hxy [rel]) rfl rfl rfl rfl

/-- Settles O58: stores by what each operation reads back, and racing readers by following the one write of the word that is told
apart, with what its writer sends and what its reader hears. -/
theorem memoryReadsBack : Obligations.MemoryReadsBack := by
  unfold Obligations.MemoryReadsBack
  refine ⟨fun m a l h => ⟨Mem.read_write h a l, fun b => Mem.get_write h a l b⟩, fun m lo hi b h => ⟨Mem.get_clear h lo hi b, ?_⟩,
    fun m x off b hm hx => Mem.get_paste_eq hm hx off b, fun m a w h => ⟨Mem.word_setWord h a w, fun i hi => Mem.get_setWord h a w hi⟩,
    fun m x hm hx h => Mem.eq_of_get hm hx h, fun s y h => State.seenBy_of_no_picks h, ?_, ?_⟩
  · split
    · exact Mem.get_slice h ‹_›
    · exact Mem.get_slice_high h ‹_›
  · exact fun s x y a w k plain hs hxy ha hno => hbm_sees hs hxy ha hno
  · exact fun s n b b' i j a f w hs ha hf hfa hxy hflag hno => spad_sees hs ha hf hfa hxy hflag hno

end Sys2Proof.Machine

namespace Sys2Proof.Machine

/-! ### The rational value of a finite number -/

@[simp] theorem numVal_zero (s : Bool) (e : Int) : numVal s 0 e = 0 := by simp [numVal]

theorem numVal_eq_zero {s : Bool} {m : Nat} {e : Int} : numVal s m e = 0 ↔ m = 0 := by
  unfold numVal
  cases s <;> simp [zpow_ne_zero]

theorem numVal_not (s : Bool) (m : Nat) (e : Int) : numVal (!s) m e = -numVal s m e := by
  unfold numVal
  cases s <;> simp

theorem numVal_scale (s : Bool) (m k : Nat) (e : Int) : numVal s (m * 2 ^ k) (e - k) = numVal s m e := by
  unfold numVal
  rw [zpow_sub₀ two_ne_zero, zpow_natCast, Nat.cast_mul, Nat.cast_pow, Nat.cast_ofNat]
  field_simp

/-- The value at a smaller exponent (R42). -/
theorem numVal_scaleTo {e lo : Int} (h : lo ≤ e) (s : Bool) (m : Nat) : numVal s (Num.scaleTo m e lo) lo = numVal s m e := by
  have := numVal_scale s m (e - lo).toNat e
  rwa [show e - ((e - lo).toNat : Int) = lo by omega] at this

theorem numVal_pos {m : Nat} (hm : m ≠ 0) (e : Int) : 0 < numVal false m e := by
  unfold numVal
  have : (0 : ℚ) < m := by exact_mod_cast Nat.pos_of_ne_zero hm
  simp only [Bool.false_eq_true, if_false, one_mul]
  positivity

/-- At one exponent values are their significands. -/
theorem numVal_inj {m n : Nat} {e : Int} (h : numVal false m e = numVal false n e) : m = n := by
  unfold numVal at h
  have h2 : (2 : ℚ) ^ e ≠ 0 := zpow_ne_zero _ two_ne_zero
  simp only [Bool.false_eq_true, if_false, one_mul] at h
  exact_mod_cast mul_right_cancel₀ h2 h

/-- Two ways to write a value other than 0 down have its sign, and differ by a power of two. -/
theorem numVal_eq_iff {s t : Bool} {m n : Nat} {e k : Int} (hm : m ≠ 0) (hn : n ≠ 0) (hle : e ≤ k) (h : numVal s m e = numVal t n k) :
    s = t ∧ m = n * 2 ^ (k - e).toNat := by
  have hp := numVal_pos hm e
  have hq := numVal_pos hn k
  have hst : s = t := by
    have h1 := numVal_not false m e
    have h2 := numVal_not false n k
    cases s <;> cases t <;> simp only [Bool.not_false, Bool.true_eq_false, Bool.false_eq_true] at * <;> linarith
  subst hst
  refine ⟨rfl, numVal_inj (e := e) ?_⟩
  have h' : numVal false m e = numVal false n k := by
    cases s
    · exact h
    · have h1 := numVal_not false m e
      have h2 := numVal_not false n k
      simp only [Bool.not_false] at h1 h2
      linarith
  exact h'.trans (numVal_scaleTo hle false n).symm

/-! ### Rounding depends on the value alone (R45, R52) -/

theorem log2_mul_two_pow {m : Nat} (hm : m ≠ 0) (k : Nat) : (m * 2 ^ k).log2 = m.log2 + k := by
  induction k with
  | zero => simp
  | succ k ih =>
    rw [Nat.pow_succ, ← Nat.mul_assoc, Nat.mul_comm _ 2, Nat.log2_two_mul (Nat.mul_ne_zero hm (Nat.two_pow_pos k).ne'), ih]
    rfl

theorem lead_scale {m : Nat} (hm : m ≠ 0) (k : Nat) (e : Int) : Num.lead (m * 2 ^ k) (e - k) = Num.lead m e := by
  unfold Num.lead
  rw [log2_mul_two_pow hm]
  push_cast
  ring

/-- Where the spacing divides the value, it is rounded exactly. -/
theorem roundAt_of_le {q e : Int} (h : q ≤ e) (mode : Rnd) (r : Word) (neg : Bool) (m : Nat) :
    roundAt mode r neg m e q = (Num.scaleTo m e q, false, false) := by rw [roundAt, if_pos h]

theorem roundAt_scale (mode : Rnd) (r : Word) (neg : Bool) (m k : Nat) (e q : Int) :
    roundAt mode r neg (m * 2 ^ k) (e - k) q = roundAt mode r neg m e q := by
  by_cases h1 : q ≤ e - k
  · rw [roundAt_of_le h1, roundAt_of_le (by omega), Num.scaleTo, Num.scaleTo, Nat.mul_assoc, ← Nat.pow_add]
    congr 3
    omega
  · by_cases h2 : q ≤ e
    · obtain ⟨j, hj⟩ : ∃ j, k = (e - q).toNat + j := ⟨k - (e - q).toNat, by omega⟩
      have hd : (q - (e - k)).toNat = j := by omega
      rw [roundAt_of_le h2, roundAt, if_neg h1, hd, hj, Nat.pow_add, ← Nat.mul_assoc]
      simp [Num.scaleTo]
    · have hd : (q - (e - k)).toNat = (q - e).toNat + k := by omega
      have hk : 0 < 2 ^ k := Nat.two_pow_pos k
      have hcmp (a b : Nat) : compare (a * 2 ^ k) (b * 2 ^ k) = compare a b := by
        simp [Nat.compare_eq_ite_lt, Nat.mul_lt_mul_right hk]
      rw [roundAt, if_neg h1, roundAt, if_neg h2, hd, Nat.pow_add]
      simp only [Nat.mul_div_mul_right _ _ hk, Nat.mul_mod_mul_right, ← Nat.mul_assoc, hcmp, Nat.mul_eq_zero, hk.ne', or_false,
        Nat.mul_right_comm _ (2 ^ k) (2 ^ 32)]

theorem roundFin_scale (f : Fmt) (mode : Rnd) (r : Word) (sat acc neg : Bool) {m : Nat} (hm : m ≠ 0) (k : Nat) (e : Int) :
    roundFin f mode r sat acc neg (m * 2 ^ k) (e - k) = roundFin f mode r sat acc neg m e := by
  unfold roundFin
  simp only [lead_scale hm, roundAt_scale]

theorem roundFin_congr (f : Fmt) (mode : Rnd) (r : Word) (sat acc : Bool) {s t : Bool} {m n : Nat} {e k : Int} (hm : m ≠ 0) (hn : n ≠ 0)
    (h : numVal s m e = numVal t n k) : roundFin f mode r sat acc s m e = roundFin f mode r sat acc t n k := by
  wlog hle : e ≤ k generalizing s t m n e k
  · exact (this hn hm h.symm (by omega)).symm
  · obtain ⟨rfl, rfl⟩ := numVal_eq_iff hm hn hle h
    have := roundFin_scale f mode r sat acc s hn (k - e).toNat k
    rwa [show k - ((k - e).toNat : Int) = e by omega] at this

/-- A value given to the rounding of a format is rounded once (R45). -/
theorem roundedOnce_roundNum (f : Fmt) (mode : Rnd) (r : Word) (sat s : Bool) (m : Nat) (e : Int) :
    RoundedOnce f mode r sat (numVal s m e) s (roundNum f mode r sat false (.fin s m e)) := by
  refine ⟨fun h => ?_, fun t n k hn h => ?_⟩
  · rw [roundNum, if_pos (numVal_eq_zero.1 h)]
  · have hm : m ≠ 0 := fun hm => hn (numVal_eq_zero.1 (h.trans (numVal_eq_zero.2 hm)))
    rw [roundNum, roundNum, if_neg hm, if_neg hn]
    exact roundFin_congr f mode r sat false hm hn h.symm

/-! ### The values that a format holds (R41, R42) -/

namespace Fmt

/-- The significand `m` at the spacing of the binade `j` steps above the least is that of a value of the format. -/
structure Holds (f : Fmt) (j m : Nat) : Prop where
  normal : j = 0 ∨ 2 ^ f.mb ≤ m
  lt : m < 2 ^ (f.mb + 1)
  top : j + 1 ≤ f.topField
  max : j + 1 = f.topField → m ≤ f.maxSig

/-- The exponent of the binade `j` steps above the least. -/
def expo (f : Fmt) (j : Nat) : Int := j + (f.emin - f.mb)

/-- An encoding's sign, exponent field and fraction. -/
theorem eq_signed (f : Fmt) {w : Nat} (hw : w < 2 ^ (1 + f.eb + f.mb)) :
    w = f.signed (bit w (f.eb + f.mb)) (field w f.mb f.eb * 2 ^ f.mb + field w 0 f.mb) := by
  have h1 := Nat.div_add_mod w (2 ^ f.mb)
  have h2 := Nat.div_add_mod (w / 2 ^ f.mb) (2 ^ f.eb)
  rw [Nat.div_div_eq_div_mul, ← Nat.pow_add] at h2
  have h3 : w / 2 ^ (f.mb + f.eb) < 2 := by
    rw [Nat.div_lt_iff_lt_mul (Nat.two_pow_pos _)]
    calc w < 2 ^ (1 + f.eb + f.mb) := hw
      _ = 2 * 2 ^ (f.mb + f.eb) := by rw [show 1 + f.eb + f.mb = f.mb + f.eb + 1 by omega, Nat.pow_succ, Nat.mul_comm]
  have hp : 2 ^ (f.mb + f.eb) = 2 ^ f.mb * 2 ^ f.eb := Nat.pow_add ..
  unfold signed signBit bit field
  rw [Nat.add_comm f.eb f.mb, Nat.pow_zero, Nat.div_one]
  rcases Nat.lt_or_ge (w / 2 ^ (f.mb + f.eb)) 1 with h0 | h0
  · have h0' : w / 2 ^ (f.mb + f.eb) = 0 := Nat.lt_one_iff.1 h0
    rw [h0'] at h2 ⊢
    simp only [Nat.mul_zero, Nat.zero_add] at h2
    rw [if_neg (by decide), h2, Nat.mul_comm]
    exact h1.symm
  · have h0' : w / 2 ^ (f.mb + f.eb) = 1 := Nat.le_antisymm (Nat.lt_succ_iff.1 h3) h0
    rw [h0'] at h2 ⊢
    rw [if_pos (by decide), hp]
    rw [Nat.mul_one] at h2
    calc w = 2 ^ f.mb * (w / 2 ^ f.mb) + w % 2 ^ f.mb := h1.symm
      _ = 2 ^ f.mb * (2 ^ f.eb + w / 2 ^ f.mb % 2 ^ f.eb) + w % 2 ^ f.mb := by rw [h2]
      _ = _ := by ring

/-- An encoding of a finite number: its sign, and its significand in its binade. -/
theorem decode_fin {f : Fmt} {w m : Nat} {s : Bool} {e : Int} (hf : 1 ≤ f.topField) (h : f.decode w = .fin s m e) :
    s = bit w (f.eb + f.mb) ∧ ∃ j, e = f.expo j ∧ f.Holds j m ∧ field w f.mb f.eb * 2 ^ f.mb + field w 0 f.mb = j * 2 ^ f.mb + m ∧
      (field w f.mb f.eb = 0 ↔ m < 2 ^ f.mb) := by
  have hE : field w f.mb f.eb < 2 ^ f.eb := Nat.mod_lt _ (Nat.two_pow_pos _)
  have hX : field w 0 f.mb < 2 ^ f.mb := Nat.mod_lt _ (Nat.two_pow_pos _)
  have h2 : 2 ^ (f.mb + 1) = 2 * 2 ^ f.mb := by rw [Nat.pow_succ, Nat.mul_comm]
  unfold decode at h
  extract_lets sg E X at h
  change E < _ at hE
  change X < _ at hX
  change s = sg ∧ ∃ j, e = f.expo j ∧ f.Holds j m ∧ E * 2 ^ f.mb + X = j * 2 ^ f.mb + m ∧ (E = 0 ↔ m < 2 ^ f.mb)
  clear_value sg E X
  have hfin : ¬ (f.hasInf = true ∧ E = 2 ^ f.eb - 1) ∧ ¬ (f.hasInf = false ∧ E = 2 ^ f.eb - 1 ∧ X = 2 ^ f.mb - 1) := by
    constructor <;> rintro ⟨h1, h3⟩ <;> simp [h1, h3] at h
    · split at h <;> cases h
  obtain ⟨hn1, hn2⟩ := hfin
  rw [if_neg (by simpa using hn1), if_neg (by simpa [and_assoc] using hn2)] at h
  have htop : E ≤ f.topField ∧ (E = f.topField → X + 2 ^ f.mb ≤ f.maxSig) := by
    unfold topField maxSig
    cases hi : f.hasInf <;> simp only [hi, Bool.false_eq_true, if_false, if_true, true_and, reduceCtorEq, false_and] at hn1 hn2 ⊢ <;> omega
  have hmax : 2 ^ f.mb ≤ f.maxSig + 1 := by
    unfold maxSig
    split <;> omega
  split at h <;> rename_i h0 <;> obtain ⟨rfl, rfl, rfl⟩ := by simpa using h
  · obtain rfl : E = 0 := by simpa using h0
    exact ⟨rfl, 0, by simp [expo], ⟨.inl rfl, by omega, by omega, fun _ => by omega⟩, rfl, by simp [hX]⟩
  · obtain ⟨j, rfl⟩ := Nat.exists_eq_succ_of_ne_zero (show E ≠ 0 by simpa using h0)
    refine ⟨rfl, j, ?_, ⟨.inr (by omega), by omega, htop.1, fun hj => ?_⟩, by rw [Nat.succ_mul]; omega, by simp⟩
    · unfold expo emin
      push_cast
      ring
    · rw [Nat.add_comm]
      exact htop.2 hj

/-- An encoding of an infinity. -/
theorem decode_inf {f : Fmt} {w : Nat} {s : Bool} (h : f.decode w = .inf s) :
    f.hasInf = true ∧ s = bit w (f.eb + f.mb) ∧ field w f.mb f.eb = 2 ^ f.eb - 1 ∧ field w 0 f.mb = 0 := by
  unfold decode at h
  extract_lets sg E X at h
  change _ ∧ _ = sg ∧ E = _ ∧ X = _
  clear_value sg E X
  split at h
  · rename_i hi
    simp only [Bool.and_eq_true, beq_iff_eq] at hi
    split at h
    · rename_i hx
      cases h
      exact ⟨hi.1, rfl, hi.2, by simpa using hx⟩
    · cases h
  · split at h
    · cases h
    · split at h <;> cases h

theorem log2_holds {f : Fmt} {j m : Nat} (h : f.Holds j m) (hm : m ≠ 0) : m.log2 ≤ f.mb ∧ (2 ^ f.mb ≤ m → m.log2 = f.mb) := by
  have h1 : m.log2 < f.mb + 1 := (Nat.log2_lt hm).2 h.lt
  exact ⟨by omega, fun h2 => Nat.le_antisymm (by omega) ((Nat.le_log2 hm).2 h2)⟩

/-- Rounding a value that the format holds: its encoding, and no flag (R52). -/
theorem roundFin_holds {f : Fmt} {j m : Nat} (h : f.Holds j m) (hm : m ≠ 0) (mode : Rnd) (r : Word) (sat acc s : Bool) :
    roundFin f mode r sat acc s m (f.expo j) = (f.signed s (j * 2 ^ f.mb + m), 0) := by
  obtain ⟨hlog, hlog'⟩ := log2_holds h hm
  have hfree : Num.lead m (f.expo j) - f.mb ≤ f.expo j ∧ (j ≠ 0 → Num.lead m (f.expo j) - f.mb = f.expo j) := by
    unfold Num.lead
    refine ⟨by omega, fun hj => ?_⟩
    rw [hlog' (h.normal.resolve_left hj)]
    omega
  have hq1 : (if Num.lead m (f.expo j) - f.mb < f.emin - f.mb then f.emin - f.mb else Num.lead m (f.expo j) - f.mb) = f.expo j := by
    unfold expo at hfree ⊢
    split <;> omega
  have htop : f.expo j ≤ f.etop - f.mb ∧ (f.expo j = f.etop - f.mb → j + 1 = f.topField) := by
    have := h.top
    unfold expo etop emin
    constructor <;> omega
  have hover : (f.expo j == f.etop - f.mb && decide (f.maxSig < m)) = false := by
    by_cases he : f.expo j = f.etop - f.mb
    · simp [h.max (htop.2 he)]
    · simp [he]
  have hbits : (f.expo j - (f.emin - f.mb)).toNat = j := by
    unfold expo
    omega
  unfold roundFin
  extract_lets top free q1 q
  have hq : q = f.expo j := by
    change (if f.etop - f.mb < q1 then f.etop - f.mb else q1) = _
    rw [show q1 = _ from hq1, if_neg (by omega)]
  rw [hq, roundAt_of_le le_rfl, hbits]
  simp only [Num.scaleTo, sub_self, Int.toNat_zero, Nat.pow_zero, Nat.mul_one, top, hover]
  simp

end Fmt

/-- A format's own encodings round to themselves. -/
theorem roundNum_decode {f : Fmt} (hf : 1 ≤ f.topField) (mode : Rnd) (r : Word) {w : Nat} (hw : w < 2 ^ (1 + f.eb + f.mb))
    (hn : (f.decode w).isNan = false) : roundNum f mode r false false (f.decode w) = (w, 0) := by
  have hparts := f.eq_signed hw
  cases hd : f.decode w with
  | nan =>
    rw [hd] at hn
    cases hn
  | inf s =>
    obtain ⟨hi, hs, hE, hX⟩ := Fmt.decode_inf hd
    rw [← hs, hE, hX, Nat.add_zero] at hparts
    rw [roundNum, if_neg Bool.false_ne_true, if_pos hi, Fmt.infBits, ← hparts]
  | fin s m e =>
    obtain ⟨hs, j, rfl, hh, hbits, -⟩ := Fmt.decode_fin hf hd
    rw [← hs, hbits] at hparts
    rw [roundNum]
    split
    · rename_i hm
      have hj : j = 0 := hh.normal.resolve_right (by have := Nat.two_pow_pos f.mb; omega)
      rw [hm, hj] at hparts
      rw [← show w = f.signed s 0 by simpa using hparts]
    · rename_i hm
      rw [Fmt.roundFin_holds hh hm, ← hparts]

/-- A value between two neighbours is rounded to the nearer, or to the even one of two equally near. -/
theorem chooseHi_nearest (neg : Bool) (rem d lo f : Nat) (r : Word) :
    chooseHi .rn neg (compare (2 * rem) d) (lo % 2 == 1) f r = true ↔ d < 2 * rem ∨ (2 * rem = d ∧ lo % 2 = 1) := by
  simp [chooseHi, Nat.compare_eq_gt]

theorem roundAt_nearest (r : Word) (neg : Bool) (m : Nat) {e q : Int} (hle : e ≤ q) :
    let d : Int := 2 ^ (q - e).toNat
    let n := roundAt .rn r neg m e q
    2 * ((m : Int) - n.1 * d).natAbs ≤ d ∧ (2 * (((m : Int) - n.1 * d).natAbs : Int) = d → n.1 % 2 = 0) ∧
    (n.2.1 = true ↔ (m : Int) ≠ n.1 * d) := by
  intro d n
  by_cases hq : q ≤ e
  · obtain rfl : q = e := by omega
    have hn : n = (m, false, false) := by simp [n, roundAt_of_le le_rfl, Num.scaleTo]
    simp [hn, d]
  · obtain ⟨b, hb⟩ : ∃ b : Nat, b = 2 ^ (q - e).toNat := ⟨_, rfl⟩
    have hd : d = b := by simp [d, hb]
    have hlt := Nat.mod_lt m (hb ▸ Nat.two_pow_pos _ : 0 < b)
    have hlo : (m : Int) - (m / b : Nat) * b = (m % b : Nat) := by
      rw [Int.sub_eq_iff_eq_add]
      exact_mod_cast (Nat.mod_add_div' m b).symm
    have hhi : (m : Int) - (m / b + 1 : Nat) * b = (m % b : Nat) - b := by
      push_cast at hlo ⊢
      linarith
    have hn : n = if m % b = 0 then (m / b, false, false) else
        let hi := chooseHi .rn neg (compare (2 * (m % b)) b) (m / b % 2 == 1) (m % b * 2 ^ 32 / b) r
        (if hi then m / b + 1 else m / b, true, hi) := by
      simp only [n]
      rw [roundAt, if_neg hq, ← hb]
    rw [hd, hn]
    split
    · rename_i h0
      rw [hlo, h0]
      refine ⟨by omega, fun h => by omega, by simpa [h0, sub_eq_zero] using hlo⟩
    · extract_lets hi
      have hnear : hi = true ↔ _ := chooseHi_nearest neg (m % b) b (m / b) _ r
      have hne (x : Nat) (h : (m : Int) - x * b ≠ 0) : (true = true ↔ (m : Int) ≠ x * b) := by simpa [sub_eq_zero] using h
      cases hi' : hi
      · have := hnear.not.1 (by simp [hi'])
        refine ⟨?_, ?_, hne _ ?_⟩ <;> simp only [Bool.false_eq_true, if_false, hlo] <;> omega
      · have := hnear.1 hi'
        refine ⟨?_, ?_, hne _ ?_⟩ <;> simp only [if_true, hhi] <;> omega

/-- Settles O10: an encoding's significand is a multiple of the spacing at which it is rounded; a value between two multiples goes to the
nearer. -/
theorem rounding : Obligations.Rounding := by
  unfold Obligations.Rounding
  refine ⟨fun f hf mode r w hw hn => ?_, fun r neg m e q hle => roundAt_nearest r neg m hle⟩
  have htop : ∀ f ∈ [Fmt.f32, .bf16, .f16, .e5m2, .e4m3], 1 ≤ f.topField := by decide
  exact roundNum_decode (htop f hf) mode r hw hn

end Sys2Proof.Machine

namespace Sys2Proof.Machine

/-! ### Exact sums, products and comparisons (R43, R44) -/

/-- A sum of two numbers is exact, and a zero has the sign of both, or of the mode where they differ (R44). -/
theorem Num.add_fin (rd s t : Bool) (m n : Nat) (e k : Int) :
    ∃ u a i, Num.add rd (.fin s m e) (.fin t n k) = (.fin u a i, false) ∧ numVal u a i = numVal s m e + numVal t n k ∧
      (a = 0 → u = if s = t then s else rd) := by
  obtain ⟨lo, hlo⟩ : ∃ lo, lo = if e ≤ k then e else k := ⟨_, rfl⟩
  have hx := numVal_scaleTo (lo := lo) (e := e) (by rw [hlo]; split <;> omega) s m
  have hy := numVal_scaleTo (lo := lo) (e := k) (by rw [hlo]; split <;> omega) t n
  rw [← hx, ← hy]
  unfold Num.add
  simp only [← hlo]
  generalize Num.scaleTo m e lo = x
  generalize Num.scaleTo n k lo = y
  have hval (v : Bool) (a b c : Nat) (h : a = b + c) : numVal v a lo = numVal v b lo + numVal v c lo := by
    unfold numVal
    rw [h]
    push_cast
    ring
  have hnot (v : Bool) (a : Nat) : numVal (!v) a lo = -numVal v a lo := numVal_not v a lo
  by_cases hst : s = t
  · subst hst
    exact ⟨s, x + y, lo, by simp, hval s _ _ _ rfl, fun _ => by simp⟩
  · obtain rfl : t = !s := by cases s <;> cases t <;> simp at hst ⊢
    rw [if_neg (by simp), hnot]
    rcases Nat.lt_trichotomy x y with h | h | h
    · refine ⟨!s, y - x, lo, ?_, ?_, fun h0 => by omega⟩
      · rw [if_neg (by simp; omega), if_neg (by omega)]
      · have := hval s y (y - x) x (by omega)
        rw [hnot]
        linarith
    · refine ⟨rd, 0, lo, by simp [h], ?_, fun _ => (if_neg hst).symm⟩
      rw [numVal_zero, h, add_neg_cancel]
    · refine ⟨s, x - y, lo, ?_, ?_, fun h0 => by omega⟩
      · rw [if_neg (by simp; omega), if_pos h]
      · have := hval s x (x - y) y (by omega)
        linarith

theorem numVal_mul (s t : Bool) (m n : Nat) (e k : Int) : numVal (s != t) (m * n) (e + k) = numVal s m e * numVal t n k := by
  unfold numVal
  rw [zpow_add₀ two_ne_zero]
  cases s <;> cases t <;> simp <;> ring

/-- The order of two numbers is that of their values. -/
theorem Num.lt_fin (s t : Bool) (m n : Nat) (e k : Int) :
    Num.lt (.fin s m e) (.fin t n k) = true ↔ numVal s m e < numVal t n k := by
  obtain ⟨lo, hlo⟩ : ∃ lo, lo = if e ≤ k then e else k := ⟨_, rfl⟩
  have hx := numVal_scaleTo (lo := lo) (e := e) (by rw [hlo]; split <;> omega) s m
  have hy := numVal_scaleTo (lo := lo) (e := k) (by rw [hlo]; split <;> omega) t n
  have hval (v : Bool) (a : Nat) : numVal v a lo = ((if v then -(a : Int) else a : Int) : ℚ) * 2 ^ lo := by
    unfold numVal
    cases v <;> simp
  rw [← hx, ← hy, hval, hval]
  unfold Num.lt
  simp only [← hlo, decide_eq_true_eq]
  have : (0 : ℚ) < 2 ^ lo := by positivity
  rw [mul_lt_mul_iff_left₀ this]
  norm_cast

/-! ### Rounded sums and products (R45) -/

theorem RoundedOnce.of_sign {f : Fmt} {mode : Rnd} {r : Word} {sat z z' : Bool} {x : ℚ} {y : Nat × Flags}
    (h : RoundedOnce f mode r sat x z y) (hz : x = 0 → z = z') : RoundedOnce f mode r sat x z' y :=
  ⟨fun hx => hz hx ▸ h.1 hx, h.2⟩

/-- The sign of an exact zero sum (R44). -/
def zeroSign (mode : Rnd) (p q : Bool) : Bool := if p = q then p else mode == .rd

/-- A sum rounded once. -/
theorem rounded_add (f : Fmt) (mode : Rnd) (r : Word) (sat clean made s t : Bool) (m n : Nat) (e k : Int) (hmade : made = false) :
    RoundedOnce f mode r sat (numVal s m e + numVal t n k) (zeroSign mode s t)
      (rounded f mode r sat clean (made || (Num.add (mode == .rd) (.fin s m e) (.fin t n k)).2)
        (Num.add (mode == .rd) (.fin s m e) (.fin t n k)).1) := by
  obtain ⟨u, a, i, hadd, hval, hz⟩ := Num.add_fin (mode == .rd) s t m n e k
  rw [hadd, hmade, ← hval]
  have h := roundedOnce_roundNum f mode r sat u a i
  simp only [rounded, Bool.or_self, Bool.and_false, Bool.false_eq_true, if_false]
  exact h.of_sign fun h0 => hz (numVal_eq_zero.1 h0)

section
variable {f : Fmt} {a b c : Nat} {s t u : Bool} {m n i : Nat} {e k j : Int} (mode : Rnd) (r : Word) (sat : Bool)
  (ha : f.decode a = .fin s m e) (hb : f.decode b = .fin t n k)
include ha hb

theorem fpAdd_rounded : RoundedOnce f mode r sat (numVal s m e + numVal t n k) (zeroSign mode s t) (fpAdd f mode r sat a b) := by
  unfold fpAdd
  rw [ha, hb]
  exact rounded_add f mode r sat _ false s t m n e k rfl

theorem fpSub_rounded : RoundedOnce f mode r sat (numVal s m e - numVal t n k) (zeroSign mode s (!t)) (fpSub f mode r sat a b) := by
  unfold fpSub
  rw [ha, hb, sub_eq_add_neg, ← numVal_not]
  exact rounded_add f mode r sat _ false s (!t) m n e k rfl

theorem fpMul_rounded : RoundedOnce f mode r sat (numVal s m e * numVal t n k) (s ^^ t) (fpMul f mode r sat a b) := by
  unfold fpMul
  rw [ha, hb, ← numVal_mul]
  simp only [Num.mul, rounded, Bool.and_false, Bool.false_eq_true, if_false]
  exact roundedOnce_roundNum f mode r sat (s != t) (m * n) (e + k)

theorem fpFma_rounded (hc : f.decode c = .fin u i j) : RoundedOnce f mode r sat (numVal s m e * numVal t n k + numVal u i j)
    (zeroSign mode (s ^^ t) u) (fpFma f mode r sat a b c) := by
  unfold fpFma
  rw [ha, hb, hc, ← numVal_mul]
  exact rounded_add f mode r sat _ false (s != t) u (m * n) i (e + k) j rfl

end

/-! ### Minima and maxima (R121) -/

section
variable {f : Fmt} {a b : Nat}

theorem fpMinMax_nan_left (mx : Bool) (ha : (f.decode a).isNan = true) :
    fpMinMax f mx a b = if (f.decode b).isNan then f.nanBits else b := by
  unfold fpMinMax
  rw [ha]
  cases (f.decode b).isNan <;> rfl

theorem fpMinMax_nan_right (mx : Bool) (ha : (f.decode a).isNan = false) (hb : (f.decode b).isNan = true) : fpMinMax f mx a b = a := by
  unfold fpMinMax
  rw [ha, hb]

theorem fpMinMax_numbers (mx : Bool) (ha : (f.decode a).isNan = false) (hb : (f.decode b).isNan = false) :
    fpMinMax f mx a b = if (if mx then fpBelow f a b else fpBelow f b a) then b else a := by
  unfold fpMinMax
  rw [ha, hb]
  cases mx <;> rfl

/-- Nothing is below −∞, and everything else below +∞. -/
theorem fpBelow_inf_left {s : Bool} (ha : f.decode a = .inf s) (hb : (f.decode b).isNan = false) (hne : f.decode b ≠ .inf s) :
    fpBelow f a b = s := by
  unfold fpBelow
  rw [ha]
  cases hy : f.decode b with
  | nan =>
    rw [hy] at hb
    cases hb
  | inf t =>
    rw [hy] at hne
    cases s <;> cases t <;> simp [Num.lt, Num.isZero] at hne ⊢
  | fin t n k => simp [Num.lt, Num.isZero]

theorem fpBelow_inf_right {s : Bool} (hb : f.decode b = .inf s) (ha : (f.decode a).isNan = false) (hne : f.decode a ≠ .inf s) :
    fpBelow f a b = !s := by
  unfold fpBelow
  rw [hb]
  cases hx : f.decode a with
  | nan =>
    rw [hx] at ha
    cases ha
  | inf t =>
    rw [hx] at hne
    cases s <;> cases t <;> simp [Num.lt, Num.isZero] at hne ⊢
  | fin t n k => simp [Num.lt, Num.isZero]

theorem fpMinMax_mem (mx : Bool) (ha : (f.decode a).isNan = false) (hb : (f.decode b).isNan = false) :
    fpMinMax f mx a b = a ∨ fpMinMax f mx a b = b := by
  rw [fpMinMax_numbers mx ha hb]
  exact (ite_eq_or_eq _ _ _).symm

theorem fpMinMax_inf_left {s : Bool} (mx : Bool) (ha : f.decode a = .inf s)
    (hb : (f.decode b).isNan = false) (hne : f.decode b ≠ .inf s) : fpMinMax f mx a b = if mx = s then b else a := by
  rw [fpMinMax_numbers mx (by rw [ha]; rfl) hb, fpBelow_inf_left ha hb hne, fpBelow_inf_right ha hb hne]
  cases mx <;> cases s <;> rfl

theorem fpMinMax_inf_right {s : Bool} (mx : Bool) (hb : f.decode b = .inf s)
    (ha : (f.decode a).isNan = false) (hne : f.decode a ≠ .inf s) : fpMinMax f mx a b = if mx = s then a else b := by
  rw [fpMinMax_numbers mx ha (by rw [hb]; rfl), fpBelow_inf_left hb ha hne, fpBelow_inf_right hb ha hne]
  cases mx <;> cases s <;> rfl

theorem Num.isZero_fin (s : Bool) (m : Nat) (e : Int) : (Num.fin s m e).isZero = decide (m = 0) := by
  cases m <;> rfl

/-- Numbers by value, and a zero with a sign below one without. -/
theorem fpBelow_fin {s t : Bool} {m n : Nat} {e k : Int} (hf : 1 ≤ f.topField) (ha : f.decode a = .fin s m e)
    (hb : f.decode b = .fin t n k) :
    fpBelow f a b = true ↔ numVal s m e < numVal t n k ∨ (m = 0 ∧ n = 0 ∧ s = true ∧ t = false) := by
  obtain ⟨hs, -⟩ := Fmt.decode_fin hf ha
  obtain ⟨ht, -⟩ := Fmt.decode_fin hf hb
  unfold fpBelow
  rw [← hs, ← ht, ha, hb]
  simp [Num.lt_fin, Num.isZero_fin, and_assoc]

/-- Of two numbers the one below is the lesser. -/
theorem fpMinMax_fin {s t : Bool} {m n : Nat} {e k : Int} (hf : 1 ≤ f.topField) (ha : f.decode a = .fin s m e)
    (hb : f.decode b = .fin t n k) :
    (numVal s m e < numVal t n k ∨ (m = 0 ∧ n = 0 ∧ s = true ∧ t = false) → fpMinMax f false a b = a ∧ fpMinMax f true a b = b) ∧
    (numVal t n k < numVal s m e ∨ (m = 0 ∧ n = 0 ∧ t = true ∧ s = false) → fpMinMax f false a b = b ∧ fpMinMax f true a b = a) := by
  have hab := fpBelow_fin hf ha hb
  have hba := fpBelow_fin hf hb ha
  have hmm (mx : Bool) := fpMinMax_numbers mx (a := a) (b := b) (by rw [ha]; rfl) (by rw [hb]; rfl)
  have hzero (h : m = 0 ∧ n = 0) : numVal s m e = 0 ∧ numVal t n k = 0 := by
    obtain ⟨rfl, rfl⟩ := h
    exact ⟨numVal_zero _ _, numVal_zero _ _⟩
  rw [hmm, hmm]
  refine ⟨fun h => ?_, fun h => ?_⟩
  · have hno : ¬ fpBelow f b a = true := by
      rw [hba]
      rintro (hlt | ⟨hn, hm, ht, hs⟩) <;> rcases h with h | ⟨hm', hn', hs', ht'⟩
      · linarith
      · linarith [hzero ⟨hm', hn'⟩]
      · linarith [hzero ⟨hm, hn⟩]
      · simp [hs] at hs'
    simp [hab.2 h, hno]
  · have hno : ¬ fpBelow f a b = true := by
      rw [hab]
      rintro (hlt | ⟨hm, hn, hs, ht⟩) <;> rcases h with h | ⟨hm', hn', ht', hs'⟩
      · linarith
      · linarith [hzero ⟨hm', hn'⟩]
      · linarith [hzero ⟨hm, hn⟩]
      · simp [hs] at hs'
    simp [hba.2 (by rcases h with h | ⟨h1, h2, h3, h4⟩ <;> simp [*]), hno]

end

/-! ### The instructions -/

@[simp] theorem lookDraws_st (rnd : Rnd) (n : Nat) (l : Lane) : (lookDraws rnd n l).1.st = l.st := by
  unfold lookDraws
  split <;> rfl

/-- A rounded FP32 operation on two registers. -/
theorem laneF3_result {i : Instr} {o : OF3} {f : Fmt → Rnd → Word → Bool → Nat → Nat → Nat × Flags}
    (e : ∀ s, exec i s = laneF3 i o f s) (hns : sends i = false := by rfl) : LaneFlagResult i o.gd o.u (fun n a l =>
      let (l', r) := lookDraws o.rnd 1 l
      let x := f .f32 o.rnd (r.headD 0) o.sat (a.v n o.a.toNat).toNat (a.v n o.b.toNat).toNat
      (l'.setV n o.d.toNat (BitVec.ofNat 32 x.1), x.2)) :=
  laneFlagOp_result e (fun _ _ l => by simp) hns

theorem ffma_result (o : OF4) : LaneFlagResult (.ffma o) o.gd o.u (fun n a l =>
    let (l', r) := lookDraws o.rnd 1 l
    let x := fpFma .f32 o.rnd (r.headD 0) o.sat (a.v n o.a.toNat).toNat (a.v n o.b.toNat).toNat (a.v n o.c.toNat).toNat
    (l'.setV n o.d.toNat (BitVec.ofNat 32 x.1), x.2)) := by
  have e (s : State) : exec (.ffma o) s = execFfma o s := rfl
  exact laneFlagOp_result (fun s => (e s).trans rfl) (fun _ _ l => by simp)

/-- An operation on the bits of one or two registers. -/
theorem laneFBits_result {i : Instr} {g : Guard} {u : Bool} {d a b : Reg} {f : Nat → Nat → Nat}
    (e : ∀ s, exec i s = laneFBits i g u d a b f s) (hns : sends i = false := by rfl) :
    LaneResult i g u (fun n l l' => l'.setV n d.toNat (BitVec.ofNat 32 (f (l.v n a.toNat).toNat (l.v n b.toNat).toNat))) noFlags :=
  lane1_result e hns

/-- Settles O9: the instructions by the shape of a rounded lane operation; the exact sums and products by their values. -/
theorem laneFloat : Obligations.LaneFloat := by
  unfold Obligations.LaneFloat
  intro round bits
  refine ⟨fun o => laneF3_result fun s => rfl, fun o => laneF3_result fun s => rfl, fun o => laneF3_result fun s => rfl,
    ffma_result, fun o => laneFBits_result fun s => rfl, fun o => laneFBits_result fun s => rfl,
    fun o => laneFBits_result (b := 0) (f := fun x _ => fpSign .f32 false x) fun s => rfl,
    fun o => laneFBits_result (b := 0) (f := fun x _ => fpSign .f32 true x) fun s => rfl,
    fun mx a b => ⟨fun ha => fpMinMax_nan_left mx ha, fun ha hb => fpMinMax_nan_right mx ha hb, fun ha hb => fpMinMax_mem mx ha hb,
      fun s ha hb hne => fpMinMax_inf_left mx ha hb hne, fun s hb ha hne => fpMinMax_inf_right mx hb ha hne,
      fun s m e t n k ha hb => fpMinMax_fin (by decide) ha hb⟩,
    fun f mode r sat a b s t m n e k ha hb => ⟨fpAdd_rounded mode r sat ha hb, fpSub_rounded mode r sat ha hb,
      fpMul_rounded mode r sat ha hb, fun c u i j hc => fpFma_rounded mode r sat ha hb hc⟩⟩

end Sys2Proof.Machine

namespace Sys2Proof.Machine

/-! ### Encodings of the values that a format holds (R42) -/

namespace Fmt

theorem field_mul_add {x e : Nat} (p q : Nat) (hx : x < 2 ^ p) (he : e < 2 ^ q) (hi : Nat) :
    field (hi * 2 ^ (p + q) + (e * 2 ^ p + x)) 0 p = x ∧ field (hi * 2 ^ (p + q) + (e * 2 ^ p + x)) p q = e ∧
      (hi * 2 ^ (p + q) + (e * 2 ^ p + x)) / 2 ^ (p + q) = hi := by
  have h0 : hi * 2 ^ (p + q) + (e * 2 ^ p + x) = x + 2 ^ p * (e + 2 ^ q * hi) := by
    rw [Nat.pow_add]
    ring
  unfold field
  rw [h0, Nat.pow_zero, Nat.div_one, Nat.add_mul_mod_self_left, Nat.mod_eq_of_lt hx, Nat.pow_add, ← Nat.div_div_eq_div_mul,
    Nat.add_mul_div_left _ _ (Nat.two_pow_pos p), Nat.div_eq_of_lt hx, Nat.zero_add, Nat.add_mul_mod_self_left, Nat.mod_eq_of_lt he,
    Nat.add_mul_div_left _ _ (Nat.two_pow_pos q), Nat.div_eq_of_lt he, Nat.zero_add]
  exact ⟨rfl, rfl, rfl⟩

/-- A sign, an exponent field and a fraction are an encoding's own. -/
theorem parts_signed (f : Fmt) (s : Bool) {e x : Nat} (hx : x < 2 ^ f.mb) (he : e < 2 ^ f.eb) :
    field (f.signed s (e * 2 ^ f.mb + x)) 0 f.mb = x ∧ field (f.signed s (e * 2 ^ f.mb + x)) f.mb f.eb = e ∧
      bit (f.signed s (e * 2 ^ f.mb + x)) (f.eb + f.mb) = s := by
  obtain ⟨h1, h2, h3⟩ := field_mul_add f.mb f.eb hx he s.toNat
  have h0 : f.signed s (e * 2 ^ f.mb + x) = s.toNat * 2 ^ (f.mb + f.eb) + (e * 2 ^ f.mb + x) := by
    cases s <;> simp [signed, signBit, Nat.add_comm]
  refine ⟨h0 ▸ h1, h0 ▸ h2, ?_⟩
  unfold bit
  rw [h0, Nat.add_comm f.eb, h3]
  cases s <;> rfl

/-- A held value's encoding stands for it. -/
theorem decode_holds {f : Fmt} {j m : Nat} (hi : f.hasInf = true) (h : f.Holds j m) (s : Bool) :
    f.decode (f.signed s (j * 2 ^ f.mb + m)) = .fin s m (f.expo j) := by
  have h2 : 2 ^ (f.mb + 1) = 2 * 2 ^ f.mb := by rw [Nat.pow_succ, Nat.mul_comm]
  have ht : f.topField = 2 ^ f.eb - 2 := by rw [topField, if_pos hi]
  have := h.top
  have := h.lt
  by_cases hm : m < 2 ^ f.mb
  · obtain rfl : j = 0 := h.normal.resolve_right (by omega)
    obtain ⟨hx, he, hs⟩ := f.parts_signed s (e := 0) hm (Nat.two_pow_pos _)
    have hne : (0 == 2 ^ f.eb - 1) = false := by simp only [beq_eq_false_iff_ne]; omega
    unfold decode
    rw [hx, he, hs, hi]
    simp [hne, expo]
  · obtain ⟨hx, he, hs⟩ := f.parts_signed s (e := j + 1) (x := m - 2 ^ f.mb) (by omega) (by omega)
    have hj : j * 2 ^ f.mb + m = (j + 1) * 2 ^ f.mb + (m - 2 ^ f.mb) := by rw [Nat.succ_mul]; omega
    have hne : (j + 1 == 2 ^ f.eb - 1) = false := by simp only [beq_eq_false_iff_ne]; omega
    unfold decode
    rw [hj, hx, he, hs, hi]
    simp only [hne, Bool.and_false, Bool.false_eq_true, if_false, Bool.not_true, Bool.false_and, Nat.add_eq_zero_iff, one_ne_zero, and_false,
      beq_iff_eq, Num.fin.injEq, true_and, expo, emin]
    refine ⟨by omega, ?_⟩
    push_cast
    ring

theorem signed_holds_lt {f : Fmt} {j m : Nat} (hi : f.hasInf = true) (h : f.Holds j m) (s : Bool) :
    f.signed s (j * 2 ^ f.mb + m) < 2 ^ (1 + f.eb + f.mb) := by
  have hlt := h.lt
  have htop := h.top
  rw [topField, if_pos hi] at htop
  have hx : j * 2 ^ f.mb + m < 2 ^ f.eb * 2 ^ f.mb := by
    calc j * 2 ^ f.mb + m < j * 2 ^ f.mb + 2 * 2 ^ f.mb := Nat.add_lt_add_left (by rwa [Nat.pow_succ, Nat.mul_comm] at hlt) _
      _ = (j + 2) * 2 ^ f.mb := (Nat.add_mul ..).symm
      _ ≤ 2 ^ f.eb * 2 ^ f.mb := Nat.mul_le_mul_right _ (by omega)
  rw [← Nat.pow_add] at hx
  have h2 : 2 ^ (1 + f.eb + f.mb) = 2 * 2 ^ (f.eb + f.mb) := by rw [Nat.add_assoc, Nat.pow_add, Nat.pow_one]
  unfold signed signBit
  split <;> omega

/-- A significand short enough, with its ends inside the format's range, is that of a value it holds. -/
theorem exists_holds {f : Fmt} {m : Nat} {e : Int} (hi : f.hasInf = true) (hf : 1 ≤ f.topField) (hm : m ≠ 0) (hlt : m < 2 ^ (f.mb + 1))
    (hlo : f.emin - f.mb ≤ e) (hhi : Num.lead m e ≤ f.etop) (s : Bool) :
    ∃ j n, f.Holds j n ∧ n ≠ 0 ∧ numVal s n (f.expo j) = numVal s m e := by
  have hlog : m.log2 ≤ f.mb := Nat.lt_succ_iff.1 ((Nat.log2_lt hm).2 hlt)
  obtain ⟨q, hq⟩ : ∃ q : Int, q = max (Num.lead m e - f.mb) (f.emin - f.mb) := ⟨_, rfl⟩
  unfold Num.lead at hq hhi
  have hqe : q ≤ e := by omega
  obtain ⟨j, hj⟩ : ∃ j : Nat, q = f.expo j := ⟨(q - (f.emin - f.mb)).toNat, by unfold expo; omega⟩
  have hn : Num.scaleTo m e q ≠ 0 := Nat.mul_ne_zero hm (Nat.two_pow_pos _).ne'
  have hnlog : (Num.scaleTo m e q).log2 = m.log2 + (e - q).toNat := log2_mul_two_pow hm _
  have hnlt : Num.scaleTo m e q < 2 ^ (f.mb + 1) := (Nat.log2_lt hn).1 (by omega)
  refine ⟨j, Num.scaleTo m e q, ⟨?_, hnlt, ?_, fun _ => ?_⟩, hn, hj ▸ numVal_scaleTo hqe s m⟩
  · by_cases h0 : j = 0
    · exact .inl h0
    · refine .inr ((Nat.le_log2 hn).1 ?_)
      unfold expo at hj
      omega
  · unfold expo emin at hj
    unfold etop at hhi
    unfold emin at hq
    omega
  · unfold maxSig
    rw [if_pos hi]
    omega

end Fmt

/-- A value that FP32 holds, rounded to FP32, is an encoding of it. -/
theorem decode_roundNum {f : Fmt} {m : Nat} {e : Int} (hi : f.hasInf = true) (hf : 1 ≤ f.topField) (hlt : m < 2 ^ (f.mb + 1))
    (hlo : f.emin - f.mb ≤ e) (hhi : Num.lead m e ≤ f.etop) (mode : Rnd) (r : Word) (s : Bool) :
    (roundNum f mode r false false (.fin s m e)).1 < 2 ^ (1 + f.eb + f.mb) ∧
      ∃ n k, f.decode (roundNum f mode r false false (.fin s m e)).1 = .fin s n k ∧ numVal s n k = numVal s m e := by
  by_cases hm : m = 0
  · have h0 : f.Holds 0 0 := ⟨.inl rfl, Nat.two_pow_pos _, hf, fun _ => Nat.zero_le _⟩
    have hdec := Fmt.decode_holds hi h0 s
    have hlt := Fmt.signed_holds_lt hi h0 s
    rw [Nat.zero_mul] at hdec hlt
    rw [roundNum, if_pos hm]
    exact ⟨hlt, 0, f.expo 0, hdec, by rw [hm, numVal_zero, numVal_zero]⟩
  · obtain ⟨j, n, hh, hn, hval⟩ := Fmt.exists_holds hi hf hm hlt hlo hhi s
    rw [roundNum, if_neg hm, roundFin_congr f mode r false false hm hn hval.symm, Fmt.roundFin_holds hh hn]
    exact ⟨Fmt.signed_holds_lt hi hh s, n, f.expo j, Fmt.decode_holds hi hh s, hval⟩

/-- The range of the values of a format. -/
theorem Fmt.decode_range {f : Fmt} {w m : Nat} {s : Bool} {e : Int} (hf : 1 ≤ f.topField) (h : f.decode w = .fin s m e) :
    m < 2 ^ (f.mb + 1) ∧ f.emin - f.mb ≤ e ∧ Num.lead m e ≤ f.etop := by
  obtain ⟨-, j, rfl, hh, -⟩ := Fmt.decode_fin hf h
  have hlog : m.log2 ≤ f.mb := by
    by_cases hm : m = 0
    · rw [hm, Nat.log2_zero]
      omega
    · exact (Fmt.log2_holds hh hm).1
  have := hh.top
  refine ⟨hh.lt, ?_, ?_⟩
  · unfold Fmt.expo
    omega
  · unfold Num.lead Fmt.expo Fmt.etop Fmt.emin
    omega

/-! ### Unpacking (R128) -/

/-- A number in FP32. -/
def toF32 (x : Num) : Word := BitVec.ofNat 32 (roundNum .f32 .rn 0 false false x).1

/-- An FP32 register stands for a number, NaN being the canonical one. -/
def ShowsNum (w : Word) (v : Num) : Prop :=
  (v.isNan = true → w = 0x7FC00000) ∧ (∀ s, v = .inf s → Fmt.f32.decode w.toNat = .inf s) ∧
    ∀ s m e, v = .fin s m e → ∃ n k, Fmt.f32.decode w.toNat = .fin s n k ∧ numVal s n k = numVal s m e

theorem toF32_nan {x : Num} (h : x.isNan = true) : toF32 x = 0x7FC00000 := by
  cases x with
  | nan => rfl
  | inf s => cases h
  | fin s m e => cases h

theorem decode_toF32_inf (s : Bool) : Fmt.f32.decode (toF32 (.inf s)).toNat = .inf s := by
  cases s <;> decide

theorem decode_toF32_fin {m : Nat} {e : Int} (hm : m < 2 ^ 24) (hlo : -149 ≤ e) (hhi : Num.lead m e ≤ 127) (s : Bool) :
    ∃ n k, Fmt.f32.decode (toF32 (.fin s m e)).toNat = .fin s n k ∧ numVal s n k = numVal s m e := by
  obtain ⟨hlt, h⟩ := decode_roundNum (f := .f32) rfl (by decide) hm hlo hhi .rn 0 s
  rwa [toF32, BitVec.toNat_ofNat, Nat.mod_eq_of_lt (b := 2 ^ 32) hlt]

/-- An element of a narrower format keeps its value. -/
theorem decode_toF32 {f : Fmt} (hf : 1 ≤ f.topField) (hm : f.mb ≤ 23) (hlo : -149 ≤ f.emin - f.mb) (hhi : f.etop ≤ 127) (x : Nat) :
    ShowsNum (toF32 (f.decode x)) (f.decode x) := by
  refine ⟨toF32_nan, fun s h => h ▸ decode_toF32_inf s, fun s m e h => ?_⟩
  obtain ⟨h1, h2, h3⟩ := Fmt.decode_range hf h
  rw [h]
  exact decode_toF32_fin (h1.trans_le (Nat.pow_le_pow_right (by decide) (by omega))) (by omega) (by omega) s

theorem q4Grid_le (ty i : Nat) : (q4Grid ty).getD i 0 ≤ 128 := by
  have hall : ∀ g ∈ q4Grid ty, g ≤ 128 := by
    unfold q4Grid
    split <;> decide
  rw [List.getD_eq_getElem?_getD]
  cases h : (q4Grid ty)[i]? with
  | none => simp
  | some g => exact hall g (List.mem_of_getElem? h)

/-- The numbers of q4 (R48). -/
theorem q4Decode_range {scale code m : Nat} {s : Bool} {e : Int} (h : q4Decode scale code = .fin s m e) :
    m ≤ 128 ∧ -35 ≤ e ∧ e ≤ 31 := by
  have hE : field scale 0 6 < 64 := Nat.mod_lt _ (by decide)
  unfold q4Decode at h
  extract_lets ty E at h
  change E < 64 at hE
  clear_value ty E
  split at h
  · cases h
  · rename_i h63
    rw [beq_iff_eq] at h63
    split at h <;> cases h
    · have hv : (sxInt code 4).natAbs ≤ 128 := by
        unfold sxInt
        split <;> omega
      exact ⟨hv, by omega, by omega⟩
    · exact ⟨q4Grid_le _ _, by omega, by omega⟩

/-- A q4 element keeps its value (R48). -/
theorem decode_toF32_q4 (scale code : Nat) : ShowsNum (toF32 (q4Decode scale code)) (q4Decode scale code) := by
  refine ⟨toF32_nan, fun s h => h ▸ decode_toF32_inf s, fun s m e h => ?_⟩
  rw [h]
  obtain ⟨hm, hlo, hhi⟩ := q4Decode_range h
  have hlog : m.log2 < 8 := by
    by_cases h0 : m = 0
    · simp [h0]
    · exact (Nat.log2_lt h0).2 (by omega)
  exact decode_toF32_fin (by omega) (by omega) (by unfold Num.lead; omega) s

/-! ### Conversions (R126) -/

/-- A rounded integer depends on the value alone. -/
theorem roundAt_congr (mode : Rnd) (r : Word) {s t : Bool} {m n : Nat} {e k : Int} (q : Int) (hm : m ≠ 0) (hn : n ≠ 0)
    (h : numVal s m e = numVal t n k) : s = t ∧ roundAt mode r s m e q = roundAt mode r t n k q := by
  wlog hle : e ≤ k generalizing s t m n e k
  · obtain ⟨h1, h2⟩ := this hn hm h.symm (by omega)
    exact ⟨h1.symm, h2.symm⟩
  · obtain ⟨rfl, rfl⟩ := numVal_eq_iff hm hn hle h
    have := roundAt_scale mode r s n (k - e).toNat k q
    rw [show k - ((k - e).toNat : Int) = e by omega] at this
    exact ⟨rfl, this⟩

/-- A number rounded once to an integer type (R52, R53). -/
theorem roundInt_fin (ty : Ty) (mode : Rnd) (r : Word) (s : Bool) {m : Nat} (e : Int) (hm : m ≠ 0) :
    let y := roundAt mode r s m e 0
    let z : Int := if s then -(y.1 : Int) else y.1
    let c := max (intRange ty).1 (min (intRange ty).2 z)
    roundInt ty mode r (.fin s m e) = ((c % 2 ^ ty.width).toNat, if c = z then (if y.2.1 then 0b00001 else 0) else 0b10001) := by
  intro y z c
  have h : roundInt ty mode r (.fin s m e) = (if z == clampTo ty z then (intBits ty z, if y.2.1 then fInexact else 0)
      else (intBits ty (clampTo ty z), fInvalid ||| fInexact)) := if_neg hm
  have hc : clampTo ty z = c := clampTo_eq ty z
  rw [h, hc]
  by_cases hz : c = z
  · rw [if_pos hz, hz, if_pos (beq_self_eq_true z)]
    rfl
  · rw [if_neg hz, if_neg (by simpa using Ne.symm hz)]
    rfl

/-- An integer as a number. -/
theorem numVal_int (i : Int) : numVal (decide (i < 0)) i.natAbs 0 = i := by
  have h : ((i.natAbs : Int) : ℚ) = if i < 0 then -(i : ℚ) else i := by
    split
    · rw [show (i.natAbs : Int) = -i by omega, Int.cast_neg]
    · rw [show (i.natAbs : Int) = i by omega]
  rw [Int.cast_natCast] at h
  unfold numVal
  rw [zpow_zero, mul_one, h]
  by_cases hi : i < 0 <;> simp [hi]

section
variable {t1 t2 : Ty} (mode : Rnd) (r : Word) (sat : Bool) {x : Nat}

theorem convert_float_float {s : Bool} {m : Nat} {e : Int} (h2 : isFloat t2 = true) (h1 : isFloat t1 = true)
    (hx : (Fmt.ofTy t2).decode x = .fin s m e) :
    RoundedOnce (Fmt.ofTy t1) mode r sat (numVal s m e) s (convert t1 t2 mode r sat x) := by
  unfold convert
  rw [if_pos h2, if_pos h1, hx]
  exact roundedOnce_roundNum ..

theorem convert_float_int (h2 : isFloat t2 = true) (h1 : isFloat t1 = false) :
    convert t1 t2 mode r sat x = roundInt t1 mode r ((Fmt.ofTy t2).decode x) := by
  unfold convert
  rw [if_pos h2, h1]
  rfl

theorem convert_int_float (h2 : isFloat t2 = false) (h1 : isFloat t1 = true) :
    RoundedOnce (Fmt.ofTy t1) mode r sat (bitsInt t2 x) false (convert t1 t2 mode r sat x) := by
  have h := roundedOnce_roundNum (Fmt.ofTy t1) mode r sat (decide (bitsInt t2 x < 0)) (bitsInt t2 x).natAbs 0
  rw [numVal_int] at h
  unfold convert
  rw [h2, h1]
  exact h.of_sign fun h0 => by
    rw [Int.cast_eq_zero] at h0
    rw [h0]
    rfl

theorem convert_int_int (h2 : isFloat t2 = false) (h1 : isFloat t1 = false) :
    convert t1 t2 mode r sat x = (satInt t1 sat (bitsInt t2 x), 0) := by
  unfold convert
  rw [h2, h1]
  rfl

end

/-! ### Classes (R129) -/

theorem classOf_fin {f : Fmt} {x m : Nat} {s : Bool} {e : Int} (hf : 1 ≤ f.topField) (h : f.decode x = .fin s m e) :
    classOf f x = if m == 0 then (if s then 3 else 4) else if x / 2 ^ f.mb % 2 ^ f.eb != 0 then (if s then 1 else 6)
      else if s then 2 else 5 := by
  obtain ⟨-, j, -, -, -, hnormal⟩ := Fmt.decode_fin hf h
  change x / 2 ^ f.mb % 2 ^ f.eb = 0 ↔ _ at hnormal
  unfold classOf
  rw [h]
  by_cases hm : m < 2 ^ f.mb
  · simp [hm, hnormal.2 hm]
  · simp [hm, mt hnormal.1 hm]

/-! ### The instructions -/

/-- The bit of a class. -/
theorem one_shl (n : Nat) : (1 : Word) <<< n = BitVec.ofNat 32 (2 ^ n) := by
  apply BitVec.eq_of_toNat_eq
  simp [Nat.shiftLeft_eq]

/-- A lane whose register d takes two elements of 16 bits, each rounded with its own draw, and the flags of both. -/
def halves (d : Reg) (rnd : Rnd) (f : Nat → Lane → Nat → Word → Nat × Flags) (n : Nat) (a l : Lane) : Lane × Flags :=
  let (l', r) := lookDraws rnd 2 l
  let x := f n a 0 (r.getD 0 0)
  let y := f n a 1 (r.getD 1 0)
  (l'.setV n d.toNat (pack2 x.1 y.1), x.2 ||| y.2)

theorem laneHalf_result {i : Instr} {g : Guard} {u : Bool} {d : Reg} {rnd : Rnd} {f : Nat → Lane → Nat → Word → Nat × Flags}
    (e : ∀ s, exec i s = laneHalf i g u d rnd f s) (hns : sends i = false := by rfl) : LaneFlagResult i g u (halves d rnd f) :=
  laneFlagOp_result e (fun _ _ l => by simp [halves]) hns

theorem hfma2_result (o : OF4) : LaneFlagResult (.hfma2 o) o.gd o.u (halves o.d o.rnd (fun n a i r => fpFma (Fmt.ofTy o.ty) o.rnd r o.sat
    (elem (a.v n o.a.toNat) 16 i) (elem (a.v n o.b.toNat) 16 i) (elem (a.v n o.c.toNat) 16 i))) :=
  have e (s : State) : exec (.hfma2 o) s = execHfma2 o s := rfl
  laneHalf_result e

theorem hadd2_result (o : OHadd) : LaneFlagResult (.hadd2 o) o.gd o.u (halves o.d o.rnd (fun n a i r => fpAdd (Fmt.ofTy o.ty) o.rnd r o.sat
    (elem (a.v n o.a.toNat) 16 i) (elem (a.v n o.b.toNat) 16 i))) :=
  have e (s : State) : exec (.hadd2 o) s = execHadd2 o s := rfl
  laneHalf_result e

theorem upk_result (o : OUpk) : LaneResult (.upk o) o.gd o.u (fun n a l => l.setV n o.d.toNat
    (widen o.t2 (elem (a.v n o.b.toNat) 8 0) (elem (a.v n o.a.toNat) o.t2.width o.el.toNat))) noFlags :=
  have e (s : State) : exec (.upk o) s = execUpk o s := rfl
  lane1_result (f := fun n a => widen o.t2 (elem (a.v n o.b.toNat) 8 0) (elem (a.v n o.a.toNat) o.t2.width o.el.toNat)) e

theorem fpclass_result (o : OCls) : LaneResult (.fpclass o) o.gd o.u (fun n a l => l.setV n o.d.toNat
    (BitVec.ofNat 32 (2 ^ classOf (Fmt.ofTy o.ty) (elem (a.v n o.a.toNat) o.ty.width 0)))) noFlags := by
  have e (s : State) : exec (.fpclass o) s = execFpclass o s := rfl
  unfold execFpclass at e
  simp only [one_shl] at e
  exact lane1_result e

theorem cvt_narrow_result (o : OCvt) (h : o.t1.is64 = false) : LaneFlagResult (.cvt o) o.gd o.u (fun n a l =>
    let (l', r) := lookDraws o.rnd 1 l
    let y := convert o.t1 o.t2 o.rnd (r.headD 0) o.sat
      (if o.t2.is64 then (a.v64 n o.a.toNat).toNat else elem (a.v n o.a.toNat) o.t2.width 0)
    (l'.setV n o.d.toNat (setElem (l'.v n o.d.toNat) o.t1.width o.el.toNat y.1), y.2)) := by
  have e (s : State) : exec (.cvt o) s = execCvt o s := rfl
  unfold execCvt at e
  simp only [h, Bool.false_eq_true, if_false] at e
  exact laneFlagOp_result e (fun _ _ l => by simp)

theorem cvt_wide_result (o : OCvt) (h : o.t1.is64 = true) : LaneFlagResult (.cvt o) o.gd o.u (fun n a l =>
    let (l', r) := lookDraws o.rnd 1 l
    let y := convert o.t1 o.t2 o.rnd (r.headD 0) o.sat
      (if o.t2.is64 then (a.v64 n o.a.toNat).toNat else elem (a.v n o.a.toNat) o.t2.width 0)
    ((l'.setV n o.d.toNat (BitVec.ofNat 32 y.1)).setV n (o.d.toNat + 1) (BitVec.ofNat 32 (y.1 / 2 ^ 32)), y.2)) := by
  have e (s : State) : exec (.cvt o) s = execCvt o s := rfl
  unfold execCvt at e
  simp only [h, if_true, Lane.setVs_words64] at e
  exact laneFlagOp_result e (fun _ _ l => by simp)

theorem pk4_result (o : OPk) : LaneFlagResult (.pk4 o) o.gd o.u (fun n a l =>
    let (l', r) := lookDraws o.rnd 2 l
    let one (x r : Word) : Nat × Flags :=
      if o.ty == .q4 then q4Round (elem (a.v n o.c.toNat) 8 0) o.rnd r (Fmt.f32.decode x.toNat)
      else convert o.ty .f32 o.rnd r o.sat x.toNat
    let x := one (a.v n o.a.toNat) (r.getD 0 0)
    let y := one (a.v n o.b.toNat) (r.getD 1 0)
    (l'.setV n o.d.toNat (setElem (setElem (l'.v n o.d.toNat) o.ty.width (2 * o.j.toNat) x.1) o.ty.width (2 * o.j.toNat + 1) y.1),
     x.2 ||| y.2)) := by
  have e (s : State) : exec (.pk4 o) s = execPk4 o s := rfl
  exact laneFlagOp_result (fun s => (e s).trans rfl) (fun _ _ l => by simp)

theorem widen_q4 (scale x : Nat) : widen .q4 scale x = toF32 (q4Decode scale x) := rfl

theorem widen_float {ty : Ty} (hf : isFloat ty = true) (scale x : Nat) : widen ty scale x = toF32 ((Fmt.ofTy ty).decode x) := by
  cases ty <;> simp [isFloat] at hf <;> rfl

/-- Unpacking a floating-point element. -/
theorem decode_widen {ty : Ty} (ht : ty ∈ [Ty.bf16, .f16, .e5m2, .e4m3, .q4]) (scale x : Nat) :
    ShowsNum (widen ty scale x) (if ty = .q4 then q4Decode scale x else (Fmt.ofTy ty).decode x) := by
  have hfmt : ∀ f ∈ [Fmt.bf16, .f16, .e5m2, .e4m3], 1 ≤ f.topField ∧ f.mb ≤ 23 ∧ -149 ≤ f.emin - f.mb ∧ f.etop ≤ 127 := by decide
  by_cases hq : ty = .q4
  · subst hq
    exact decode_toF32_q4 scale x
  · have hf : isFloat ty = true ∧ Fmt.ofTy ty ∈ [Fmt.bf16, .f16, .e5m2, .e4m3] := by
      cases ty <;> simp [Fmt.ofTy, isFloat] at ht hq ⊢
    obtain ⟨h1, h2, h3, h4⟩ := hfmt _ hf.2
    rw [if_neg hq, widen_float hf.1]
    exact decode_toF32 h1 h2 h3 h4 x

theorem widen_int (ty : Ty) (hf : isFloat ty = false) (hq : ty ≠ .q4) (scale x : Nat) :
    widen ty scale x = BitVec.ofInt 32 (bitsInt ty x) := by
  unfold widen
  rw [if_neg (by simpa using hq), hf]
  rfl

/-- Unpacking an integer element. -/
theorem widen_signed {ty : Ty} (ht : ty ∈ [Ty.s8, .s16]) (scale x : Nat) : (widen ty scale x).toInt = bitsInt ty x := by
  simp only [List.mem_cons, List.not_mem_nil, or_false] at ht
  rcases ht with rfl | rfl <;> rw [widen_int _ rfl (by decide), BitVec.toInt_ofInt] <;> refine Int.bmod_eq_of_le ?_ ?_ <;>
    simp [bitsInt, Ty.isSigned, Ty.width, sxInt] <;> omega

theorem widen_natural {ty : Ty} (ht : ty ∈ [Ty.n8, .n16]) (scale : Nat) {x : Nat} (hx : x < 2 ^ ty.width) : (widen ty scale x).toNat = x := by
  have hlt : x < 2 ^ 32 ∧ (bitsInt ty x = x ∧ isFloat ty = false ∧ ty ≠ .q4) := by
    simp only [List.mem_cons, List.not_mem_nil, or_false] at ht
    rcases ht with rfl | rfl <;> simp [Ty.width] at hx <;> simp [bitsInt, Ty.isSigned, Ty.width, isFloat] <;> omega
  obtain ⟨h32, hbits, hf, hq⟩ := hlt
  rw [widen_int ty hf hq, hbits, BitVec.ofInt_natCast, BitVec.toNat_ofNat, Nat.mod_eq_of_lt h32]

/-- Settles O11: the instructions by the shape of a rounded lane operation; a narrower format's values are held by FP32; a conversion
rounds the value of its source. -/
theorem laneHalfAndConvert : Obligations.LaneHalfAndConvert := by
  unfold Obligations.LaneHalfAndConvert
  intro half
  refine ⟨hfma2_result, hadd2_result, cvt_narrow_result, cvt_wide_result, pk4_result, upk_result, fpclass_result,
    fun ty scale x ht hx hs => decode_widen ht scale x, fun ty ht scale x _ => widen_signed ht scale x,
    fun ty ht scale x hx => widen_natural ht scale hx, fun ty ht x => ?_, fun t1 t2 mode r sat x => ⟨fun s m e h2 hx => ⟨fun h1 => convert_float_float mode r sat h2 h1 hx, fun h1 => ⟨fun h0 => ?_,
      fun t n k hn hv => ?_⟩⟩, fun h2 => ⟨convert_int_float mode r sat h2, convert_int_int mode r sat h2⟩⟩⟩
  · intro f c
    have hf : ∀ ty ∈ [Ty.f32, .bf16, .f16, .e5m2, .e4m3], 1 ≤ (Fmt.ofTy ty).topField := by decide
    refine ⟨fun h => ?_, fun s h => ?_, fun s m e h => ?_⟩
    · simp only [c, classOf, h]
    · simp only [c, classOf, h]
    · simp only [c, classOf_fin (hf ty ht) h, f]
      clear h
      generalize (m == 0) = zero, (x / 2 ^ (Fmt.ofTy ty).mb % 2 ^ (Fmt.ofTy ty).eb != 0) = normal
      revert s zero normal
      decide
  · rw [convert_float_int mode r sat h2 h1, hx, roundInt, if_pos (numVal_eq_zero.1 h0)]
  · have hm : m ≠ 0 := fun hm => hn (numVal_eq_zero.1 (hv.trans (numVal_eq_zero.2 hm)))
    obtain ⟨rfl, hr⟩ := roundAt_congr mode r 0 hn hm hv
    rw [hr, convert_float_int mode r sat h2 h1, hx]
    exact roundInt_fin t1 mode r t e hm

end Sys2Proof.Machine

namespace Sys2Proof.Machine

/-! ### The group sum (R184) -/

theorem foldl_add_eq_sum {α : Type} (f : α → Int) (l : List α) (x : Int) : l.foldl (fun t p => t + f p) x = x + (l.map f).sum := by
  induction l generalizing x with
  | nil => simp
  | cons a l ih => rw [List.foldl_cons, ih, List.map_cons, List.sum_cons, Int.add_assoc]

/-- The units of 2^q in a product, truncated toward zero. -/
theorem truncTo_fin (q : Int) (s : Bool) (m : Nat) (e : Int) :
    truncTo q (.fin s m e) = (if s then -1 else 1) * ⌊(m : ℚ) * (2 : ℚ) ^ (e - q)⌋ := by
  have hfloor : ⌊(m : ℚ) * (2 : ℚ) ^ (e - q)⌋ = ((if q ≤ e then m * 2 ^ (e - q).toNat else m / 2 ^ (q - e).toNat : Nat) : Int) := by
    split
    · rename_i h
      have hz : (2 : ℚ) ^ (e - q) = ((2 ^ (e - q).toNat : Nat) : ℚ) := by
        rw [Nat.cast_pow, Nat.cast_ofNat, ← zpow_natCast, Int.toNat_of_nonneg (by omega)]
      rw [hz, ← Nat.cast_mul, Int.floor_natCast]
    · rename_i h
      have hz : (2 : ℚ) ^ (e - q) = ((2 ^ (q - e).toNat : Nat) : ℚ)⁻¹ := by
        rw [Nat.cast_pow, Nat.cast_ofNat, ← zpow_natCast, Int.toNat_of_nonneg (by omega), ← zpow_neg, neg_sub]
      rw [hz, ← div_eq_mul_inv, Rat.floor_natCast_div_natCast]
      rfl
  rw [hfloor]
  dsimp only [truncTo]
  generalize (if q ≤ e then m * 2 ^ (e - q).toNat else m / 2 ^ (q - e).toNat) = n
  cases s <;> simp

section
variable {f : Nat} {ps : List Num}

theorem any_isNan : ps.any Num.isNan = true ↔ Num.nan ∈ ps := by
  rw [List.any_eq_true]
  constructor
  · rintro ⟨x, hx, hn⟩
    cases x with
    | nan => exact hx
    | inf s => cases hn
    | fin s m e => cases hn
  · exact fun h => ⟨_, h, rfl⟩

theorem mem_infs {s : Bool} : Num.inf s ∈ ps.filter Num.isInf ↔ Num.inf s ∈ ps := by simp [Num.isInf]

theorem groupSum_nan (h : Num.nan ∈ ps ∨ (Num.inf false ∈ ps ∧ Num.inf true ∈ ps)) : groupSum f ps = .nan := by
  unfold groupSum
  split
  · rfl
  · rename_i hn
    obtain ⟨h1, h2⟩ := h.resolve_left (fun hm => hn (any_isNan.2 hm))
    rw [if_pos (by simp [Num.isInf, h1, h2])]

/-- Where products are infinite and none is NaN, the sum is one of them. -/
theorem groupSum_inf {s : Bool} (hn : Num.nan ∉ ps) (h : Num.inf s ∈ ps) (hno : Num.inf (!s) ∉ ps) : groupSum f ps = .inf s := by
  have hall : ∀ x ∈ ps.filter Num.isInf, x = .inf s := by
    intro x hx
    obtain ⟨hm, hi⟩ := List.mem_filter.1 hx
    cases x with
    | nan => cases hi
    | inf t =>
      by_cases ht : t = s
      · rw [ht]
      · obtain rfl : t = !s := by cases s <;> cases t <;> simp at ht ⊢
        exact absurd hm hno
    | fin t m e => cases hi
  unfold groupSum
  rw [if_neg (fun h => hn (any_isNan.1 h))]
  dsimp only
  rw [if_neg (by cases s <;> simp [Num.isInf] at hno ⊢ <;> simp [hno])]
  cases hl : ps.filter Num.isInf with
  | nil => simpa [hl] using mem_infs.2 h
  | cons x r => exact hall x (by simp [hl])

/-- Where every product is a number, the sum follows the largest of them. -/
theorem groupSum_fin (hfin : ∀ p ∈ ps, ∃ s m e, p = Num.fin s m e) : groupSum f ps = match maxLead ps with
    | none => .fin (ps.all (fun p => match p with
        | .fin s _ _ => s
        | _ => false)) 0 0
    | some e => .fin (decide ((ps.map (truncTo (e - f))).sum < 0)) (ps.map (truncTo (e - f))).sum.natAbs (e - f) := by
  have hno (x : Num) (hx : ∀ s m e, x ≠ .fin s m e) : x ∉ ps := fun hm => by
    obtain ⟨s, m, e, rfl⟩ := hfin x hm
    exact hx s m e rfl
  have hinf : ps.filter Num.isInf = [] := List.filter_eq_nil_iff.2 fun x hx => by
    obtain ⟨s, m, e, rfl⟩ := hfin x hx
    simp [Num.isInf]
  unfold groupSum
  rw [if_neg (fun h => hno .nan (by simp) (any_isNan.1 h)), hinf]
  simp only [foldl_add_eq_sum, Int.zero_add]
  rfl

/-- `L` is the exponent of the largest of some products that are not 0, or there is none. -/
def LeadOf (ps : List Num) : Option Int → Prop
  | none => ∀ s m e, Num.fin s m e ∈ ps → m = 0
  | some L => (∃ s m e, Num.fin s m e ∈ ps ∧ m ≠ 0 ∧ Num.lead m e = L) ∧ ∀ s m e, Num.fin s m e ∈ ps → m ≠ 0 → Num.lead m e ≤ L

theorem LeadOf.cons {x : Num} {L : Option Int} (h : LeadOf ps L) (hx : ∀ s m e, x = .fin s m e → m = 0) : LeadOf (x :: ps) L := by
  cases L with
  | none =>
    intro s m e hm
    rcases List.mem_cons.1 hm with rfl | hm
    · exact hx _ _ _ rfl
    · exact h s m e hm
  | some L =>
    obtain ⟨⟨s, m, e, hm, h0, hL⟩, hle⟩ := h
    refine ⟨⟨s, m, e, List.mem_cons_of_mem _ hm, h0, hL⟩, fun s m e hm h0 => ?_⟩
    rcases List.mem_cons.1 hm with rfl | hm
    · exact absurd (hx _ _ _ rfl) h0
    · exact hle s m e hm h0

theorem leadOf_maxLead (ps : List Num) : LeadOf ps (maxLead ps) := by
  induction ps with
  | nil => exact fun s m e h => absurd h (by simp)
  | cons x r ih =>
    cases x with
    | nan => exact ih.cons fun _ _ _ h => by cases h
    | inf t => exact ih.cons fun _ _ _ h => by cases h
    | fin t m e =>
      rw [maxLead]
      split
      · rename_i h0
        exact ih.cons fun _ _ _ h => by cases h; exact h0
      · rename_i h0
        cases hr : maxLead r with
        | none =>
          rw [hr] at ih
          refine ⟨⟨t, m, e, by simp, h0, rfl⟩, fun s' m' e' hm' h0' => ?_⟩
          rcases List.mem_cons.1 hm' with h | h
          · cases h
            exact le_rfl
          · exact absurd (ih _ _ _ h) h0'
        | some L =>
          rw [hr] at ih
          obtain ⟨⟨s', m', e', hm', h0', hL⟩, hle⟩ := ih
          refine ⟨?_, fun s' m' e' hm' h0' => ?_⟩
          · split
            · exact ⟨t, m, e, by simp, h0, rfl⟩
            · exact ⟨s', m', e', by simp [hm'], h0', hL⟩
          · rcases List.mem_cons.1 hm' with h | h
            · cases h
              split <;> omega
            · have := hle _ _ _ h h0'
              split <;> omega

theorem maxLead_none (h : ∀ p ∈ ps, ∃ s e, p = Num.fin s 0 e) : maxLead ps = none := by
  have hL := leadOf_maxLead ps
  cases hl : maxLead ps with
  | none => rfl
  | some L =>
    rw [hl] at hL
    obtain ⟨⟨s, m, e, hm, h0, -⟩, -⟩ := hL
    obtain ⟨_, _, h⟩ := h _ hm
    cases h
    exact absurd rfl h0

/-- The place of the largest product: it is one of them, and none is larger. -/
theorem maxLead_some {s : Bool} {m : Nat} {e : Int} (h : Num.fin s m e ∈ ps) (hm : m ≠ 0)
    (hmax : ∀ s' m' e', Num.fin s' m' e' ∈ ps → m' ≠ 0 → Num.lead m' e' ≤ Num.lead m e) : maxLead ps = some (Num.lead m e) := by
  have hL := leadOf_maxLead ps
  cases hl : maxLead ps with
  | none =>
    rw [hl] at hL
    exact absurd (hL s m e h) hm
  | some L =>
    rw [hl] at hL
    obtain ⟨⟨s', m', e', hm', h0', rfl⟩, hle⟩ := hL
    exact congrArg some (le_antisymm (hmax _ _ _ hm' h0') (hle _ _ _ h hm))

/-- Zeros add to a zero, negative where all are. -/
theorem groupSum_zero (h : ∀ p ∈ ps, ∃ s e, p = Num.fin s 0 e) :
    (groupSum f ps = .fin true 0 0 ∨ groupSum f ps = .fin false 0 0) ∧
      (groupSum f ps = .fin true 0 0 ↔ ∀ p ∈ ps, ∃ e, p = Num.fin true 0 e) := by
  rw [groupSum_fin fun p hp => by obtain ⟨s, e, rfl⟩ := h p hp; exact ⟨_, _, _, rfl⟩, maxLead_none h]
  dsimp only
  have hall : (ps.all fun p => match p with
      | .fin s _ _ => s
      | _ => false) = true ↔ ∀ p ∈ ps, ∃ e, p = Num.fin true 0 e := by
    rw [List.all_eq_true]
    refine forall₂_congr fun p hp => ?_
    obtain ⟨s, e, rfl⟩ := h p hp
    cases s <;> simp
  rw [← hall]
  generalize ps.all _ = b
  cases b <;> simp

/-- A product is below the window's width (R184). -/
theorem truncTo_lt {s : Bool} {m : Nat} {e L : Int} (f : Nat) (hle : m ≠ 0 → Num.lead m e ≤ L) :
    (truncTo (L - f) (.fin s m e)).natAbs < 2 ^ (f + 1) := by
  obtain ⟨n, hn⟩ : ∃ n, n = if L - f ≤ e then m * 2 ^ (e - (L - f)).toNat else m / 2 ^ (L - f - e).toNat := ⟨_, rfl⟩
  have habs : (truncTo (L - f) (.fin s m e)).natAbs = n := by
    dsimp only [truncTo]
    rw [← hn]
    split <;> simp
  rw [habs, hn]
  by_cases hm : m = 0
  · simp [hm]
  · have hlead := hle hm
    unfold Num.lead at hlead
    split
    · refine (Nat.log2_lt (Nat.mul_ne_zero hm (Nat.two_pow_pos _).ne')).1 ?_
      rw [log2_mul_two_pow hm]
      omega
    · rw [Nat.div_lt_iff_lt_mul (Nat.two_pow_pos _), ← Nat.pow_add]
      exact (Nat.log2_lt hm).1 (by omega)

theorem sum_natAbs_le (l : List Int) (b : Nat) (h : ∀ x ∈ l, x.natAbs ≤ b) : l.sum.natAbs ≤ l.length * b := by
  induction l with
  | nil => simp
  | cons x l ih =>
    have h1 := h x (by simp)
    have h2 := ih fun y hy => h y (by simp [hy])
    rw [List.sum_cons, List.length_cons, Nat.succ_mul]
    omega

/-- The sum of numbers: the products in units of the place that the largest of them sets, and no more than 16 stay in the window. -/
theorem groupSum_largest (hfin : ∀ p ∈ ps, ∃ s m e, p = Num.fin s m e) {s : Bool} {m : Nat} {e : Int} (h : Num.fin s m e ∈ ps) (hm : m ≠ 0)
    (hmax : ∀ s' m' e', Num.fin s' m' e' ∈ ps → m' ≠ 0 → Num.lead m' e' ≤ Num.lead m e) :
    let q := Num.lead m e - f
    let sum := (ps.map (truncTo q)).sum
    groupSum f ps = .fin (decide (sum < 0)) sum.natAbs q ∧ (ps.length ≤ 16 → sum.natAbs < 2 ^ (f + 5)) := by
  intro q sum
  refine ⟨by rw [groupSum_fin hfin, maxLead_some h hm hmax], fun hlen => ?_⟩
  have hle : ∀ x ∈ ps.map (truncTo q), x.natAbs ≤ 2 ^ (f + 1) - 1 := by
    intro x hx
    obtain ⟨p, hp, rfl⟩ := List.mem_map.1 hx
    obtain ⟨s', m', e', rfl⟩ := hfin p hp
    exact Nat.le_sub_one_of_lt (truncTo_lt f fun h0 => hmax _ _ _ hp h0)
  calc sum.natAbs ≤ (ps.map (truncTo q)).length * (2 ^ (f + 1) - 1) := sum_natAbs_le _ _ hle
    _ ≤ 16 * (2 ^ (f + 1) - 1) := Nat.mul_le_mul_right _ (by simpa using hlen)
    _ < 2 ^ (f + 5) := by
      have h1 : 2 ^ (f + 5) = 16 * 2 ^ (f + 1) := by ring
      have h2 := Nat.two_pow_pos (f + 1)
      omega

end

/-! ### Adding a group (R185, R186) -/

/-- The word of an infinity. -/
def infWord (s : Bool) : Word := if s then 0xFF800000 else 0x7F800000

theorem accRound_nan (mode : Rnd) (r : Word) : BitVec.ofNat 32 (roundNum .f32 mode r false true .nan).1 = 0x7FC00000 := rfl

theorem accRound_inf (mode : Rnd) (r : Word) (s : Bool) : BitVec.ofNat 32 (roundNum .f32 mode r false true (.inf s)).1 = infWord s := by
  cases s <;> rfl

theorem le_roundAt (mode : Rnd) (r : Word) (neg : Bool) {m k : Nat} {e q : Int} (hm : m ≠ 0) (h : k + q ≤ Num.lead m e) :
    2 ^ k ≤ (roundAt mode r neg m e q).1 := by
  unfold Num.lead at h
  by_cases hq : q ≤ e
  · rw [roundAt_of_le hq]
    refine (Nat.le_log2 (Nat.mul_ne_zero hm (Nat.two_pow_pos _).ne')).1 ?_
    rw [log2_mul_two_pow hm]
    omega
  · have hlo : 2 ^ k ≤ m / 2 ^ (q - e).toNat := by
      rw [Nat.le_div_iff_mul_le (Nat.two_pow_pos _), ← Nat.pow_add]
      exact (Nat.le_log2 hm).1 (by omega)
    rw [roundAt, if_neg hq]
    dsimp only
    split
    · exact hlo
    · split
      · exact hlo.trans (Nat.le_succ _)
      · exact hlo

theorem le_lead {m k : Nat} {e : Int} (h : (2 : ℚ) ^ k ≤ m * (2 : ℚ) ^ e) : m ≠ 0 ∧ (k : Int) ≤ Num.lead m e := by
  have hm : m ≠ 0 := fun h0 => by
    have : (0 : ℚ) < 2 ^ k := by positivity
    rw [h0, Nat.cast_zero, zero_mul] at h
    linarith
  have hlt : m < 2 ^ (m.log2 + 1) := Nat.lt_log2_self
  have hlt' : (m : ℚ) < (2 : ℚ) ^ ((m.log2 + 1 : Nat) : Int) := by
    rw [zpow_natCast]
    exact_mod_cast hlt
  have h2 : (2 : ℚ) ^ (k : Int) < (2 : ℚ) ^ (((m.log2 + 1 : Nat) : Int) + e) := by
    rw [zpow_add₀ two_ne_zero, zpow_natCast]
    exact h.trans_lt (mul_lt_mul_of_pos_right hlt' (by positivity))
  have h3 := (zpow_lt_zpow_iff_right₀ (by norm_num : (1 : ℚ) < 2)).1 h2
  unfold Num.lead
  exact ⟨hm, by omega⟩

/-- Accumulation never saturates: beyond the range it gives an infinity in every mode. -/
theorem roundFin_over {f : Fmt} (hi : f.hasInf = true) (hf : 1 ≤ f.topField) (mode : Rnd) (r : Word) (s : Bool) {m : Nat} {e : Int}
    (hm : m ≠ 0) (h : f.etop < Num.lead m e) : (roundFin f mode r false true s m e).1 = f.signed s f.infBits := by
  have hbig : 2 ^ (f.mb + 1) ≤ (roundAt mode r s m e (f.etop - f.mb)).1 := le_roundAt mode r s hm (by push_cast; omega)
  have hemin : f.emin ≤ f.etop := by
    unfold Fmt.emin Fmt.etop
    omega
  have hmax : f.maxSig < (roundAt mode r s m e (f.etop - f.mb)).1 := by
    unfold Fmt.maxSig
    rw [if_pos hi]
    have := Nat.two_pow_pos (f.mb + 1)
    omega
  unfold roundFin
  extract_lets top free q1 q
  have hq1 : q1 = Num.lead m e - f.mb := if_neg (by omega)
  have hq : q = f.etop - f.mb := if_pos (by omega)
  rw [hq]
  generalize roundAt mode r s m e (f.etop - f.mb) = x at hmax
  obtain ⟨n, inex, up⟩ := x
  simp only [top, hi, beq_self_eq_true, Bool.true_and, decide_eq_true hmax, if_true, Bool.false_eq_true, if_false, Bool.not_true,
    Bool.and_false]

theorem accRound_over (mode : Rnd) (r : Word) (s : Bool) {m : Nat} {e : Int} (h : (2 : ℚ) ^ 128 ≤ m * (2 : ℚ) ^ e) :
    BitVec.ofNat 32 (roundNum .f32 mode r false true (.fin s m e)).1 = infWord s := by
  obtain ⟨hm, hlead⟩ := le_lead h
  have htop : Fmt.f32.etop = 127 := by decide
  rw [roundNum, if_neg hm, roundFin_over rfl (by decide) mode r s hm (by omega)]
  cases s <;> rfl

section
variable {arnd : Nat} {r : Word} {f : Nat} {t : Word} {ps : List Num}

theorem addGroup_eq (arnd : Nat) (r : Word) (f : Nat) (t : Word) (ps : List Num) {x g : Num} (hx : Fmt.f32.decode t.toNat = x)
    (hg : groupSum f ps = g) : addGroup arnd r f t ps =
      BitVec.ofNat 32 (roundNum .f32 (if arnd = 1 then .sr else .rn) r false true (Num.add false x g).1).1 := by
  rw [← hx, ← hg]
  rfl

theorem addGroup_nan (h : (Fmt.f32.decode t.toNat).isNan = true ∨ (groupSum f ps).isNan = true) : addGroup arnd r f t ps = 0x7FC00000 := by
  rw [addGroup_eq arnd r f t ps rfl rfl]
  have hadd : (Num.add false (Fmt.f32.decode t.toNat) (groupSum f ps)).1 = .nan := by
    revert h
    cases Fmt.f32.decode t.toNat <;> cases groupSum f ps <;> simp [Num.isNan, Num.add]
  rw [hadd, accRound_nan]

theorem addGroup_opposite {s : Bool} (hx : Fmt.f32.decode t.toNat = .inf s) (hg : groupSum f ps = .inf (!s)) :
    addGroup arnd r f t ps = 0x7FC00000 := by
  rw [addGroup_eq arnd r f t ps hx hg]
  cases s <;> rfl

theorem addGroup_inf_left {s : Bool} (hx : Fmt.f32.decode t.toNat = .inf s)
    (hg : groupSum f ps = .inf s ∨ ∃ s' m e, groupSum f ps = .fin s' m e) : addGroup arnd r f t ps = infWord s := by
  rcases hg with hg | ⟨s', m, e, hg⟩ <;> rw [addGroup_eq arnd r f t ps hx hg]
  · simp only [Num.add, beq_self_eq_true, if_true, accRound_inf]
  · exact accRound_inf _ r s

theorem addGroup_inf_right {s s' : Bool} {m : Nat} {e : Int} (hx : Fmt.f32.decode t.toNat = .fin s' m e) (hg : groupSum f ps = .inf s) :
    addGroup arnd r f t ps = infWord s := by
  rw [addGroup_eq arnd r f t ps hx hg]
  exact accRound_inf _ r s

theorem addGroup_fin {s s' : Bool} {m m' : Nat} {e e' : Int} (hx : Fmt.f32.decode t.toNat = .fin s m e)
    (hg : groupSum f ps = .fin s' m' e') : ∃ y n k, numVal y n k = numVal s m e + numVal s' m' e' ∧
      (n = 0 → (y = true ↔ s = true ∧ s' = true)) ∧
      addGroup arnd r f t ps = BitVec.ofNat 32 (roundNum .f32 (if arnd = 1 then .sr else .rn) r false true (.fin y n k)).1 ∧
      ((2 : ℚ) ^ 128 ≤ n * (2 : ℚ) ^ k → addGroup arnd r f t ps = infWord y) := by
  obtain ⟨y, n, k, hadd, hval, hz⟩ := Num.add_fin false s s' m m' e e'
  have h := addGroup_eq arnd r f t ps hx hg
  rw [hadd] at h
  refine ⟨y, n, k, hval, fun h0 => ?_, h, fun hbig => by rw [h, accRound_over _ _ _ hbig]⟩
  rw [hz h0]
  cases s <;> cases s' <;> simp

end

/-! ### Integer groups (R186) -/

/-- A product of integers is an integer. -/
theorem numInt_mul (x y : Int) :
    numInt (Num.mul (.fin (decide (x < 0)) x.natAbs 0) (.fin (decide (y < 0)) y.natAbs 0)).1 = x * y := by
  have habs (z : Int) : z = if decide (z < 0) then -(z.natAbs : Int) else z.natAbs := by
    split <;> rename_i h <;> rw [decide_eq_true_eq] at h <;> omega
  conv_rhs => rw [habs x, habs y]
  cases decide (x < 0) <;> cases decide (y < 0) <;> simp [Num.mul, numInt]

theorem addInts_products (t : Word) (l : List (Int × Int)) :
    addInts t (l.map (fun x => (Num.mul (.fin (decide (x.1 < 0)) x.1.natAbs 0) (.fin (decide (x.2 < 0)) x.2.natAbs 0)).1)) =
      t + BitVec.ofInt 32 ((l.map (fun x => x.1 * x.2)).sum) := by
  unfold addInts
  rw [foldl_add_eq_sum, Int.zero_add, List.map_map]
  simp only [Function.comp_def, numInt_mul]

end Sys2Proof.Machine

namespace Sys2Proof.Machine

/-! ### The elements of a tile (R258) -/

/-- A word that a written one does not meet reads as before. -/
theorem Mem.word_setWord_ne {m : Mem} (h : m.wf = true) {a b : Nat} (hab : a + 4 ≤ b ∨ b + 4 ≤ a) (w : Word) :
    (m.setWord a w).word b = m.word b := by
  unfold Mem.word
  rw [Mem.read_eq_map, Mem.read_eq_map]
  refine congrArg (fun l => BitVec.ofNat 32 (leNat l)) (List.map_congr_left fun i hi => ?_)
  have hi := List.mem_range.1 hi
  unfold Mem.setWord
  rw [Mem.get_write h, length_natLe, if_neg (by omega)]

namespace Core

variable {c : Core} {p : Nat}

theorem elemAt_setElem_same (h : c.acc.wf = true) (i j : Nat) (w : Word) : (c.setElem p i j w).elemAt p i j = w := Mem.word_setWord h _ _

theorem elemAt_setElem_ne (h : c.acc.wf = true) {i j i' j' : Nat} (hj : j < 64) (hj' : j' < 64) (hne : (i, j) ≠ (i', j')) (w : Word) :
    (c.setElem p i j w).elemAt p i' j' = c.elemAt p i' j' := by
  refine Mem.word_setWord_ne h ?_ w
  unfold elemAddr
  have : i ≠ i' ∨ j ≠ j' := by
    by_contra hc
    exact hne (by simp only [not_or, not_not] at hc; rw [hc.1, hc.2])
  omega

end Core

/-- Replaces the element at each of some positions by what it gives with what is there. -/
def putElems (p : Nat) (val : Nat × Nat → Word → Word) (c : Core) (l : List (Nat × Nat)) : Core :=
  l.foldl (fun c x => c.setElem p x.1 x.2 (val x (c.elemAt p x.1 x.2))) c

/-- Each position is written once, from what was there before. -/
theorem elemAt_putElems {p : Nat} (val : Nat × Nat → Word → Word) {c : Core} (h : c.acc.wf = true) {l : List (Nat × Nat)} (hl : l.Nodup)
    (h64 : ∀ x ∈ l, x.2 < 64) {i j : Nat} (hj : j < 64) :
    (putElems p val c l).elemAt p i j = if (i, j) ∈ l then val (i, j) (c.elemAt p i j) else c.elemAt p i j := by
  induction l generalizing c with
  | nil => simp [putElems]
  | cons x l ih =>
    obtain ⟨hx, hl⟩ := List.nodup_cons.1 hl
    have hwf : (c.setElem p x.1 x.2 (val x (c.elemAt p x.1 x.2))).acc.wf = true := Mem.wf_setWord _ _ h
    have hstep := ih hwf hl fun y hy => h64 y (by simp [hy])
    change (putElems p val (c.setElem p x.1 x.2 (val x (c.elemAt p x.1 x.2))) l).elemAt p i j = _
    rw [hstep]
    by_cases hij : x = (i, j)
    · subst hij
      rw [if_neg hx, Core.elemAt_setElem_same h, if_pos (by simp)]
    · rw [Core.elemAt_setElem_ne h (h64 x (by simp)) hj hij]
      simp [Ne.symm hij]

/-! ### One group (R184, R185) -/

/-- The products that a group adds to element [m][n] of its contribution. -/
def groupProds (rd : Nat → Byte) (a : Arrival) (ps : List Part) (m n : Nat) : List Num :=
  ps.map (fun x => (Num.mul (laneVec rd a x false m) (laneVec rd a x true n)).1)

/-- The draws of a group (R187). -/
def groupDraws (a : Arrival) (g : Nat) : List Word :=
  if shapeArnd a.shape = 1 then (draws (shapeM a.shape * shapeN a.shape) (if g % 2 = 0 then a.draw0 else a.draw1)).2 else []

/-- The place in the tile of element [m][n] of a contribution, and the same back. -/
def turned (w : Word) (x : Nat × Nat) : Nat × Nat := if shapeTr w then (x.2, x.1) else x

/-- What a group makes of element [m][n] of its contribution. -/
def groupElem (rd : Nat → Byte) (a : Arrival) (ps : List Part) (g : Nat) (x : Nat × Nat) (t : Word) : Word :=
  if shapeFa a.shape = 5 then addInts t (groupProds rd a ps x.1 x.2)
  else addGroup (shapeArnd a.shape) ((groupDraws a g).getD (x.1 * shapeN a.shape + x.2) 0) (windowF a.shape) t (groupProds rd a ps x.1 x.2)

theorem zip_getD (rd : Nat → Byte) (a : Arrival) (ps : List Part) {m n M N : Nat} (hm : m < M) (hn : n < N) :
    ((ps.map (fun x => (List.range M).map (laneVec rd a x false))).zip (ps.map (fun x => (List.range N).map (laneVec rd a x true)))).map
      (fun v => (Num.mul (v.1.getD m .nan) (v.2.getD n .nan)).1) = groupProds rd a ps m n := by
  rw [List.zip_map', List.map_map]
  refine List.map_congr_left fun x _ => ?_
  simp [hm, hn]

theorem turned_turned (w : Word) (x : Nat × Nat) : turned w (turned w x) = x := by
  unfold turned
  split <;> rfl

theorem applyGroup_eq (c : Core) (p base : Nat) (a : Arrival) (ps : List Part) (g : Nat) :
    applyGroup c p base a ps g = putElems p (fun y => groupElem (fun o => c.spad.get (base + o)) a ps g (turned a.shape y)) c
      (((List.range (shapeM a.shape)) ×ˢ (List.range (shapeN a.shape))).map (turned a.shape)) := by
  unfold applyGroup putElems
  rw [List.foldl_map]
  change _ = List.foldl _ c ((List.range (shapeM a.shape)).flatMap fun m => (List.range (shapeN a.shape)).map (Prod.mk m))
  rw [List.foldl_flatMap]
  refine List.foldl_ext _ _ _ fun c' m hm => ?_
  rw [List.foldl_map]
  refine List.foldl_ext _ _ _ fun c'' n hn => ?_
  dsimp only
  rw [zip_getD _ _ _ (List.mem_range.1 hm) (List.mem_range.1 hn), turned_turned]
  unfold turned groupElem groupDraws
  cases shapeTr a.shape <;> rfl

theorem shape_le (w : Word) : shapeM w ≤ 64 ∧ shapeN w ≤ 64 :=
  ⟨Nat.mod_lt _ (by decide), Nat.mod_lt _ (by decide)⟩

/-- A group adds to the elements of its contribution and to no other. -/
theorem elemAt_applyGroup (c : Core) (p base : Nat) (a : Arrival) (ps : List Part) (g : Nat) (h : c.acc.wf = true)
    {i j : Nat} (hj : j < 64) :
    (applyGroup c p base a ps g).elemAt p i j =
      if (turned a.shape (i, j)).1 < shapeM a.shape ∧ (turned a.shape (i, j)).2 < shapeN a.shape then
        groupElem (fun o => c.spad.get (base + o)) a ps g (turned a.shape (i, j)) (c.elemAt p i j)
      else c.elemAt p i j := by
  obtain ⟨hM, hN⟩ := shape_le a.shape
  have hinj : Function.Injective (turned a.shape) := Function.LeftInverse.injective (turned_turned a.shape)
  have hnd : (((List.range (shapeM a.shape)) ×ˢ (List.range (shapeN a.shape))).map (turned a.shape)).Nodup :=
    (List.Nodup.product List.nodup_range List.nodup_range).map hinj
  have hmem (y : Nat × Nat) : y ∈ ((List.range (shapeM a.shape)) ×ˢ (List.range (shapeN a.shape))).map (turned a.shape) ↔
      (turned a.shape y).1 < shapeM a.shape ∧ (turned a.shape y).2 < shapeN a.shape := by
    rw [List.mem_map]
    constructor
    · rintro ⟨x, hx, rfl⟩
      rw [turned_turned]
      simpa using List.mem_product.1 hx
    · rintro ⟨h1, h2⟩
      refine ⟨turned a.shape y, ?_, turned_turned _ _⟩
      rw [List.mem_product]
      exact ⟨List.mem_range.2 h1, List.mem_range.2 h2⟩
  rw [applyGroup_eq, elemAt_putElems _ h hnd (fun y hy => ?_) hj]
  · simp only [hmem]
  · obtain ⟨h1, h2⟩ := (hmem y).1 hy
    unfold turned at h1 h2
    split at h1 <;> simp_all <;> omega

end Sys2Proof.Machine

namespace Sys2Proof.Machine

/-! ### Operand vectors (R173, R174) -/

/-- Where row-major offset `y` of the declared tile lies in the allocation (R255). -/
theorem skew_eq (t : Word) (y : Nat) :
    skew t y = 32 * (t.toNat % 2 ^ 20 / 32 + 64 * (y / 2048) + (y / 32 + y / 2048) % 64) + y % 32 := by
  unfold skew tileBase field
  dsimp only
  rw [Nat.pow_zero, Nat.div_one, Nat.div_div_eq_div_mul]

/-- The place of row-major offset `y` of a vector's bytes: where it is, or by way of the declared tile. -/
def vecAt (mode : OpMode) (t1 : Word) (y : Nat) : Nat :=
  match mode with
  | .row => y
  | _ => 32 * (t1.toNat % 2 ^ 20 / 32 + 64 * (y / 2048) + (y / 32 + y / 2048) % 64) + y % 32

/-- The elements of a vector lie one after another, or down a column. -/
theorem unitOff_eq (mode : OpMode) (t1 t2 : Word) (f o i : Nat) :
    unitOff mode t1 t2 f o i = vecAt mode t1 (match mode with
      | .col => o + i * (t2.toNat % 2 ^ 12)
      | _ => o + i * if f = 1 ∨ f = 2 then 2 else 1) := by
  have hlen : tileLen t2 = t2.toNat % 2 ^ 12 := by rw [tileLen, field, Nat.pow_zero, Nat.div_one]
  have hb : fmtBytes f = if f = 1 ∨ f = 2 then 2 else 1 := by simp [fmtBytes]
  unfold unitOff unitEa
  rw [hlen, hb]
  cases mode
  · rfl
  · exact skew_eq _ _
  · exact skew_eq _ _

/-- A pair of q4 elements is a byte. -/
theorem unitOff_q4 {mode : OpMode} (hm : mode ≠ .col) (t1 t2 : Word) (o j : Nat) : unitOff mode t1 t2 6 o j = vecAt mode t1 (o + j) := by
  rw [unitOff_eq]
  cases mode
  · simp
  · simp
  · exact absurd rfl hm

section
variable (rd : Nat → Byte) (mode : OpMode) (t1 t2 : Word) (o : Nat) (scale : Nat → Nat) (i : Nat)

/-- Byte `n` of an element of a vector. -/
def vecByte (f n : Nat) : Nat := (rd (unitOff mode t1 t2 f o i + n)).toNat

theorem vecElem_bf16 : vecElem rd mode t1 t2 1 o scale i =
    Fmt.bf16.decode (vecByte rd mode t1 t2 o i 1 0 + 256 * vecByte rd mode t1 t2 o i 1 1) := rfl

theorem vecElem_f16 : vecElem rd mode t1 t2 2 o scale i =
    Fmt.f16.decode (vecByte rd mode t1 t2 o i 2 0 + 256 * vecByte rd mode t1 t2 o i 2 1) := rfl

theorem vecElem_e4m3 : vecElem rd mode t1 t2 3 o scale i = Fmt.e4m3.decode (vecByte rd mode t1 t2 o i 3 0) := rfl

theorem vecElem_e5m2 : vecElem rd mode t1 t2 4 o scale i = Fmt.e5m2.decode (vecByte rd mode t1 t2 o i 4 0) := rfl

/-- A signed byte. -/
theorem sxInt_byte (b : Byte) : sxInt b.toNat 8 = if b.toNat < 128 then (b.toNat : Int) else (b.toNat : Int) - 256 := by
  have := b.isLt
  unfold sxInt
  rw [Nat.mod_eq_of_lt this]
  rfl

theorem vecElem_int8 : ∃ s m, vecElem rd mode t1 t2 5 o scale i = .fin s m 0 ∧ numVal s m 0 =
    ((if vecByte rd mode t1 t2 o i 5 0 < 128 then (vecByte rd mode t1 t2 o i 5 0 : Int)
      else (vecByte rd mode t1 t2 o i 5 0 : Int) - 256 : Int) : ℚ) := by
  refine ⟨_, _, rfl, (numVal_int _).trans (congrArg _ ?_)⟩
  exact sxInt_byte _

/-- A q4 element is a nibble under its scale byte. -/
theorem vecElem_q4 : vecElem rd mode t1 t2 6 o scale i = q4Decode (rd (scale i)).toNat
    (if i % 2 = 0 then (rd (unitOff mode t1 t2 6 o (i / 2))).toNat % 16 else (rd (unitOff mode t1 t2 6 o (i / 2))).toNat / 16) := by
  change q4Decode _ (field _ (4 * (i % 2)) 4) = _
  have hb := (rd (unitOff mode t1 t2 6 o (i / 2))).isLt
  unfold field
  rcases Nat.mod_two_eq_zero_or_one i with h | h <;> rw [h]
  · simp
  · rw [if_neg (by decide), Nat.mod_eq_of_lt (by omega)]
    rfl

end

/-- The tile edge of q4 scales. -/
theorem shapeT_eq (w : Word) : shapeT w = if w.getLsbD 21 then 32 else 16 := by
  have : bit w.toNat 21 = w.getLsbD 21 := by
    rw [BitVec.getLsbD, Nat.testBit_eq_decide_div_mod_eq, bit]
    rfl
  rw [shapeT, this]

theorem laneVec_spec (rd : Nat → Byte) (a : Arrival) (x : Part) (second : Bool) (i : Nat) :
     let f := if second then shapeFb a.shape else shapeFa a.shape
     let mode := if second then a.bmode else a.amode
     let o := (if second then x.boff else x.aoff).toNat
     let z := if f = 1 ∨ f = 2 then 2 else 1
     let at_ (y : Nat) : Nat := match mode with
       | .row => y
       | _ => 32 * (a.tile.toNat % 2 ^ 20 / 32 + 64 * (y / 2048) + (y / 32 + y / 2048) % 64) + y % 32
     let byte (n : Nat) : Nat := (rd (at_ (match mode with
       | .col => o + i * (a.tile2.toNat % 2 ^ 12)
       | _ => o + i * z) + n)).toNat
     let v := laneVec rd a x second i
     (f = 1 → v = Fmt.bf16.decode (byte 0 + 256 * byte 1)) ∧ (f = 2 → v = Fmt.f16.decode (byte 0 + 256 * byte 1)) ∧
     (f = 3 → v = Fmt.e4m3.decode (byte 0)) ∧ (f = 4 → v = Fmt.e5m2.decode (byte 0)) ∧
     (f = 5 → ∃ s m, v = .fin s m 0 ∧ numVal s m 0 = ((if byte 0 < 128 then (byte 0 : Int) else (byte 0 : Int) - 256 : Int) : ℚ)) ∧
     (f = 6 → mode ≠ .col →
       let j := if second then 2 else 0
       let t := if a.shape.getLsbD 21 then 32 else 16
       let scale : Word := a.scale.getD j 0 + BitVec.ofNat 32 ((a.rank0 + x.lane) / t) * a.scale.getD (j + 1) 0 + BitVec.ofNat 32 (i / t)
       let pair := (rd (at_ (o + i / 2))).toNat
       v = q4Decode (rd scale.toNat).toNat (if i % 2 = 0 then pair % 16 else pair / 16)) := by
  intro f mode o z at_ byte v
  have hbyte (n : Nat) : byte n = vecByte rd mode a.tile a.tile2 o i f n := by
    unfold vecByte
    rw [unitOff_eq]
    rfl
  have hv : v = vecElem rd mode a.tile a.tile2 f o (scaleOff (a.scale.getD (if second then 2 else 0) 0)
    (a.scale.getD ((if second then 2 else 0) + 1) 0) (shapeT a.shape) (a.rank0 + x.lane)) i := rfl
  rw [hv, hbyte, hbyte, ← shapeT_eq]
  clear_value f mode o
  refine ⟨fun h => ?_, fun h => ?_, fun h => ?_, fun h => ?_, fun h => ?_, fun h hm => ?_⟩ <;> subst h
  · exact vecElem_bf16 ..
  · exact vecElem_f16 ..
  · exact vecElem_e4m3 ..
  · exact vecElem_e5m2 ..
  · exact vecElem_int8 ..
  · intro j t sc pair
    have hpair : at_ (o + i / 2) = unitOff mode a.tile a.tile2 6 o (i / 2) := (unitOff_q4 hm ..).symm
    rw [vecElem_q4, ← hpair]
    rfl

/-! ### q4 (R48) -/

theorem q4_fields {sb : Nat} (h : sb < 256) : field sb 6 2 = sb / 64 ∧ field sb 0 6 = sb % 64 := by
  unfold field
  exact ⟨Nat.mod_eq_of_lt (by omega), by rw [Nat.pow_zero, Nat.div_one]; rfl⟩

/-- The magnitudes of q4, in units of the exponent. -/
def q4Values : Nat → List ℚ
  | 1 => [0, 0.5, 1, 1.5, 2, 3, 4, 6]
  | 2 => [0, 1 / 8, 1 / 4, 1 / 2, 1, 2, 4, 8]
  | _ => [0, 1, 2, 3, 4, 6, 8, 16]

theorem q4Grid_values {ty c : Nat} (h0 : ty ≠ 0) (hty : ty < 4) (hc : c < 8) :
    (((q4Grid ty).getD c 0 : Nat) : ℚ) / 8 = (q4Values ty).getD c 0 := by
  interval_cases ty
  · exact absurd rfl h0
  all_goals interval_cases c <;> norm_num [q4Grid, q4Values]

theorem q4Decode_nan {sb : Nat} (c : Nat) (h : sb < 256) (h63 : sb % 64 = 63) : q4Decode sb c = .nan := by
  unfold q4Decode
  rw [(q4_fields h).2, h63]
  rfl

theorem numVal_expo (s : Bool) (m : Nat) (e : Int) : numVal s m e = numVal s m 0 * (2 : ℚ) ^ e := by simp [numVal]

theorem q4Decode_int {sb c : Nat} (h : sb < 64) (h63 : sb % 64 ≠ 63) (hc : c < 16) : ∃ s m k, q4Decode sb c = .fin s m k ∧
    numVal s m k = ((if c < 8 then (c : Int) else (c : Int) - 16 : Int) : ℚ) * (2 : ℚ) ^ ((sb % 64 : Int) - 32) := by
  obtain ⟨hty, hE⟩ := q4_fields (show sb < 256 by omega)
  have hv : sxInt c 4 = if c < 8 then (c : Int) else (c : Int) - 16 := by
    have hm : c % 2 ^ 4 = c := Nat.mod_eq_of_lt hc
    rw [sxInt, hm]
    rfl
  have hdec : q4Decode sb c = .fin (decide (sxInt c 4 < 0)) (sxInt c 4).natAbs (((sb % 64 : Nat) : Int) - 32) := by
    unfold q4Decode
    rw [hty, hE, Nat.div_eq_of_lt h]
    exact if_neg (by simpa using h63)
  refine ⟨_, _, _, hdec, ?_⟩
  rw [numVal_expo, numVal_int, hv]
  rfl

theorem q4Decode_grid {sb c : Nat} (h : sb < 256) (h64 : 64 ≤ sb) (h63 : sb % 64 ≠ 63) (hc : c < 16) : ∃ s m k, q4Decode sb c = .fin s m k ∧
    numVal s m k = (if c < 8 then 1 else -1) * (q4Values (sb / 64)).getD (c % 8) 0 * (2 : ℚ) ^ ((sb % 64 : Int) - 32) ∧
    (s = true ↔ 8 ≤ c) := by
  obtain ⟨hty, hE⟩ := q4_fields h
  have hbit : bit c 3 = decide (8 ≤ c) := by
    unfold bit
    interval_cases c <;> rfl
  have hdec : q4Decode sb c = .fin (decide (8 ≤ c)) ((q4Grid (sb / 64)).getD (c % 8) 0) (((sb % 64 : Nat) : Int) - 35) := by
    unfold q4Decode
    rw [hty, hE, hbit]
    refine (if_neg (by simpa using h63)).trans ((if_neg ?_).trans ?_)
    · rw [beq_iff_eq]
      omega
    · rw [field, Nat.pow_zero, Nat.div_one]
      rfl
  refine ⟨_, _, _, hdec, ?_, by simp⟩
  rw [← q4Grid_values (by omega) (by omega) (Nat.mod_lt _ (by decide)), numVal]
  have hz : (2 : ℚ) ^ (((sb % 64 : Nat) : Int) - 35) = (2 : ℚ) ^ ((sb % 64 : Int) - 32) / 8 := by
    rw [show ((sb % 64 : Nat) : Int) - 35 = (sb % 64 : Int) - 32 - 3 by push_cast; ring, zpow_sub₀ two_ne_zero]
    norm_num
  rw [hz]
  by_cases h8 : 8 ≤ c
  · rw [if_pos (by simpa using h8), if_neg (by omega)]
    ring
  · rw [if_neg (by simpa using h8), if_pos (by omega)]
    ring

/-! ### Arrivals (R173, R174, R179) -/

theorem rankBase_eq (o : OCtr) (cord : Nat) : rankBase o cord = if o.scope = .blk then 32 * cord else 0 := by
  unfold rankBase
  cases o.scope <;> rfl

theorem mapStride_eq (f n : Nat) (mode : OpMode) : mapStride f n mode =
    let z := if f = 1 ∨ f = 2 then 2 else 1
    if mode = .col then z else if f = 6 then (n + 1) / 2 else n * z := by
  have hb : fmtBytes f = if f = 1 ∨ f = 2 then 2 else 1 := by simp [fmtBytes]
  unfold mapStride packedLen
  rw [hb]
  cases mode <;> rfl

/-- A lane's vectors begin at its own registers, or at a uniform offset and its rank times the packed length. -/
theorem ctrPart_eq (h : Here) (o : OCtr) (w : Word) (k : Nat) :
    let start (r : Reg) (f n : Nat) (mode : OpMode) : Word :=
      if o.map then h.s r + BitVec.ofNat 32 (rankBase o h.ref.cord + k) * BitVec.ofNat 32 (mapStride f n mode) else h.v k r
    ctrPart h o w k =
      { lane := k, aoff := start o.a (shapeFa w) (shapeM w) o.amode, boff := start o.b (shapeFb w) (shapeN w) o.bmode } := by
  unfold ctrPart
  cases o.map <;> rfl

/-! ### Draws (R187) -/

/-- A cord after a lane of it, if any, has made `n` draws. -/
def Cord.drawn (c : Cord) (n : Nat) : Option Nat → Cord
  | none => c
  | some k => c.setLane k { c.lane k with rng := (draws n (c.lane k).rng).1 }

theorem Cord.lane_drawn_same (c : Cord) (n k : Nat) : (c.drawn n (some k)).lane k = { c.lane k with rng := (draws n (c.lane k).rng).1 } :=
  Cord.lane_setLane_same ..

theorem Cord.lane_drawn_ne (c : Cord) (n : Nat) {k : Nat} {o : Option Nat} (h : o ≠ some k) : (c.drawn n o).lane k = c.lane k := by
  cases o with
  | none => rfl
  | some j => exact Cord.lane_setLane_ne _ (fun hj => h (by rw [hj])) _

/-- The lowest-numbered participating lane of a group. -/
def firstLane (a : Arrival) (g : Nat) : Option Nat := ((a.parts.map (·.lane)).filter (fun k => k / 16 == g)).head?

theorem firstLane_eq (a : Arrival) (g : Nat) : firstLane a g = (a.parts.find? (fun x => x.lane / 16 == g)).map (·.lane) := by
  unfold firstLane
  rw [List.head?_filter, List.find?_map]
  rfl

theorem firstLane_group {a : Arrival} {g k : Nat} (h : firstLane a g = some k) : k / 16 = g := by
  have := List.mem_of_head? h
  simpa using (List.mem_filter.1 this).2

/-- What an arrival with stochastic accumulation reserves: each group's first lane records its generator and moves on. -/
theorem reserveDraws_eq {a : Arrival} (h : shapeArnd a.shape = 1) (c : Cord) :
    let n := shapeM a.shape * shapeN a.shape
    let c0 := c.drawn n (firstLane a 0)
    reserveDraws c a = (c0.drawn n (firstLane a 1), { a with
      draw0 := ((firstLane a 0).map (fun k => (c.lane k).rng)).getD 0
      draw1 := ((firstLane a 1).map (fun k => (c0.lane k).rng)).getD 0 }) := by
  unfold reserveDraws
  rw [if_neg (by simpa using h), firstLane_eq, firstLane_eq]
  dsimp only
  cases (a.parts.find? (fun x => x.lane / 16 == 0)).map (·.lane) <;>
    cases (a.parts.find? (fun x => x.lane / 16 == 1)).map (·.lane) <;> rfl

theorem reserveDraws_spec (c : Cord) (a : Arrival) (h : shapeArnd a.shape = 1) :
    let y := reserveDraws c a
    (∀ g k, g < 2 → firstLane a g = some k →
      (y.1.lane k).rng = (draws (shapeM a.shape * shapeN a.shape) (c.lane k).rng).1 ∧
      (if g = 0 then y.2.draw0 else y.2.draw1) = (c.lane k).rng) ∧
    ∀ k, firstLane a 0 ≠ some k → firstLane a 1 ≠ some k → y.1.lane k = c.lane k := by
  intro y
  have hy : y = _ := reserveDraws_eq h c
  rw [hy]
  have hne (k : Nat) (h0 : firstLane a 0 = some k) : firstLane a 1 ≠ some k := fun h1 => by
    have := firstLane_group h0
    have := firstLane_group h1
    omega
  refine ⟨fun g k hg hk => ?_, fun k h0 h1 => ?_⟩
  · obtain rfl | rfl : g = 0 ∨ g = 1 := by omega
    · dsimp only
      rw [Cord.lane_drawn_ne _ _ (hne k hk), hk, Cord.lane_drawn_same]
      exact ⟨rfl, rfl⟩
    · have hk0 : firstLane a 0 ≠ some k := fun h0 => hne k h0 hk
      dsimp only
      rw [hk, Cord.lane_drawn_same, Cord.lane_drawn_ne _ _ hk0]
      exact ⟨rfl, congrArg Lane.rng (Cord.lane_drawn_ne _ _ hk0)⟩
  · dsimp only
    rw [Cord.lane_drawn_ne _ _ h1, Cord.lane_drawn_ne _ _ h0]

/-- An element that a group leaves, by its place in the contribution. -/
theorem elemAt_applyGroup_spec (c : Core) (p base : Nat) (a : Arrival) (ps : List Part) (g i j : Nat)
    (hwf : c.acc.wf = true) (hj : j < 64) :
     let w := a.shape
     let m := if shapeTr w then j else i
     let n := if shapeTr w then i else j
     let rd (o : Nat) : Byte := c.spad.get (base + o)
     let prods := ps.map (fun x => (Machine.Num.mul (laneVec rd a x false m) (laneVec rd a x true n)).1)
     let rs := (draws (shapeM w * shapeN w) (if g % 2 = 0 then a.draw0 else a.draw1)).2
     let t := c.elemAt p i j
     (applyGroup c p base a ps g).elemAt p i j =
       if m < shapeM w ∧ n < shapeN w then
         if shapeFa w = 5 then addInts t prods
         else addGroup (shapeArnd w) (if shapeArnd w = 1 then rs.getD (m * shapeN w + n) 0 else 0) (windowF w) t prods
       else t := by
  intro w m n rd prods rs t
  have hturn : turned a.shape (i, j) = (m, n) := by
    change (if shapeTr a.shape then (j, i) else (i, j)) = (if shapeTr a.shape then j else i, if shapeTr a.shape then i else j)
    cases shapeTr a.shape <;> rfl
  have hdraw : (groupDraws a g).getD (m * shapeN w + n) 0 = if shapeArnd w = 1 then rs.getD (m * shapeN w + n) 0 else 0 := by
    unfold groupDraws
    split <;> rfl
  rw [elemAt_applyGroup c p base a ps g hwf hj, hturn]
  unfold groupElem
  rw [hdraw]
  rfl

theorem groupSum_spec (f : Nat) (ps : List Num) :
    let units (q : Int) (p : Num) : Int := match p with
      | .fin s m e => (if s then -1 else 1) * ⌊(m : ℚ) * (2 : ℚ) ^ (e - q)⌋
      | _ => 0
    ∀ s m e, (∀ p ∈ ps, ∃ s m e, p = Num.fin s m e) → Num.fin s m e ∈ ps → m ≠ 0 →
      (∀ s' m' e', Num.fin s' m' e' ∈ ps → m' ≠ 0 → (m'.log2 : Int) + e' ≤ m.log2 + e) →
      let q : Int := m.log2 + e - f
      let sum := (ps.map (units q)).sum
      groupSum f ps = .fin (decide (sum < 0)) sum.natAbs q ∧ (ps.length ≤ 16 → sum.natAbs < 2 ^ (f + 5)) := by
  intro units s m e hfin hm h0 hmax q sum
  have hunits : ps.map (units q) = ps.map (truncTo q) := List.map_congr_left fun p hp => by
    obtain ⟨s, m, e, rfl⟩ := hfin p hp
    exact (truncTo_fin q s m e).symm
  have hsum : sum = (ps.map (truncTo q)).sum := congrArg List.sum hunits
  rw [hsum]
  exact groupSum_largest hfin hm h0 hmax

theorem q4Decode_spec {sb c : Nat} (hsb : sb < 256) (hc : c < 16) (h63 : sb % 64 ≠ 63) :
    let e : Int := (sb % 64 : Int) - 32
    let grid (l : List ℚ) : ℚ := (if c < 8 then 1 else -1) * l.getD (c % 8) 0
    let v : ℚ := match sb / 64 with
      | 0 => ((if c < 8 then (c : Int) else (c : Int) - 16 : Int) : ℚ)
      | 1 => grid [0, 0.5, 1, 1.5, 2, 3, 4, 6]
      | 2 => grid [0, 1 / 8, 1 / 4, 1 / 2, 1, 2, 4, 8]
      | _ => grid [0, 1, 2, 3, 4, 6, 8, 16]
    ∃ s m k, q4Decode sb c = .fin s m k ∧ numVal s m k = v * (2 : ℚ) ^ e ∧ (64 ≤ sb → (s = true ↔ 8 ≤ c)) := by
  intro e grid v
  by_cases h : sb < 64
  · obtain ⟨s, m, k, hdec, hval⟩ := q4Decode_int h h63 hc
    refine ⟨s, m, k, hdec, ?_, fun h64 => absurd h64 (by omega)⟩
    simp only [v, Nat.div_eq_of_lt h]
    exact hval
  · obtain ⟨s, m, k, hdec, hval, hs⟩ := q4Decode_grid hsb (by omega) h63 hc
    have hv : v = (if c < 8 then 1 else -1) * (q4Values (sb / 64)).getD (c % 8) 0 := by
      have h1 : 1 ≤ sb / 64 := by omega
      have h4 : sb / 64 < 4 := by omega
      simp only [v, grid]
      generalize sb / 64 = ty at h1 h4
      interval_cases ty <;> rfl
    exact ⟨s, m, k, hdec, by rw [hv]; exact hval, fun _ => hs⟩

theorem ctrArrival_spec (s : State) (h : Here) (o : OCtr) (p : Nat) (w : Word) (act : List Nat) :
     let a := ctrArrival s h o p w act
     let rank (k : Nat) : Nat := (if o.scope = .blk then 32 * h.ref.cord else 0) + k
     let len (f n : Nat) (mode : OpMode) : Nat :=
       let z := if f = 1 ∨ f = 2 then 2 else 1
       if mode = .col then z else if f = 6 then (n + 1) / 2 else n * z
     let start (r : Reg) (f n : Nat) (mode : OpMode) (k : Nat) : Word :=
       if o.map then h.s r + BitVec.ofNat 32 (rank k) * BitVec.ofNat 32 (len f n mode) else h.v k r
     (∀ k, a.rank0 + k = rank k) ∧ a.tile = h.cord.tile ∧ a.tile2 = h.cord.tile2 ∧ a.amode = o.amode ∧ a.bmode = o.bmode ∧
     (o.j ≠ 0 → ∀ i, i < 4 → a.scale.getD i 0 = h.s (BitVec.ofNat 6 (4 * o.j.toNat + i))) ∧
     a.parts = act.map (fun k => { lane := k, aoff := start o.a (shapeFa w) (shapeM w) o.amode k
                                   boff := start o.b (shapeFb w) (shapeN w) o.bmode k }) := by
  intro a rank len start
  have hrank (k : Nat) : rankBase o h.ref.cord + k = rank k := by rw [rankBase_eq]
  have hlen (f n : Nat) (mode : OpMode) : mapStride f n mode = len f n mode := mapStride_eq f n mode
  refine ⟨hrank, rfl, rfl, rfl, rfl, fun hj i hi => ?_, List.map_congr_left fun k _ => ?_⟩
  · have hscale : a.scale = (List.range 4).map (fun i => h.s (BitVec.ofNat 6 (4 * o.j.toNat + i))) := by
      change (List.range 4).map (fun i => if o.j = 0 then 0 else h.s (BitVec.ofNat 6 (4 * o.j.toNat + i))) = _
      simp only [if_neg hj]
    rw [hscale]
    simp [hi]
  · rw [ctrPart_eq]
    simp only [hrank, hlen, start]

/-- Settles O60: the group sum by its largest product, the tile element by element, vectors by their places, and the generators that an
arrival reserves. -/
theorem contractionArithmetic : Obligations.ContractionArithmetic := by
  unfold Obligations.ContractionArithmetic
  intro inf value
  refine ⟨fun f ps => ⟨groupSum_nan, fun s => groupSum_inf, groupSum_zero, groupSum_spec f ps⟩,
    fun arnd r f t ps => ⟨addGroup_nan, fun s hx hg => addGroup_opposite hx hg, fun s hx hg => addGroup_inf_left hx hg,
      fun s s' m e hg hx => addGroup_inf_right hx hg, fun s m e s' m' e' hx hg => addGroup_fin hx hg⟩,
    addInts_products, fun c p base a ps g i j hwf _ hj => elemAt_applyGroup_spec c p base a ps g i j hwf hj,
    laneVec_spec, fun sb c hsb hc => ⟨fun h63 => q4Decode_nan c hsb h63, fun h63 => q4Decode_spec hsb hc h63⟩, ctrArrival_spec,
    reserveDraws_spec⟩

end Sys2Proof.Machine

namespace Sys2Proof.Machine

/-! ### Translations kept that disagree (O30)

The premise asks of every address that it gives no DATA_ERR at the issue. A `gprf` of several lines fills the TLBs as it goes, and what it has
kept for one line may serve a later one, whose translation was another at the issue: where the micro-TLB and the last-level TLB disagree, as
they may until the firmware invalidates an old entry (R309), the later line can meet a damaged word that no address met before. -/

/-- Page 1 of 64 KiB, not readable. -/
def stalePage : TlbEntry := { ctx := 0, page := 1, bits := 16, leaf := 0b0011 }

/-- A page of 16 GiB, readable, at device address 0. -/
def stalePageBig : TlbEntry := { ctx := 0, page := 0, bits := 34, leaf := 0b0111 }

/-- Lane 0, whose v1 is a count of 192 bytes, and whose pair v2 an address three lines before the end of them. -/
def staleLane : Lane := { Lane.absent with regs := ⟨[(1, 192), (2, 65472)]⟩, st := .run, pc := 0x1000 }

def staleCord : Cord := { Cord.fresh with lanes := ⟨[(0, staleLane)]⟩, present := 1, vbud := 16, ubud := 16 }

def staleBlock : Block := { Block.fresh with status := .running, cords := ⟨[(0, staleCord)]⟩ }

/-- Word 2050 of device memory, at address 65600, has an uncorrectable error. The micro-TLB of gathers holds the small page, the TLB of the
die the big one, which covers it. -/
def staleState : State :=
  { State.reset with
    cores := ⟨[(0, { Core.fresh with blocks := ⟨[(0, staleBlock)]⟩, gtlb := [stalePage] })]⟩
    dies := ⟨[(0, { Die.fresh with tlb := [stalePageBig] })]⟩
    hbmErr := [(2050, false)] }

def staleHere : Here := { ref := ⟨0, 0, 0⟩, block := staleBlock, cord := staleCord, set := [0], addr := 0x1000 }

def stalePrefetch : OGprf := { gd := ⟨7, false⟩, a := 2, b := 1, imm := 0, la := 0 }

theorem here_stale : here staleState = some staleHere := by decide +kernel

theorem stale_executes : Executes (.gprf stalePrefetch) staleState staleHere where
  stands := ⟨staleHere, here_stale, rfl, by decide, by decide +kernel⟩
  lanes := by decide +kernel
  parked := fun h => by revert h; decide
  latency := by decide
  flags := by decide
  order := by decide
  guard := by decide
  range := by decide
  release := fun h => by revert h; decide
  sound := by decide +kernel

/-- Entries that the error log gains. -/
def logged (o : Out) : Option Nat :=
  match o with
  | .next t => some t.mgmt.log.length
  | _ => none

theorem stale_logged : logged (exec (.gprf stalePrefetch) staleState) = some 1 := by decide +kernel

theorem stale_lineLost (a n : Nat) : lineLost (opened staleState staleHere) a n = (decide (65600 < a + n) && decide (a < 65632)) := by
  have hd (d : Nat) : ((opened staleState staleHere).die d).lost = [] := by
    simp only [opened, State.die, State.dies_setCord, staleState, Tab.get, Tab.get?, Tab.find]
    split <;> rfl
  have he : (opened staleState staleHere).hbmErr = [(2050, false)] := State.hbmErr_setCord _ _ _
  simp [lineLost, hd, he]

/-- A table of one entry of the context. -/
theorem tlbFind_one {e : TlbEntry} {ctx : Nat} (h : e.ctx = ctx) (va : Nat) :
    tlbFind [e] ctx va = if va / 2 ^ e.bits = e.page then some e else none := by
  by_cases hp : va / 2 ^ e.bits = e.page
  · simp [tlbFind, h, hp]
  · simp [tlbFind, hp, Ne.symm hp]

theorem stale_walk (va : Nat) : walk (opened staleState staleHere) 0 va 4 0 = .error cXlate := by
  have hm : (opened staleState staleHere).hbm = [] := State.hbm_setCord _ _ _
  have hlt : field va (levelBits 3) 9 < 512 := Nat.mod_lt _ (by decide)
  have hlost : lineLost (opened staleState staleHere) (8 * field va (levelBits 3) 9) 8 = false := by
    rw [stale_lineLost]
    simp only [Bool.and_eq_false_iff, decide_eq_false_iff_not]
    omega
  simp [walk, hlost, hm, Mem.read, Mem.get, leNat, pteV, bit]

/-- The two entries, and where neither covers an address the walk of the empty table. -/
theorem stale_leaf (va : Nat) : leafOf (opened staleState staleHere) 0 true 0 va =
    if va / 2 ^ 16 = 1 then .ok stalePage else if va / 2 ^ 34 = 0 then .ok stalePageBig else .error cXlate := by
  have hg : ((opened staleState staleHere).core 0).gtlb = [stalePage] := State.core_gtlb_setCord _ _ _ _
  have ht : ((opened staleState staleHere).die (dieOf 0)).tlb = [stalePageBig] := by
    simp only [opened, State.die, State.dies_setCord]; rfl
  have hr : ((opened staleState staleHere).ctx 0).root = 0 := by
    simp only [opened, State.ctx, State.ctxs_setCord]; rfl
  have h1 : tlbFind [stalePage] 0 va = if va / 2 ^ 16 = 1 then some stalePage else none := tlbFind_one rfl va
  have h2 : tlbFind [stalePageBig] 0 va = if va / 2 ^ 34 = 0 then some stalePageBig else none := tlbFind_one rfl va
  simp only [leafOf, if_true, hg, ht, hr, stale_walk, h1, h2]
  split_ifs <;> rfl

theorem stale_check (va : Nat) (hs : va / 2 ^ 16 ≠ 1) (hb : va / 2 ^ 34 = 0) :
    checkLeaf (opened staleState staleHere) stalePageBig va 64 false true = .ok (.hbm va) := by
  have hlost : lineLost (opened staleState staleHere) va 64 = false := by
    rw [stale_lineLost]
    simp only [Bool.and_eq_false_iff, decide_eq_false_iff_not]
    omega
  have ha : pteAddr stalePageBig.leaf + va % 2 ^ stalePageBig.bits = va := by
    change 0 + va % 2 ^ 34 = va
    omega
  have hr : pteR stalePageBig.leaf = true := by decide
  have ht : pteTarget stalePageBig.leaf = 0 := by decide
  have hin : ¬Config.hbmBytes < va + 64 := by
    have : Config.hbmBytes = 618475290624 := rfl
    omega
  simp [checkLeaf, hr, ht, ha, hin, hlost]

/-- At the issue no line of any address gives DATA_ERR: the damaged word lies in the small page, which is not readable. -/
theorem stale_sound (va : Nat) : translate (opened staleState staleHere) 0 true 0 va 64 false true ≠ .error cDataErr := by
  unfold Machine.translate
  rw [stale_leaf]
  split
  · decide
  by_cases h1 : va / 2 ^ 16 = 1
  · rw [if_pos h1]
    change (Except.error cPerm : Except Byte Target) ≠ _
    decide
  by_cases h2 : va / 2 ^ 34 = 0
  · rw [if_neg h1, if_pos h2]
    simp [stale_check va h1 h2]
  · rw [if_neg h1, if_neg h2]
    simp [cXlate, cDataErr]

/-- Refutes O30: the first line of the `gprf` brings the big page into the micro-TLB, which then serves the third in place of the small page
that it held for it; its word is damaged, and the suppressed DATA_ERR is logged, though no address gave one at the issue. -/
theorem not_gatherIssue : ¬ Obligations.GatherIssue := by
  unfold Obligations.GatherIssue
  intro h
  obtain ⟨-, -, -, -, hprf⟩ := h
  obtain ⟨t, c, ht, -, -, -, -, hreads⟩ := (hprf stalePrefetch staleState staleHere stale_executes).2 stale_sound
  have hl := stale_logged
  rw [ht, logged, hreads.mgmt] at hl
  exact absurd hl (by decide)

end Sys2Proof.Machine

namespace Sys2Proof.Machine

/-! ### The end of an issue that has touched more than its cord -/

section
variable {i : Instr} {s : State} {h : Here} (hx : Issues i s h)
include hx

/-- An issue that parks no lane: the cord advances from what the operation made of it, and the rest of the machine is as the operation
left it. -/
theorem finish_goes {d : Done} {x : Cord} (hc : d.s.cord? h.ref = some x) (hp : d.park = []) (hs : d.stay = []) (hw : d.win = [])
    (hgo : d.GoesOk h i) (hr : ∀ k ∈ h.set, (x.lane k).st = .run) (ho : ∀ k, k ∉ h.set → x.lane k = h.cord.lane k)
    (hfr : sends i = true → ∀ k ∈ h.set, (∀ y ∈ d.go, y.1 ≠ k) → (x.lane k).frames.length = (h.cord.lane k).frames.length) :
    ∃ t c, finish h i d = .next t ∧ t.cord? h.ref = some c ∧ Apart h.ref d.s t ∧ Counted h i d.s.clock d.fl x c ∧
      (∀ k ∈ h.set, c.lane k = { x.lane k with pc := d.target (h.after i) k }) ∧
      ∀ k, k ∉ h.set → Resting (h.cord.lane k) (c.lane k) := by
  obtain ⟨t, h1, h2, h3⟩ := finish_next (i := i) hc hp
  obtain ⟨h4, h5, h6⟩ := advance_plain (i := i) x d.s.clock hp hs hw hgo hx.nodup hr hfr
  exact ⟨t, _, h1, h2, h3, h4, h5, fun k hk => ho k hk ▸ h6 k hk⟩

/-- The same where every lane keeps what it holds and goes to the next instruction. -/
theorem finish_on {d : Done} {x : Cord} (hc : d.s.cord? h.ref = some x) (hp : d.park = []) (hs : d.stay = []) (hw : d.win = [])
    (hgo : d.go = []) (hl : ∀ k, x.lane k = h.cord.lane k) :
    ∃ t c, finish h i d = .next t ∧ t.cord? h.ref = some c ∧ Apart h.ref d.s t ∧ Counted h i d.s.clock d.fl x c ∧
      (∀ k ∈ h.set, c.lane k = h.next i (h.cord.lane k)) ∧ ∀ k, k ∉ h.set → Resting (h.cord.lane k) (c.lane k) := by
  obtain ⟨t, c, h1, h2, h3, h4, h5, h6⟩ := finish_goes hx hc hp hs hw (.inl hgo) (fun k hk => (hl k).symm ▸ hx.run hk)
    (fun k _ => hl k) (fun _ k _ _ => by rw [hl k])
  refine ⟨t, c, h1, h2, h3, h4, fun k hk => (h5 k hk).trans ?_, h6⟩
  rw [hl k, Done.target, hgo]
  rfl

/-- Completion with an effect outside the cord, where every lane goes to the next instruction. -/
theorem on_completesAs {m : State} {d : Done} {x : Cord} (e : exec i s = finish h i d) (hc : d.s.cord? h.ref = some x)
    (hap : Apart h.ref m d.s) (hclk : d.s.clock = s.clock) (hp : d.park = []) (hs : d.stay = []) (hw : d.win = []) (hgo : d.go = [])
    (hl : ∀ k, x.lane k = h.cord.lane k) : CompletesAs i s h m x (fun k => h.next i (h.cord.lane k)) d.fl := by
  obtain ⟨t, c, h1, h2, h3, h4, h5, h6⟩ := finish_on hx hc hp hs hw hgo hl
  exact ⟨t, c, e.trans h1, h2, hap.trans h3, hclk ▸ h4, h5, h6⟩

end

/-! ### The block after an issue -/

theorem OnlyTracks.block? {s t : State} (h : OnlyTracks s t) (n sl : Nat) : t.block? n sl = s.block? n sl := by
  rw [h.rest]
  rfl

theorem OnlyTracks.clock {s t : State} (h : OnlyTracks s t) : t.clock = s.clock := by rw [h.rest]

theorem OnlyCe.block? {s t : State} (h : OnlyCe s t) (n sl : Nat) : t.block? n sl = s.block? n sl := by
  rw [State.block?, h.core n]
  rfl

theorem begun_block? (s : State) (b : Block) (n sl : Nat) : (begun s b).block? n sl = s.block? n sl := by rw [begun_rest]; rfl

theorem countPerf_block? (s : State) (m ev n sl : Nat) : (countPerf s m ev).block? n sl = s.block? n sl := by
  rw [State.block?, countPerf_core]
  rfl

/-- An issue that parks no lane changes its block by the cord alone. -/
theorem finished_block? (h : Here) (i : Instr) (d : Done) (c : Cord) (n sl : Nat) :
    (finished h i d c).block? n sl = (d.s.setCord h.ref (rejoin (advance h (sizeOf' i) d.s.clock d c))).block? n sl := by
  rw [finished, countPerf_block?, begun_block?, (mendRegs_onlyCe _ h i d).block?, (noteRegs_onlyCe _ h i).block?,
    (fenced_onlyTracks h i _).block?]

theorem State.setCord_barriers {s : State} {r : CordRef} {b : Block} (hb : s.block? r.core r.slot = some b) (c : Cord) :
    ∃ b', (s.setCord r c).block? r.core r.slot = some b' ∧ b'.barriers = b.barriers := by
  rw [State.setCord_eq hb, State.block?_setBlock, if_pos ⟨rfl, rfl⟩]
  exact ⟨_, rfl, rfl⟩

theorem finish_barriers {h : Here} {i : Instr} {d : Done} {u : State} {c : Cord} {b : Block} (hc : d.s.cord? h.ref = some c)
    (hp : d.park = []) (e : finish h i d = .next u) (hb : d.s.block? h.ref.core h.ref.slot = some b) :
    ∃ b', u.block? h.ref.core h.ref.slot = some b' ∧ b'.barriers = b.barriers := by
  rw [finish_eq hc hp] at e
  cases e
  rw [show ∀ t : State, ({ t with stalled := [] } : State).block? h.ref.core h.ref.slot = t.block? h.ref.core h.ref.slot from fun _ => rfl,
    finished_block?]
  exact State.setCord_barriers hb _

/-! ### The block as an operation finds it -/

section
variable {i : Instr} {s : State} {h : Here} (hx : Issues i s h)
include hx

theorem Issues.block? : s.block? h.ref.core h.ref.slot = some h.block := by
  obtain ⟨h₀, hh, -, -, rfl⟩ := hx.stands
  exact (here_cord hh).2.2

theorem Issues.opened_block? :
    (opened s h).block? h.ref.core h.ref.slot = some { h.block with cords := h.block.cords.set h.ref.cord h.cord } := by
  rw [opened, State.setCord_eq hx.block?, State.block?_setBlock, if_pos ⟨rfl, rfl⟩]

end

end Sys2Proof.Machine

namespace Sys2Proof.Machine

/-! ### What the completion of phases leaves of one phase (R163) -/

/-- The cord as the completion of phase `p` of barrier `n` leaves it: who waits for the phase has its flag. -/
def Block.flagged (b : Block) (n : Nat) (p : Phase) (i : Nat) (c : Cord) : Cord :=
  { c with
    barWait := c.barWait.map (fun _ w =>
      if w.bar == n && w.phase == (b.barrier n).number then { w with flag := some (lastArriver b.det p == some i) } else w)
    bflags := if c.barars.get? n == some (b.barrier n).number then c.bflags.set n (lastArriver b.det p == some i) else c.bflags }

/-- The block as the completion of the current phase `p` of barrier `n` leaves it, the epoch counted on where every cord arrived. -/
def Block.closePhase (b : Block) (n : Nat) (p : Phase) (rest : List Phase) : Block :=
  let x : Block := { b with
    cords := b.cords.map (b.flagged n p)
    barriers := b.barriers.set n { number := (b.barrier n).number + 1, phases := rest }
    epoch := if p.count = 0 then b.epoch + 1 else b.epoch }
  if p.count = 0 && x.epoch == 0 then { x with lines := .empty } else x

theorem completePhases_succ (fuel : Nat) (b : Block) (n : Nat) {p : Phase} {rest : List Phase} (hp : (b.barrier n).phases = p :: rest) :
    completePhases (fuel + 1) b n = if phaseDone b p then completePhases fuel (b.closePhase n p rest) n else b := by
  conv => lhs; unfold completePhases
  simp only [hp]
  cases phaseDone b p <;> rfl

theorem completePhases_nil (fuel : Nat) (b : Block) (n : Nat) (hp : (b.barrier n).phases = []) : completePhases fuel b n = b := by
  cases fuel with
  | zero => rfl
  | succ fuel =>
    unfold completePhases
    simp only [hp]

/-- What every completed phase keeps, all that complete keep. -/
theorem completePhases_induct {R : Block → Block → Prop} (n : Nat) (hrefl : ∀ b, R b b) (htrans : ∀ {b c d}, R b c → R c d → R b d)
    (hstep : ∀ b p rest, R b (b.closePhase n p rest)) (fuel : Nat) (b : Block) : R b (completePhases fuel b n) := by
  induction fuel generalizing b with
  | zero => exact hrefl b
  | succ fuel ih =>
    cases hp : (b.barrier n).phases with
    | nil =>
      rw [completePhases_nil _ b n hp]
      exact hrefl b
    | cons p rest =>
      rw [completePhases_succ fuel b n hp]
      split
      · exact htrans (hstep b p rest) (ih _)
      · exact hrefl b

section
variable (b : Block) (n : Nat) (p : Phase) (rest : List Phase)

theorem closePhase_cords : (b.closePhase n p rest).cords = b.cords.map (b.flagged n p) :=
  (apply_ite Block.cords _ _ _).trans (ite_self _)

theorem closePhase_det : (b.closePhase n p rest).det = b.det := (apply_ite Block.det _ _ _).trans (ite_self _)

theorem closePhase_barriers :
    (b.closePhase n p rest).barriers = b.barriers.set n { number := (b.barrier n).number + 1, phases := rest } :=
  (apply_ite Block.barriers _ _ _).trans (ite_self _)

theorem closePhase_barrier_same : (b.closePhase n p rest).barrier n = { number := (b.barrier n).number + 1, phases := rest } := by
  rw [Block.barrier, closePhase_barriers, Tab.get_set_same]

theorem closePhase_barrier_ne {m : Nat} (h : m ≠ n) : (b.closePhase n p rest).barrier m = b.barrier m := by
  rw [Block.barrier, closePhase_barriers, Tab.get_set_ne _ h]
  rfl

end

/-- Flags do not decide which phases are complete: those are the arrivals and the lanes. -/
theorem phaseDone_closePhase (b : Block) (n : Nat) (p : Phase) (rest : List Phase) (q : Phase) :
    phaseDone (b.closePhase n p rest) q = phaseDone b q := by
  have hc : (b.closePhase n p rest).cordList = b.cordList.map (fun e => (e.1, b.flagged n p e.1 e.2)) := by
    rw [Block.cordList, closePhase_cords]
    rfl
  unfold phaseDone
  rw [hc, List.all_map]
  rfl

/-- Phase `num` of barrier `n` means to the cord what it did: its wait for the phase, and the flag that its `barar` kept of it. -/
structure Cord.KeepsPhase (n num : Nat) (c d : Cord) : Prop where
  rest : c.Flagged d
  wait : ∀ a w, c.barWait.get? a = some w → w.bar = n → w.phase = num → d.barWait.get? a = some w
  flag : c.barars.get? n = some num → d.bflags.get? n = c.bflags.get? n

theorem Cord.KeepsPhase.refl (n num : Nat) (c : Cord) : c.KeepsPhase n num c := ⟨.refl c, fun _ _ h _ _ => h, fun _ => rfl⟩

theorem Cord.Flagged.barars {c d : Cord} (h : c.Flagged d) : d.barars = c.barars := by rw [h]

theorem Cord.KeepsPhase.trans {n num : Nat} {c d e : Cord} (h : c.KeepsPhase n num d) (h' : d.KeepsPhase n num e) : c.KeepsPhase n num e :=
  ⟨h.rest.trans h'.rest, fun a w h1 h2 h3 => h'.wait a w (h.wait a w h1 h2 h3) h2 h3,
    fun h1 => (h'.flag (h.rest.barars ▸ h1)).trans (h.flag h1)⟩

/-- Another phase, of this barrier or another, completes. -/
theorem flagged_keepsPhase (b : Block) {m n num : Nat} (p : Phase) (i : Nat) (c : Cord) (h : n ≠ m ∨ num ≠ (b.barrier m).number) :
    c.KeepsPhase n num (b.flagged m p i c) := by
  refine ⟨rfl, fun a w h1 h2 h3 => ?_, fun h1 => ?_⟩
  · have hw : (w.bar == m && w.phase == (b.barrier m).number) = false := by
      simp only [h2, h3, Bool.and_eq_false_iff, beq_eq_false_iff_ne]
      exact h
    simp only [Block.flagged, Tab.get?_map, h1, Option.map_some, hw, Bool.false_eq_true, if_false]
  · unfold Block.flagged
    dsimp only
    split
    · next hb =>
      have hnm : n ≠ m := fun e => by
        subst e
        rw [h1] at hb
        exact h.elim (· rfl) (fun hne => hne (Option.some.inj (eq_of_beq hb)))
      exact Tab.get?_set_ne _ hnm _
    · rfl

/-- The completion of the very phase gives its flag to the cord's wait and to its `barar`. -/
theorem flagged_same (b : Block) (n : Nat) (p : Phase) (i : Nat) (c : Cord) :
    (∀ a w, c.barWait.get? a = some w → w.bar = n → w.phase = (b.barrier n).number →
      (b.flagged n p i c).barWait.get? a = some { w with flag := some (lastArriver b.det p == some i) }) ∧
    (c.barars.get? n = some (b.barrier n).number → (b.flagged n p i c).bflags.get? n = some (lastArriver b.det p == some i)) := by
  refine ⟨fun a w h1 h2 h3 => ?_, fun h1 => ?_⟩
  · simp only [Block.flagged, Tab.get?_map, h1, Option.map_some, h2, h3, beq_self_eq_true, Bool.and_self, if_true]
  · simp only [Block.flagged, h1, beq_self_eq_true, if_true, Tab.get?_set_same]

/-- The same of cord `i` of a block. -/
def Block.KeepsPhase (n num i : Nat) (b b' : Block) : Prop := ∀ c, b.cords.get? i = some c → ∃ d, b'.cords.get? i = some d ∧ c.KeepsPhase n num d

theorem Block.KeepsPhase.refl (n num i : Nat) (b : Block) : Block.KeepsPhase n num i b b := fun c hc => ⟨c, hc, .refl n num c⟩

theorem Block.KeepsPhase.trans {n num i : Nat} {b b' b'' : Block} (h : Block.KeepsPhase n num i b b') (h' : Block.KeepsPhase n num i b' b'') :
    Block.KeepsPhase n num i b b'' := by
  intro c hc
  obtain ⟨d, hd, h1⟩ := h c hc
  obtain ⟨e, he, h2⟩ := h' d hd
  exact ⟨e, he, h1.trans h2⟩

theorem closePhase_get? {b : Block} {i : Nat} {c : Cord} (hc : b.cords.get? i = some c) (n : Nat) (p : Phase) (rest : List Phase) :
    (b.closePhase n p rest).cords.get? i = some (b.flagged n p i c) := by
  rw [closePhase_cords, Tab.get?_map, hc]
  rfl

theorem closePhase_keepsPhase (b : Block) {m n num : Nat} (i : Nat) (p : Phase) (rest : List Phase) (h : n ≠ m ∨ num ≠ (b.barrier m).number) :
    Block.KeepsPhase n num i b (b.closePhase m p rest) := fun c hc =>
  ⟨_, closePhase_get? hc m p rest, flagged_keepsPhase b p i c h⟩

/-- What the phases of the other barriers leave alone: barrier `n`, and what completes its phases. -/
structure Block.KeepsBarrier (n num i : Nat) (b b' : Block) : Prop where
  barrier : b'.barrier n = b.barrier n
  det : b'.det = b.det
  done : ∀ p, phaseDone b' p = phaseDone b p
  cord : Block.KeepsPhase n num i b b'

theorem Block.KeepsBarrier.refl (n num i : Nat) (b : Block) : Block.KeepsBarrier n num i b b := ⟨rfl, rfl, fun _ => rfl, .refl n num i b⟩

theorem Block.KeepsBarrier.trans {n num i : Nat} {b b' b'' : Block} (h : Block.KeepsBarrier n num i b b')
    (h' : Block.KeepsBarrier n num i b' b'') : Block.KeepsBarrier n num i b b'' :=
  ⟨h'.barrier.trans h.barrier, h'.det.trans h.det, fun p => (h'.done p).trans (h.done p), h.cord.trans h'.cord⟩

theorem completePhases_keepsBarrier {m n : Nat} (hm : n ≠ m) (num i fuel : Nat) (b : Block) :
    Block.KeepsBarrier n num i b (completePhases fuel b m) :=
  completePhases_induct m (.refl n num i) (fun h h' => h.trans h')
    (fun b p rest => ⟨closePhase_barrier_ne b m p rest hm, closePhase_det b m p rest, phaseDone_closePhase b m p rest,
      closePhase_keepsPhase b i p rest (.inl hm)⟩) fuel b

/-- Once a phase is over, no later one touches what is kept of it. -/
theorem completePhases_keepsPast (m n num i fuel : Nat) (b : Block) (h : num < (b.barrier n).number) :
    num < ((completePhases fuel b m).barrier n).number ∧ Block.KeepsPhase n num i b (completePhases fuel b m) := by
  refine completePhases_induct (R := fun b b' => num < (b.barrier n).number → num < (b'.barrier n).number ∧ Block.KeepsPhase n num i b b')
    m (fun b hb => ⟨hb, .refl n num i b⟩)
    (fun h1 h2 hb => ⟨(h2 (h1 hb).1).1, (h1 hb).2.trans (h2 (h1 hb).1).2⟩) (fun b p rest hb => ?_) fuel b h
  by_cases hm : n = m
  · subst hm
    exact ⟨by rw [closePhase_barrier_same]; exact Nat.lt_succ_of_lt hb, closePhase_keepsPhase b i p rest (.inr (Nat.ne_of_lt hb))⟩
  · exact ⟨by rw [closePhase_barrier_ne _ _ _ _ hm]; exact hb, closePhase_keepsPhase b i p rest (.inl hm)⟩

section
variable {b : Block} {n i : Nat} {p : Phase} {ps : List Phase}

/-- A phase that is not complete stays as it is when the barriers settle. -/
theorem settleBarriers_open (num : Nat) (hp : (b.barrier n).phases = p :: ps) (hd : phaseDone b p = false) :
    Block.KeepsBarrier n num i b (settleBarriers b) := by
  unfold settleBarriers
  induction List.range 16 generalizing b with
  | nil => exact .refl n num i b
  | cons m r ih =>
    rw [List.foldl_cons]
    by_cases hm : n = m
    · subst hm
      rw [completePhases_succ 4 b n hp, if_neg (by simp [hd])]
      exact ih hp hd
    · have h1 := completePhases_keepsBarrier hm num i 5 b
      exact h1.trans (ih (h1.barrier ▸ hp) ((h1.done p).trans hd))

/-- What the completion of the current phase leaves of a cord. -/
structure Cord.HasPhase (n num : Nat) (x : Bool) (c d : Cord) : Prop where
  rest : c.Flagged d
  wait : ∀ a w, c.barWait.get? a = some w → w.bar = n → w.phase = num → d.barWait.get? a = some { w with flag := some x }
  flag : c.barars.get? n = some num → d.bflags.get? n = some x

theorem Cord.KeepsPhase.hasPhase {num : Nat} {x : Bool} {c d e : Cord} (h : c.KeepsPhase n num d) (h' : d.HasPhase n num x e) :
    c.HasPhase n num x e :=
  ⟨h.rest.trans h'.rest, fun a w h1 h2 h3 => h'.wait a w (h.wait a w h1 h2 h3) h2 h3, fun h1 => h'.flag (h.rest.barars ▸ h1)⟩

theorem Cord.HasPhase.keeps {num : Nat} {x : Bool} {c d e : Cord} (h : c.HasPhase n num x d) (h' : d.KeepsPhase n num e) :
    c.HasPhase n num x e :=
  ⟨h.rest.trans h'.rest, fun a w h1 h2 h3 => h'.wait a _ (h.wait a w h1 h2 h3) h2 h3,
    fun h1 => (h'.flag (h.rest.barars ▸ h1)).trans (h.flag h1)⟩

/-- A complete phase gives its flag, once, when the barriers settle. -/
theorem settleBarriers_done (hn : n < 16) {c : Cord} (hc : b.cords.get? i = some c) (hp : (b.barrier n).phases = p :: ps)
    (hd : phaseDone b p = true) :
    ∃ d, (settleBarriers b).cords.get? i = some d ∧ c.HasPhase n (b.barrier n).number (lastArriver b.det p == some i) d := by
  have hmem : n ∈ List.range 16 := List.mem_range.2 hn
  unfold settleBarriers
  revert hmem
  induction List.range 16 generalizing b c with
  | nil => exact fun hmem => nomatch hmem
  | cons m r ih =>
    intro hmem
    rw [List.foldl_cons]
    by_cases hm : n = m
    · subst hm
      rw [completePhases_succ 4 b n hp, if_pos hd]
      have hlt : (b.barrier n).number < ((b.closePhase n p ps).barrier n).number := by
        rw [closePhase_barrier_same]
        exact Nat.lt_succ_self _
      obtain ⟨hlt1, hk1⟩ := completePhases_keepsPast n n _ i 4 _ hlt
      have hk2 : ∀ (l : List Nat) (y : Block), (b.barrier n).number < (y.barrier n).number →
          Block.KeepsPhase n (b.barrier n).number i y (l.foldl (fun b m => completePhases 5 b m) y) := by
        intro l
        induction l with
        | nil => exact fun y _ => .refl _ _ _ y
        | cons m l ihl =>
          intro y hy
          obtain ⟨h1, h2⟩ := completePhases_keepsPast m n _ i 5 y hy
          exact h2.trans (ihl _ h1)
      obtain ⟨d, hd', hk⟩ := (hk1.trans (hk2 r _ hlt1)) _ (closePhase_get? hc n p ps)
      exact ⟨d, hd', Cord.HasPhase.keeps (d := b.flagged n p i c) ⟨rfl, (flagged_same b n p i c).1, (flagged_same b n p i c).2⟩ hk⟩
    · have h1 := completePhases_keepsBarrier hm (b.barrier n).number i 5 b
      obtain ⟨d, hd', hk⟩ := h1.cord c hc
      obtain ⟨e, he, hh⟩ := ih hd' (h1.barrier ▸ hp) ((h1.done p).trans hd)
        ((List.mem_cons.1 hmem).resolve_left hm)
      rw [h1.barrier, h1.det] at hh
      exact ⟨e, he, hk.hasPhase hh⟩

end

end Sys2Proof.Machine

namespace Sys2Proof.Machine

/-! ### An arrival (R163) -/

theorem cord?_of_block? {s : State} {r : CordRef} {b : Block} (h : s.block? r.core r.slot = some b) : s.cord? r = b.cords.get? r.cord := by
  rw [State.cord?, h]
  rfl

/-- The cord has arrived in the current phase, once it has arrived at all. -/
theorem arriveAt_head {r : Barrier} {cord n : Nat} {p : Phase} {ps : List Phase}
    (h : (arriveAt r (arrivalPhase r cord) cord n).phases = p :: ps) : p.arrivals.contains cord = true := by
  obtain ⟨num, l⟩ := r
  cases l with
  | nil =>
    cases h
    simp
  | cons y r =>
    by_cases hy : y.arrivals.contains cord = true
    · have hj : arrivalPhase ⟨num, y :: r⟩ cord = arrivalPhase ⟨num, r⟩ cord + 1 := by
        simp only [arrivalPhase, List.takeWhile_cons, hy, if_true, List.length_cons]
      rw [hj] at h
      unfold arriveAt at h
      split at h
      · cases h
        exact hy
      · cases h
        exact hy
    · have hj : arrivalPhase ⟨num, y :: r⟩ cord = 0 := by
        simp only [arrivalPhase, List.takeWhile_cons, hy, if_false, List.length_nil, Bool.false_eq_true]
      rw [hj] at h
      cases h
      simp

theorem all_put {β : Type} (q : Nat × β → Bool) (l : List (Nat × β)) {k : Nat} (hq : ∀ y, q (k, y) = true) (x : β) :
    (Tab.put l k x).all q = l.all q := by
  induction l with
  | nil => simp [Tab.put, hq]
  | cons e r ih =>
    obtain ⟨j, y⟩ := e
    unfold Tab.put
    split
    · simp [hq]
    · split
      · next hj => simp [← hj, hj ▸ hq]
      · simp [ih]

/-- What the cord itself has become does not decide a phase at which it has arrived. -/
theorem phaseDone_set {b : Block} {i : Nat} {p : Phase} (hp : p.arrivals.contains i = true) (c : Cord) (br : Tab Barrier) :
    phaseDone { b with cords := b.cords.set i c, barriers := br } p = phaseDone b p := by
  unfold phaseDone
  rw [show Block.cordList { b with cords := b.cords.set i c, barriers := br } = Tab.put b.cordList i c from rfl,
    all_put _ _ (fun y => by rw [hp]; rfl)]

/-- The executing block with another cord at `h.ref`, and an arrival at phase `j` of barrier `bn`. -/
def Here.arriving (h : Here) (c : Cord) (bn j n : Nat) : Block :=
  { h.block with
    cords := (h.block.cords.set h.ref.cord h.cord).set h.ref.cord c
    barriers := h.block.barriers.set bn (arriveAt (h.block.barrier bn) j h.ref.cord n) }

theorem Here.arriving_barrier (h : Here) (c : Cord) (bn j n : Nat) :
    (h.arriving c bn j n).barrier bn = arriveAt (h.block.barrier bn) j h.ref.cord n := Tab.get_set_same _ _ _ _

theorem Here.arriving_get? (h : Here) (c : Cord) (bn j n : Nat) : (h.arriving c bn j n).cords.get? h.ref.cord = some c :=
  Tab.get?_set_same _ _ _

theorem arriveAt_number (r : Barrier) (j cord n : Nat) : (arriveAt r j cord n).number = r.number := by
  unfold arriveAt
  split <;> rfl

theorem Here.arriving_phaseDone (h : Here) (c : Cord) (bn j n : Nat) {p : Phase} (hp : p.arrivals.contains h.ref.cord = true) :
    phaseDone (h.arriving c bn j n) p = phaseDone h.block p :=
  (phaseDone_set (b := { h.block with cords := h.block.cords.set h.ref.cord h.cord }) hp c _).trans
    (phaseDone_set (b := h.block) hp h.cord h.block.barriers)

/-- A block put in its place settles there. -/
theorem settleAt_setBlock (s : State) (r : CordRef) (b : Block) :
    (settleAt (s.setBlock r.core r.slot b) r.core r.slot).block? r.core r.slot = some (settleBarriers b) ∧
    SameMemory s (settleAt (s.setBlock r.core r.slot b) r.core r.slot) := by
  have h1 : (s.setBlock r.core r.slot b).block? r.core r.slot = some b := by rw [State.block?_setBlock, if_pos ⟨rfl, rfl⟩]
  have h2 (t : State) : (t.setBlock r.core r.slot (settleBarriers b)).block? r.core r.slot = some (settleBarriers b) := by
    rw [State.block?_setBlock, if_pos ⟨rfl, rfl⟩]
  unfold settleAt
  simp only [h1]
  split
  · refine ⟨?_, ((sameMemory_setBlock _ _ _ _).trans (sameMemory_setBlock _ _ _ _)).trans (sameMemory_setCore rfl rfl rfl)⟩
    rw [State.block?, State.core_setCore_same]
    exact h2 _
  · exact ⟨h2 _, (sameMemory_setBlock _ _ _ _).trans (sameMemory_setBlock _ _ _ _)⟩

/-- What an arrival that may be made leaves: the barriers of its block settled, and `f`'s note of the phase in its cord. -/
structure Here.Arrived (h : Here) (s t : State) (c₀ : Cord) (bn j n : Nat) : Prop where
  mem : SameMemory s t
  block : t.block? h.ref.core h.ref.slot = some (settleBarriers (h.arriving c₀ bn j n))

theorem field_low (x n : Nat) : field x 0 n = x % 2 ^ n := by rw [field, Nat.pow_zero, Nat.div_one]

section
variable {i : Instr} {s : State} {h : Here} {a : Reg} {bn : Nat} (f : Cord → Nat → Cord)

theorem arrive_shape (hn : 32 < (h.s a).toNat % 64) : arrive h s a bn f = parkSet h s cShape (h.s a) := by
  unfold arrive
  rw [field_low]
  exact if_pos hn

theorem arrive_did (hx : Issues i s h) (hn : (h.s a).toNat % 64 ≤ 32) (hw : writesPending (s.core h.ref.core) h.ref.slot h.ref.cord h.block = false)
    (hj : arrivalPhase (h.block.barrier bn) h.ref.cord < 4) :
    ∃ t, arrive h (opened s h) a bn f = .did { s := t } ∧
      h.Arrived s t (f h.cord ((h.block.barrier bn).number + arrivalPhase (h.block.barrier bn) h.ref.cord)) bn
        (arrivalPhase (h.block.barrier bn) h.ref.cord) ((h.s a).toNat % 64) := by
  have hw' : writesPending ((opened s h).core h.ref.core) h.ref.slot h.ref.cord h.block = false := by
    rw [opened, State.core_setCord]
    exact hw
  have hb (c : Cord) : ((opened s h).setCord h.ref c).block? h.ref.core h.ref.slot =
      some { h.block with cords := (h.block.cords.set h.ref.cord h.cord).set h.ref.cord c } := by
    rw [State.setCord_eq hx.opened_block?, State.block?_setBlock, if_pos ⟨rfl, rfl⟩]
  unfold arrive
  simp only [field_low, Nat.reducePow, Nat.not_lt.2 hn, if_false, hw', decide_eq_false (Nat.not_le.2 hj), Bool.or_false,
    Bool.false_eq_true, hb]
  refine ⟨_, rfl, ?_, (settleAt_setBlock _ h.ref _).1⟩
  exact ((opened_apart s h).sameMemory.trans (apart_setCord _ _ _).sameMemory).trans
    ((send_onlyTracks _ _ _ _).sameMemory.trans (settleAt_setBlock _ h.ref _).2)

end

section
variable {h : Here} {s t : State} {c₀ : Cord} {bn n : Nat} {p : Phase} {ps : List Phase}
  (ht : h.Arrived s t c₀ bn (arrivalPhase (h.block.barrier bn) h.ref.cord) n)
  (hp : (arriveAt (h.block.barrier bn) (arrivalPhase (h.block.barrier bn) h.ref.cord) h.ref.cord n).phases = p :: ps)
include ht hp

/-- Where the current phase is not complete, the cord and the barrier are as the arrival made them. -/
theorem Here.Arrived.cord_open (num : Nat) (hd : phaseDone h.block p = false) :
    ∃ c, t.cord? h.ref = some c ∧ c₀.KeepsPhase bn num c ∧
      ∃ b, t.block? h.ref.core h.ref.slot = some b ∧ (b.barrier bn).phases = p :: ps := by
  replace hd := (h.arriving_phaseDone c₀ bn (arrivalPhase (h.block.barrier bn) h.ref.cord) n (arriveAt_head hp)).trans hd
  rw [← h.arriving_barrier c₀] at hp
  have hk := settleBarriers_open (i := h.ref.cord) num hp hd
  obtain ⟨c, hc, hkc⟩ := hk.cord c₀ (h.arriving_get? c₀ bn _ n)
  exact ⟨c, (cord?_of_block? ht.block).trans hc, hkc, _, ht.block, (congrArg Barrier.phases hk.barrier).trans hp⟩

/-- Where it is, the cord has what the phase leaves. -/
theorem Here.Arrived.cord_done (hbn : bn < 16) (hd : phaseDone h.block p = true) :
    ∃ c, t.cord? h.ref = some c ∧
      c₀.HasPhase bn (h.block.barrier bn).number (lastArriver h.block.det p == some h.ref.cord) c := by
  replace hd := (h.arriving_phaseDone c₀ bn (arrivalPhase (h.block.barrier bn) h.ref.cord) n (arriveAt_head hp)).trans hd
  rw [← h.arriving_barrier c₀] at hp
  obtain ⟨c, hc, hk⟩ := settleBarriers_done hbn (h.arriving_get? c₀ bn _ n) hp hd
  rw [h.arriving_barrier, arriveAt_number] at hk
  exact ⟨c, (cord?_of_block? ht.block).trans hc, hk⟩

end

end Sys2Proof.Machine

namespace Sys2Proof.Machine

/-! ### `bar`, `barar` and `barwt` (R163) -/

theorem cord?_stalled (s : State) (r : CordRef) (l : List CordRef) : ({ s with stalled := l } : State).cord? r = s.cord? r := rfl

theorem State.waitHere_cord? {s : State} {h : Here} {c : Cord} (hc : s.cord? h.ref = some c) :
    (s.waitHere h).cord? h.ref = some { c with waits := some (h.addr, h.set) } := by
  unfold State.waitHere
  simp only [hc]
  exact State.cord?_setCord_same hc _

theorem State.waitHere_apart (s : State) (h : Here) : Apart h.ref s (s.waitHere h) := by
  unfold State.waitHere
  split
  · exact .refl _ _
  · exact apart_setCord _ _ _

theorem State.waitHere_block? (s : State) (h : Here) (b : Block) (hb : s.block? h.ref.core h.ref.slot = some b) :
    ∃ b', (s.waitHere h).block? h.ref.core h.ref.slot = some b' ∧ b'.barriers = b.barriers := by
  unfold State.waitHere
  split
  · exact ⟨b, hb, rfl⟩
  · exact State.setCord_barriers hb _

/-- The cord with its wait at an address over. -/
def Cord.barOver (c : Cord) (addr qd : Nat) (x : Bool) : Cord := { c with barWait := c.barWait.erase addr }.setQ qd x

theorem Cord.setQ_lanes (c : Cord) (i : Nat) (x : Bool) : (c.setQ i x).lanes = c.lanes := by
  unfold Cord.setQ
  split <;> rfl

theorem Cord.setQ_q (c : Cord) (i : Nat) (x : Bool) : (c.setQ i x).q = if i < 7 then putQ c.q i x else c.q := by
  unfold Cord.setQ
  split <;> rfl

theorem Cord.barOver_rest (c : Cord) (addr qd : Nat) (x : Bool) :
    c.barOver addr qd x = { c with barWait := c.barWait.erase addr, q := (c.setQ qd x).q } := by
  unfold Cord.barOver Cord.setQ
  split <;> rfl

/-- The flag of the wait at an address, once its phase is over. -/
def Cord.barFlag (c : Cord) (addr : Nat) : Option Bool := (c.barWait.get? addr).bind (·.flag)

section
variable {h : Here} {s : State} {c : Cord} {addr qd : Nat} (hc : s.cord? h.ref = some c)
include hc

theorem barWait_open (hf : c.barFlag addr = none) : barWait h s addr qd = .wait s := by
  unfold Cord.barFlag at hf
  unfold barWait
  simp only [hc]
  split
  · rfl
  · next w hw =>
    rw [hw] at hf
    simp only [show w.flag = none from hf]

/-- A wait that is over writes the flag; only the tracks change beside the cord. -/
theorem barWait_over {x : Bool} (hf : c.barFlag addr = some x) :
    ∃ t, barWait h s addr qd = .did { s := t } ∧ OnlyTracks (s.setCord h.ref (c.barOver addr qd x)) t := by
  obtain ⟨w, hw, hx⟩ := Option.bind_eq_some_iff.1 hf
  unfold barWait
  simp only [hc, hw, hx]
  exact ⟨_, rfl, hear_onlyTracks _ _ _ _⟩

end

section
variable {i : Instr} {s t : State} {h : Here} (hx : Issues i s h) {y : Cord}
include hx

/-- A completion whose operation replaces the cord but for its lanes, and notes what was heard. -/
theorem heard_completes (e : exec i s = finish h i { s := t }) (ht : OnlyTracks ((opened s h).setCord h.ref y) t) (hy : y.lanes = h.cord.lanes) :
    Completes i s h y (fun k => h.next i (h.cord.lane k)) [] :=
  on_completesAs hx (m := s) e ((ht.cord? _).trans (State.cord?_setCord_same hx.opened_cord? y))
    ((opened_apart s h).trans ((apart_setCord _ _ _).trans (ht.apart _)))
    (ht.clock.trans ((State.clock_setCord _ _ _).trans (opened_clock s h))) rfl rfl rfl rfl
    (fun k => by unfold Cord.lane; rw [hy])

end

theorem Cord.lane_eq {c d : Cord} (h : d.lanes = c.lanes) (k : Nat) : d.lane k = c.lane k := by unfold Cord.lane; rw [h]

theorem Here.arrived_get? {h : Here} {w : BarWait} (ha : h.arrived = some w) : h.cord.barWait.get? h.addr = some w :=
  (Option.filter_eq_some_iff.1 ha).1

section
variable {o : OBar} {s : State} {h : Here} (hx : Executes (.bar o) s h)
include hx

theorem exec_bar_first (ha : h.arrived = none) : exec (.bar o) s = actOut (.bar o) h (opened s h)
    (match arrive h (opened s h) o.a o.bn.toNat (fun c n => { c with barWait := c.barWait.set h.addr ⟨h.set, o.bn.toNat, n, none⟩ }) with
      | .did d => if d.park.isEmpty then barWait h d.s h.addr o.qd.toNat else .did d
      | a => a) := by
  refine (issue_eq hx _).trans ?_
  simp only [ha] <;> rfl

theorem exec_bar_again {w : BarWait} (ha : h.arrived = some w) : exec (.bar o) s = actOut (.bar o) h (opened s h)
    (if w.flag.isNone then .hold else barWait h (opened s h) h.addr o.qd.toNat) := by
  refine (issue_eq hx _).trans ?_
  simp only [ha]

theorem bar_hold {w : BarWait} (ha : h.arrived = some w) (hf : w.flag = none) :
    exec (.bar o) s = .next (((opened s h).waitHere h).stall h.ref) := by
  rw [exec_bar_again hx ha, hf]
  rfl

theorem bar_over {w : BarWait} {x : Bool} (ha : h.arrived = some w) (hf : w.flag = some x) :
    Completes (.bar o) s h (h.cord.barOver h.addr o.qd.toNat x) (fun k => h.next (.bar o) (h.cord.lane k)) [] := by
  obtain ⟨t, h1, h2⟩ := barWait_over (qd := o.qd.toNat) (addr := h.addr) (x := x) hx.toIssues.opened_cord? (by
    rw [Cord.barFlag, Here.arrived_get? ha]
    exact hf)
  refine heard_completes hx.toIssues (t := t) ?_ h2 (by rw [Cord.barOver_rest])
  rw [exec_bar_again hx ha, hf, h1]
  rfl

theorem bar_shape (ha : h.arrived = none) (hn : 32 < (h.s o.a).toNat % 64) {lane : Nat → Lane} :
    Faults (.bar o) s h h.set lane cShape (h.s o.a) := by
  refine parkSet_faults hx.toIssues (by decide) ?_
  rw [exec_bar_first hx ha, arrive_shape _ hn]
  unfold parkSet
  simp only [List.isEmpty_map]
  rw [if_neg]
  simp [hx.toIssues.ne_nil]

end

/-- The cord that has arrived at the `bar` where it stands, in a phase. -/
def Here.barred (h : Here) (bn num : Nat) : Cord := { h.cord with barWait := h.cord.barWait.set h.addr ⟨h.set, bn, num, none⟩ }

theorem Here.barred_get? (h : Here) (bn num : Nat) : (h.barred bn num).barWait.get? h.addr = some ⟨h.set, bn, num, none⟩ :=
  Tab.get?_set_same _ _ _

/-- The cord that has arrived by `barar`, in a phase. -/
def Here.barared (h : Here) (bn num : Nat) : Cord :=
  { h.cord with barars := h.cord.barars.set bn num, bflags := h.cord.bflags.erase bn }

theorem Cord.Flagged.q {c d : Cord} (h : c.Flagged d) : d.q = c.q := by rw [h]
theorem Cord.Flagged.lanes {c d : Cord} (h : c.Flagged d) : d.lanes = c.lanes := by rw [h]

theorem Counted.icount {h : Here} {i : Instr} {n : Nat} {fl : List InFlight} {x c : Cord} (hc : Counted h i n fl x c) :
    c.icount = x.icount + 1 := by
  unfold Counted at hc
  rw [hc]
  rfl

/-- What an issue counts is beside a cord's predicates and what it keeps of barriers. -/
theorem Counted.barriers {h : Here} {i : Instr} {n : Nat} {fl : List InFlight} {x c : Cord} (hc : Counted h i n fl x c) :
    c.q = x.q ∧ c.barWait = x.barWait ∧ c.barars = x.barars ∧ c.bflags = x.bflags := by
  unfold Counted at hc
  rw [hc]
  exact ⟨rfl, rfl, rfl, rfl⟩

section
variable {o : OBar} {s t : State} {h : Here} (hx : Executes (.bar o) s h) {c : Cord} (hm : SameMemory s t) (hc : t.cord? h.ref = some c)
  (e : exec (.bar o) s = actOut (.bar o) h (opened s h) (barWait h t h.addr o.qd.toNat))
include hm hc e

/-- A `bar` that has arrived in a phase that is not over waits. -/
theorem bar_waits (hf : c.barFlag h.addr = none) : ∃ u, exec (.bar o) s = .next u ∧
    u.cord? h.ref = some { c with waits := some (h.addr, h.set) } ∧ SameMemory s u ∧
    ∀ b, t.block? h.ref.core h.ref.slot = some b → ∃ b', u.block? h.ref.core h.ref.slot = some b' ∧ b'.barriers = b.barriers := by
  rw [barWait_open hc hf] at e
  exact ⟨_, e, State.waitHere_cord? hc, hm.trans ((State.waitHere_apart t h).trans (apart_stalled _ _ _)).sameMemory, State.waitHere_block? t h⟩

include hx

/-- A `bar` whose phase its own arrival completes goes on. -/
theorem bar_goes {x : Bool} (hl : c.lanes = h.cord.lanes) (hf : c.barFlag h.addr = some x) : ∃ u d, exec (.bar o) s = .next u ∧
    u.cord? h.ref = some d ∧ SameMemory s u ∧ (∃ n, Counted h (.bar o) n [] (c.barOver h.addr o.qd.toNat x) d) ∧
    ∀ k ∈ h.set, d.lane k = h.next (.bar o) (h.cord.lane k) := by
  obtain ⟨u, hu, ht⟩ := barWait_over (qd := o.qd.toNat) hc hf
  rw [hu] at e
  obtain ⟨v, d, h1, h2, h3, h4, h5, -⟩ := finish_on hx.toIssues (i := .bar o) (d := { s := u }) (x := c.barOver h.addr o.qd.toNat x)
    ((ht.cord? _).trans (State.cord?_setCord_same hc _)) rfl rfl rfl rfl
    (fun k => Cord.lane_eq (by rw [Cord.barOver_rest, hl]) k)
  exact ⟨v, d, e.trans h1, h2, (hm.trans ((apart_setCord _ _ _).sameMemory.trans ht.sameMemory)).trans h3.sameMemory, ⟨_, h4⟩, h5⟩

end

end Sys2Proof.Machine

namespace Sys2Proof.Machine

section
variable {s : State} {h : Here} {p : Phase} {ps : List Phase}

/-- R163: a `bar` arrives, and waits for its phase or goes on with its flag. -/
theorem bar_arrives {o : OBar} (hx : Executes (.bar o) s h) (ha : h.arrived = none) (hn : (h.s o.a).toNat % 64 ≤ 32)
    (hw : writesPending (s.core h.ref.core) h.ref.slot h.ref.cord h.block = false)
    (hj : arrivalPhase (h.block.barrier o.bn.toNat) h.ref.cord < 4)
    (hp : (arriveAt (h.block.barrier o.bn.toNat) (arrivalPhase (h.block.barrier o.bn.toNat) h.ref.cord) h.ref.cord
      ((h.s o.a).toNat % 64)).phases = p :: ps) :
    ∃ t c, exec (.bar o) s = .next t ∧ t.cord? h.ref = some c ∧ SameMemory s t ∧
      (phaseDone h.block p = false → (c.icount = h.cord.icount ∧ c.q = h.cord.q ∧ (∀ k, c.lane k = h.cord.lane k) ∧
          c.barWait.get? h.addr = some ⟨h.set, o.bn.toNat,
            (h.block.barrier o.bn.toNat).number + arrivalPhase (h.block.barrier o.bn.toNat) h.ref.cord, none⟩) ∧
        ∃ b, t.block? h.ref.core h.ref.slot = some b ∧ (b.barrier o.bn.toNat).phases = p :: ps) ∧
      (phaseDone h.block p = true → arrivalPhase (h.block.barrier o.bn.toNat) h.ref.cord = 0 →
        (c.icount = h.cord.icount + 1 ∧ ∀ k ∈ h.set, c.lane k = h.next (.bar o) (h.cord.lane k)) ∧ c.barWait.get? h.addr = none ∧
          c.q = (h.cord.setQ o.qd.toNat (lastArriver h.block.det p == some h.ref.cord)).q) := by
  obtain ⟨t, ht, hta⟩ := arrive_did _ hx.toIssues hn hw hj
  have e := exec_bar_first hx ha
  rw [ht] at e
  cases hd : phaseDone h.block p with
  | false =>
    obtain ⟨c, hc, hk, b, hb, hbp⟩ := hta.cord_open hp
      ((h.block.barrier o.bn.toNat).number + arrivalPhase (h.block.barrier o.bn.toNat) h.ref.cord) hd
    have hg := hk.wait h.addr _ (h.barred_get? _ _) rfl rfl
    obtain ⟨u, h1, h2, h3, h4⟩ := bar_waits hta.mem hc e (by rw [Cord.barFlag, hg]; rfl)
    obtain ⟨b', hb', heq⟩ := h4 b hb
    refine ⟨u, _, h1, h2, h3, fun _ => ⟨⟨hk.rest.icount, hk.rest.q, fun k => hk.rest.lane k, hg⟩, b', hb', ?_⟩, fun h => (nomatch h)⟩
    rw [Block.barrier, heq]
    exact hbp
  | true =>
    obtain ⟨c, hc, hk⟩ := hta.cord_done hp o.bn.isLt hd
    cases hf : c.barFlag h.addr with
    | none =>
      obtain ⟨u, h1, h2, h3, -⟩ := bar_waits hta.mem hc e hf
      refine ⟨u, _, h1, h2, h3, fun h => (nomatch h), fun _ hj0 => ?_⟩
      rw [hj0] at hk
      rw [Cord.barFlag, hk.wait h.addr _ (h.barred_get? _ _) rfl rfl] at hf
      cases hf
    | some x =>
      obtain ⟨u, d, h1, h2, h3, ⟨n, h4⟩, h5⟩ := bar_goes hx hta.mem hc e hk.rest.lanes hf
      refine ⟨u, d, h1, h2, h3, fun h => (nomatch h), fun _ hj0 => ?_⟩
      rw [hj0] at hk
      rw [Cord.barFlag, hk.wait h.addr _ (h.barred_get? _ _) rfl rfl] at hf
      cases hf
      obtain ⟨hq, hbw, -, -⟩ := h4.barriers
      refine ⟨⟨h4.icount.trans ?_, h5⟩, ?_, hq.trans ?_⟩
      · rw [Cord.barOver_rest]
        exact congrArg (· + 1) hk.rest.icount
      · rw [hbw, Cord.barOver_rest, Tab.get?_erase, if_pos rfl]
      · rw [Cord.barOver_rest]
        show (c.setQ _ _).q = _
        rw [Cord.setQ_q, Cord.setQ_q, hk.rest.q]

theorem exec_barar {o : OBarar} (hx : Executes (.barar o) s h) : exec (.barar o) s = actOut (.barar o) h (opened s h)
    (arrive h (opened s h) o.a o.bn.toNat (fun c n => { c with
      barars := c.barars.set o.bn.toNat n, bflags := c.bflags.erase o.bn.toNat })) := issue_eq hx _

section
variable {o : OBarar} {t : State} (hx : Executes (.barar o) s h) (hm : SameMemory s t) {c : Cord} (hc : t.cord? h.ref = some c)
  (e : exec (.barar o) s = actOut (.barar o) h (opened s h) (.did { s := t }))
include hx hm hc e

/-- A `barar` whose arrival has left the cord with other flags of barriers goes on. -/
theorem barar_goes {num : Nat} (hf : (h.barared o.bn.toNat num).Flagged c) :
    ∃ u d, exec (.barar o) s = .next u ∧ u.cord? h.ref = some d ∧ SameMemory s u ∧
      (∀ b, t.block? h.ref.core h.ref.slot = some b → ∃ b', u.block? h.ref.core h.ref.slot = some b' ∧ b'.barriers = b.barriers) ∧
      (d.icount = h.cord.icount + 1 ∧ ∀ k ∈ h.set, d.lane k = h.next (.barar o) (h.cord.lane k)) ∧
      d.barars.get? o.bn.toNat = some num ∧ d.bflags = c.bflags := by
  obtain ⟨u, d, h1, h2, h3, h4, h5, -⟩ := finish_on hx.toIssues (i := .barar o) (d := { s := t }) hc rfl rfl rfl rfl
    (fun k => Cord.lane_eq hf.lanes k)
  obtain ⟨-, -, hb, hfl⟩ := h4.barriers
  refine ⟨u, d, e.trans h1, h2, hm.trans h3.sameMemory, fun b hb => finish_barriers (d := { s := t }) hc rfl h1 hb,
    ⟨h4.icount.trans (congrArg (· + 1) hf.icount), h5⟩, ?_, hfl⟩
  rw [hb, hf.barars]
  exact Tab.get?_set_same _ _ _

end

theorem barared_get? (h : Here) (bn num : Nat) : (h.barared bn num).barars.get? bn = some num := Tab.get?_set_same _ _ _

theorem barared_flag (h : Here) (bn num : Nat) : (h.barared bn num).bflags.get? bn = none := by
  rw [show (h.barared bn num).bflags = h.cord.bflags.erase bn from rfl, Tab.get?_erase, if_pos rfl]

/-- R163: a `barar` arrives and goes on, and its flag is kept once the phase is over. -/
theorem barar_arrives {o : OBarar} (hx : Executes (.barar o) s h) (hn : (h.s o.a).toNat % 64 ≤ 32)
    (hw : writesPending (s.core h.ref.core) h.ref.slot h.ref.cord h.block = false)
    (hj : arrivalPhase (h.block.barrier o.bn.toNat) h.ref.cord < 4)
    (hp : (arriveAt (h.block.barrier o.bn.toNat) (arrivalPhase (h.block.barrier o.bn.toNat) h.ref.cord) h.ref.cord
      ((h.s o.a).toNat % 64)).phases = p :: ps) :
    ∃ t c, exec (.barar o) s = .next t ∧ t.cord? h.ref = some c ∧ SameMemory s t ∧
      (phaseDone h.block p = false → ((c.icount = h.cord.icount + 1 ∧ ∀ k ∈ h.set, c.lane k = h.next (.barar o) (h.cord.lane k)) ∧
          c.barars.get? o.bn.toNat = some ((h.block.barrier o.bn.toNat).number + arrivalPhase (h.block.barrier o.bn.toNat) h.ref.cord) ∧
          c.bflags.get? o.bn.toNat = none) ∧
        ∃ b, t.block? h.ref.core h.ref.slot = some b ∧ (b.barrier o.bn.toNat).phases = p :: ps) ∧
      (phaseDone h.block p = true → arrivalPhase (h.block.barrier o.bn.toNat) h.ref.cord = 0 →
        (c.icount = h.cord.icount + 1 ∧ ∀ k ∈ h.set, c.lane k = h.next (.barar o) (h.cord.lane k)) ∧
          c.barars.get? o.bn.toNat = some (h.block.barrier o.bn.toNat).number ∧
          c.bflags.get? o.bn.toNat = some (lastArriver h.block.det p == some h.ref.cord)) := by
  obtain ⟨t, ht, hta⟩ := arrive_did _ hx.toIssues hn hw hj
  have e := exec_barar hx
  rw [ht] at e
  cases hd : phaseDone h.block p with
  | false =>
    obtain ⟨c, hc, hk, b, hb, hbp⟩ := hta.cord_open hp
      ((h.block.barrier o.bn.toNat).number + arrivalPhase (h.block.barrier o.bn.toNat) h.ref.cord) hd
    obtain ⟨u, d, h1, h2, h3, h4, h5, h6, h7⟩ := barar_goes hx hta.mem hc e hk.rest
    refine ⟨u, d, h1, h2, h3, fun _ => ⟨⟨h5, h6, ?_⟩, ?_⟩, fun h => (nomatch h)⟩
    · rw [h7, hk.flag (barared_get? h _ _)]
      exact barared_flag h _ _
    · obtain ⟨b', hb', heq⟩ := h4 b hb
      refine ⟨b', hb', ?_⟩
      rw [Block.barrier, heq]
      exact hbp
  | true =>
    obtain ⟨c, hc, hk⟩ := hta.cord_done hp o.bn.isLt hd
    obtain ⟨u, d, h1, h2, h3, h4, h5, h6, h7⟩ := barar_goes hx hta.mem hc e hk.rest
    refine ⟨u, d, h1, h2, h3, fun h => (nomatch h), fun _ hj0 => ?_⟩
    rw [hj0] at hk h6
    exact ⟨h5, h6, h7 ▸ hk.flag (barared_get? h _ _)⟩

theorem barar_shape {o : OBarar} (hx : Executes (.barar o) s h) (hn : 32 < (h.s o.a).toNat % 64) {lane : Nat → Lane} :
    Faults (.barar o) s h h.set lane cShape (h.s o.a) := by
  refine parkSet_faults hx.toIssues (by decide) ?_
  rw [exec_barar hx, arrive_shape _ hn]

/-- R163: `barwt` writes false with no `barar` before it. -/
theorem barwt_none {o : OBarwt} (hx : Executes (.barwt o) s h) (hb : h.cord.barars.get? o.bn.toNat = none) :
    Completes (.barwt o) s h (h.cord.setQ o.qd.toNat false) (fun k => h.next (.barwt o) (h.cord.lane k)) [] := by
  refine heard_completes hx.toIssues (t := (opened s h).setCord h.ref (h.cord.setQ o.qd.toNat false)) ?_ (.refl _) (by rw [Cord.setQ_lanes])
  refine (issue_eq hx _).trans ?_
  simp only [hb]
  rfl

/-- R163: it waits for the phase of the cord's last `barar`. -/
theorem barwt_holds {o : OBarwt} (hx : Executes (.barwt o) s h) {n : Nat} (hb : h.cord.barars.get? o.bn.toNat = some n)
    (hn : (h.block.barrier o.bn.toNat).number ≤ n) : exec (.barwt o) s = .next (((opened s h).waitHere h).stall h.ref) := by
  refine (issue_eq hx _).trans ?_
  simp only [hb, if_pos hn]
  rfl

/-- R163: and writes its flag once that is over. -/
theorem barwt_over {o : OBarwt} (hx : Executes (.barwt o) s h) {n : Nat} (hb : h.cord.barars.get? o.bn.toNat = some n)
    (hn : n < (h.block.barrier o.bn.toNat).number) : Completes (.barwt o) s h
      (h.cord.setQ o.qd.toNat (h.cord.bflags.get o.bn.toNat false)) (fun k => h.next (.barwt o) (h.cord.lane k)) [] := by
  refine heard_completes hx.toIssues (t := hearPhase ((opened s h).setCord h.ref
    (h.cord.setQ o.qd.toNat (h.cord.bflags.get o.bn.toNat false))) h o.bn.toNat n) ?_ (hear_onlyTracks _ _ _ _) (by rw [Cord.setQ_lanes])
  refine (issue_eq hx _).trans ?_
  simp only [hb, if_neg (Nat.not_le.2 hn)]
  rfl

end

end Sys2Proof.Machine

namespace Sys2Proof.Machine

/-- Settles O40: an arrival is at the head of the phase that it may complete, whose completion alone gives the flag. -/
theorem barriers : Obligations.Barriers := by
  unfold Obligations.Barriers
  refine ⟨fun o s h ha hx => ⟨fun hn => bar_shape hx ha hn, fun hn hw hj p ps hp => bar_arrives hx ha hn hw hj hp⟩,
    fun o s h w x hx ha hf => bar_over hx ha hf, fun o s h w hx ha hf => bar_hold hx ha hf,
    fun o s h hx => ⟨fun hn => barar_shape hx hn, fun hn hw hj p ps hp => barar_arrives hx hn hw hj hp⟩,
    fun o s h hx => ⟨fun hb => barwt_none hx hb, fun p hb => ⟨fun hn => barwt_over hx hb hn, fun hn => barwt_holds hx hb hn⟩⟩,
    fun o => cordResult_of (fun _ => rfl) (fun _ => rfl)⟩

end Sys2Proof.Machine

namespace Sys2Proof.Machine

/-! ### States that differ in notes of errors and in tracks alone -/

/-- Only the notes of errors in the cores' arrays differ, and the tracks; no further word's writes are told apart. -/
structure Slack (s t : State) : Prop where
  core : ∀ n, t.core n = { s.core n with ce := (t.core n).ce, bad := (t.core n).bad, soft := (t.core n).soft }
  rest : t = { s with cores := t.cores, tracks := t.tracks, raced := t.raced }
  nil : s.tracks = [] → t.tracks = [] ∧ t.raced = s.raced

theorem Slack.trans {s t u : State} (h : Slack s t) (h' : Slack t u) : Slack s u where
  core n := by rw [h'.core n, h.core n]
  rest := by rw [h'.rest, h.rest]
  nil e := ⟨(h'.nil (h.nil e).1).1, (h'.nil (h.nil e).1).2.trans (h.nil e).2⟩

theorem OnlyCe.slack {s t : State} (h : OnlyCe s t) : Slack s t where
  core := h.core
  rest := by rw [h.rest]
  nil e := by rw [h.rest]; exact ⟨e, rfl⟩

theorem OnlyTracks.slack {s t : State} (h : OnlyTracks s t) : Slack s t where
  core n := by rw [h.core]
  rest := by rw [h.rest]
  nil := h.nil

theorem Slack.refl (s : State) : Slack s s := (OnlyCe.refl s).slack

/-- Notes of errors can be taken back. -/
theorem OnlyCe.symm {s t : State} (h : OnlyCe s t) : OnlyCe t s where
  core n := by rw [h.core n]
  rest := by rw [h.rest]

section
variable {s t : State} (h : Slack s t)
include h

theorem Slack.block? (n sl : Nat) : t.block? n sl = s.block? n sl := by
  rw [State.block?, h.core n]
  rfl

theorem Slack.cord? (r : CordRef) : t.cord? r = s.cord? r := by rw [State.cord?, State.cord?, h.block?]

theorem Slack.clock : t.clock = s.clock := by rw [h.rest]

theorem Slack.apart (r : CordRef) : Apart r s t := by
  have hc (n : Nat) := h.core n
  have hr := h.rest
  exact {
    cords := fun q _ => h.cord? q
    spad := fun m => (congrArg Core.spad (hc m)).trans rfl, acc := fun m => (congrArg Core.acc (hc m)).trans rfl
    code := fun m => (congrArg Core.code (hc m)).trans rfl, map := fun m => (congrArg Core.map (hc m)).trans rfl
    res := fun m => (congrArg Core.res (hc m)).trans rfl, ops := fun m => (congrArg Core.ops (hc m)).trans rfl
    gens := fun m => (congrArg Core.gens (hc m)).trans rfl, chans := fun m => (congrArg Core.chans (hc m)).trans rfl
    tiles := fun m => (congrArg Core.tiles (hc m)).trans rfl, lines := fun m => (congrArg Core.lines (hc m)).trans rfl
    hbm := (congrArg State.hbm hr).trans rfl, host := (congrArg State.host hr).trans rfl, peers := (congrArg State.peers hr).trans rfl
    clusters := (congrArg State.clusters hr).trans rfl, dies := (congrArg State.dies hr).trans rfl, ctxs := (congrArg State.ctxs hr).trans rfl
    saved := (congrArg State.saved hr).trans rfl, mgmt := (congrArg State.mgmt hr).trans rfl
    tracks := h.nil }

/-- The same change of one core, in fields that are not notes of errors. -/
theorem Slack.setCore {n : Nat} {c d : Core} (hc : d = { c with ce := d.ce, bad := d.bad, soft := d.soft }) :
    Slack (s.setCore n c) (t.setCore n d) where
  core m := by
    rw [State.core_setCore, State.core_setCore]
    split
    · exact hc
    · exact h.core m
  rest := by
    rw [State.setCore, h.rest]
    rfl
  nil := h.nil

end

/-- A change of the state outside its cores and tracks, which does not look at them. -/
structure OffCore (f : State → State) : Prop where
  comm : ∀ s c t r, f { s with cores := c, tracks := t, raced := r } = { f s with cores := c, tracks := t, raced := r }
  clock : ∀ s, (f s).clock = s.clock

theorem OffCore.comp {f g : State → State} (hf : OffCore f) (hg : OffCore g) : OffCore (fun s => g (f s)) where
  comm s c t r := by rw [hf.comm, hg.comm]
  clock s := (hg.clock _).trans (hf.clock s)

theorem OffCore.foldl {α : Type} {f : State → α → State} (hf : ∀ x, OffCore (fun s => f s x)) (l : List α) :
    OffCore (fun s => l.foldl f s) := by
  induction l with
  | nil => exact ⟨fun _ _ _ _ => rfl, fun _ => rfl⟩
  | cons x r ih => exact (hf x).comp ih

section
variable {f : State → State} (hf : OffCore f)
include hf

theorem OffCore.keeps (s : State) : f s = { f s with cores := s.cores, tracks := s.tracks, raced := s.raced } :=
  hf.comm s s.cores s.tracks s.raced

theorem OffCore.core (s : State) (n : Nat) : (f s).core n = s.core n := by rw [hf.keeps s]; rfl

theorem OffCore.cord? (s : State) (r : CordRef) : (f s).cord? r = s.cord? r := by
  rw [State.cord?, State.block?, hf.core]
  rfl

theorem OffCore.setCord (s : State) (r : CordRef) (c : Cord) : f (s.setCord r c) = (f s).setCord r c := by
  have hb : (f s).block? r.core r.slot = s.block? r.core r.slot := by rw [State.block?, hf.core]; rfl
  unfold State.setCord
  rw [hb]
  split
  · rfl
  · next b _ =>
    refine (hf.comm s _ s.tracks s.raced).trans ?_
    rw [hf.keeps s]
    rfl

/-- Such a change keeps two states alike but for notes and tracks. -/
theorem OffCore.slack {s t : State} (h : Slack s t) : Slack (f s) (f t) := by
  have ht : f t = { f s with cores := t.cores, tracks := t.tracks, raced := t.raced } := by
    rw [← hf.comm, ← h.rest]
  refine ⟨fun n => ?_, ?_, fun e => ?_⟩
  · rw [hf.core, hf.core]
    exact h.core n
  · rw [ht]
  · rw [ht, hf.keeps s]
    exact h.nil (by rw [hf.keeps s] at e; exact e)

end

/-! ### Counts of corrected errors outside the cores -/

/-- A count at a die, of a number read off the rest of the state. -/
theorem countDie_offCore (d a : Nat) {k : State → Nat} (hk : ∀ s c t r, k { s with cores := c, tracks := t, raced := r } = k s) :
    OffCore (fun s => countDie s d a (k s)) := by
  constructor
  · intro s c t r
    dsimp only
    rw [hk]
    unfold countDie
    split <;> rfl
  · intro s
    rw [(countDie_onlyCounts s d a (k s)).rest]

/-- A word of device memory counted at its Plinth. -/
def countWord (s : State) (e : Nat × Bool) : State :=
  { s with corrected := s.corrected.set (plinthOf (e.1 * 32)) (satInc (s.corrected.get (plinthOf (e.1 * 32)) 0)) }

theorem noteTarget_offCore (n : Nat) (x : Target) : OffCore (fun s => noteTarget s n x) := by
  cases x with
  | hbm a =>
    have hword (l : List (Nat × Bool)) : OffCore (fun s => l.foldl countWord s) :=
      OffCore.foldl (f := countWord) (fun _ => ⟨fun _ _ _ _ => rfl, fun _ => rfl⟩) l
    have hwords : OffCore (fun s => (s.hbmErr.filter (fun e => e.2 && decide (e.1 * 32 < a + n) && decide (a < e.1 * 32 + 32))).foldl
        countWord s) := ⟨fun s c t r => (hword _).comm s c t r, fun s => (hword _).clock s⟩
    exact hwords.comp (countDie_offCore (hbmDie a) 0
      (k := fun s => ((s.die (hbmDie a)).soft.filter (fun w => decide (w * 8 < a + n) && decide (a < w * 8 + 8))).length)
      (fun _ _ _ _ => rfl))
  | host a => exact ⟨fun _ _ _ _ => rfl, fun _ => rfl⟩
  | peer p a => exact ⟨fun _ _ _ _ => rfl, fun _ => rfl⟩

theorem sameTables_withCores (s : State) (c : Tab Core) (t : List Track) (r : Bool) :
    SameTables s { s with cores := c, tracks := t, raced := r } :=
  ⟨rfl, rfl, rfl, rfl, rfl, fun _ => rfl, fun _ => rfl, fun _ => rfl⟩

theorem walkReads_congr {s t : State} (h : SameTables s t) (ctx va n node : Nat) : walkReads t ctx va n node = walkReads s ctx va n node := by
  induction n generalizing node with
  | zero => rfl
  | succ n ih => simp only [walkReads, lineLost_congr h, h.hbm, ih]

theorem noteWalk_offCore (d ctx va : Nat) : OffCore (fun s => noteWalk s d ctx va) := by
  constructor
  · intro s c t r
    have hw := walkReads_congr (sameTables_withCores s c t r) ctx va 4 (s.ctx ctx).root
    unfold noteWalk
    dsimp only
    split
    · next h => rw [if_pos (by exact h)]
    · next h =>
      rw [if_neg (by exact h)]
      exact (congrArg (List.foldl _ _) hw).trans
        ((OffCore.foldl (f := fun s a => noteTarget s 8 (.hbm a)) (fun a => noteTarget_offCore 8 (.hbm a)) _).comm s c t r)
  · intro s
    rw [(noteWalk_onlyCounts s d ctx va).rest]

theorem noteDie_offCore (d ctx va n : Nat) : OffCore (fun s => noteDie s d ctx va n) := by
  constructor
  · intro s c t r
    have ht := dieTranslate_congr (sameTables_withCores s c t r) d ctx va n false true
    unfold noteDie
    dsimp only
    rw [ht, (noteWalk_offCore d ctx va).comm]
    split
    · rfl
    · next x _ => exact (noteTarget_offCore n x).comm _ _ _ _
  · intro s
    rw [(noteDie_onlyCounts s d ctx va n).rest]

theorem noteQueue_offCore (q : Nat) : OffCore (fun s => noteQueue s q) :=
  countDie_offCore (queueDie q) 1 (k := fun s => (queueOf s q).soft.length) (fun _ _ _ _ => rfl)

theorem setQueue_offCore (q : Nat) (x : Queue) : OffCore (fun s => setQueue s q x) := ⟨fun _ _ _ _ => rfl, fun _ => rfl⟩

/-- What the distributor reads is the same of two such states. -/
theorem Slack.sameTables {s t : State} (h : Slack s t) : SameTables s t := by
  rw [h.rest]
  exact sameTables_withCores _ _ _ _

theorem Slack.dieRead {s t : State} (h : Slack s t) (d ctx va n : Nat) :
    Sys2Proof.Machine.dieRead t d ctx va n = Sys2Proof.Machine.dieRead s d ctx va n := by
  have hr (x : Target) : targetRead t n x = targetRead s n x := by
    rw [h.rest]
    cases x <;> rfl
  simp only [Sys2Proof.Machine.dieRead, dieTranslate_congr h.sameTables, hr]

/-- What the scoreboard holds is not in the notes of errors. -/
theorem Slack.boardRanges {s t : State} (h : Slack s t) (n : Nat) : boardRanges (t.core n) = boardRanges (s.core n) := by
  rw [h.core n]
  rfl

theorem Slack.scoreHeld {s t : State} (h : Slack s t) (n : Nat) (w : Bool) (a z : Nat) :
    scoreHeld (t.core n) w a z = scoreHeld (s.core n) w a z := by
  rw [h.core n]
  rfl

theorem noteBoard_onlyCe (s : State) (p : Spot) : OnlyCe s (noteBoard s p) := by
  cases p with
  | sp n a => exact noteRead_onlyCe _ _ _ _ _
  | _ => exact .refl s

theorem mendBoard_onlyCe (s : State) (n : Nat) : OnlyCe s (s.setCore n (mendBoard (s.core n))) := mend_onlyCe s n rfl

end Sys2Proof.Machine

namespace Sys2Proof.Machine

/-! ### Faults raised after a read has been noted -/

theorem parkSetFree_faults_noted {i : Instr} {s t : State} {h : Here} (hx : Issues i s h) {cause : Byte} (hc : cause ≠ cDataErr)
    (ht : Slack (opened s h) t) (e : exec i s = actOut i h (opened s h) (parkSetFree h t cause)) : FaultsFree i s h h.set cause :=
  ⟨_, park_faults hx (d := { s := t.free.2, park := h.set.map (fun k => (k, cause, t.free.1.setWidth 32)) })
    ((ht.cord? _).trans hx.opened_cord?) (((opened_apart s h).trans (ht.apart _)).trans (apart_free _ _))
    (ht.clock.trans (opened_clock s h)) rfl rfl rfl rfl (.inl rfl) (fun _ hx => nomatch hx) hx.ne_nil hx.nodup
    (fun _ hk => hk) hc e (fun _ h1 h2 => absurd h1 h2)⟩

/-- An instruction completes with `m` outside its cord where its operation leaves `m` but for notes. -/
theorem slack_completesAs {i : Instr} {s m : State} {h : Here} (hx : Issues i s h) {d : Done} (e : exec i s = finish h i d)
    (hm : Slack m d.s) (hc : m.cord? h.ref = some h.cord) (hclk : m.clock = s.clock)
    (hp : d.park = []) (hs : d.stay = []) (hw : d.win = []) (hgo : d.go = []) :
    CompletesAs i s h m h.cord (fun k => h.next i (h.cord.lane k)) d.fl :=
  on_completesAs hx e ((hm.cord? _).trans hc) (hm.apart _) (hm.clock.trans hclk) hp hs hw hgo (fun _ => rfl)

/-! ### Device queues (R168, R243) -/

theorem resolve_lin_spot {s : State} {h : Here} {ea : Word} {z : Nat} {w rd ex : Bool} {p : Spot}
    (hr : resolve s h 0 .lin ea z w rd ex = .ok p) : p = .sp h.ref.core (h.block.spbase + ea.toNat) := by
  unfold resolve at hr
  dsimp only at hr
  split at hr
  · cases hr
  · split at hr
    · cases hr
    · split at hr
      · cases hr
      · split at hr
        · cases hr
        · cases hr
          rfl

theorem queueOf_opened (s : State) (h : Here) (q : Nat) : queueOf (opened s h) q = queueOf s q := by
  simp only [queueOf, opened, State.die, State.dies_setCord]

/-- A write to scratchpad of two states alike but for notes and tracks. -/
theorem Slack.spotWrite_sp {s t : State} (h : Slack s t) (sl : Nat) (l : List Byte) (n a : Nat) :
    Slack (spotWrite s sl l (.sp n a)) (spotWrite t sl l (.sp n a)) := by
  refine h.setCore ?_
  rw [show (t.core n).spad = (s.core n).spad by rw [h.core n]]
  conv => lhs; rw [h.core n]
  rfl

theorem State.cord?_setCore {s : State} {n : Nat} {c : Core} (hb : c.blocks = (s.core n).blocks) (r : CordRef) :
    (s.setCore n c).cord? r = s.cord? r := by
  unfold State.cord? State.block?
  rw [State.core_setCore]
  split
  · next h => rw [hb, h]
  · rfl

theorem spotWrite_sp_cord? (s : State) (sl : Nat) (l : List Byte) (n a : Nat) (r : CordRef) :
    (spotWrite s sl l (.sp n a)).cord? r = s.cord? r := State.cord?_setCore (by exact rfl) r

section
variable {h : Here} {s : State} {idx : Word} {f : Nat → Queue → Act}

theorem queueOp_unbound (hb : boundQueue h.block idx = none) : queueOp h s idx f = parkSetFree h s cPerm := by
  unfold queueOp
  rw [hb]

theorem queueOp_bound {q : Nat} (hb : boundQueue h.block idx = some q) (hg : (queueOf s q).bad = false) :
    queueOp h s idx f = f q (queueOf s q) := by
  unfold queueOp
  simp only [hb, hg, Bool.false_eq_true, if_false]

theorem packetSpot_good {a : Reg} {imm : BitVec 11} {w : Bool} {g : Spot → Act} {p : Spot}
    (hr : resolve s h 0 .lin (h.s a + imm.signExtend 32) 64 w (!w) true = .ok p) (hh : spotHeld s w 64 p = false) :
    packetSpot h s a imm w g = g p := by
  unfold packetSpot
  simp only [hr, hh, Bool.false_eq_true, if_false]

end

section
variable {s : State} {h : Here} {q : Nat}

theorem idleQ_completes {o : OBrx} (hx : Executes (.idleQ o) s h) (hb : boundQueue h.block (h.s o.a) = some q)
    (hg : (queueOf s q).bad = false) (hf : qFill (queueOf s q) ≠ 0) :
    CompletesAs (.idleQ o) s h (noteQueue (opened s h) q) h.cord (fun k => h.next (.idleQ o) (h.cord.lane k)) [] := by
  have hq := noteQueue_offCore q
  refine slack_completesAs hx.toIssues (d := { s := noteQueue (opened s h) q }) ?_ (.refl _)
    ((hq.cord? _ _).trans hx.toIssues.opened_cord?) ((hq.clock _).trans (opened_clock s h)) rfl rfl rfl rfl
  refine (issue_eq hx _).trans ?_
  rw [queueOp_bound hb (by rw [queueOf_opened, hg]), queueOf_opened, if_neg hf]
  rfl

/-! `qpop` -/

/-- What a `qpop` leaves in flight: its range of scratchpad, and its predicate. -/
def popping (o : OQpop) (h : Here) (p : Spot) (b : Bool) : InFlight :=
  { left := look h.cord o.la, uses := uses (.qpop o), owed := [.q o.qd.toNat b], range := p.range true 64 }

/-- The state in which a `qpop` has looked at the scoreboard and has an entry of it written. -/
def boarded (s : State) (h : Here) (p : Spot) : State :=
  (noteBoard (opened s h) p).setCore h.ref.core (mendBoard ((noteBoard (opened s h) p).core h.ref.core))

theorem boarded_slack (s : State) (h : Here) (p : Spot) : Slack (opened s h) (boarded s h p) :=
  ((noteBoard_onlyCe _ _).trans (mendBoard_onlyCe _ _)).slack

section
variable {o : OQpop} {p : Spot} (hx : Executes (.qpop o) s h) (hb : boundQueue h.block (h.s o.b) = some q)
  (hr : resolve (opened s h) h 0 .lin (h.s o.a + o.imm.signExtend 32) 64 true (!true) true = .ok p)
  (hh : spotHeld (opened s h) true 64 p = false) (hg : (queueOf s q).bad = false) (hn : scoreCount ((opened s h).core h.ref.core) < 64)
include hx hb hr hh hg hn

theorem exec_qpop : exec (.qpop o) s = actOut (.qpop o) h (opened s h)
    (if qFill (queueOf s q) = 0 then .did { s := noteQueue (boarded s h p) q, fl := [popping o h p false] }
      else match dieRead (boarded s h p) (queueDie q) (qCtx (queueOf s q)) (qSlot (queueOf s q) (queueOf s q).head) 64 with
      | .error e => parkSetFree h (noteDie (boarded s h p) (queueDie q) (qCtx (queueOf s q)) (qSlot (queueOf s q) (queueOf s q).head) 64) e
      | .ok l => .did {
          s := noteQueue (noteDie (setQueue ((spotWrite ((boarded s h p).hear h.agent .sys [.packet q (queueOf s q).head.toNat, .bell q])
            h.ref.slot l p).wroteSpot h.agent p 64 .plain) q { queueOf s q with head := (queueOf s q).head + 1 })
            (queueDie q) (qCtx (queueOf s q)) (qSlot (queueOf s q) (queueOf s q).head) 64) q
          fl := [popping o h p true] }) := by
  have hcount : ¬ Config.scoreboardEntries ≤ scoreCount ((boarded s h p).core h.ref.core) := by
    rw [scoreCount, (boarded_slack s h p).boardRanges]
    exact Nat.not_le.2 hn
  refine (issue_eq hx _).trans ?_
  rw [queueOp_bound hb (by rw [queueOf_opened, hg]), queueOf_opened, packetSpot_good hr hh]
  exact congrArg (actOut _ h _) (if_neg hcount)

theorem qpop_empty (hf : qFill (queueOf s q) = 0) : CompletesAs (.qpop o) s h (noteQueue (opened s h) q) h.cord
    (fun k => h.next (.qpop o) (h.cord.lane k)) [popping o h p false] := by
  have hq := noteQueue_offCore q
  refine slack_completesAs hx.toIssues (d := { s := noteQueue (boarded s h p) q, fl := [popping o h p false] }) ?_
    (hq.slack (boarded_slack s h p)) ((hq.cord? _ _).trans hx.toIssues.opened_cord?) ((hq.clock _).trans (opened_clock s h)) rfl rfl rfl rfl
  rw [exec_qpop hx hb hr hh hg hn, if_pos hf]
  rfl

theorem qpop_takes {l : List Byte} (hf : qFill (queueOf s q) ≠ 0)
    (hl : dieRead (opened s h) (queueDie q) (qCtx (queueOf s q)) (qSlot (queueOf s q) (queueOf s q).head) 64 = .ok l) :
    CompletesAs (.qpop o) s h (noteQueue (noteDie (setQueue (spotWrite (opened s h) h.ref.slot l p) q
      { queueOf s q with head := (queueOf s q).head + 1 }) (queueDie q) (qCtx (queueOf s q)) (qSlot (queueOf s q) (queueOf s q).head) 64) q)
      h.cord (fun k => h.next (.qpop o) (h.cord.lane k)) [popping o h p true] := by
  have hoff := ((setQueue_offCore q { queueOf s q with head := (queueOf s q).head + 1 }).comp
    (noteDie_offCore (queueDie q) (qCtx (queueOf s q)) (qSlot (queueOf s q) (queueOf s q).head) 64)).comp (noteQueue_offCore q)
  obtain rfl := resolve_lin_spot hr
  have hboard := (boarded_slack s h (.sp h.ref.core (h.block.spbase + (h.s o.a + o.imm.signExtend 32).toNat))).trans
    (hear_onlyTracks _ h.agent .sys [.packet q (queueOf s q).head.toNat, .bell q]).slack
  have hwrite := (hboard.spotWrite_sp h.ref.slot l h.ref.core (h.block.spbase + (h.s o.a + o.imm.signExtend 32).toNat)).trans
    (wroteSpot_onlyTracks _ h.agent (.sp h.ref.core (h.block.spbase + (h.s o.a + o.imm.signExtend 32).toNat)) 64 .plain).slack
  refine slack_completesAs hx.toIssues (d := { s := _, fl := [popping o h _ true] }) ?_ (hoff.slack hwrite)
    ((hoff.cord? _ _).trans ((spotWrite_sp_cord? _ _ _ _ _ _).trans hx.toIssues.opened_cord?))
    ((hoff.clock _).trans (opened_clock s h)) rfl rfl rfl rfl
  rw [exec_qpop hx hb hr hh hg hn, if_neg hf, (boarded_slack s h _).dieRead, hl]
  rfl

end

/-! `qpush` -/

/-- What a `qpush` that has put its packet leaves, before its queue moves on. -/
def pushed (h : Here) (m : State) (p : Spot) (n : Nat) (q : Nat) : State :=
  ((noteSpot (noteBoard m p) 64 p).sawSpot ⟨h.agent, true⟩ p 64 false none).send h.agent .sys [.packet q n]

/-- The cord of a `qpush` has its predicate, and the queue is as `m` says. -/
theorem setQ_completesAs {o : OQpush} (hx : Issues (.qpush o) s h) {m t : State} {x : Bool} (e : exec (.qpush o) s = finish h (.qpush o)
      { s := noteQueue (t.setCord h.ref (h.cord.setQ o.qd.toNat x)) q })
    (hm : Slack m t) (hc : m.cord? h.ref = some h.cord) (hclk : m.clock = s.clock) :
    CompletesAs (.qpush o) s h (noteQueue m q) (h.cord.setQ o.qd.toNat x) (fun k => h.next (.qpush o) (h.cord.lane k)) [] := by
  have hq := noteQueue_offCore q
  have hset : noteQueue (t.setCord h.ref (h.cord.setQ o.qd.toNat x)) q = (noteQueue t q).setCord h.ref (h.cord.setQ o.qd.toNat x) :=
    hq.setCord _ _ _
  have ht : (noteQueue t q).cord? h.ref = some h.cord := (hq.cord? _ _).trans ((hm.cord? _).trans hc)
  rw [hset] at e
  exact on_completesAs hx e (State.cord?_setCord_same ht _) (((hq.slack hm).apart _).trans (apart_setCord _ _ _))
    ((State.clock_setCord _ _ _).trans ((hq.clock _).trans (hm.clock.trans hclk))) rfl rfl rfl rfl
    (fun k => by unfold Cord.lane Cord.setQ; split <;> rfl)

theorem pushed_slack (h : Here) (m : State) (c a n q : Nat) : Slack (noteSpot m 64 (.sp c a)) (pushed h m (.sp c a) n q) :=
  ((noteRead_onlyCe m c .scratchpad a 64).symm.trans ((noteBoard_onlyCe m (.sp c a)).trans (noteRead_onlyCe _ c .scratchpad a 64))).slack.trans
    ((sawSpot_onlyTracks _ _ _ _ _ _).trans (send_onlyTracks _ _ _ _)).slack

section
variable {o : OQpush} {p : Spot} (hx : Executes (.qpush o) s h) (hb : boundQueue h.block (h.s o.b) = some q)
  (hr : resolve (opened s h) h 0 .lin (h.s o.a + o.imm.signExtend 32) 64 false (!false) true = .ok p)
  (hh : spotHeld (opened s h) false 64 p = false) (hg : (queueOf s q).bad = false)
include hx hb hr hh hg

theorem exec_qpush : exec (.qpush o) s = actOut (.qpush o) h (opened s h)
    (if qFill (queueOf s q) = qSize (queueOf s q) then
        .did { s := noteQueue ((opened s h).setCord h.ref (h.cord.setQ o.qd.toNat false)) q }
      else match dieWrite (opened s h) (queueDie q) (qCtx (queueOf s q)) (qSlot (queueOf s q) (queueOf s q).tail)
          (spotRead ((opened s h).seenBy ⟨h.agent, true⟩) 64 p) h.agent with
      | .error e => parkSetFree h (noteWalk (opened s h) (queueDie q) (qCtx (queueOf s q)) (qSlot (queueOf s q) (queueOf s q).tail)) e
      | .ok t => .did { s := noteQueue ((setQueue (pushed h t p (queueOf s q).tail.toNat q) q
          { queueOf s q with tail := (queueOf s q).tail + 1 }).setCord h.ref (h.cord.setQ o.qd.toNat true)) q }) := by
  refine (issue_eq hx _).trans ?_
  rw [queueOp_bound hb (by rw [queueOf_opened, hg]), queueOf_opened, packetSpot_good hr hh]
  rfl

theorem qpush_full (hf : qFill (queueOf s q) = qSize (queueOf s q)) : CompletesAs (.qpush o) s h (noteQueue (opened s h) q)
    (h.cord.setQ o.qd.toNat false) (fun k => h.next (.qpush o) (h.cord.lane k)) [] := by
  refine setQ_completesAs hx.toIssues (t := opened s h) ?_ (.refl _) hx.toIssues.opened_cord? (opened_clock s h)
  rw [exec_qpush hx hb hr hh hg, if_pos hf]
  rfl

theorem qpush_puts {m : State} (hf : qFill (queueOf s q) ≠ qSize (queueOf s q))
    (hm : dieWrite (opened s h) (queueDie q) (qCtx (queueOf s q)) (qSlot (queueOf s q) (queueOf s q).tail)
      (spotRead ((opened s h).seenBy ⟨h.agent, true⟩) 64 p) h.agent = .ok m) :
    CompletesAs (.qpush o) s h (noteQueue (setQueue (noteSpot m 64 p) q { queueOf s q with tail := (queueOf s q).tail + 1 }) q)
      (h.cord.setQ o.qd.toNat true) (fun k => h.next (.qpush o) (h.cord.lane k)) [] := by
  obtain rfl := resolve_lin_spot hr
  have hoff := setQueue_offCore q { queueOf s q with tail := (queueOf s q).tail + 1 }
  have hglobal := dieWrite_onlyGlobal hm
  refine setQ_completesAs hx.toIssues ?_ (hoff.slack (pushed_slack h m h.ref.core _ (queueOf s q).tail.toNat q))
    ((hoff.cord? _ _).trans (((noteRead_onlyCe _ _ _ _ _).cord? _).trans ((hglobal.cord? _).trans hx.toIssues.opened_cord?)))
    ((hoff.clock _).trans (((noteRead_onlyCe _ _ _ _ _).slack.clock).trans (Eq.trans ?_ (opened_clock s h))))
  · rw [exec_qpush hx hb hr hh hg, if_neg hf, hm]
    rfl
  · rw [hglobal.rest]

end

end

end Sys2Proof.Machine

namespace Sys2Proof.Machine

/-! ### The scoreboard as an operation finds it -/

theorem any_of_find {β : Type} (f : β → Bool) {l : List (Nat × β)} {k : Nat} {y : β} (h : Tab.find l k = some y) (hy : f y = true) :
    l.any (fun e => f e.2) = true := by
  induction l with
  | nil => cases h
  | cons e r ih =>
    obtain ⟨j, z⟩ := e
    unfold Tab.find at h
    split at h
    · cases h
      simp [hy]
    · simp [ih h]

/-- Another value under a number that is there, of which `f` says the same. -/
theorem any_put {β : Type} (f : β → Bool) {l : List (Nat × β)} {k : Nat} {x y : β} (h : Tab.find l k = some y) (hxy : f x = f y) :
    (Tab.put l k x).any (fun e => f e.2) = l.any (fun e => f e.2) := by
  induction l with
  | nil => cases h
  | cons e r ih =>
    obtain ⟨j, z⟩ := e
    have h0 := h
    unfold Tab.find at h
    unfold Tab.put
    split at h
    · next hj =>
      cases h
      rw [if_neg (by omega), if_pos hj]
      simp [hxy]
    · next hj =>
      split
      · rw [List.any_cons, hxy]
        cases hf : f y
        · rfl
        · rw [any_of_find f h0 hf]
          rfl
      · rw [List.any_cons, List.any_cons, ih h]

theorem closeWindow_inflight (c : Cord) (id : Nat) : (closeWindow c id).inflight = c.inflight := by
  unfold closeWindow
  dsimp only
  rw [Cord.onLanes_rest]

theorem closeWindows_inflight (c : Cord) (addr : Nat) (u : Uses) : (closeWindows c addr u).inflight = c.inflight := by
  unfold closeWindows
  dsimp only
  generalize c.windows.filter _ = l
  induction l generalizing c with
  | nil => rfl
  | cons w r ih => exact (ih _).trans (closeWindow_inflight c w.id)

/-- A cord has a range of an instruction in flight with a property. -/
def Cord.ranges (f : SpRange → Bool) (c : Cord) : Bool := c.inflight.any (fun x => x.range.any f)

theorem boardRanges_any (f : SpRange → Bool) (c : Core) : (boardRanges c).any f =
    (c.ops.vals.any (fun o => !o.state.finished && o.ranges.any f) ||
      c.blocks.entries.any (fun e => e.2.cords.entries.any (fun x => x.2.ranges f))) := by
  have hop (o : OpEntry) : (if o.state.finished then [] else o.ranges).any f = (!o.state.finished && o.ranges.any f) := by
    cases o.state.finished <;> simp
  have hfl (x : Cord) : (x.inflight.filterMap (·.range)).any f = x.ranges f := by
    unfold Cord.ranges
    induction x.inflight with
    | nil => rfl
    | cons y r ih =>
      rw [List.filterMap_cons, List.any_cons]
      cases hy : y.range with
      | none => simpa using ih
      | some z => simp [ih]
  unfold boardRanges
  simp only [List.any_append, List.any_flatMap, hop, hfl, Tab.vals, List.any_map, Function.comp_def]

section
variable {i : Instr} {s : State} {h : Here} (hx : Issues i s h)
include hx

theorem Issues.closes : ∃ c, h.block.cords.get? h.ref.cord = some c ∧ h.cord.inflight = c.inflight := by
  obtain ⟨h₀, hh, -, -, rfl⟩ := hx.stands
  obtain ⟨-, hc, hb⟩ := here_cord hh
  rw [State.cord?, hb] at hc
  exact ⟨h₀.cord, hc, closeWindows_inflight _ _ _⟩

/-- Closing windows changes nothing that the scoreboard holds. -/
theorem Issues.scoreHeld_opened (w : Bool) (a z : Nat) :
    scoreHeld ((opened s h).core h.ref.core) w a z = scoreHeld (s.core h.ref.core) w a z := by
  obtain ⟨c, hc, hi⟩ := hx.closes
  have hb := hx.block?
  have hcore : (opened s h).core h.ref.core = { s.core h.ref.core with
      blocks := (s.core h.ref.core).blocks.set h.ref.slot { h.block with cords := h.block.cords.set h.ref.cord h.cord } } := by
    rw [opened, State.setCord_eq hb, State.setBlock, State.core_setCore_same]
  have hany (f : SpRange → Bool) : (boardRanges ((opened s h).core h.ref.core)).any f = (boardRanges (s.core h.ref.core)).any f := by
    rw [boardRanges_any, boardRanges_any, hcore]
    refine congrArg (_ || ·) (any_put (fun b : Block => b.cords.entries.any (fun x => x.2.ranges f)) hb ?_)
    exact any_put (fun x : Cord => x.ranges f) hc (by unfold Cord.ranges; rw [hi])
  unfold scoreHeld
  rw [hany, hcore]

end

/-! ### Channels (R169, R306) -/

theorem noteRead_bad (s : State) (n m : Nat) (a : ErrArray) (addr z : Nat) : ((noteRead s n a addr z).core m).bad = (s.core m).bad := by
  unfold noteRead
  split
  · rfl
  · rw [State.core_setCore]
    split
    · next hm =>
      unfold noteCore
      dsimp only
      split <;> rw [hm]
    · rfl

theorem badWord_of_sound {c : Core} (h : c.bad = []) (a : ErrArray) (addr n : Nat) : badWord c a addr n = false := by
  unfold badWord
  rw [h]
  rfl

/-- The state in which an instruction has read the table entry of channel `p`. -/
def chanRead (s : State) (h : Here) (p : Nat) : State := noteRead (opened s h) h.ref.core .chanTable (8 * p) 8

theorem chanRead_onlyCe (s : State) (h : Here) (p : Nat) : OnlyCe (opened s h) (chanRead s h p) := noteRead_onlyCe _ _ _ _ _

section
variable {i : Instr} {s : State} {h : Here} (hx : Executes i s h) {n : ChanN} {f : State → Nat → Channel → Act}

theorem chanOp_none (hn : h.block.chans[n.toNat]? = none) : chanOp h s n f = parkSetFree h s cChan := by
  unfold chanOp
  rw [hn]

include hx

theorem Executes.opened_bad : ((opened s h).core h.ref.core).bad = [] := by
  rw [opened, State.core_setCord]
  exact hx.sound

theorem chanRead_bad (p : Nat) : ((chanRead s h p).core h.ref.core).bad = [] := (noteRead_bad _ _ _ _ _ _).trans hx.opened_bad

theorem chanOp_some {p : Nat} {c : Channel} (hn : h.block.chans[n.toNat]? = some p) (hc : (s.core h.ref.core).chans.get? p = some c) :
    chanOp h (opened s h) n f = f (chanRead s h p) p c := by
  have hc' : ((opened s h).core h.ref.core).chans.get? p = some c := by
    rw [opened, State.core_setCord]
    exact hc
  unfold chanOp
  simp only [hn, badWord_of_sound hx.opened_bad, hc', Bool.false_eq_true, if_false]
  rfl

theorem chanRead_scoreHeld (p : Nat) (w : Bool) (a z : Nat) :
    scoreHeld ((chanRead s h p).core h.ref.core) w a z = scoreHeld (s.core h.ref.core) w a z :=
  ((chanRead_onlyCe s h p).slack.scoreHeld _ _ _ _).trans (hx.toIssues.scoreHeld_opened w a z)

end

/-- The same entry of a channel in two states alike but for notes and tracks. -/
theorem Slack.setChan {s t : State} (h : Slack s t) (n p : Nat) (c : Channel) : Slack (setChan s n p c) (setChan t n p c) := by
  refine h.setCore ?_
  conv => lhs; rw [h.core n]

theorem setChan_cord? (s : State) (n p : Nat) (c : Channel) (r : CordRef) : (setChan s n p c).cord? r = s.cord? r :=
  State.cord?_setCore (by exact rfl) r

end Sys2Proof.Machine

namespace Sys2Proof.Machine

/-! ### Indices that are not bound (R168) -/

section
variable {s : State} {h : Here}

theorem idleQ_unbound {o : OBrx} (hx : Executes (.idleQ o) s h) (hb : boundQueue h.block (h.s o.a) = none) :
    FaultsFree (.idleQ o) s h h.set cPerm :=
  parkSetFree_faults hx.toIssues (by decide) ((issue_eq hx _).trans (by rw [queueOp_unbound hb]))

theorem qpop_unbound {o : OQpop} (hx : Executes (.qpop o) s h) (hb : boundQueue h.block (h.s o.b) = none) :
    FaultsFree (.qpop o) s h h.set cPerm :=
  parkSetFree_faults hx.toIssues (by decide) ((issue_eq hx _).trans (by rw [queueOp_unbound hb]))

theorem qpush_unbound {o : OQpush} (hx : Executes (.qpush o) s h) (hb : boundQueue h.block (h.s o.b) = none) :
    FaultsFree (.qpush o) s h h.set cPerm :=
  parkSetFree_faults hx.toIssues (by decide) ((issue_eq hx _).trans (by rw [queueOp_unbound hb]))

end

/-! ### The three instructions of channels -/

/-- A ring whose counters differ holds an item. -/
theorem Channel.fill_ne_zero {c : Channel} (h : c.tail ≠ c.head) : c.fill ≠ 0 := by
  unfold Channel.fill
  bv_omega

section
variable {s : State} {h : Here} {p : Nat} {c : Channel}

/-! `chput` -/

/-- The state in which a `chput` has written its word, before the tail moves on. -/
def chputWrite (s : State) (h : Here) (o : OChput) (p : Nat) (c : Channel) : State :=
  let u := noteBoard (chanRead s h p) (.sp h.ref.core (c.slotAt c.tail))
  u.setCore h.ref.core { u.core h.ref.core with spad := (u.core h.ref.core).spad.setWord (c.slotAt c.tail) (h.s o.a) }

theorem chputWrite_slack (o : OChput) : Slack
    ((opened s h).setCore h.ref.core { (opened s h).core h.ref.core with
      spad := ((opened s h).core h.ref.core).spad.setWord (c.slotAt c.tail) (h.s o.a) })
    (chputWrite s h o p c) := by
  have hu := ((chanRead_onlyCe s h p).trans (noteBoard_onlyCe _ (.sp h.ref.core (c.slotAt c.tail)))).slack
  refine hu.setCore ?_
  conv => lhs; rw [hu.core]

/-- Of two records put for one core the last counts. -/
theorem setCore_setCore_onlyCe (s : State) (n : Nat) (c d : Core) : OnlyCe (s.setCore n d) ((s.setCore n c).setCore n d) where
  core m := by
    rw [State.core_setCore, State.core_setCore, State.core_setCore]
    split <;> rfl
  rest := rfl

section
variable {o : OChput} (hx : Executes (.chput o) s h)
include hx

theorem exec_chput (hn : h.block.chans[o.ch.toNat]? = some p) (hc : (s.core h.ref.core).chans.get? p = some c) :
    exec (.chput o) s = actOut (.chput o) h (opened s h)
      (if c.eos then parkSetFree h (chanRead s h p) cChan
        else if 2 ^ c.lsize ≤ c.fill then .hold
        else if scoreHeld (s.core h.ref.core) true (c.slotAt c.tail) 4 then
          holdSpots (chanRead s h p) h true 4 [(0, .sp h.ref.core (c.slotAt c.tail))]
        else .did { s := setChan (((chputWrite s h o p c).wrote h.agent (.sp h.ref.core (c.slotAt c.tail)) 4 (.rel .blk)).send h.agent .blk
          [.item h.block.id o.ch.toNat c.tail.toNat]) h.ref.core p { c with tail := c.tail + 1 } }) := by
  have hbad : badBoard ((chanRead s h p).core h.ref.core) = false := badWord_of_sound (chanRead_bad hx p) _ _ _
  refine (issue_eq hx _).trans ?_
  rw [chanOp_some hx hn hc]
  dsimp only
  rw [hbad, if_neg Bool.false_ne_true, chanRead_scoreHeld hx]
  rfl

theorem chput_puts (hn : h.block.chans[o.ch.toNat]? = some p) (hc : (s.core h.ref.core).chans.get? p = some c) (he : c.eos = false)
    (hf : c.fill < 2 ^ c.lsize) (hh : scoreHeld (s.core h.ref.core) true (c.slotAt c.tail) 4 = false) :
    CompletesAs (.chput o) s h ((opened s h).setCore h.ref.core { (opened s h).core h.ref.core with
      spad := ((opened s h).core h.ref.core).spad.setWord (c.slotAt c.tail) (h.s o.a)
      chans := ((opened s h).core h.ref.core).chans.set p { c with tail := c.tail + 1 } }) h.cord
      (fun k => h.next (.chput o) (h.cord.lane k)) [] := by
  refine slack_completesAs hx.toIssues (d := { s := setChan (((chputWrite s h o p c).wrote h.agent (.sp h.ref.core (c.slotAt c.tail)) 4
    (.rel .blk)).send h.agent .blk [.item h.block.id o.ch.toNat c.tail.toNat]) h.ref.core p { c with tail := c.tail + 1 } }) ?_ ?_
    ((State.cord?_setCore (by exact rfl) _).trans hx.toIssues.opened_cord?) (opened_clock s h) rfl rfl rfl rfl
  · rw [exec_chput hx hn hc, he, hh, if_neg Bool.false_ne_true, if_neg (Nat.not_le.2 hf), if_neg Bool.false_ne_true]
    rfl
  · have hw := (chputWrite_slack (s := s) (h := h) (p := p) (c := c) o).trans ((wrote_onlyTracks _ h.agent (.sp h.ref.core (c.slotAt c.tail)) 4 (.rel .blk)).trans
      (send_onlyTracks _ h.agent .blk [.item h.block.id o.ch.toNat c.tail.toNat])).slack
    refine (setCore_setCore_onlyCe _ _ _ _).slack.trans (hw.setCore ?_)
    conv => lhs; rw [hw.core, State.core_setCore_same]

theorem chput_ended (hn : h.block.chans[o.ch.toNat]? = some p) (hc : (s.core h.ref.core).chans.get? p = some c) (he : c.eos = true) :
    FaultsFree (.chput o) s h h.set cChan :=
  parkSetFree_faults_noted hx.toIssues (by decide) (chanRead_onlyCe s h p).slack (by rw [exec_chput hx hn hc, he]; rfl)

theorem chput_lacks (hn : h.block.chans[o.ch.toNat]? = none) : FaultsFree (.chput o) s h h.set cChan :=
  parkSetFree_faults hx.toIssues (by decide) ((issue_eq hx _).trans (by rw [chanOp_none hn]))

end

/-! `chget` -/

section
variable {o : OChget} (hx : Executes (.chget o) s h)
include hx

/-- What a `chget` leaves in flight. -/
def getting (o : OChget) (h : Here) (l : List Owed) : List InFlight := [{ left := look h.cord o.la, uses := uses (.chget o), owed := l }]

/-- The state in which a `chget` has read the slot at the head. -/
def chgetRead (s : State) (h : Here) (o : OChget) (p : Nat) (c : Channel) : State :=
  ((noteRead (noteBoard (chanRead s h p) (.sp h.ref.core (c.slotAt c.head))) h.ref.core .scratchpad (c.slotAt c.head) 4).hear h.agent .blk
    [.item h.block.id o.ch.toNat c.head.toNat]).saw ⟨h.agent, false⟩ (.sp h.ref.core (c.slotAt c.head)) 4 true (some .blk)

theorem exec_chget (hn : h.block.chans[o.ch.toNat]? = some p) (hc : (s.core h.ref.core).chans.get? p = some c) :
    exec (.chget o) s = actOut (.chget o) h (opened s h)
      (if c.fill = 0 then
        if c.eos then .did { s := (chanRead s h p).hear h.agent .blk [.item h.block.id o.ch.toNat tokenItem],
                             fl := getting o h [.q o.qb.toNat true] }
        else .hold
      else if scoreHeld (s.core h.ref.core) false (c.slotAt c.head) 4 then
        holdSpots (chanRead s h p) h false 4 [(0, .sp h.ref.core (c.slotAt c.head))]
      else .did { s := setChan (chgetRead s h o p c) h.ref.core p { c with head := c.head + 1 },
                  fl := getting o h [.s (place h.cord.ubud h.sbase o.a.toNat) (((chgetRead s h o p c).core h.ref.core).spad.word (c.slotAt c.head)),
                    .q o.qb.toNat false] }) := by
  have hbad (a : ErrArray) (x z : Nat) : badWord ((chanRead s h p).core h.ref.core) a x z = false := badWord_of_sound (chanRead_bad hx p) _ _ _
  have hbad' : (badBoard ((chanRead s h p).core h.ref.core) || badWord ((chanRead s h p).core h.ref.core) .scratchpad (c.slotAt c.head) 4) = false := by
    rw [badBoard, hbad, hbad]
    rfl
  refine (issue_eq hx _).trans ?_
  rw [chanOp_some hx hn hc]
  dsimp only
  rw [hbad', if_neg Bool.false_ne_true, chanRead_scoreHeld hx]
  rfl

theorem chget_token (hn : h.block.chans[o.ch.toNat]? = some p) (hc : (s.core h.ref.core).chans.get? p = some c) (hf : c.fill = 0)
    (he : c.eos = true) : Completes (.chget o) s h h.cord (fun k => h.next (.chget o) (h.cord.lane k)) (getting o h [.q o.qb.toNat true]) := by
  have hs := (chanRead_onlyCe s h p).slack.trans (hear_onlyTracks _ h.agent .blk [.item h.block.id o.ch.toNat tokenItem]).slack
  refine on_completesAs hx.toIssues (m := s) (d := { s := _, fl := getting o h [.q o.qb.toNat true] }) ?_
    ((hs.cord? _).trans hx.toIssues.opened_cord?) ((opened_apart s h).trans (hs.apart _)) (hs.clock.trans (opened_clock s h)) rfl rfl rfl rfl
    (fun _ => rfl)
  rw [exec_chget hx hn hc, if_pos hf, he]
  rfl

theorem chget_takes (hn : h.block.chans[o.ch.toNat]? = some p) (hc : (s.core h.ref.core).chans.get? p = some c) (hf : c.fill ≠ 0)
    (hh : scoreHeld (s.core h.ref.core) false (c.slotAt c.head) 4 = false) :
    CompletesAs (.chget o) s h (setChan (opened s h) h.ref.core p { c with head := c.head + 1 }) h.cord
      (fun k => h.next (.chget o) (h.cord.lane k))
      (getting o h [.s (place h.cord.ubud h.sbase o.a.toNat) ((s.core h.ref.core).spad.word (c.slotAt c.head)), .q o.qb.toNat false]) := by
  have hs : Slack (opened s h) (chgetRead s h o p c) :=
    ((chanRead_onlyCe s h p).trans ((noteBoard_onlyCe _ _).trans (noteRead_onlyCe _ _ _ _ _))).slack.trans
      ((hear_onlyTracks _ _ _ _).trans (saw_onlyTracks _ _ _ _ _ _)).slack
  have hspad : ((chgetRead s h o p c).core h.ref.core).spad = (s.core h.ref.core).spad := by
    rw [hs.core, opened, State.core_setCord]
  have e := exec_chget hx hn hc
  rw [if_neg hf, hh, if_neg Bool.false_ne_true, hspad] at e
  generalize chgetRead s h o p c = u at e hs
  exact slack_completesAs hx.toIssues e (hs.setChan _ _ _) ((setChan_cord? _ _ _ _ _).trans hx.toIssues.opened_cord?) (opened_clock s h)
    rfl rfl rfl rfl

theorem chget_lacks (hn : h.block.chans[o.ch.toNat]? = none) : FaultsFree (.chget o) s h h.set cChan :=
  parkSetFree_faults hx.toIssues (by decide) ((issue_eq hx _).trans (by rw [chanOp_none hn]))

end

/-! `cheos` -/

section
variable {o : OCheos} (hx : Executes (.cheos o) s h)
include hx

theorem exec_cheos (hn : h.block.chans[o.ch.toNat]? = some p) (hc : (s.core h.ref.core).chans.get? p = some c) :
    exec (.cheos o) s = actOut (.cheos o) h (opened s h) (if c.eos then parkSetFree h (chanRead s h p) cChan
      else .did { s := setChan ((chanRead s h p).send h.agent .blk [.item h.block.id o.ch.toNat tokenItem]) h.ref.core p { c with eos := true } }) := by
  refine (issue_eq hx _).trans ?_
  rw [chanOp_some hx hn hc]

theorem cheos_sends (hn : h.block.chans[o.ch.toNat]? = some p) (hc : (s.core h.ref.core).chans.get? p = some c) (he : c.eos = false) :
    CompletesAs (.cheos o) s h (setChan (opened s h) h.ref.core p { c with eos := true }) h.cord
      (fun k => h.next (.cheos o) (h.cord.lane k)) [] := by
  have hs := (chanRead_onlyCe s h p).slack.trans (send_onlyTracks _ h.agent .blk [.item h.block.id o.ch.toNat tokenItem]).slack
  have e := exec_cheos hx hn hc
  rw [he, if_neg Bool.false_ne_true] at e
  exact slack_completesAs hx.toIssues e (hs.setChan _ _ _) ((setChan_cord? _ _ _ _ _).trans hx.toIssues.opened_cord?) (opened_clock s h)
    rfl rfl rfl rfl

theorem cheos_ended (hn : h.block.chans[o.ch.toNat]? = some p) (hc : (s.core h.ref.core).chans.get? p = some c) (he : c.eos = true) :
    FaultsFree (.cheos o) s h h.set cChan :=
  parkSetFree_faults_noted hx.toIssues (by decide) (chanRead_onlyCe s h p).slack (by rw [exec_cheos hx hn hc, he]; rfl)

theorem cheos_lacks (hn : h.block.chans[o.ch.toNat]? = none) : FaultsFree (.cheos o) s h h.set cChan :=
  parkSetFree_faults hx.toIssues (by decide) ((issue_eq hx _).trans (by rw [chanOp_none hn]))

end

end

end Sys2Proof.Machine

namespace Sys2Proof.Machine

/-- Settles O42: beside the store that an instruction moves a packet or a word in, its notes of errors and of order alone differ from what
the statement writes down, and no step of them looks at the cores. -/
theorem queuesAndChannels : Obligations.QueuesAndChannels := by
  unfold Obligations.QueuesAndChannels
  refine ⟨⟨fun o s h q hx hb hg hf => idleQ_completes hx hb hg hf,
      fun o s h q p hx hb hp hg hn => ⟨fun hf => qpop_empty hx hb hp.1 hp.2 hg hn hf, fun l hf hl => qpop_takes hx hb hp.1 hp.2 hg hn hf hl⟩,
      fun o s h q p hx hb hp hg => ⟨fun hf => qpush_full hx hb hp.1 hp.2 hg hf, fun m hf hm => qpush_puts hx hb hp.1 hp.2 hg hf hm⟩,
      fun o s h hx hb => qpop_unbound hx hb, fun o s h hx hb => qpush_unbound hx hb, fun o s h hx hb => idleQ_unbound hx hb⟩,
    fun o s h p c hx hp he hf hh => chput_puts hx hp.1 hp.2 he hf hh,
    fun o s h p c hx hp => ⟨fun hf he => chget_token hx hp.1 hp.2 (by rw [Channel.fill, hf, BitVec.sub_self]; rfl) he,
      fun hf hh => chget_takes hx hp.1 hp.2 (Channel.fill_ne_zero hf) hh⟩,
    fun o s h p c hx hp he => cheos_sends hx hp.1 hp.2 he, fun o s h p c hx hp he => chput_ended hx hp.1 hp.2 he,
    fun o s h p c hx hp he => cheos_ended hx hp.1 hp.2 he, fun o s h hx hn => chput_lacks hx hn, fun o s h hx hn => chget_lacks hx hn,
    fun o s h hx hn => cheos_lacks hx hn⟩

end Sys2Proof.Machine

namespace Sys2Proof.Machine

/-! ### The integer square root -/

theorem isqrtGo_spec (n x r : Nat) (hlo : r * r ≤ x) (hhi : x < (r + 2 ^ n) * (r + 2 ^ n)) :
    isqrtGo n x r * isqrtGo n x r ≤ x ∧ x < (isqrtGo n x r + 1) * (isqrtGo n x r + 1) := by
  induction n generalizing r with
  | zero => exact ⟨hlo, hhi⟩
  | succ n ih =>
    unfold isqrtGo
    dsimp only
    split
    · next h =>
      refine ih _ h ?_
      rwa [show r + 2 ^ n + 2 ^ n = r + 2 ^ (n + 1) by rw [Nat.pow_succ]; omega]
    · next h => exact ih r hlo (Nat.lt_of_not_le h)

/-- It is the root, cut. -/
theorem isqrt_spec (x : Nat) : isqrt x * isqrt x ≤ x ∧ x < (isqrt x + 1) * (isqrt x + 1) := by
  refine isqrtGo_spec _ x 0 (Nat.zero_le _) ?_
  rw [Nat.zero_add, ← Nat.pow_add]
  exact Nat.lt_of_lt_of_le Nat.lt_log2_self (Nat.pow_le_pow_right (by decide) (by omega))

theorem le_isqrt {a x : Nat} (h : a * a ≤ x) : a ≤ isqrt x := by
  by_contra hlt
  have h1 := (isqrt_spec x).2
  have h2 : isqrt x + 1 ≤ a := by omega
  exact absurd (Nat.mul_le_mul h2 h2) (by omega)

/-! ### Truncated significands -/

/-- A significand cut below the exact value `y`, of 60 bits or more, with the value's remainder folded in below it. -/
structure CutAt (y : ℚ) (f : ℚ → ℚ) (s : Bool) (x : Num) (n : Nat) (k : Int) : Prop where
  bits : 2 ^ 60 ≤ n
  low : f (n * (2 : ℚ) ^ k) ≤ y
  high : y < f ((n + 1) * (2 : ℚ) ^ k)
  num : x = if f (n * (2 : ℚ) ^ k) = y then .fin s n k else .fin s (2 * n + 1) (k - 1)

theorem two_zpow_pos (k : Int) : (0 : ℚ) < (2 : ℚ) ^ k := zpow_pos two_pos k

theorem abs_numVal (s : Bool) (m : Nat) (e : Int) : |numVal s m e| = m * (2 : ℚ) ^ e := by
  unfold numVal
  have := two_zpow_pos e
  cases s <;> simp [abs_mul, abs_of_pos this]

theorem numVal_false (m : Nat) (e : Int) : numVal false m e = m * (2 : ℚ) ^ e := by simp [numVal]

/-- A quotient of natural numbers, cut. -/
theorem div_cut (d : Nat) {m : Nat} (hm : m ≠ 0) :
    ((d / m : Nat) : ℚ) ≤ d / m ∧ (d : ℚ) / m < (d / m : Nat) + 1 ∧ (((d / m : Nat) : ℚ) = d / m ↔ d % m = 0) := by
  have hmq : (0 : ℚ) < m := by exact_mod_cast Nat.pos_of_ne_zero hm
  have hdm := Nat.div_add_mod d m
  refine ⟨Nat.cast_div_le, ?_, ?_⟩
  · rw [div_lt_iff₀ hmq]
    have := Nat.mod_lt d (Nat.pos_of_ne_zero hm)
    have h : d < (d / m + 1) * m := by rw [Nat.add_mul, Nat.one_mul, Nat.mul_comm]; omega
    exact_mod_cast h
  · rw [eq_div_iff hmq.ne']
    have hcast : ((d / m : Nat) : ℚ) * m = d ↔ d / m * m = d := by norm_cast
    rw [hcast, Nat.mul_comm]
    omega

/-- A reciprocal is formed to 79 bits. -/
theorem recip_cut (s : Bool) {m : Nat} (hm : m ≠ 0) (e : Int) :
    ∃ n k, CutAt (1 / |numVal s m e|) id s (recip s m e) n k := by
  have hlog : 2 ^ 60 ≤ 2 ^ (m.log2 + 80) / m := by
    rw [Nat.le_div_iff_mul_le (Nat.pos_of_ne_zero hm)]
    calc 2 ^ 60 * m ≤ 2 ^ 60 * 2 ^ (m.log2 + 1) := Nat.mul_le_mul_left _ Nat.lt_log2_self.le
      _ = 2 ^ (60 + (m.log2 + 1)) := (Nat.pow_add _ _ _).symm
      _ ≤ _ := Nat.pow_le_pow_right (by decide) (by omega)
  unfold recip
  dsimp only
  generalize m.log2 + 80 = j at hlog ⊢
  have hz := two_zpow_pos (-(j : Int) - e)
  have hy : 1 / |numVal s m e| = ((2 ^ j : Nat) : ℚ) / m * (2 : ℚ) ^ (-(j : Int) - e) := by
    have := two_zpow_pos e
    rw [abs_numVal, zpow_sub₀ two_ne_zero, zpow_neg, zpow_natCast]
    push_cast
    field_simp
  obtain ⟨h1, h2, h3⟩ := div_cut (2 ^ j) hm
  refine ⟨2 ^ j / m, -(j : Int) - e, hlog, ?_, ?_, ?_⟩
  · rw [id, hy]
    exact mul_le_mul_of_nonneg_right h1 hz.le
  · rw [id, hy]
    exact mul_lt_mul_of_pos_right h2 hz
  · simp only [id, hy, mul_left_inj' hz.ne', h3, sticky, beq_iff_eq]

/-! ### Roots -/

theorem evenExp_ne_zero {m : Nat} (hm : m ≠ 0) (e : Int) : (evenExp m e).1 ≠ 0 := by
  unfold evenExp
  split
  · exact hm
  · omega

/-- The exponent made even: the value is a significand times a square. -/
theorem evenExp_val (m : Nat) (e : Int) : (m : ℚ) * (2 : ℚ) ^ e = (evenExp m e).1 * ((2 : ℚ) ^ (evenExp m e).2) ^ 2 := by
  unfold evenExp
  split
  · next h =>
    have he : e = e / 2 + e / 2 := by have := eq_of_beq h; omega
    rw [sq, ← zpow_add₀ two_ne_zero, ← he]
  · next h =>
    have he : e = 1 + ((e - 1) / 2 + (e - 1) / 2) := by
      have : e % 2 ≠ 0 := fun h' => h (beq_iff_eq.2 h')
      omega
    conv => lhs; rw [he]
    rw [zpow_add₀ two_ne_zero, zpow_add₀ two_ne_zero, sq]
    push_cast
    ring

/-- What is cut of a square's root is a cut root. -/
theorem root_cut (n : Nat) {x : ℚ} {a : ℚ} (ha : 0 < a) (hlo : (n : ℚ) * n ≤ x) (hhi : x < (n + 1) * (n + 1)) :
    ((n : ℚ) * a) ^ 2 ≤ x * a ^ 2 ∧ x * a ^ 2 < ((n + 1) * a) ^ 2 ∧ (((n : ℚ) * a) ^ 2 = x * a ^ 2 ↔ (n : ℚ) * n = x) := by
  have h2 : 0 < a ^ 2 := by positivity
  rw [mul_pow, mul_pow, sq (n : ℚ), sq ((n : ℚ) + 1)]
  exact ⟨mul_le_mul_of_nonneg_right hlo h2.le, mul_lt_mul_of_pos_right hhi h2, mul_left_inj' h2.ne'⟩

/-- A root is formed to 60 bits or more. -/
theorem rootOf_cut {m : Nat} (hm : m ≠ 0) (e : Int) : ∃ n k, CutAt (numVal false m e) (· ^ 2) false (rootOf m e) n k := by
  have h0 := evenExp_ne_zero hm e
  have hv := evenExp_val m e
  unfold rootOf
  generalize evenExp m e = q at h0 hv
  obtain ⟨b, h⟩ := q
  dsimp only at h0 hv ⊢
  generalize hx : b * 2 ^ 120 = x
  have hbits : 2 ^ 60 ≤ isqrt x := by
    refine le_isqrt ?_
    rw [← Nat.pow_add, ← hx]
    exact Nat.le_mul_of_pos_left _ (Nat.pos_of_ne_zero h0)
  obtain ⟨h1, h2⟩ := isqrt_spec x
  have hval : numVal false m e = (x : ℚ) * ((2 : ℚ) ^ (h - 60)) ^ 2 := by
    rw [numVal_false, hv, ← hx, zpow_sub₀ two_ne_zero]
    push_cast
    ring
  obtain ⟨h3, h4, h5⟩ := root_cut (isqrt x) (two_zpow_pos (h - 60)) (x := x) (by exact_mod_cast h1) (by exact_mod_cast h2)
  refine ⟨isqrt x, h - 60, hbits, ?_, ?_, ?_⟩
  · rw [hval]; exact h3
  · rw [hval]; exact h4
  · have hiff : ((isqrt x : ℚ)) * isqrt x = x ↔ isqrt x * isqrt x = x := by norm_cast
    simp only [hval, h5, hiff, sticky, beq_iff_eq]

/-- The reciprocal of a root is, of a significand that a format holds. -/
theorem recipRoot_cut {m : Nat} (hm : m ≠ 0) (hb : m < 2 ^ 100) (e : Int) :
    ∃ n k, CutAt (1 / numVal false m e) (· ^ 2) false (recipRoot m e) n k := by
  have h0 := evenExp_ne_zero hm e
  have hv := evenExp_val m e
  have hbd : (evenExp m e).1 < 2 ^ 101 := by
    unfold evenExp
    split
    · exact hb.trans (by norm_num)
    · exact (Nat.mul_lt_mul_of_pos_left hb two_pos).trans_le (by norm_num)
  unfold recipRoot
  generalize evenExp m e = q at h0 hv hbd
  obtain ⟨b, h⟩ := q
  dsimp only at h0 hv hbd ⊢
  have hbq : (0 : ℚ) < b := by exact_mod_cast Nat.pos_of_ne_zero h0
  generalize hx : 2 ^ 240 / b = x
  have hbits : 2 ^ 60 ≤ isqrt x := by
    refine le_isqrt ?_
    rw [← hx, Nat.le_div_iff_mul_le (Nat.pos_of_ne_zero h0)]
    calc 2 ^ 60 * 2 ^ 60 * b ≤ 2 ^ 60 * 2 ^ 60 * 2 ^ 101 := Nat.mul_le_mul_left _ hbd.le
      _ ≤ 2 ^ 240 := by norm_num
  obtain ⟨h1, h2⟩ := isqrt_spec x
  obtain ⟨h6, h7, -⟩ := div_cut (2 ^ 240) h0
  rw [hx] at h6 h7
  have hval : 1 / numVal false m e = ((2 ^ 240 : Nat) : ℚ) / b * ((2 : ℚ) ^ (-h - 120)) ^ 2 := by
    have := two_zpow_pos h
    rw [numVal_false, hv, zpow_sub₀ two_ne_zero, zpow_neg]
    push_cast
    field_simp
    norm_num
  have hlo : (isqrt x : ℚ) * isqrt x ≤ ((2 ^ 240 : Nat) : ℚ) / b := le_trans (by exact_mod_cast h1) h6
  have hhi : ((2 ^ 240 : Nat) : ℚ) / b < (isqrt x + 1) * (isqrt x + 1) := by
    have h2' : x + 1 ≤ (isqrt x + 1) * (isqrt x + 1) := h2
    exact h7.trans_le (by exact_mod_cast h2')
  obtain ⟨h3, h4, h5⟩ := root_cut (isqrt x) (two_zpow_pos (-h - 120)) hlo hhi
  refine ⟨isqrt x, -h - 120, hbits, ?_, ?_, ?_⟩
  · rw [hval]; exact h3
  · rw [hval]; exact h4
  · have hiff : ((isqrt x : ℚ)) * isqrt x = ((2 ^ 240 : Nat) : ℚ) / b ↔ isqrt x * isqrt x * b = 2 ^ 240 := by
      rw [eq_div_iff hbq.ne']
      norm_cast
    simp only [hval, h5, hiff, sticky, beq_iff_eq]

end Sys2Proof.Machine

namespace Sys2Proof.Machine

/-! ### 2^a of an integer and log2 of a power of two -/

theorem two_pow_lead_le {m : Nat} (hm : m ≠ 0) (e : Int) : (2 : ℚ) ^ Num.lead m e ≤ m * (2 : ℚ) ^ e := by
  unfold Num.lead
  rw [zpow_add₀ two_ne_zero, zpow_natCast]
  refine mul_le_mul_of_nonneg_right ?_ (two_zpow_pos e).le
  exact_mod_cast Nat.log2_self_le hm

/-- The exact magnitude of an integer in units of 2^-140, however it is written down. -/
theorem exp2_integer {s : Bool} {m : Nat} {e j : Int} (hm : m ≠ 0) (h : numVal s m e = j) : exp2 s m e = .fin false 1 j := by
  have hj : j.natAbs ≠ 0 := by
    intro h0
    rw [Int.natAbs_eq_zero.1 h0, Int.cast_zero, numVal_eq_zero] at h
    exact hm h
  rw [← numVal_int j] at h
  have hmag : (if -140 ≤ e then m * 2 ^ (e + 140).toNat else m / 2 ^ (-140 - e).toNat) = j.natAbs * 2 ^ 140 ∧
      (decide (e < -140) && m % 2 ^ (-140 - e).toNat != 0) = false ∧ s = decide (j < 0) := by
    by_cases he : e ≤ 0
    · obtain ⟨hs, hmj⟩ := numVal_eq_iff hm hj he h
      refine ⟨?_, ?_, hs⟩
      · split
        · next h1 =>
          rw [hmj, Nat.mul_assoc, ← Nat.pow_add]
          congr 2
          omega
        · next h1 =>
          rw [hmj, show (0 - e).toNat = 140 + (-140 - e).toNat by omega, Nat.pow_add, ← Nat.mul_assoc]
          exact Nat.mul_div_cancel _ (Nat.two_pow_pos _)
      · by_cases h1 : e < -140
        · rw [hmj, show (0 - e).toNat = 140 + (-140 - e).toNat by omega, Nat.pow_add, ← Nat.mul_assoc, Nat.mul_mod_left]
          simp
        · simp [h1]
    · obtain ⟨hs, hjm⟩ := numVal_eq_iff hj hm (by omega : (0 : Int) ≤ e) h.symm
      refine ⟨?_, by simp; omega, hs.symm⟩
      rw [if_pos (by omega), hjm, Nat.mul_assoc, ← Nat.pow_add]
      congr 2
      omega
  obtain ⟨h1, h2, h3⟩ := hmag
  have hv : (if s then -((j.natAbs * 2 ^ 140 : Nat) : Int) - (if false = true then 1 else 0) else ((j.natAbs * 2 ^ 140 : Nat) : Int)) = j * 2 ^ 140 := by
    subst h3
    by_cases hj0 : j < 0
    · simp only [hj0, decide_true, if_true, Bool.false_eq_true, if_false]
      omega
    · simp only [hj0, decide_false, if_false, Bool.false_eq_true]
      omega
  unfold exp2
  simp only [h1, h2]
  rw [hv, Int.mul_ediv_cancel _ (by decide), Int.mul_emod_left]
  rfl

theorem log2Of_power {s : Bool} {m : Nat} {e j : Int} (hm : m ≠ 0) (h : numVal s m e = (2 : ℚ) ^ j) :
    s = false ∧ log2Of m e = .fin (decide (j < 0)) j.natAbs 0 := by
  have h1 : numVal s m e = numVal false 1 j := by rw [h, numVal_false, Nat.cast_one, one_mul]
  by_cases he : e ≤ j
  · obtain ⟨hs, hmj⟩ := numVal_eq_iff hm one_ne_zero he h1
    rw [Nat.one_mul] at hmj
    have hl : m.log2 = (j - e).toNat := by rw [hmj, Nat.log2_two_pow]
    have hn : Num.lead m e = j := by rw [Num.lead, hl]; omega
    refine ⟨hs, ?_⟩
    unfold log2Of
    rw [hn]
    exact if_pos (by rw [hl, hmj]; exact beq_self_eq_true _)
  · obtain ⟨hs, hmj⟩ := numVal_eq_iff one_ne_zero hm (by omega : j ≤ e) h1.symm
    have h2 : 2 ≤ 2 ^ (e - j).toNat := by
      calc 2 = 2 ^ 1 := rfl
        _ ≤ _ := Nat.pow_le_pow_right (by decide) (by omega)
    have := Nat.mul_le_mul (Nat.one_le_iff_ne_zero.2 hm) h2
    omega

end Sys2Proof.Machine

namespace Sys2Proof.Machine

/-! ### Results of the functions that approximate (R124, R125) -/

section
variable (mode : Rnd) (r : Word) {a : Nat}

theorem approx_nan (h : Fmt.f32.decode a = .nan) (fn : ApproxFn) : approx fn mode r a = (0x7FC00000, 0) := by
  unfold approx
  dsimp only
  rw [h]
  rfl

theorem approx_inf {s : Bool} (h : Fmt.f32.decode a = .inf s) :
    approx .rcp mode r a = (if s then 0x80000000 else 0, 0) ∧ approx .rsq mode r a = (if s then (0x7FC00000, 0b10000) else (0, 0)) ∧
    approx .sqrt mode r a = (if s then (0x7FC00000, 0b10000) else (0x7F800000, 0)) ∧
    approx .exp2 mode r a = (if s then 0 else 0x7F800000, 0) ∧
    approx .log2 mode r a = if s then (0x7FC00000, 0b10000) else (0x7F800000, 0) := by
  unfold approx
  dsimp only
  rw [h]
  cases s <;> exact ⟨rfl, rfl, rfl, rfl, rfl⟩

/-- One is a value of the format. -/
theorem roundNum_one : roundNum .f32 mode r false false (.fin false 1 0) = (0x3F800000, 0) := by
  have h1 : numVal false 1 0 = numVal false (2 ^ 23) (-23) := by rw [numVal_false, numVal_false]; norm_num
  have h2 : Fmt.f32.decode 0x3F800000 = .fin false (2 ^ 23) (-23) := by decide
  have h3 := roundNum_decode (f := .f32) (by decide) mode r (w := 0x3F800000) (by decide) (by rw [h2]; rfl)
  rw [h2] at h3
  exact (roundFin_congr .f32 mode r false false one_ne_zero (by decide) h1).trans h3

theorem approx_zero {s : Bool} {e : Int} (h : Fmt.f32.decode a = .fin s 0 e) :
    approx .rcp mode r a = (if s then 0xFF800000 else 0x7F800000, 0b01000) ∧
    approx .rsq mode r a = (if s then 0xFF800000 else 0x7F800000, 0b01000) ∧ approx .sqrt mode r a = (if s then 0x80000000 else 0, 0) ∧
    approx .exp2 mode r a = (0x3F800000, 0) ∧ approx .log2 mode r a = (0xFF800000, 0b01000) := by
  unfold approx
  dsimp only
  rw [h]
  cases s <;> exact ⟨rfl, rfl, rfl, roundNum_one mode r, rfl⟩

section
variable {s : Bool} {m : Nat} {e : Int} (h : Fmt.f32.decode a = .fin s m e) (hm : m ≠ 0)
include h hm

theorem approx_rcp : approx .rcp mode r a = roundNum .f32 mode r false false (recip s m e) := by
  unfold approx
  simp only [h, if_neg hm]

theorem approx_rsq : approx .rsq mode r a = if s then badFp32 else roundNum .f32 mode r false false (recipRoot m e) := by
  unfold approx
  simp only [h, if_neg hm]

theorem approx_sqrt : approx .sqrt mode r a = if s then badFp32 else roundNum .f32 mode r false false (rootOf m e) := by
  unfold approx
  simp only [h, if_neg hm]

theorem approx_rsq_positive (hs : s = false) : approx .rsq mode r a = roundNum .f32 mode r false false (recipRoot m e) := by
  rw [approx_rsq mode r h hm, hs, if_neg Bool.false_ne_true]

theorem approx_sqrt_positive (hs : s = false) : approx .sqrt mode r a = roundNum .f32 mode r false false (rootOf m e) := by
  rw [approx_sqrt mode r h hm, hs, if_neg Bool.false_ne_true]

theorem approx_log2 : approx .log2 mode r a = if s then badFp32 else roundNum .f32 mode r false false (log2Of m e) := by
  unfold approx
  simp only [h, if_neg hm]

theorem approx_exp2 : approx .exp2 mode r a =
    if 8 ≤ Num.lead m e then (if s then roundNum .f32 mode r false false (.fin false 1 (-400)) else (0x7F800000, 0b00101))
    else if 7 ≤ Num.lead m e && !s then (0x7F800000, 0b00101)
    else roundNum .f32 mode r false false (exp2 s m e) := by
  unfold approx
  simp only [h, if_neg hm]
  rfl

/-- 2^a of 128 or more overflows. -/
theorem approx_exp2_large (hv : 128 ≤ numVal s m e) : approx .exp2 mode r a = (0x7F800000, 0b00101) := by
  have hs : s = false := by
    cases s with
    | false => rfl
    | true =>
      have h1 := numVal_not false m e
      have h2 := numVal_pos hm e
      rw [Bool.not_false] at h1
      linarith
  subst hs
  rw [numVal_false] at hv
  have hl : 7 ≤ Num.lead m e := (le_lead (k := 7) (by norm_num; exact hv)).2
  rw [approx_exp2 mode r h hm]
  simp only [hl, decide_true, Bool.not_false, Bool.and_self, if_true, Bool.false_eq_true, if_false, ite_self]

/-- 2^a of an integer is exact. -/
theorem approx_exp2_integer {j : Int} (hv : numVal s m e = j) (hlo : -149 ≤ j) (hhi : j ≤ 127) :
    approx .exp2 mode r a = roundNum .f32 mode r false false (.fin false 1 j) := by
  have habs : (m : ℚ) * (2 : ℚ) ^ e = |(j : ℚ)| := by rw [← hv, abs_numVal]
  have hjlo : (-149 : ℚ) ≤ j := by exact_mod_cast hlo
  have hjhi : (j : ℚ) ≤ 127 := by exact_mod_cast hhi
  have hlead (k : Int) (hk : k ≤ Num.lead m e) : (2 : ℚ) ^ k ≤ |(j : ℚ)| :=
    (zpow_le_zpow_right₀ one_le_two hk).trans ((two_pow_lead_le hm e).trans_eq habs)
  rw [approx_exp2 mode r h hm, if_neg, if_neg, exp2_integer hm hv]
  · intro h7
    obtain ⟨h7, hs⟩ := Bool.and_eq_true_iff.1 h7
    have h128 := hlead 7 (of_decide_eq_true h7)
    obtain rfl : s = false := by simpa using hs
    have hpos := numVal_pos hm e
    rw [hv] at hpos
    rw [abs_of_pos hpos] at h128
    norm_num at h128
    linarith
  · intro h8
    have h256 := hlead 8 h8
    have : |(j : ℚ)| ≤ 149 := abs_le.2 ⟨hjlo, by linarith⟩
    norm_num at h256
    linarith

theorem approx_log2_power {j : Int} (hv : numVal s m e = (2 : ℚ) ^ j) :
    approx .log2 mode r a = roundNum .f32 mode r false false (.fin (decide (j < 0)) j.natAbs 0) := by
  obtain ⟨hs, hl⟩ := log2Of_power hm hv
  rw [approx_log2 mode r h hm, hs, hl]
  rfl

theorem approx_negative (hs : s = true) : approx .rsq mode r a = (0x7FC00000, 0b10000) ∧ approx .sqrt mode r a = (0x7FC00000, 0b10000) ∧
    approx .log2 mode r a = (0x7FC00000, 0b10000) := by
  rw [approx_rsq mode r h hm, approx_sqrt mode r h hm, approx_log2 mode r h hm, hs]
  exact ⟨rfl, rfl, rfl⟩

end

theorem decode_f32_lt {s : Bool} {m : Nat} {e : Int} (h : Fmt.f32.decode a = .fin s m e) : m < 2 ^ 100 := by
  obtain ⟨-, j, -, hj, -⟩ := Fmt.decode_fin (f := .f32) (by decide) h
  exact hj.lt.trans (by decide)

end

/-! ### Results in flight (R61) -/

theorem lookDraws_frame (rnd : Rnd) (n : Nat) (l : Lane) : (lookDraws rnd n l).1.frame = l.frame := by
  unfold lookDraws
  split <;> rfl

/-- What a function that approximates owes of one lane. -/
def approxOwed (fn : ApproxFn) (o : OFn) (h : Here) (k : Nat) : List Owed :=
  [.v k (place h.cord.vbud (h.cord.lane k).frame.vb o.d.toNat) (BitVec.ofNat 32
      (approx fn o.rnd ((lookDraws o.rnd 1 (h.cord.lane k)).2.headD 0) ((h.source o.gd o.u k).v h.cord.vbud o.a.toNat).toNat).1),
    .fpf (approx fn o.rnd ((lookDraws o.rnd 1 (h.cord.lane k)).2.headD 0) ((h.source o.gd o.u k).v h.cord.vbud o.a.toNat).toNat).2]

/-- Only the draws are made at issue. -/
theorem laneApprox_completes {fn : ApproxFn} {i : Instr} {o : OFn} {s : State} {h : Here} (hx : Executes i s h)
    (e : exec i s = laneApprox i o fn s) (hns : sends i = false) :
    Completes i s h h.cord (fun k => h.next i (if (h.cord.lane k).guard o.gd then (lookDraws o.rnd 1 (h.cord.lane k)).1 else h.cord.lane k))
      [{ left := look h.cord o.la, uses := uses i, owed := (h.active o.gd).flatMap (approxOwed fn o h) }] := by
  have hl (k : Nat) : (h.cord.onLanes (h.active o.gd) (fun k _ => (lookDraws o.rnd 1 (h.cord.lane k)).1)).lane k =
      if k ∈ h.active o.gd then (lookDraws o.rnd 1 (h.cord.lane k)).1 else h.cord.lane k :=
    h.cord.lane_onLanes (hx.toIssues.nodup_active o.gd) k _
  refine Completes.of_rest (plain_completes hx.toIssues ?_ (fun k hk => ?_) (fun k hk => ?_) (fun k hk => ?_)
    (fun hs => by rw [hns] at hs; cases hs)) (Cord.onLanes_rest h.cord (h.active o.gd) (fun k _ => (lookDraws o.rnd 1 (h.cord.lane k)).1))
  · rw [e, laneApprox, issue_eq hx]
    dsimp only
    simp only [lookDraws_frame]
    rfl
  · exact (hl k).trans (by simp only [mem_active, hk, true_and])
  · split
    · exact (lookDraws_st _ _ _).trans (hx.toIssues.run hk)
    · exact hx.toIssues.run hk
  · exact (hl k).trans (if_neg fun hm => hk (mem_active.1 hm).1)

/-- A completion writes what is owed, where no gather owes any of it. -/
theorem completion_gives {s : State} {r : CordRef} {c : Cord} {i : Nat} {f : InFlight} (hc : s.cord? r = some c) (hf : c.inflight[i]? = some f)
    (hg : ∀ id, .gather id ∈ f.owed → ∀ a ∈ c.gathers, a.id ≠ id) :
    ∃ t, exec (.longLatencyCompletion r i) s = .next t ∧ Apart r s t ∧
      t.cord? r = some (f.owed.foldl giveOwed { c with inflight := c.inflight.eraseIdx i }) := by
  have hready : f.owed.all (owedReady c) = true := by
    rw [List.all_eq_true]
    intro x hx
    cases x with
    | gather id =>
      rw [owedReady, Bool.not_eq_true', List.any_eq_false]
      exact fun a ha => by simpa using hg id hx a ha
    | _ => rfl
  refine ⟨_, ?_, (apart_setCord s r _).trans (apart_stalled _ _ []), State.cord?_setCord_same hc _⟩
  show execLongLatencyCompletion r i s = _
  unfold execLongLatencyCompletion
  simp only [hc, hf, hready, Bool.not_true, Bool.false_eq_true, if_false]

end Sys2Proof.Machine

namespace Sys2Proof.Machine

/-- Settles O12: the cut significands of the model lie within one unit below the exact value, and a remainder is folded in just where
there is one. -/
theorem laneApproximate : Obligations.LaneApproximate := by
  unfold Obligations.LaneApproximate
  refine ⟨⟨fun o s h hx => laneApprox_completes hx rfl rfl, fun o s h hx => laneApprox_completes hx rfl rfl,
      fun o s h hx => laneApprox_completes hx rfl rfl, fun o s h hx => laneApprox_completes hx rfl rfl,
      fun o s h hx => laneApprox_completes hx rfl rfl⟩, fun mode r a => ?_, fun s r c i f hc hf hg => completion_gives hc hf hg⟩
  refine ⟨fun h fn => approx_nan mode r h fn, fun s h => approx_inf mode r h, fun s e h => approx_zero mode r h, fun s m e h hm => ?_⟩
  refine ⟨fun hs => approx_negative mode r h hm hs, fun hv => approx_exp2_large mode r h hm hv, ?_, fun hs => ?_, fun hs => ?_,
    fun j hv hlo hhi => approx_exp2_integer mode r h hm hv hlo hhi, fun j hv => approx_log2_power mode r h hm hv⟩
  · obtain ⟨n, k, hcut⟩ := recip_cut s hm e
    exact ⟨n, k, hcut.bits, hcut.low, hcut.high, (approx_rcp mode r h hm).trans (congrArg (roundNum _ _ _ _ _) hcut.num)⟩
  · subst hs
    obtain ⟨n, k, hcut⟩ := rootOf_cut hm e
    exact ⟨n, k, hcut.bits, hcut.low, hcut.high, (approx_sqrt_positive mode r h hm rfl).trans (congrArg (roundNum _ _ _ _ _) hcut.num)⟩
  · subst hs
    obtain ⟨n, k, hcut⟩ := recipRoot_cut hm (decode_f32_lt h) e
    exact ⟨n, k, hcut.bits, hcut.low, hcut.high, (approx_rsq_positive mode r h hm rfl).trans (congrArg (roundNum _ _ _ _ _) hcut.num)⟩

end Sys2Proof.Machine

namespace Sys2Proof.Machine

/-! ### Reads, and lines of the path that come in beside others (R150, R260, R265, R309) -/

/-- What loads and prefetches leave behind outside cords: TLBs, counters and notes of errors, tracks, the error log, and up to `k` lines of
the path of each core, of which none holds a written byte. -/
structure Prefetched (k : Nat) (s t : State) : Prop where
  core : ∀ n, t.core n = { s.core n with
    lines := (t.core n).lines, etlb := (t.core n).etlb, gtlb := (t.core n).gtlb, perf := (t.core n).perf
    ce := (t.core n).ce, bad := (t.core n).bad, soft := (t.core n).soft }
  lines : ∀ n, ∃ l, (t.core n).lines = (s.core n).lines ++ l ∧ l.length ≤ k ∧ ∀ x ∈ l, x.bytes = .empty
  die : ∀ d, t.die d = { s.die d with tlb := (t.die d).tlb, ce := (t.die d).ce }
  rest : t = { s with
    cores := t.cores, dies := t.dies, corrected := t.corrected, suppressed := t.suppressed, tracks := t.tracks, raced := t.raced
    mgmt := t.mgmt, freeCtr := t.freeCtr }
  nil : s.tracks = [] → t.tracks = [] ∧ t.raced = s.raced

/-- The same without lines or an entry of the error log: what a read leaves behind. -/
structure Looked (s t : State) : Prop extends Prefetched 0 s t where
  mgmt : t.mgmt = s.mgmt

theorem Prefetched.trans {j k : Nat} {s t u : State} (h : Prefetched j s t) (h' : Prefetched k t u) : Prefetched (j + k) s u where
  core n := by rw [h'.core n, h.core n]
  lines n := by
    obtain ⟨l, hl, hj, he⟩ := h.lines n
    obtain ⟨l', hl', hk, he'⟩ := h'.lines n
    refine ⟨l ++ l', by rw [hl', hl, List.append_assoc], ?_, fun x hx => ?_⟩
    · rw [List.length_append]
      exact Nat.add_le_add hj hk
    · exact (List.mem_append.1 hx).elim (he x) (he' x)
  die d := by rw [h'.die d, h.die d]
  rest := by rw [h'.rest, h.rest]
  nil e := ⟨(h'.nil (h.nil e).1).1, (h'.nil (h.nil e).1).2.trans (h.nil e).2⟩

theorem Looked.trans {s t u : State} (h : Looked s t) (h' : Looked t u) : Looked s u :=
  ⟨h.toPrefetched.trans h'.toPrefetched, h'.mgmt.trans h.mgmt⟩

theorem Slack.looked {s t : State} (h : Slack s t) : Looked s t where
  core n := by rw [h.core n]
  lines n := ⟨[], by rw [h.core n, List.append_nil], Nat.le_refl _, fun _ hx => absurd hx List.not_mem_nil⟩
  die d := by rw [h.rest]; rfl
  rest := by rw [h.rest]
  nil := h.nil
  mgmt := by rw [h.rest]

theorem Looked.refl (s : State) : Looked s s := (Slack.refl s).looked

theorem Touched.looked {s t : State} (h : Touched s t) : Looked s t where
  core n := by rw [h.core n]
  lines n := ⟨[], by rw [h.core n, List.append_nil], Nat.le_refl _, fun _ hx => absurd hx List.not_mem_nil⟩
  die := h.die
  rest := by rw [h.rest]
  nil e := by rw [h.rest]; exact ⟨e, rfl⟩
  mgmt := by rw [h.rest]

theorem Looked.foldl {α : Type} (f : State → α → State) (hf : ∀ s x, Looked s (f s x)) (l : List α) (s : State) :
    Looked s (l.foldl f s) := by
  induction l generalizing s with
  | nil => exact .refl s
  | cons x r ih => exact (hf s x).trans (ih _)

section
variable {k : Nat} {s t : State} (h : Prefetched k s t)
include h

theorem Prefetched.cord? (r : CordRef) : t.cord? r = s.cord? r := by
  simp only [State.cord?, State.block?]
  rw [h.core]

theorem Prefetched.clock : t.clock = s.clock := by rw [h.rest]

/-- Beside the error log they are the traces of reads. -/
theorem Prefetched.reads (r : CordRef) : Reads r { s with mgmt := t.mgmt } t where
  cords q _ := h.cord? q
  spad n := by rw [h.core n]; rfl
  acc n := by rw [h.core n]; rfl
  code n := by rw [h.core n]; rfl
  map n := by rw [h.core n]; rfl
  res n := by rw [h.core n]; rfl
  ops n := by rw [h.core n]; rfl
  gens n := by rw [h.core n]; rfl
  chans n := by rw [h.core n]; rfl
  tiles n := by rw [h.core n]; rfl
  lines n := by
    obtain ⟨l, hl, -, he⟩ := h.lines n
    exact ⟨l, hl, he⟩
  hbm := by rw [h.rest]
  host := by rw [h.rest]
  peers := by rw [h.rest]
  clusters := by rw [h.rest]
  dies := h.die
  ctxs := by rw [h.rest]
  saved := by rw [h.rest]
  mgmt := rfl
  tracks := h.nil

end

section
variable {s t : State} (h : Looked s t)
include h

theorem Looked.reads (r : CordRef) : Reads r s t := by
  have := h.toPrefetched.reads r
  rwa [h.mgmt] at this

theorem Looked.lines_eq (n : Nat) : (t.core n).lines = (s.core n).lines := by
  obtain ⟨l, hl, hk, -⟩ := h.lines n
  rw [hl, List.eq_nil_of_length_eq_zero (Nat.le_zero.1 hk), List.append_nil]

end

/-! ### Reads of places -/

theorem noteGlobal_onlyCounts (s : State) (n : Nat) (g : Bool) (ctx va z : Nat) : OnlyCounts s (noteGlobal s n g ctx va z) := by
  unfold noteGlobal
  split
  · exact .refl s
  · refine OnlyCounts.foldl _ (fun u p => ?_) _ _
    split
    · exact .refl u
    · exact noteTarget_onlyCounts _ _ _

theorem notePath_looked (s : State) (n ctx va z : Nat) : Looked s (notePath s n ctx va z) := by
  unfold notePath
  dsimp only
  split
  · exact (noteRead_onlyCe _ _ _ _ _).slack.looked
  · exact (noteRead_onlyCe _ _ _ _ _).slack.looked.trans (noteGlobal_onlyCounts _ _ _ _ _ _).touched.looked

theorem noteSpot_looked (s : State) (z : Nat) (p : Spot) : Looked s (noteSpot s z p) := by
  cases p with
  | loc ctx va => exact notePath_looked _ _ _ _ _
  | _ => exact (noteRead_onlyCe _ _ _ _ _).slack.looked

theorem touchSpot_looked (s : State) (z : Nat) (rd : Bool) (p : Spot) : Looked s (touchSpot s z rd p) := by
  have ht : Looked s (match p with
      | .loc ctx va => touch s s.cur.core false ctx va
      | _ => s) := by
    split
    · exact (touch_touched _ _ _ _ _).looked
    · exact .refl s
  unfold touchSpot
  dsimp only
  split
  · exact ht.trans (noteSpot_looked _ _ _)
  · exact ht

theorem noteBoards_looked (s : State) (ps : List Spot) : Looked s (noteBoards s ps) := by
  unfold noteBoards
  split
  · exact .refl s
  · exact Looked.foldl _ (fun u n => (noteBoard_onlyCe u (.sp n 0)).slack.looked) _ s

/-! ### The lines that come into the path -/

theorem findLine_isSome (c : Core) (ctx a : Nat) :
    (findLine c ctx (a * 64)).isSome = c.lines.any (fun l => l.ctx == ctx && l.addr == a) := by
  unfold findLine
  rw [Nat.mul_div_cancel a (by decide), List.isSome_find?]

/-- A line that holds no written byte. -/
def emptyLine (slot ctx a : Nat) : LocalLine := { slot := slot, ctx := ctx, addr := a, bytes := .empty }

/-- Only the lines of core `n`'s path differ, and they are `l`. -/
structure PathIs (n : Nat) (l : List LocalLine) (s t : State) : Prop where
  rest : t = { s with cores := t.cores }
  core : ∀ m, t.core m = { s.core m with lines := (t.core m).lines }
  lines : (t.core n).lines = l
  others : ∀ m, m ≠ n → (t.core m).lines = (s.core m).lines

theorem PathIs.refl (n : Nat) (s : State) : PathIs n (s.core n).lines s s := ⟨rfl, fun _ => rfl, rfl, fun _ _ => rfl⟩

theorem PathIs.trans {n : Nat} {l l' : List LocalLine} {s t u : State} (h : PathIs n l s t) (h' : PathIs n l' t u) : PathIs n l' s u where
  rest := by rw [h'.rest, h.rest]
  core m := by rw [h'.core m, h.core m]
  lines := h'.lines
  others m hm := (h'.others m hm).trans (h.others m hm)

theorem pathIs_setCore (s : State) (n : Nat) (l : List LocalLine) : PathIs n l s (s.setCore n { s.core n with lines := l }) where
  rest := rfl
  core m := by
    rw [State.core_setCore]
    split
    · subst_vars; rfl
    · rfl
  lines := by rw [State.core_setCore_same]
  others m hm := by rw [State.core_setCore_ne _ hm]

/-- The lines, by their numbers, that a path does not hold. -/
def missing (old : List LocalLine) (ctx : Nat) (as : List Nat) : List Nat := as.filter (fun a => !old.any (fun l => l.ctx == ctx && l.addr == a))

/-- While there is room the lines that are missing come in, and none leaves. -/
theorem bringEach_room (n slot ctx : Nat) (other : LocalLine → Bool) (as : List Nat) (hn : as.Nodup) (s : State)
    (hroom : (s.core n).lines.length + (missing (s.core n).lines ctx as).length ≤ Config.localLines) :
    PathIs n ((s.core n).lines ++ (missing (s.core n).lines ctx as).map (emptyLine slot ctx)) s (as.foldl (fun s a =>
      if (findLine (s.core n) ctx (a * 64)).isSome then s
      else
        let s := if (s.core n).lines.length < Config.localLines then s else evictLine s n (((s.core n).lines.findIdx? other).getD 0)
        s.setCore n { s.core n with lines := (s.core n).lines ++ [emptyLine slot ctx a] }) s) := by
  induction as generalizing s with
  | nil =>
    rw [missing, List.filter_nil, List.map_nil, List.append_nil]
    exact .refl n s
  | cons a r ih =>
    obtain ⟨ha, hr⟩ := List.nodup_cons.1 hn
    rw [List.foldl_cons, findLine_isSome]
    cases hany : (s.core n).lines.any (fun l => l.ctx == ctx && l.addr == a) with
    | true =>
      have hm : missing (s.core n).lines ctx (a :: r) = missing (s.core n).lines ctx r := by
        rw [missing, List.filter_cons, if_neg (by rw [hany]; decide)]
        rfl
      rw [hm] at hroom ⊢
      exact ih hr s hroom
    | false =>
      have hm : missing (s.core n).lines ctx (a :: r) = a :: missing (s.core n).lines ctx r := by
        rw [missing, List.filter_cons, if_pos (by rw [hany]; rfl)]
        rfl
      rw [hm, List.length_cons] at hroom
      rw [hm, List.map_cons]
      simp only [Bool.false_eq_true, if_false, if_pos (by omega : (s.core n).lines.length < Config.localLines)]
      have hp := pathIs_setCore s n ((s.core n).lines ++ [emptyLine slot ctx a])
      generalize s.setCore n { s.core n with lines := (s.core n).lines ++ [emptyLine slot ctx a] } = t at hp ⊢
      have hkeep : missing (t.core n).lines ctx r = missing (s.core n).lines ctx r := by
        unfold missing
        refine List.filter_congr fun b hb => ?_
        have hab : (a == b) = false := beq_eq_false_iff_ne.2 fun e => ha (e ▸ hb)
        rw [hp.lines, List.any_append]
        simp [emptyLine, hab]
      have hih := ih hr t (by rw [hkeep, hp.lines, List.length_append, List.length_singleton]; omega)
      rw [hkeep, hp.lines, List.append_assoc] at hih
      exact hp.trans hih

theorem bringLines_room (s : State) (n slot ctx : Nat) (as : List Nat) (hn : as.Nodup)
    (hroom : (s.core n).lines.length + (missing (s.core n).lines ctx as).length ≤ Config.localLines) :
    PathIs n ((s.core n).lines ++ (missing (s.core n).lines ctx as).map (emptyLine slot ctx)) s (bringLines s n slot ctx as) :=
  bringEach_room n slot ctx (fun l => !(l.ctx == ctx && as.contains l.addr)) as hn s hroom

end Sys2Proof.Machine

namespace Sys2Proof.Machine

/-! ### Lines that leave the path change no cord and no clock (R260, R265) -/

/-- Cords, blocks and the clock are as they were. -/
structure Still (s t : State) : Prop where
  blocks : ∀ n, (t.core n).blocks = (s.core n).blocks
  clock : t.clock = s.clock

theorem Still.refl (s : State) : Still s s := ⟨fun _ => rfl, rfl⟩

theorem Still.trans {s t u : State} (h : Still s t) (h' : Still t u) : Still s u :=
  ⟨fun n => (h'.blocks n).trans (h.blocks n), h'.clock.trans h.clock⟩

theorem Still.foldl {α : Type} (f : State → α → State) (hf : ∀ s x, Still s (f s x)) (l : List α) (s : State) : Still s (l.foldl f s) := by
  induction l generalizing s with
  | nil => exact .refl s
  | cons x r ih => exact (hf s x).trans (ih _)

theorem Still.block? {s t : State} (h : Still s t) (n sl : Nat) : t.block? n sl = s.block? n sl := by
  simp only [State.block?, h.blocks n]

theorem Still.cord? {s t : State} (h : Still s t) (r : CordRef) : t.cord? r = s.cord? r := by
  rw [State.cord?, State.cord?, h.block?]

theorem Quiet.still {s t : State} (h : Quiet s t) (hc : t.clock = s.clock) : Still s t := ⟨fun n => (h.core n).blocks, hc⟩

theorem OnlyGlobal.still {s t : State} (h : OnlyGlobal s t) : Still s t := h.quiet.still (by rw [h.rest])

theorem still_setCore {s : State} {n : Nat} {c : Core} (h : c.blocks = (s.core n).blocks) : Still s (s.setCore n c) := by
  refine ⟨fun m => ?_, rfl⟩
  rw [State.core_setCore]
  split
  · subst_vars; exact h
  · rfl

theorem Touched.still {s t : State} (h : Touched s t) : Still s t := ⟨fun n => by rw [h.core n], by rw [h.rest]⟩

theorem loseLine_clock (s : State) (core line : Nat) : (loseLine s core line).clock = s.clock := by
  unfold loseLine
  dsimp only
  split
  · rfl
  · split
    · rfl
    · split <;> rfl

theorem clearLine_still (s : State) (core : Nat) (l : LocalLine) : Still s (clearLine s core l) := (clearLine_quiet s core l).still rfl

theorem logData_still (s : State) (core ctx blk tval token : Nat) : Still s (logData s core ctx blk tval token) :=
  (logError_onlyGlobal _ _ _ _ _ _ _ _).still

theorem writeLine_still (s : State) (core : Nat) (l : LocalLine) : Still s (writeLine s core l) := by
  have ht := (touch_touched s core false l.ctx (l.addr * 64)).still
  unfold writeLine
  dsimp only
  split
  · exact clearLine_still _ _ _
  · split
    · refine ht.trans (Still.trans ?_ (clearLine_still _ _ _))
      split
      · exact logData_still _ _ _ _ _ _
      · exact .refl _
    · refine ht.trans ?_
      split
      · refine Still.trans ?_ (clearLine_still _ _ _)
        split
        · exact (loseLine_quiet _ _ _).still (loseLine_clock _ _ _)
        · exact logData_still _ _ _ _ _ _
      · refine Still.trans (((noteRead_onlyCe _ _ _ _ _).quiet.still (noteRead_onlyCe _ _ _ _ _).slack.clock).trans (clearLine_still _ _ _))
          (Still.foldl _ (fun _ _ => ?_) _ _)
        exact (targetWrite_onlyGlobal _ _ _).still.trans (wrote_onlyTracks _ _ _ _ _).onlyGlobal.still

theorem evictLine_still (s : State) (core i : Nat) : Still s (evictLine s core i) := by
  unfold evictLine
  split
  · exact .refl s
  · exact (writeLine_still _ _ _).trans (still_setCore rfl)

theorem bringLines_still (s : State) (core slot ctx : Nat) (as : List Nat) : Still s (bringLines s core slot ctx as) := by
  unfold bringLines
  refine Still.foldl _ (fun u a => ?_) as s
  split
  · exact .refl u
  · dsimp only
    split
    · exact still_setCore rfl
    · exact (evictLine_still _ _ _).trans (still_setCore rfl)

/-! ### Loads of the lane set (R148, R151) -/

section
variable {s : State} {h : Here} {sp : Space} {ks : List Nat} {ea : Nat → Word} {z : Nat} {w rd ex : Bool} {spot : Nat → Spot}
  (hr : ∀ k ∈ ks, resolve s h k sp (ea k) z w rd ex = .ok (spot k))
include hr

theorem laneSpots_ok : laneSpots s h sp ks ea z w rd ex = ks.map (fun k => (k, .ok (spot k))) :=
  List.map_congr_left fun k hk => by rw [hr k hk]

theorem goodSpots_ok : goodSpots (laneSpots s h sp ks ea z w rd ex) = ks.map (fun k => (k, spot k)) := by
  rw [laneSpots_ok hr, goodSpots, List.filterMap_map]
  exact congrFun List.filterMap_eq_map ks

theorem badSpots_ok (f : Nat → Word) : badSpots (laneSpots s h sp ks ea z w rd ex) f = [] := by
  rw [laneSpots_ok hr, badSpots, List.filterMap_map]
  exact List.filterMap_eq_nil_iff.2 fun _ _ => rfl

end

theorem touchBad_nil (s : State) (h : Here) (sp : Space) : touchBad s h sp [] = s := by
  unfold touchBad
  split <;> rfl

/-- What a load sees of its places, once the lines that it needs are there. -/
def seenSpots (s : State) (h : Here) (o : OLd) (z : Nat) (ps : List (Nat × Spot)) : State :=
  ps.foldl (fun s x => (touchSpot s z true x.2).sawSpot ⟨h.agent, !o.acq⟩ x.2 z false (acqScope o.acq o.scope)) (noteBoards s (ps.map (·.2)))

theorem seenSpots_looked (s : State) (h : Here) (o : OLd) (z : Nat) (ps : List (Nat × Spot)) : Looked s (seenSpots s h o z ps) :=
  (noteBoards_looked _ _).trans (Looked.foldl _ (fun _ (x : Nat × Spot) =>
    (touchSpot_looked _ _ _ x.2).trans (sawSpot_onlyTracks _ _ _ _ _ _).slack.looked) _ _)

/-- What a load owes lane `k` of a place, in state `m`. -/
def loadOwed (o : OLd) (z : Nat) (h : Here) (m : State) (k : Nat) (p : Spot) : List Owed :=
  owedV h.cord.vbud (h.cord.lane k) k o.d.toNat (loadWords o.mode z o.el.toNat (spotRead (m.seenBy ⟨h.agent, !o.acq⟩) z p) (h.v k o.d))

/-- Each doer's place serves itself, or every active lane. -/
theorem flatMap_givers (h : Here) (g : Guard) (u : Bool) (spot : Nat → Spot) (f : Nat → Spot → List Owed) :
    ((h.doers g u).map (fun k => (k, spot k))).flatMap (fun x => (if u then h.active g else [x.1]).flatMap (fun k => f k x.2)) =
      (h.active g).flatMap (fun k => f k (spot (h.giver g u k))) := by
  unfold Here.doers Here.giver
  cases u with
  | false =>
    simp only [Bool.false_eq_true, if_false, List.flatMap_map]
    exact List.flatMap_congr fun k _ => by rw [List.flatMap_singleton]
  | true =>
    simp only [if_true]
    cases h.active g with
    | nil => rfl
    | cons a r => simp only [List.take_succ_cons, List.take_zero, List.map_cons, List.map_nil, List.headD_cons, List.flatMap_singleton]

section
variable {i : Instr} {o : OLd} {z : Nat} {s : State} {h : Here} (hx : Executes i s h) (e : exec i s = laneLoad i o z s) {spot : Nat → Spot}
include hx e

theorem load_completes (hd : ¬(o.d = 0 ∧ z ≤ 4))
    (hr : ∀ k ∈ h.doers o.gd o.u, resolve (opened s h) h k o.space (laneEa h o.a o.imm k) z false true o.acq = .ok (spot k))
    (hh : spotsHeld (opened s h) h false z ((h.doers o.gd o.u).map (fun k => (k, spot k))) = false) :
    let m := bringSpots (opened s h) h z ((h.doers o.gd o.u).map (fun k => (k, spot k)))
    ∃ t c, exec i s = .next t ∧ t.cord? h.ref = some c ∧ Reads h.ref m t ∧ (∀ n, (t.core n).lines = (m.core n).lines) ∧
      Counted h i s.clock [{ left := look h.cord o.la, uses := uses i
                             owed := (h.active o.gd).flatMap (fun k => loadOwed o z h m k (spot (h.giver o.gd o.u k))) }] h.cord c ∧
      (∀ k ∈ h.set, c.lane k = h.next i (h.cord.lane k)) ∧ ∀ k, k ∉ h.set → Resting (h.cord.lane k) (c.lane k) := by
  intro m
  have hdid : exec i s = finish h i { s := seenSpots m h o z ((h.doers o.gd o.u).map (fun k => (k, spot k)))
                                      fl := [{ left := look h.cord o.la, uses := uses i
                                               owed := (h.active o.gd).flatMap (fun k => loadOwed o z h m k (spot (h.giver o.gd o.u k))) }] } := by
    have hd' : (decide (o.d = 0) && decide (z ≤ 4)) = false := by simpa using hd
    rw [e, laneLoad, issue_eq hx]
    refine congrArg (actOut i h (opened s h)) (a₂ := .did _) ?_
    dsimp only
    rw [if_neg (by rw [hd']; exact Bool.false_ne_true)]
    rw [show (if o.u = true then List.take 1 (h.active o.gd) else h.active o.gd) = h.doers o.gd o.u from rfl, goodSpots_ok hr,
      badSpots_ok hr, hh, if_neg Bool.false_ne_true, touchBad_nil, ← flatMap_givers h o.gd o.u spot (loadOwed o z h m), List.flatMap_nil, ite_self]
    rfl
  have hl := seenSpots_looked m h o z ((h.doers o.gd o.u).map (fun k => (k, spot k)))
  have hm : Still (opened s h) m := bringLines_still _ _ _ _ _
  obtain ⟨t, c, h1, h2, h3, h4, h5, h6⟩ := finish_on hx.toIssues (i := i) (d := { s := _, fl := [_] })
    ((hl.cord? _).trans ((hm.cord? _).trans hx.toIssues.opened_cord?)) rfl rfl rfl rfl (fun _ => rfl)
  refine ⟨t, c, hdid.trans h1, h2, (hl.reads _).apart h3, fun n => (h3.lines n).trans (hl.lines_eq n), ?_, h5, h6⟩
  have hclk := hl.clock.trans (hm.clock.trans (opened_clock s h))
  rw [← hclk]
  exact h4

end

end Sys2Proof.Machine

namespace Sys2Proof.Machine

/-! ### Loads to v0 (R151, R158) -/

theorem PathIs.prefetched {n k : Nat} {s t : State} {l : List LocalLine} (h : PathIs n ((s.core n).lines ++ l) s t) (hk : l.length ≤ k)
    (he : ∀ x ∈ l, x.bytes = .empty) : Prefetched k s t where
  core m := by rw [h.core m]
  lines m := by
    by_cases hm : m = n
    · subst hm
      exact ⟨l, h.lines, hk, he⟩
    · exact ⟨[], by rw [h.others m hm, List.append_nil], Nat.zero_le _, fun _ hx => absurd hx List.not_mem_nil⟩
  die d := by rw [h.rest]; rfl
  rest := by rw [h.rest]
  nil e := by rw [h.rest]; exact ⟨e, rfl⟩

theorem Prefetched.mono {j k : Nat} {s t : State} (h : Prefetched j s t) (hjk : j ≤ k) : Prefetched k s t :=
  { h with lines := fun n => (h.lines n).imp fun _ hl => ⟨hl.1, hl.2.1.trans hjk, hl.2.2⟩ }

theorem Prefetched.length_le {k : Nat} {s t : State} (h : Prefetched k s t) (n : Nat) :
    (t.core n).lines.length ≤ (s.core n).lines.length + k := by
  obtain ⟨l, hl, hk, -⟩ := h.lines n
  rw [hl, List.length_append]
  omega

theorem linesOf_line (a : Nat) : linesOf (64 * a) 64 = [a] := by
  have h1 : 64 * a / 64 = a := Nat.mul_div_cancel_left a (by decide)
  have h2 : (64 * a + 64 + 63) / 64 - 64 * a / 64 = 1 := by omega
  rw [linesOf, h2, h1]
  rfl

theorem countSuppressed_prefetched (s : State) (h : Here) (g : Bool) (va z : Nat) : Prefetched 0 s (countSuppressed s h g va z) := by
  have ht := (touch_touched s h.ref.core g h.block.ctx va).looked
  unfold countSuppressed
  extract_lets ctx found t
  split
  · exact (ht.trans (noteTarget_onlyCounts t _ _).touched.looked).toPrefetched
  · split
    · exact ht.toPrefetched
    · clear_value found
      cases found with
      | some a =>
        refine ht.toPrefetched.trans (k := 0) ⟨fun _ => rfl, fun _ => ⟨[], (List.append_nil _).symm, Nat.le_refl _, ?_⟩, fun _ => rfl, rfl,
          fun e => ⟨e, rfl⟩⟩
        exact fun _ hx => absurd hx List.not_mem_nil
      | none => exact ht.toPrefetched

/-- A prefetch brings one line in at most. -/
theorem prefetchLine_prefetched (s : State) (h : Here) (a : Nat) (hroom : (s.core h.ref.core).lines.length < Config.localLines) :
    Prefetched 1 s (prefetchLine h s (64 * a)) := by
  unfold prefetchLine
  split
  · next x _ =>
    have hl := (touch_touched s h.ref.core false h.block.ctx (64 * a)).looked.trans (noteTarget_onlyCounts _ 64 x).touched.looked
    generalize noteTarget (touch s h.ref.core false h.block.ctx (64 * a)) 64 x = t at hl
    rw [linesOf_line]
    have hmiss : (missing (t.core h.ref.core).lines h.block.ctx [a]).length ≤ 1 := List.length_filter_le _ _
    have hp := bringLines_room t h.ref.core h.ref.slot h.block.ctx [a] (List.nodup_singleton a) (by rw [hl.lines_eq] at hmiss ⊢; omega)
    refine (hl.toPrefetched.trans (hp.prefetched (k := 1) (by rw [List.length_map]; exact hmiss) ?_))
    intro x hx
    obtain ⟨b, -, rfl⟩ := List.mem_map.1 hx
    rfl
  · exact (countSuppressed_prefetched s h false (64 * a) 64).mono (Nat.zero_le 1)

theorem prefetchLines_prefetched (h : Here) (f : Nat → Nat) (ks : List Nat) (s : State)
    (hroom : (s.core h.ref.core).lines.length + ks.length ≤ Config.localLines) :
    Prefetched ks.length s (ks.foldl (fun s k => prefetchLine h s (64 * f k)) s) := by
  induction ks generalizing s with
  | nil => exact (Looked.refl s).toPrefetched
  | cons k r ih =>
    rw [List.length_cons] at hroom
    have h1 := prefetchLine_prefetched s h (f k) (by omega)
    have h2 := ih (prefetchLine h s (64 * f k)) (by have := h1.length_le h.ref.core; omega)
    rw [List.foldl_cons, List.length_cons, Nat.add_comm]
    exact h1.trans h2

section
variable {s : State} {h : Here} {o : OLd} {z k : Nat} (ha : (laneEa h o.a o.imm k).toNat % z = 0)
include ha

theorem voidLoad_loc (hs : o.space = .loc) : voidLoad s h o z k = none := by
  unfold voidLoad
  dsimp only
  rw [if_neg (not_not.2 ha), hs]
  rfl

theorem voidLoad_other (hs : o.space ≠ .loc) (hr : resolve s h k o.space (laneEa h o.a o.imm k) z false false true ≠ .error cSpRange) :
    voidLoad s h o z k = none := by
  have hb : (o.space == .loc) = false := beq_eq_false_iff_ne.2 hs
  unfold voidLoad
  dsimp only
  rw [if_neg (not_not.2 ha), hb, if_neg Bool.false_ne_true]
  split
  · next e he => exact if_neg fun hc => hr (by rw [he, hc])
  · rfl

end

/-- The lanes whose prefetch lies in their local areas. -/
def prefetching (s : State) (h : Here) (o : OLd) (z : Nat) : List Nat :=
  (h.doers o.gd o.u).filter (fun k => (voidLoad s h o z k).isNone &&
    (h.block.task.isNone && decide ((laneEa h o.a o.imm k).toNat + z ≤ h.block.lsize)))

theorem exec_voidLoad {i : Instr} {o : OLd} {z : Nat} {s : State} {h : Here} (hx : Executes i s h) (e : exec i s = laneLoad i o z s)
    (hd : o.d = 0) (hz : z ≤ 4) (hv : ∀ k ∈ h.doers o.gd o.u, voidLoad (opened s h) h o z k = none) :
    exec i s = finish h i { s := if o.space == .loc then
      (prefetching (opened s h) h o z).foldl (fun s k =>
        prefetchLine h s (64 * (((h.cord.lane k).locbase + (laneEa h o.a o.imm k).toNat) / 64))) (opened s h) else opened s h } := by
  have hbad (f : Nat → Byte → Nat × Byte × Word) : (h.doers o.gd o.u).filterMap (fun k => (voidLoad (opened s h) h o z k).map (f k)) = [] :=
    List.filterMap_eq_nil_iff.2 fun k hk => by rw [hv k hk]; rfl
  rw [e, laneLoad, issue_eq hx]
  refine congrArg (actOut i h (opened s h)) (a₂ := .did _) ?_
  dsimp only
  rw [if_pos (by simp [hd, hz]), show (if o.u = true then List.take 1 (h.active o.gd) else h.active o.gd) = h.doers o.gd o.u from rfl,
    hbad (fun k e => (k, e, laneEa h o.a o.imm k)), List.flatMap_nil, ite_self]
  simp only [Nat.mul_comm _ 64]
  rfl

/-- What an issue changes beside its cord comes before the traces of its reads. -/
theorem Apart.reads {r : CordRef} {s t u : State} (h : Apart r s t) (h' : Reads r t u) : Reads r s u where
  cords q hq := (h'.cords q hq).trans (h.cords q hq)
  spad n := (h'.spad n).trans (h.spad n)
  acc n := (h'.acc n).trans (h.acc n)
  code n := (h'.code n).trans (h.code n)
  map n := (h'.map n).trans (h.map n)
  res n := (h'.res n).trans (h.res n)
  ops n := (h'.ops n).trans (h.ops n)
  gens n := (h'.gens n).trans (h.gens n)
  chans n := (h'.chans n).trans (h.chans n)
  tiles n := (h'.tiles n).trans (h.tiles n)
  lines n := by rw [← h.lines n]; exact h'.lines n
  hbm := h'.hbm.trans h.hbm
  host := h'.host.trans h.host
  peers := h'.peers.trans h.peers
  clusters := h'.clusters.trans h.clusters
  dies d := by
    have hd : t.die d = s.die d := by simp only [State.die, h.dies]
    rw [← hd]
    exact h'.dies d
  ctxs := h'.ctxs.trans h.ctxs
  saved := h'.saved.trans h.saved
  mgmt := h'.mgmt.trans h.mgmt
  tracks e := by
    obtain ⟨e', h1⟩ := h.tracks e
    obtain ⟨e'', h2⟩ := h'.tracks e'
    exact ⟨e'', h2.trans h1⟩

/-- Whatever the management processor holds, an issue changes nothing but its cord as it opens. -/
theorem opened_apart_mgmt (s : State) (h : Here) (x : Mgmt) : Apart h.ref { s with mgmt := x } { opened s h with mgmt := x } := by
  have e : ({ opened s h with mgmt := x } : State) = ({ s with mgmt := x } : State).setCord h.ref h.cord := by
    unfold opened State.setCord
    rw [show ({ s with mgmt := x } : State).block? h.ref.core h.ref.slot = s.block? h.ref.core h.ref.slot from rfl]
    split <;> rfl
  rw [e]
  exact apart_setCord _ _ _

section
variable {i : Instr} {o : OLd} {z : Nat} {s : State} {h : Here} (hx : Executes i s h) (e : exec i s = laneLoad i o z s)
  (hd : o.d = 0) (hz : z ≤ 4) (ha : ∀ k ∈ h.doers o.gd o.u, (laneEa h o.a o.imm k).toNat % z = 0)
include hx e hd hz ha

theorem voidLoad_completes (hs : o.space ≠ .loc)
    (hr : ∀ k ∈ h.doers o.gd o.u, resolve (opened s h) h k o.space (laneEa h o.a o.imm k) z false false true ≠ .error cSpRange) :
    Completes i s h h.cord (fun k => h.next i (h.cord.lane k)) [] := by
  refine empty_completes hx.toIssues ((exec_voidLoad hx e hd hz fun k hk => voidLoad_other (ha k hk) hs (hr k hk)).trans ?_)
  rw [beq_eq_false_iff_ne.2 hs]
  rfl

theorem voidLoad_prefetches (hs : o.space = .loc) (hroom : (s.core h.ref.core).lines.length + (h.doers o.gd o.u).length ≤ Config.localLines) :
    CompletesWith i s h h.cord (fun k => h.next i (h.cord.lane k)) [] (fun t => Reads h.ref { s with mgmt := t.mgmt } t) := by
  have hlen : (prefetching (opened s h) h o z).length ≤ (h.doers o.gd o.u).length := List.length_filter_le _ _
  have hlines : ((opened s h).core h.ref.core).lines = (s.core h.ref.core).lines := (opened_apart s h).lines _
  have hp := prefetchLines_prefetched h (fun k => ((h.cord.lane k).locbase + (laneEa h o.a o.imm k).toNat) / 64)
    (prefetching (opened s h) h o z) (opened s h) (by rw [hlines]; omega)
  have he := exec_voidLoad hx e hd hz fun k hk => voidLoad_loc (ha k hk) hs
  rw [if_pos (by rw [hs]; rfl)] at he
  generalize (prefetching (opened s h) h o z).foldl _ (opened s h) = u at hp he
  obtain ⟨t, c, h1, h2, h3, h4, h5, h6⟩ := finish_on hx.toIssues (i := i) (d := { s := u })
    ((hp.cord? _).trans hx.toIssues.opened_cord?) rfl rfl rfl rfl (fun _ => rfl)
  refine ⟨t, c, he.trans h1, h2, ?_, h5, h6, ?_⟩
  · rw [← hp.clock.trans (opened_clock s h)]
    exact h4
  · change Reads h.ref { s with mgmt := t.mgmt } t
    rw [h3.mgmt]
    exact ((opened_apart_mgmt s h u.mgmt).reads (hp.reads h.ref)).apart h3

end

/-! ### Uniform loads (R154) -/

theorem resolve_skw_spot {s : State} {h : Here} {ea : Word} {z : Nat} {w rd ex : Bool} {p : Spot}
    (hr : resolve s h 0 .skw ea z w rd ex = .ok p) : ∃ a, p = .sp h.ref.core a := by
  unfold resolve at hr
  dsimp only at hr
  split at hr
  · cases hr
  · split at hr
    · cases hr
    · split at hr
      · cases hr
      · split at hr
        · cases hr
        · cases hr
          exact ⟨_, rfl⟩

/-- The cord with a uniform load's words written. -/
def sldCord (s : State) (h : Here) (o : OSld) (z : Nat) (p : Spot) : Cord :=
  setWords h o.d (loadWords .zx z 0 (spotRead ((opened s h).seenBy ⟨h.agent, !o.acq⟩) z p) 0)

theorem Cord.setS_lanes (c : Cord) (b i : Nat) (x : Word) : (c.setS b i x).lanes = c.lanes := by
  unfold Cord.setS Cord.sput
  split <;> rfl

theorem setWords_lanes (h : Here) (d : Reg) (ws : List Word) : (setWords h d ws).lanes = h.cord.lanes := by
  unfold setWords
  generalize h.cord = c
  induction ws.zipIdx generalizing c with
  | nil => rfl
  | cons x r ih => exact (ih _).trans (Cord.setS_lanes _ _ _ _)

theorem uniLoad_completes {i : Instr} {o : OSld} {z : Nat} {s : State} {h : Here} {p : Spot} (hx : Executes i s h)
    (e : exec i s = uniLoad i o z s)
    (hr : resolve (opened s h) h 0 (if o.skw then .skw else .lin) (h.s o.a + o.imm.signExtend 32) z false true o.acq = .ok p)
    (hh : spotHeld (opened s h) false z p = false) :
    Completes i s h (sldCord s h o z p) (fun k => h.next i (h.cord.lane k)) [] := by
  obtain ⟨a, rfl⟩ : ∃ a, p = .sp h.ref.core a := by
    cases hs : o.skw with
    | false => rw [hs] at hr; exact ⟨_, resolve_lin_spot hr⟩
    | true => rw [hs] at hr; exact resolve_skw_spot hr
  have hn : Slack (opened s h) ((noteSpot (noteBoard (opened s h) (.sp h.ref.core a)) z (.sp h.ref.core a)).sawSpot ⟨h.agent, !o.acq⟩
      (.sp h.ref.core a) z false (acqScope o.acq o.scope)) :=
    ((noteBoard_onlyCe _ _).trans (noteRead_onlyCe _ _ _ _ _)).slack.trans (sawSpot_onlyTracks _ _ _ _ _ _).slack
  refine on_completesAs hx.toIssues (m := s) (d := { s := State.setCord _ h.ref (sldCord s h o z (.sp h.ref.core a)) }) ?_
    (State.cord?_setCord_same ((hn.cord? _).trans hx.toIssues.opened_cord?) _)
    ((opened_apart s h).trans ((hn.apart _).trans (apart_setCord _ _ _)))
    ((State.clock_setCord _ _ _).trans (hn.clock.trans (opened_clock s h))) rfl rfl rfl rfl
    (fun k => Cord.lane_eq (setWords_lanes _ _ _) k)
  rw [e, uniLoad, issue_eq hx, uniSpot]
  simp only [Bool.not_false, hr, hh, Bool.false_eq_true, if_false]
  rfl

end Sys2Proof.Machine

namespace Sys2Proof.Machine

/-- Settles O24: beside its results a load leaves notes of errors and translations alone, and while the path has room its lines come in
beside the others. -/
theorem loads : Obligations.Loads := by
  unfold Obligations.Loads
  refine ⟨fun z mk hmk o s h hx => ?_, fun s n slot ctx as hn hroom => ?_, fun o s h p => ⟨fun hx hp => ?_, fun hx hp => ?_⟩⟩
  · have e : exec (mk o) s = laneLoad (mk o) o z s := by
      simp only [List.mem_cons, Prod.mk.injEq, List.mem_nil_iff, or_false] at hmk
      rcases hmk with ⟨rfl, rfl⟩ | ⟨rfl, rfl⟩ | ⟨rfl, rfl⟩ | ⟨rfl, rfl⟩ | ⟨rfl, rfl⟩ <;> rfl
    exact ⟨fun hd spot hr hh => load_completes hx e hd hr hh, fun hd hz ha => ⟨fun hs hr => voidLoad_completes hx e hd hz ha hs hr,
      fun hs hroom => voidLoad_prefetches hx e hd hz ha hs hroom⟩⟩
  · have hp := bringLines_room s n slot ctx as hn hroom
    exact ⟨hp.rest, hp.core, hp.lines, hp.others⟩
  · have h4 := uniLoad_completes hx rfl hp.1 hp.2
    rw [sldCord, show (4 : Nat) = 4 * 1 from rfl, loadWords_words _ (by decide)] at h4
    exact h4
  · have h8 := uniLoad_completes hx rfl hp.1 hp.2
    rw [sldCord, show (8 : Nat) = 4 * 2 from rfl, loadWords_words _ (by decide)] at h8
    exact h8

end Sys2Proof.Machine

namespace Sys2Proof.Machine

/-! ### An issue that parks lanes beside others that its operation has changed (R84, R149) -/

section
variable {h : Here} {i : Instr} {d : Done} {x : Cord} {ks : List Nat} {cause : Byte} {tval : Word}

theorem Done.movers_park (hp : d.park = ks.map (fun k => (k, cause, tval))) (hs : d.stay = []) :
    d.movers h = h.set.filter (fun k => !ks.contains k) := by
  refine List.filter_congr fun k _ => ?_
  rw [hs, hp, List.any_map, show (List.contains [] k) = false from rfl, Bool.not_false, Bool.and_true, List.contains_eq_any_beq]
  exact congrArg (fun b => !b) (congrArg (ks.any ·) (funext fun j => Bool.beq_comm))

/-- The cord after an issue that parks the lanes `ks` for one cause and value: they park, the other lanes of the executing set go on. -/
theorem advance_parks (n : Nat) (hp : d.park = ks.map (fun k => (k, cause, tval))) (hs : d.stay = []) (hw : d.win = []) (hk : ks ≠ [])
    (hn : ks.Nodup) (hset : h.set.Nodup) :
    ∃ (z : Cord) (g : Option (Nat × Nat)), z = { x with lanes := z.lanes, cause := cause, tval := tval, gfault := g } ∧
      advance h (sizeOf' i) n d x = z.count (d.follows h z (h.after i)) h.set n d.fl [] ∧
      (∀ k ∈ ks, z.lanes.get? k = some (z.lane k)) ∧
      ∀ k, z.lane k = if k ∈ ks then (x.lane k).parked
        else if k ∈ h.set then { x.lane k with pc := d.target (h.after i) k } else x.lane k := by
  obtain ⟨y, hy⟩ : ∃ y, y = (x.onLanes (d.movers h) (fun k l => { l with pc := d.target (h.after i) k })).onLanes ks (fun _ l => l.parked) :=
    ⟨_, rfl⟩
  obtain ⟨g, hg⟩ : ∃ g, d.parked (x.onLanes (d.movers h) (fun k l => { l with pc := d.target (h.after i) k })) =
      { y with cause := cause, tval := tval, gfault := g } := by
    have hne : d.park.isEmpty = false := by rw [hp, List.isEmpty_map]; exact List.isEmpty_eq_false_iff.2 hk
    refine ⟨d.gf.bind (fun g => (leastOf (d.park.map (·.1))).map (fun k => (g, k))), ?_⟩
    rw [Done.parked, hne, hp, park_eq _ hk, hy]
    rfl
  have hrest : y = { x with lanes := y.lanes } := by
    have h1 : ∀ c : Cord, ∀ l, c = { x with lanes := l } → c.onLanes ks (fun _ l => l.parked) =
        { x with lanes := (c.onLanes ks (fun _ l => l.parked)).lanes } := fun c l hc => by
      rw [Cord.onLanes_rest c ks]
      generalize (c.onLanes ks (fun _ l => l.parked)).lanes = m
      rw [hc]
    rw [hy]
    exact h1 _ _ (Cord.onLanes_rest _ _ _)
  refine ⟨{ y with cause := cause, tval := tval, gfault := g }, g, ?_, ?_, fun k hk => ?_, fun k => ?_⟩
  · generalize y = y' at hrest
    rw [hrest]
  · unfold advance
    simp only [hw, List.filter_nil, List.foldl_nil]
    rw [← hg]
    rfl
  · obtain ⟨l, hl⟩ := Cord.get?_onLanes (x.onLanes (d.movers h) (fun k l => { l with pc := d.target (h.after i) k })) hk (fun _ l => l.parked)
    rw [← hy] at hl
    rw [Cord.lane, Tab.get]
    rw [show ({ y with cause := cause, tval := tval, gfault := g } : Cord).lanes = y.lanes from rfl, hl]
    rfl
  · change y.lane k = _
    have hmov := Done.movers_park (h := h) hp hs
    rw [hy, Cord.lane_onLanes _ hn, Cord.lane_onLanes _ (hmov ▸ hset.filter _), hmov]
    by_cases h1 : k ∈ ks <;> simp [h1, List.mem_filter]

end

/-- An issue that parks lanes of the executing set for one cause and value, and whose operation has changed only lanes that it sends
elsewhere. -/
theorem parkBeside_faults {i : Instr} {s : State} {h : Here} (hx : Issues i s h) {d : Done} {x : Cord} {ks : List Nat} {cause : Byte}
    {tval : Word} (hcord : d.s.cord? h.ref = some x) (hrest : x = { h.cord with lanes := x.lanes }) (hap : Apart h.ref s d.s)
    (hclk : d.s.clock = s.clock) (hp : d.park = ks.map (fun k => (k, cause, tval))) (hs : d.stay = []) (hw : d.win = []) (hf : d.fl = [])
    (hgo : d.GoesOk h i) (hgk : ∀ y ∈ d.go, y.1 ∉ ks) (hsame : ∀ k, (∀ y ∈ d.go, y.1 ≠ k) → x.lane k = h.cord.lane k)
    (hrun : ∀ k ∈ h.set, (x.lane k).st = .run) (hk : ks ≠ []) (hn : ks.Nodup) (hm : ∀ k ∈ ks, k ∈ h.set) (hc : cause ≠ cDataErr)
    (e : exec i s = finish h i d) :
    Faults i s h ks (fun k => { x.lane k with pc := d.target (h.after i) k }) cause tval := by
  obtain ⟨z, g, hz, hadv, hget, hlane⟩ := advance_parks (i := i) (x := x) d.s.clock hp hs hw hk hn hx.nodup
  have hgoMem : ∀ y ∈ d.go, y.1 ∈ h.set := hgo.elim (fun h0 y hy => by rw [h0] at hy; exact nomatch hy) (fun h0 => h0.2.2)
  have hpark (k : Nat) (h1 : k ∈ ks) : z.lane k = (h.cord.lane k).parked := by
    rw [hlane, if_pos h1, hsame k fun y hy e => hgk y hy (e ▸ h1)]
  have hgoes (k : Nat) (h1 : k ∈ h.set) (h2 : k ∉ ks) : z.lane k = { x.lane k with pc := d.target (h.after i) k } := by
    rw [hlane, if_neg h2, if_pos h1]
  have huns : (advance h (sizeOf' i) d.s.clock d x).unserved = true := by
    obtain ⟨k, hkk⟩ := List.exists_mem_of_ne_nil ks hk
    rw [hadv]
    exact unserved_of (Cord.lt_of_mem_execSet (hx.set_eq ▸ hm k hkk)) (hget k hkk) (by rw [hpark k hkk]; rfl) (by rw [hpark k hkk]; rfl)
  have hnd : d.park.filter (fun x => x.2.1 == cDataErr) = [] := by
    rw [hp, List.filter_eq_nil_iff]
    intro y hy
    obtain ⟨k, -, rfl⟩ := List.mem_map.1 hy
    simpa using hc
  have hfin : finish h i d = .next { finished h i d x with stalled := [] } := by
    unfold finish
    rw [hcord]
    simp only [hnd, finished, fenced, List.foldl_nil]
  have h2 := finished_cord? (h := h) (i := i) hcord
  have h3 := finished_apart h i d x
  rw [rejoin_unserved huns, hadv] at h2
  have hfol : d.follows h z (h.after i) = h.follow i (z.count (d.follows h z (h.after i)) h.set d.s.clock d.fl []) := by
    refine follows_eq (hgo.imp id fun h0 => ⟨h0.1, fun y hy => ?_⟩) (fun k h1 h3 => ?_) (fun k => by rw [Cord.lane_count])
      (fun _ k h1 h3 h4 => ?_)
    · rw [Cord.lane_count, hgoes y.1 (hgoMem y hy) (hgk y hy)]
      exact ⟨hgoMem y hy, hrun _ (hgoMem y hy), Done.target_of_mem h0.2.1 hy _⟩
    · rw [Cord.lane_count] at h3 ⊢
      by_cases h5 : k ∈ ks
      · rw [hpark k h5] at h3; cases h3
      · rw [hgoes k h1 h5]
    · rw [Cord.lane_count] at h3 ⊢
      by_cases h5 : k ∈ ks
      · rw [hpark k h5]; rfl
      · rw [hgoes k h1 h5, hsame k h4]
  generalize finished h i d x = t at hfin h2 h3
  refine ⟨{ t with stalled := [] }, _, e.trans hfin, h2, (hap.trans h3).trans (apart_stalled _ _ _), ?_, fun k hk' => ?_,
    fun k hk' hk'' => ?_, fun k hk' => ?_⟩
  · unfold Counted
    rw [← hfol, hclk, hf]
    generalize d.follows h z (h.after i) = w
    generalize z = z' at hz
    rw [hz]
    generalize x = x' at hrest
    rw [hrest]
    rfl
  · rw [Cord.lane_count, hpark k hk']; rfl
  · rw [Cord.lane_count, hgoes k hk' hk'']
  · rw [Cord.lane_count, hlane, if_neg (fun hh => hk' (hm k hh)), if_neg hk', hsame k fun y hy e => hk' (e ▸ hgoMem y hy)]

end Sys2Proof.Machine

namespace Sys2Proof.Machine

/-! ### Slides and returns of several lanes (R142, R144) -/

/-- A cord differs from another only in its lanes. -/
def Cord.SameBut (c d : Cord) : Prop := d = { c with lanes := d.lanes }

theorem Cord.SameBut.refl (c : Cord) : c.SameBut c := rfl

theorem Cord.SameBut.setLane {c d : Cord} (h : c.SameBut d) (k : Nat) (l : Lane) : c.SameBut (d.setLane k l) := by
  unfold SameBut at h ⊢
  generalize hd : (d.setLane k l).lanes = m
  rw [h] at hd ⊢
  simp only [Cord.setLane] at hd ⊢
  rw [hd]

/-- Everything but the cord that executes, and its clock, is as it was. -/
structure Beside (r : CordRef) (s t : State) : Prop where
  apart : Apart r s t
  clock : t.clock = s.clock

theorem Beside.refl (r : CordRef) (s : State) : Beside r s s := ⟨.refl r s, rfl⟩

theorem Beside.trans {r : CordRef} {s t u : State} (h : Beside r s t) (h' : Beside r t u) : Beside r s u :=
  ⟨h.apart.trans h'.apart, h'.clock.trans h.clock⟩

theorem beside_setCord (s : State) (r : CordRef) (c : Cord) : Beside r s (s.setCord r c) := ⟨apart_setCord _ _ _, State.clock_setCord _ _ _⟩

theorem beside_opened (s : State) (h : Here) : Beside h.ref s (opened s h) := beside_setCord _ _ _

section
variable {h : Here} {f : State → Nat → Except SpillFault State}

/-- Every lane slides or returns, and each changes itself alone. -/
theorem eachLane_ok {F : Nat → Lane → Lane} {c₀ : Cord} (ks : List Nat) (hn : ks.Nodup)
    (hf : ∀ s c, ∀ k ∈ ks, s.cord? h.ref = some c → c₀.SameBut c → c.lane k = c₀.lane k →
      ∃ t, f s k = .ok t ∧ t.cord? h.ref = some (c.setLane k (F k (c.lane k))) ∧ Beside h.ref s t)
    (s : State) (c : Cord) (hc : s.cord? h.ref = some c) (hs : c₀.SameBut c) (hl : ∀ k ∈ ks, c.lane k = c₀.lane k) :
    ∃ t, eachLane h f s ks = .ok (t, ks, []) ∧ t.cord? h.ref = some (c.onLanes ks F) ∧ Beside h.ref s t := by
  induction ks generalizing s c with
  | nil => exact ⟨s, rfl, hc, .refl _ s⟩
  | cons k r ih =>
    obtain ⟨hk, hr⟩ := List.nodup_cons.1 hn
    obtain ⟨t, h1, h2, h3⟩ := hf s c k (List.mem_cons_self ..) hc hs (hl k (List.mem_cons_self ..))
    obtain ⟨u, h4, h5, h6⟩ := ih hr (fun s c j hj => hf s c j (List.mem_cons_of_mem _ hj)) t _ h2 (hs.setLane _ _) fun j hj => by
      rw [Cord.lane_setLane_ne _ (ne_of_mem_of_not_mem hj hk)]
      exact hl j (List.mem_cons_of_mem _ hj)
    refine ⟨u, ?_, h5, h3.trans h6⟩
    rw [eachLane, h1]
    simp only [h4]

theorem touchFault_self (s : State) (core : Nat) (u : Bool) (cause : Byte) (v : Option Word) (n : Nat) :
    (touchFault s core ⟨u, cause, v, s⟩).core n = s.core n := by
  rw [show (touchFault s core ⟨u, cause, v, s⟩).core n = (s.setCore core (s.core core)).core n from rfl, State.core_setCore]
  split
  · subst_vars; rfl
  · rfl

/-- A fault that has touched nothing leaves no trace of its own. -/
theorem touchFault_slack (s : State) (core : Nat) (u : Bool) (cause : Byte) (v : Option Word) :
    Slack s (touchFault s core ⟨u, cause, v, s⟩) where
  core n := by rw [touchFault_self]
  rest := by
    unfold touchFault
    dsimp only
    rw [if_pos (show s.dies = (s.setCore core _).dies from rfl)]
    rfl
  nil h := ⟨h, rfl⟩

theorem Slack.beside {s t : State} (h : Slack s t) (r : CordRef) : Beside r s t := ⟨h.apart r, h.clock⟩

theorem spillTval_traces (s : State) (h : Here) (u : Bool) (cause : Byte) (v : Option Word) :
    ∃ x t, spillTval s h ⟨u, cause, v, s⟩ = (x, t) ∧ Beside h.ref s t ∧ t.cord? h.ref = s.cord? h.ref ∧ ∀ y, v = some y → x = y := by
  have ht := touchFault_slack s h.ref.core u cause v
  cases v with
  | some y => exact ⟨y, _, rfl, ht.beside _, ht.cord? _, fun z hz => Option.some.inj hz⟩
  | none => exact ⟨_, _, rfl, (ht.beside h.ref).trans ⟨apart_free _ _, rfl⟩, ht.cord? _, fun _ hz => nomatch hz⟩

/-- Every lane parks, and none has touched anything. -/
theorem eachLane_parks {cause : Byte} {tv : Nat → Option Word} {c : Cord} (ks : List Nat)
    (hf : ∀ s, ∀ k ∈ ks, s.cord? h.ref = some c → f s k = .error ⟨false, cause, tv k, s⟩) (s : State) (hc : s.cord? h.ref = some c) :
    ∃ t bad, eachLane h f s ks = .ok (t, [], bad) ∧ bad.map (·.1) = ks ∧ (∀ y ∈ bad, y.2.1 = cause ∧ ∀ x, tv y.1 = some x → y.2.2 = x) ∧
      t.cord? h.ref = some c ∧ Beside h.ref s t := by
  induction ks generalizing s with
  | nil => exact ⟨s, [], rfl, rfl, fun _ hy => absurd hy List.not_mem_nil, hc, Beside.refl _ s⟩
  | cons k r ih =>
    obtain ⟨x, t, h1, h2, h3, h4⟩ := spillTval_traces s h false cause (tv k)
    obtain ⟨u, bad, h5, h6, h7, h8, h9⟩ := ih (fun s j hj => hf s j (List.mem_cons_of_mem _ hj)) t (h3.trans hc)
    refine ⟨u, (k, cause, x) :: bad, ?_, ?_, fun y hy => ?_, h8, h2.trans h9⟩
    · rw [eachLane, hf s k (List.mem_cons_self ..) hc]
      simp only [Bool.false_eq_true, if_false, h1, h5]
    · rw [List.map_cons, h6]
    · rcases List.mem_cons.1 hy with rfl | hy
      · exact ⟨rfl, h4⟩
      · exact h7 y hy

end

/-- An issue ends as one that parks all its lanes for the value of the first. -/
theorem finish_parks {h : Here} {i : Instr} {d : Done} {ks : List Nat} {cause : Byte} (hk : d.park.map (·.1) = ks)
    (hasc : ks.Pairwise (· < ·)) (hc : ∀ y ∈ d.park, y.2.1 = cause) (hne : cause ≠ cDataErr) (hks : ks ≠ []) :
    ∃ tval, (∃ y ∈ d.park, y.1 = ks.headD 0 ∧ y.2.2 = tval) ∧ finish h i d = finish h i { d with park := ks.map (fun k => (k, cause, tval)) } := by
  obtain ⟨x, r, hx⟩ := List.exists_cons_of_ne_nil (l := d.park) (fun h0 => hks (by rw [← hk, h0]; rfl))
  have hxc : x.2.1 = cause := hc x (hx ▸ List.mem_cons_self ..)
  rw [hx, List.map_cons] at hk
  refine ⟨x.2.2, ⟨x, hx ▸ List.mem_cons_self .., by rw [← hk]; rfl, rfl⟩, ?_⟩
  rw [finish_park_first hx (fun y hy => ?_) (fun y hy => hc y hy ▸ hne), hx, ← hk]
  · simp only [List.map_cons, List.map_map, ← hxc]
    rfl
  · rw [← hk] at hasc
    exact List.rel_of_pairwise_cons hasc (List.mem_map_of_mem hy)

/-- Every lane that would slide or return parks, and nothing has been touched. -/
theorem parks_faults {i : Instr} {s t : State} {h : Here} (hx : Issues i s h) {bad : List (Nat × Byte × Word)} {ks : List Nat} {cause : Byte}
    (hc : t.cord? h.ref = some h.cord) (ht : Beside h.ref (opened s h) t) (hk : bad.map (·.1) = ks) (hks : ks.Sublist h.set) (hne : ks ≠ [])
    (hcause : ∀ y ∈ bad, y.2.1 = cause) (hce : cause ≠ cDataErr) (e : exec i s = finish h i { s := t, park := bad }) :
    ∃ tval, (∃ y ∈ bad, y.1 = ks.headD 0 ∧ y.2.2 = tval) ∧ Faults i s h ks (fun k => h.next i (h.cord.lane k)) cause tval := by
  obtain ⟨tval, hv, hf⟩ := finish_parks (h := h) (i := i) (d := { s := t, park := bad }) hk (hx.ascending.sublist hks) hcause hce hne
  exact ⟨tval, hv, park_faults hx (d := { s := t, park := ks.map (fun k => (k, cause, tval)) }) hc ((beside_opened s h).trans ht).apart
    ((beside_opened s h).trans ht).clock rfl rfl rfl rfl (.inl rfl) (fun _ hy => nomatch hy) hne (hx.nodup.sublist hks)
    (fun _ hk => hks.mem hk) hce (e.trans hf) (fun _ _ _ => rfl)⟩

end Sys2Proof.Machine

namespace Sys2Proof.Machine

/-! ### Calls that spill nothing (R140, R142, R247) -/

theorem Cord.SameBut.vSpills {c d : Cord} (h : c.SameBut d) (l : Lane) : vSpills d l = vSpills c l := by
  rw [show d = { c with lanes := d.lanes } from h]
  rfl

theorem Cord.SameBut.uSpills {c d : Cord} (h : c.SameBut d) (l : Lane) : uSpills d l = uSpills c l := by
  rw [show d = { c with lanes := d.lanes } from h]
  rfl

theorem Cord.SameBut.onLanes (c : Cord) (ks : List Nat) (f : Nat → Lane → Lane) : c.SameBut (c.onLanes ks f) := c.onLanes_rest ks f

theorem Counted.sameBut {h : Here} {i : Instr} {n : Nat} {fl : List InFlight} {x y c : Cord} (hy : x.SameBut y) (hc : Counted h i n fl y c) :
    Counted h i n fl x c := by
  unfold Counted at hc ⊢
  rw [hy] at hc
  exact hc

theorem Completes.sameBut {i : Instr} {s : State} {h : Here} {x y : Cord} {lane : Nat → Lane} {fl : List InFlight} (hy : x.SameBut y)
    (hc : Completes i s h y lane fl) : Completes i s h x lane fl := by
  obtain ⟨t, c, h1, h2, h3, h4, h5⟩ := hc
  exact ⟨t, c, h1, h2, h3, h4.sameBut hy, h5⟩

/-- The lane with the frame of the callee on top (R140). -/
def calledLane (h : Here) (ret : Word) (l : Lane) : Lane := { l with frames := calleeFrame h ret none l :: l.frames }

theorem slideSpills_eq_false {c : Cord} {ks : List Nat} :
    slideSpills c ks = false ↔ ∀ k ∈ ks, vSpills c (c.lane k) = [] ∧ uSpills c (c.lane k) = [] := by
  simp [slideSpills, List.any_eq_false]

theorem slide_free {h : Here} {s : State} {c : Cord} {k : Nat} (ret : Word) (hc : s.cord? h.ref = some c) (hs : h.cord.SameBut c)
    (hd : (c.lane k).calls < Config.depthLimit) (hv : vSpills c (c.lane k) = []) (hu : uSpills c (c.lane k) = []) :
    slide s h.ref k (some ret) none = .ok (s.setCord h.ref (c.setLane k (calledLane h ret (c.lane k)))) := by
  unfold slide
  simp only [hc, hv, hu, foldE]
  rw [if_neg (by simp; omega)]
  rw [show c = { h.cord with lanes := c.lanes } from hs]
  rfl

theorem slide_deep {s : State} {r : CordRef} {c : Cord} {k : Nat} (ret : Word) (hold : Option Nat) (hc : s.cord? r = some c)
    (hd : Config.depthLimit ≤ (c.lane k).calls) : slide s r k (some ret) hold = .error ⟨false, cRegRange, none, s⟩ := by
  unfold slide
  simp only [hc]
  rw [if_pos (by simp [hd])]

theorem eachLane_calls {h : Here} (n : Nat) {ks : List Nat} (hn : ks.Nodup) (ret : Word) {s : State} (hc : s.cord? h.ref = some h.cord)
    (hf : slideSpills h.cord ks = false) (hd : ∀ k ∈ ks, (h.cord.lane k).calls < Config.depthLimit) :
    ∃ t, eachLane (h.ret n) (fun s k => slide s h.ref k (some ret) none) s ks = .ok (t, ks, []) ∧
      t.cord? h.ref = some (h.cord.onLanes ks (fun _ l => calledLane h ret l)) ∧ Beside h.ref s t := by
  refine eachLane_ok (h := h.ret n) (c₀ := h.cord) ks hn (fun s c k hk hc hs hl => ?_) s h.cord hc (.refl _) (fun _ _ => rfl)
  obtain ⟨hv, hu⟩ := slideSpills_eq_false.1 hf k hk
  exact ⟨_, slide_free ret hc hs (by rw [hl]; exact hd k hk) (by rw [hl, hs.vSpills, hv]) (by rw [hl, hs.uSpills, hu]),
    State.cord?_setCord_same hc _, beside_setCord _ _ _⟩

section
variable {h : Here} {s : State} {act : List Nat} (bad : List (Nat × Byte × Word)) (tgt : Nat → Word) {n : Nat}
  (ho : (slideSpills h.cord act && owing h.cord) = false)
include ho

theorem callAct_ok {t : State} {ok : List Nat} {failed : List (Nat × Byte × Word)}
    (he : eachLane (h.ret n) (fun s k => slide s h.ref k (some (BitVec.ofNat 32 (h.addr + n))) none) s act = .ok (t, ok, failed)) :
    callAct (h.ret n) s act bad tgt = .did { s := t, park := bad ++ failed, go := ok.map (fun k => (k, tgt k)) } := by
  rw [callAct, show (h.ret n).cord = h.cord from rfl, ho, if_neg Bool.false_ne_true]
  dsimp only
  rw [show (h.ret n).addr = h.addr + n from rfl, show (h.ret n).ref = h.ref from rfl, he]

theorem callAct_error {e : SpillFault}
    (he : eachLane (h.ret n) (fun s k => slide s h.ref k (some (BitVec.ofNat 32 (h.addr + n))) none) s act = .error e) :
    callAct (h.ret n) s act bad tgt = parkSpill (h.ret n) s e := by
  rw [callAct, show (h.ret n).cord = h.cord from rfl, ho, if_neg Bool.false_ne_true]
  dsimp only
  rw [show (h.ret n).addr = h.addr + n from rfl, show (h.ret n).ref = h.ref from rfl, he]

end

section
variable {i : Instr} {s : State} {h : Here} (hx : Issues i s h) (hs : sends i = true)
include hx hs

/-- An issue that changes the lanes that it sends elsewhere, each by itself, and does nothing else. -/
theorem lanesGo_completes {ks : List Nat} (hk : ks.Sublist h.set) {F : Nat → Lane → Lane} (hF : ∀ k l, (F k l).st = l.st) {t : State}
    (hc : t.cord? h.ref = some (h.cord.onLanes ks F)) (ht : Beside h.ref (opened s h) t) {f : Nat → Word}
    (e : exec i s = finish h i { s := t, go := ks.map (fun k => (k, f k)) }) :
    Completes i s h h.cord (fun k => if k ∈ ks then { F k (h.cord.lane k) with pc := f k } else h.next i (h.cord.lane k)) [] := by
  have hn := hx.nodup.sublist hk
  refine (goes_completes hx hc ((beside_opened s h).trans ht).apart ((beside_opened s h).trans ht).clock rfl rfl rfl
    (Done.goesOk_map hs rfl hn (fun _ h => hk.mem h)) e (fun k _ => ?_) (fun k hj => ?_) (fun k hj => ?_) (fun _ k _ hgo => ?_)).sameBut
    (.onLanes _ _ _)
  · rw [Done.target_eq rfl, Cord.lane_onLanes _ hn]
    split <;> rfl
  · rw [Cord.lane_onLanes _ hn]
    split
    · rw [hF]; exact hx.run hj
    · exact hx.run hj
  · rw [Cord.lane_onLanes_not_mem _ (fun hh => hj (hk.mem hh))]
  · rw [Cord.lane_onLanes_not_mem _ (fun hh => hgo _ (List.mem_map_of_mem hh) rfl)]

/-- An issue that sends one lane elsewhere, which is the only one that its operation has changed. -/
theorem oneGoes {k : Nat} (hk : k ∈ h.set) {t : State} {d : Cord} (ht : t.cord? h.ref = some d) (hrun : (d.lane k).st = .run)
    (hoth : ∀ j, j ≠ k → d.lane j = h.cord.lane j) {a : Word} (e : exec i s = finish h i { s := t, go := [(k, a)] }) :
    ∃ u c, exec i s = .next u ∧ u.cord? h.ref = some c ∧ Apart h.ref t u ∧ Counted h i t.clock [] d c ∧
      c.lane k = { d.lane k with pc := a } := by
  obtain ⟨u, c, h1, h2, h3, h4, h5, -⟩ := finish_goes hx (i := i) (d := { s := t, go := [k].map (fun k => (k, a)) }) ht rfl rfl rfl
    (Done.goesOk_map hs rfl (by simp) (by simpa using hk)) (fun j hj => by
      by_cases hjk : j = k
      · exact hjk ▸ hrun
      · rw [hoth j hjk]; exact hx.run hj) (fun j hj => hoth j (fun e => hj (e ▸ hk)))
    (fun _ j _ hgo => by rw [hoth j (fun e => hgo _ (List.mem_singleton_self _) e.symm)])
  refine ⟨u, c, e.trans h1, h2, h3, h4, ?_⟩
  rw [h5 k hk, Done.target_eq rfl, if_pos (List.mem_singleton_self k)]

theorem call_completes {g : Guard} {tgt : Nat → Word} (hf : slideSpills h.cord (h.active g) = false)
    (hd : ∀ k ∈ h.active g, (h.cord.lane k).calls < Config.depthLimit)
    (e : exec i s = actOut i h (opened s h) (callAct (h.ret (sizeOf' i)) (opened s h) (h.active g) [] tgt)) :
    Completes i s h h.cord (fun k => if (h.cord.lane k).guard g then { calledLane h (h.after i) (h.cord.lane k) with pc := tgt k }
      else h.next i (h.cord.lane k)) [] := by
  have hact := h.active_sublist g
  obtain ⟨t, h1, h2, h3⟩ := eachLane_calls (sizeOf' i) (hx.nodup.sublist hact) (h.after i) hx.opened_cord? hf hd
  refine (lanesGo_completes hx hs hact (F := fun _ l => calledLane h (h.after i) l) (fun _ _ => rfl) h2 h3 (f := tgt) ?_).congr
    (fun k hk => by simp only [mem_active, hk, true_and])
  rw [e, callAct_ok [] tgt (by rw [hf, Bool.false_and]) h1]
  rfl

end

end Sys2Proof.Machine

namespace Sys2Proof.Machine

/-! ### What the path holds of a range that has been written (R260) -/

/-- The byte that lines of the path hold written at an address. -/
def heldIn (ls : List LocalLine) (ctx a : Nat) : Option Byte :=
  (ls.find? (fun l => l.ctx == ctx && l.addr == a / 64)).bind (fun l => l.bytes.get? (a % 64))

theorem localByte_of_held {s : State} {n ctx a : Nat} {b : Byte} (h : heldIn (s.core n).lines ctx a = some b) : localByte s n ctx a = b := by
  unfold localByte
  rw [show (findLine (s.core n) ctx a).bind (fun l => l.bytes.get? (a % 64)) = some b from h]

theorem heldIn_lineWrite (slot ctx : Nat) {a a' : Nat} (b : Byte) (ls : List LocalLine) :
    heldIn (lineWrite slot ctx a b ls) ctx a' = if a' = a then some b else heldIn ls ctx a' := by
  have hdiv : a' / 64 = a / 64 → a' % 64 = a % 64 → a' = a := by omega
  induction ls with
  | nil =>
    simp only [lineWrite, heldIn, List.find?_cons, beq_self_eq_true, Bool.true_and, List.find?_nil]
    by_cases h1 : a / 64 = a' / 64
    · simp only [h1, beq_self_eq_true, Option.bind_some]
      split
      · subst_vars; exact Tab.get?_set_same _ _ _
      · rw [Tab.get?_set_ne _ (fun h2 => by omega)]; rfl
    · rw [beq_eq_false_iff_ne.2 h1, if_neg (by rintro rfl; exact h1 rfl)]
  | cons l r ih =>
    unfold lineWrite heldIn
    unfold heldIn at ih
    cases hm : l.ctx == ctx && l.addr == a / 64 with
    | true =>
      obtain ⟨-, h2⟩ := Bool.and_eq_true_iff.1 hm
      rw [if_pos rfl, List.find?_cons, List.find?_cons]
      by_cases h1 : a / 64 = a' / 64
      · rw [← h1]
        simp only [hm, Option.bind_some]
        split
        · subst_vars; exact Tab.get?_set_same _ _ _
        · rw [Tab.get?_set_ne _ (fun h2 => by omega)]
      · rw [if_neg (by rintro rfl; exact h1 rfl)]
        have hl : (l.addr == a' / 64) = false := by rw [beq_iff_eq.1 h2]; exact beq_eq_false_iff_ne.2 h1
        simp only [hl, Bool.and_false]
    | false =>
      rw [if_neg Bool.false_ne_true, List.find?_cons, List.find?_cons]
      cases hl : l.ctx == ctx && l.addr == a' / 64 with
      | true => rw [if_neg (by rintro rfl; rw [hl] at hm; cases hm)]
      | false => exact ih

/-- The path holds these bytes written from `va` on. -/
def HeldFrom (ls : List LocalLine) (ctx va : Nat) (l : List Byte) : Prop := ∀ i, i < l.length → heldIn ls ctx (va + i) = some (l.getD i 0)

theorem HeldFrom.localRead {s : State} {n ctx va : Nat} {l : List Byte} (h : HeldFrom (s.core n).lines ctx va l) :
    localRead s n ctx va l.length = l := by
  refine List.ext_getElem (by simp [Machine.localRead]) fun i h1 h2 => ?_
  simp only [Machine.localRead, List.getElem_map, List.getElem_range, localByte_of_held (h i h2)]
  exact List.getD_eq_getElem _ _ h2

theorem heldFrom_writes (slot ctx va : Nat) (l : List Byte) (ls : List LocalLine) :
    HeldFrom ((List.range l.length).foldl (fun ls i => lineWrite slot ctx (va + i) (l.getD i 0) ls) ls) ctx va l := by
  have key (m : Nat) : ∀ i, i < m → heldIn ((List.range m).foldl (fun ls i => lineWrite slot ctx (va + i) (l.getD i 0) ls) ls) ctx (va + i) =
      some (l.getD i 0) := by
    induction m with
    | zero => exact fun i hi => absurd hi (Nat.not_lt_zero i)
    | succ m ih =>
      intro i hi
      rw [List.range_succ, List.foldl_append, List.foldl_cons, List.foldl_nil, heldIn_lineWrite]
      split
      · next h => rw [Nat.add_left_cancel h]
      · exact ih i (by omega)
  exact key l.length

theorem localWrite_held (s : State) (n slot ctx va : Nat) (l : List Byte) :
    HeldFrom ((localWrite s n slot ctx va l).core n).lines ctx va l := by
  unfold localWrite
  rw [State.core_setCore_same]
  exact heldFrom_writes _ _ _ _ _

theorem localWrite_still (s : State) (n slot ctx va : Nat) (l : List Byte) : Still s (localWrite s n slot ctx va l) := still_setCore rfl

theorem touchRange_still (s : State) (n : Nat) (g : Bool) (ctx va z : Nat) : Still s (touchRange s n g ctx va z) :=
  Still.foldl _ (fun _ _ => (touch_touched _ _ _ _ _).still) _ s

theorem spillWrite_still (s : State) (r : CordRef) (ctx va : Nat) (l : List Byte) : Still s (spillWrite s r ctx va l) :=
  ((touchRange_still _ _ _ _ _ _).trans (bringLines_still _ _ _ _ _)).trans (localWrite_still _ _ _ _ _ _)

theorem noteFrame_still (s : State) (n : Nat) (a : ErrArray) (x ring base z : Nat) : Still s (noteFrame s n a x ring base z) :=
  Still.foldl _ (fun _ _ => (noteRead_onlyCe _ _ _ _ _).quiet.still (noteRead_onlyCe _ _ _ _ _).slack.clock) _ s

/-! ### Translation looks at no block (R307 to R309) -/

theorem walk_cores (s : State) (m : Tab Core) (ctx va level node : Nat) :
    walk { s with cores := m } ctx va level node = walk s ctx va level node := by
  induction level generalizing node with
  | zero => rfl
  | succ level ih =>
    unfold walk
    simp only [ih]
    rfl

theorem opened_cores (s : State) (h : Here) : opened s h = { s with cores := (opened s h).cores } := by
  unfold opened State.setCord
  split <;> rfl

theorem core_setCord_blocks (s : State) (r : CordRef) (c : Cord) (n : Nat) :
    (s.setCord r c).core n = { s.core n with blocks := ((s.setCord r c).core n).blocks } := by rw [State.core_setCord]

theorem translate_opened (s : State) (h : Here) (n : Nat) (g : Bool) (ctx va z : Nat) (w rd : Bool) :
    translate (opened s h) n g ctx va z w rd = translate s n g ctx va z w rd := by
  have hc : (opened s h).core n = { s.core n with blocks := ((opened s h).core n).blocks } := core_setCord_blocks s h.ref h.cord n
  have hleaf : leafOf (opened s h) n g ctx va = leafOf s n g ctx va := by
    unfold leafOf
    rw [hc, opened_cores, walk_cores]
    rfl
  unfold translate
  rw [hleaf, opened_cores]
  rfl

theorem rangeFault_opened (s : State) (h : Here) (n : Nat) (g : Bool) (ctx va z : Nat) (w rd : Bool) :
    rangeFault (opened s h) n g ctx va z w rd = rangeFault s n g ctx va z w rd := by
  unfold rangeFault
  simp only [translate_opened]

theorem localRead_opened (s : State) (h : Here) (n ctx va z : Nat) : localRead (opened s h) n ctx va z = localRead s n ctx va z := by
  have hc : ((opened s h).core n).lines = (s.core n).lines := by rw [opened, core_setCord_blocks]
  have hg (a : Nat) : globalRead (opened s h) n false ctx a 1 = globalRead s n false ctx a 1 := by
    unfold globalRead
    simp only [translate_opened]
    rw [opened_cores]
    rfl
  have hb (a : Nat) : localByte (opened s h) n ctx a = localByte s n ctx a := by
    unfold localByte findLine
    rw [hc, hg]
  unfold localRead
  simp only [hb]

/-- A range that translates is good for the path. -/
theorem pathFault_none {s : State} {n ctx va z : Nat} {w rd : Bool} (h : rangeFault s n false ctx va z w rd = none) :
    pathFault s n ctx va z w rd = none := by
  unfold rangeFault at h
  unfold pathFault
  rw [List.findSome?_eq_none_iff] at h ⊢
  intro p hp
  have := h p hp
  unfold pathTranslate
  cases ht : translate s n false ctx p.1 p.2 w rd with
  | ok t => rfl
  | error e => rw [ht] at this; cases this

theorem spillFault_none {s : State} {n ctx va z : Nat} {w : Bool} (h : rangeFault s n false ctx va z w (!w) = none) (hb : (s.core n).bad = []) :
    spillFault s n ctx va z w false = none := by
  unfold spillFault
  rw [pathFault_none h]
  simp only [badWord_of_sound hb, Bool.or_self, Bool.false_eq_true, if_false]

theorem frameBad_of_sound {c : Core} (h : c.bad = []) (a : ErrArray) (x ring base n : Nat) : frameBad c a x ring base n = false := by
  unfold frameBad
  simp only [badWord_of_sound h, List.any_eq_false, Bool.false_eq_true, not_false_eq_true, implies_true]

end Sys2Proof.Machine

namespace Sys2Proof.Machine

/-! ### A frame of a lane replaced by one of its size (R247) -/

theorem Lane.frame_setFrame {α : Type} {l : Lane} {j : Nat} {f g : Frame} (hf : l.frameAt j = some f) (p : Frame → α) (hp : p g = p f) :
    p (l.setFrame j g).frame = p l.frame := by
  obtain ⟨hj, -⟩ := List.getElem?_eq_some_iff.1 hf
  have hlen : 0 < l.frames.length := by rw [List.length_reverse] at hj; omega
  have h0 : l.frame = (l.frames.reverse[l.frames.length - 1]?).getD Frame.base := by
    rw [Lane.frame, List.headD_eq_head?_getD, ← List.getLast?_reverse, List.getLast?_eq_getElem?, List.length_reverse]
  have h1 : (l.setFrame j g).frame = ((l.frames.reverse.set j g)[l.frames.length - 1]?).getD Frame.base := by
    rw [Lane.frame, Lane.setFrame, List.headD_eq_head?_getD, List.head?_reverse, List.getLast?_eq_getElem?, List.length_set, List.length_reverse]
  rw [h0, h1, List.getElem?_set]
  split
  · next h => rw [← h, show l.frames.reverse[j]? = some f from hf]; exact hp
  · rfl

theorem frameAt_of_vSpills {c : Cord} {l : Lane} {j : Nat} {f : Frame} (h : vSpills c l = [(j, f)]) : l.frameAt j = some f := by
  have hm : (j, f) ∈ vSpills c l := h ▸ List.mem_singleton_self _
  unfold Machine.vSpills at hm
  obtain ⟨⟨g, n⟩, h1, h2⟩ := List.mem_map.1 (List.mem_filter.1 hm).1
  cases h2
  rw [List.mem_zipIdx_iff_getElem?] at h1
  exact h1

/-! ### One frame spilled (R142, R247) -/

/-- The bytes that a spill of a lane frame writes. -/
def vSpillBytes (c : Cord) (l : Lane) (j : Nat) (f : Frame) : List Byte :=
  (List.range f.vf).flatMap (fun n => natLe 4 (l.at (16 + (f.vb + n) % ringSize c.vbud)).toNat) ++
    linkBytes f (if j = 0 then none else l.frameAt (j - 1))

/-- The bytes that a spill of a uniform frame by a lane writes. -/
def uSpillBytes (c : Cord) (l : Lane) (j : Nat) (f : Frame) : List Byte :=
  (List.range f.sf).flatMap (fun n => natLe 4 (c.sat (16 + (f.sb + n) % ringSize c.ubud)).toNat) ++
    linkBytes f (if j = 0 then none else l.frameAt (j - 1))

theorem spilled_still (s : State) (r : CordRef) (a : ErrArray) (x ring base n ctx va : Nat) (l : List Byte) :
    Still s (spillWrite (noteFrame s r.core a x ring base n) r ctx va l) :=
  (noteFrame_still _ _ _ _ _ _ _).trans (spillWrite_still _ _ _ _ _)

theorem spilled_held (s : State) (r : CordRef) (a : ErrArray) (x ring base n ctx va : Nat) (l : List Byte) :
    HeldFrom ((spillWrite (noteFrame s r.core a x ring base n) r ctx va l).core r.core).lines ctx va l := localWrite_held _ _ _ _ _ _

section
variable {s : State} {r : CordRef} {k j : Nat} {f : Frame} {b : Block} {c : Cord} (hb : s.block? r.core r.slot = some b) (hc : s.cord? r = some c)
include hb hc

theorem spillV_full (hroom : ¬(spillBytes f.vf ≤ spillTop b (c.lane k) ∧
    ¬(k = lowLane c ∧ spillTop b (c.lane k) - spillBytes f.vf < uspillTop c))) :
    spillV r k s (j, f) = .error ⟨false, cRegRange, none, s⟩ := by
  unfold spillV
  simp only [hb, hc]
  rw [if_pos]
  simp
  omega

theorem spillV_room (hbad : (s.core r.core).bad = [])
    (hroom : spillBytes f.vf ≤ spillTop b (c.lane k) ∧ ¬(k = lowLane c ∧ spillTop b (c.lane k) - spillBytes f.vf < uspillTop c))
    (hr : rangeFault s r.core false b.ctx ((c.lane k).locbase + (spillTop b (c.lane k) - spillBytes f.vf)) (spillBytes f.vf) true false = none) :
    ∃ t, spillV r k s (j, f) = .ok t ∧
      t.cord? r = some (c.setLane k ((c.lane k).setFrame j { f with spill := some (spillTop b (c.lane k) - spillBytes f.vf) })) ∧
      t.clock = s.clock ∧ HeldFrom (t.core r.core).lines b.ctx ((c.lane k).locbase + (spillTop b (c.lane k) - spillBytes f.vf))
        (vSpillBytes c (c.lane k) j f) := by
  unfold spillV
  simp only [hb, hc, frameBad_of_sound hbad, spillFault_none hr hbad]
  rw [if_neg (by simp; omega)]
  have hu := spilled_still s r .laneRegs ((c.slotNo * 32 + k) * 1024) (ringSize c.vbud) f.vb f.vf b.ctx
    ((c.lane k).locbase + (spillTop b (c.lane k) - spillBytes f.vf)) (vSpillBytes c (c.lane k) j f)
  have hh := spilled_held s r .laneRegs ((c.slotNo * 32 + k) * 1024) (ringSize c.vbud) f.vb f.vf b.ctx
    ((c.lane k).locbase + (spillTop b (c.lane k) - spillBytes f.vf)) (vSpillBytes c (c.lane k) j f)
  unfold vSpillBytes at hu hh ⊢
  generalize spillWrite _ r b.ctx _ _ = u at hu hh ⊢
  have huc : u.cord? r = some c := (hu.cord? r).trans hc
  simp only [huc]
  refine ⟨_, rfl, State.cord?_setCord_same huc _, (State.clock_setCord _ _ _).trans hu.clock, ?_⟩
  rw [core_setCord_blocks]
  exact hh

theorem spillU_full (hroom : spillTop b (c.lane (lowLane c)) < uspillTop c + spillBytes f.sf) :
    spillU r k s (j, f) = .error ⟨true, cRegRange, none, s⟩ := by
  unfold spillU
  simp only [hb, hc]
  rw [if_pos hroom]

theorem spillU_room (hbad : (s.core r.core).bad = []) (hroom : uspillTop c + spillBytes f.sf ≤ spillTop b (c.lane (lowLane c)))
    (hr : rangeFault s r.core false b.ctx ((c.lane (lowLane c)).locbase + uspillTop c) (spillBytes f.sf) true false = none) :
    ∃ t, spillU r k s (j, f) = .ok t ∧ t.cord? r = some { c with uspill := c.uspill ++ [(j, f.sb, f.sf, uspillTop c)] } ∧
      t.clock = s.clock ∧ HeldFrom (t.core r.core).lines b.ctx ((c.lane (lowLane c)).locbase + uspillTop c)
        (uSpillBytes c (c.lane k) j f) := by
  unfold spillU
  simp only [hb, hc, frameBad_of_sound hbad, spillFault_none hr hbad]
  rw [if_neg (by omega)]
  have hu := spilled_still s r .uniformRegs (c.slotNo * 256) (ringSize c.ubud) f.sb f.sf b.ctx ((c.lane (lowLane c)).locbase + uspillTop c)
    (uSpillBytes c (c.lane k) j f)
  have hh := spilled_held s r .uniformRegs (c.slotNo * 256) (ringSize c.ubud) f.sb f.sf b.ctx ((c.lane (lowLane c)).locbase + uspillTop c)
    (uSpillBytes c (c.lane k) j f)
  unfold uSpillBytes at hu hh ⊢
  generalize spillWrite _ r b.ctx _ _ = u at hu hh ⊢
  have huc : u.cord? r = some c := (hu.cord? r).trans hc
  simp only [huc]
  refine ⟨_, rfl, State.cord?_setCord_same huc _, (State.clock_setCord _ _ _).trans hu.clock, ?_⟩
  rw [core_setCord_blocks]
  exact hh

end

end Sys2Proof.Machine

namespace Sys2Proof.Machine

/-! ### The bytes of a spilled frame -/

theorem length_vSpillBytes (c : Cord) (l : Lane) (j : Nat) (f : Frame) : (vSpillBytes c l j f).length = spillBytes f.vf := by
  simp [vSpillBytes, linkBytes, spillBytes, List.length_flatMap, length_natLe]
  omega

theorem length_uSpillBytes (c : Cord) (l : Lane) (j : Nat) (f : Frame) : (uSpillBytes c l j f).length = spillBytes f.sf := by
  simp [uSpillBytes, linkBytes, spillBytes, List.length_flatMap, length_natLe]
  omega

theorem linkBytes_caller (l : Lane) (j : Nat) (f : Frame) : linkBytes f (if j = 0 then none else l.frameAt (j - 1)) =
    natLe 4 (f.ret.getD 0).toNat ++ natLe 4 (if j = 0 then 0 else
      match l.frameAt (j - 1) with
      | none => 0
      | some g => g.vf + 256 * g.sf) := by
  by_cases hj : j = 0
  · rw [if_pos hj, if_pos hj]
    rfl
  · rw [if_neg hj, if_neg hj]
    cases l.frameAt (j - 1) <;> rfl

/-! ### Calls of one lane that spill a frame (R142, R247) -/

/-- The callee's frame is worked out from the budgets and the caller's window alone. -/
theorem calleeFrame_congr {h h' : Here} {l l' : Lane} (ret : Word) (hold : Option Nat) (hv : h'.cord.vbud = h.cord.vbud)
    (hu : h'.cord.ubud = h.cord.ubud) (hl : ∀ p : Frame → Nat, p ∈ [Frame.vf, Frame.vb, Frame.sf, Frame.sb] → p l'.frame = p l.frame) :
    calleeFrame h' ret hold l' = calleeFrame h ret hold l := by
  simp only [calleeFrame, hv, hu, hl Frame.vf (by simp), hl Frame.vb (by simp), hl Frame.sf (by simp), hl Frame.sb (by simp)]

section
variable {s : State} {h : Here} {c : Cord} {k : Nat} (ret : Word) (hc : s.cord? h.ref = some c) (hd : (c.lane k).calls < Config.depthLimit)
include hc hd

theorem slide_eq {t u : State} {d : Cord} (hv : foldE (spillV h.ref k) s (vSpills c (c.lane k)) = .ok t)
    (hu : foldE (spillU h.ref k) t (uSpills c (c.lane k)) = .ok u) (hu' : u.cord? h.ref = some d) :
    slide s h.ref k (some ret) none = .ok (u.setCord h.ref (d.setLane k (calledLane { h with cord := d } ret (d.lane k)))) := by
  unfold slide
  simp only [hc, hv, hu, hu']
  rw [if_neg (by simp; omega)]
  rfl

theorem slide_stopV {e : SpillFault} (hv : foldE (spillV h.ref k) s (vSpills c (c.lane k)) = .error e) :
    slide s h.ref k (some ret) none = .error e := by
  unfold slide
  simp only [hc, hv]
  rw [if_neg (by simp; omega)]

theorem slide_stopU {t : State} {e : SpillFault} (hv : foldE (spillV h.ref k) s (vSpills c (c.lane k)) = .ok t)
    (hu : foldE (spillU h.ref k) t (uSpills c (c.lane k)) = .error e) : slide s h.ref k (some ret) none = .error e := by
  unfold slide
  simp only [hc, hv, hu]
  rw [if_neg (by simp; omega)]

end

theorem foldE_one {α ε σ : Type} (f : σ → α → Except ε σ) (s : σ) (x : α) : foldE f s [x] = f s x := by
  unfold foldE foldE
  split <;> simp_all

section
variable {i : Instr} {s : State} {h : Here} (hx : Issues i s h) (hs : sends i = true) {g : Guard} {k : Nat} (hact : h.active g = [k])
  (ho : (slideSpills h.cord (h.active g) && owing h.cord) = false) {tgt : Nat → Word}
  (e : exec i s = actOut i h (opened s h) (callAct (h.ret (sizeOf' i)) (opened s h) (h.active g) [] tgt))
include hx hact ho e

theorem call_one_parks {cause : Byte} (hcause : cause ≠ cDataErr) {v : Option Word}
    (hsl : slide (opened s h) h.ref k (some (h.after i)) none = .error ⟨false, cause, v, opened s h⟩) : FaultsFree i s h [k] cause := by
  obtain ⟨x, t, h1, h2, h3, -⟩ := spillTval_traces (opened s h) (h.ret (sizeOf' i)) false cause v
  have he : eachLane (h.ret (sizeOf' i)) (fun s k => slide s h.ref k (some (h.after i)) none) (opened s h) (h.active g) =
      .ok (t, [], [(k, cause, x)]) := by
    rw [hact, eachLane, hsl]
    simp only [Bool.false_eq_true, if_false, h1, eachLane]
  obtain ⟨tval, -, hf⟩ := parks_faults hx (bad := [(k, cause, x)]) (ks := [k]) (h3.trans hx.opened_cord?) h2 rfl (hact ▸ h.active_sublist g)
    (by simp) (by simp) hcause (by
      rw [e, callAct_ok [] tgt ho he]
      rfl)
  exact ⟨tval, hf⟩

theorem call_one_parksAll {cause : Byte} (hcause : cause ≠ cDataErr) {v : Option Word}
    (hsl : slide (opened s h) h.ref k (some (h.after i)) none = .error ⟨true, cause, v, opened s h⟩) : FaultsFree i s h h.set cause := by
  obtain ⟨x, t, h1, h2, h3, -⟩ := spillTval_traces (opened s h) (h.ret (sizeOf' i)) true cause v
  refine ⟨x, park_faults hx (d := { s := t, park := h.set.map (fun k => (k, cause, x)) }) (h3.trans hx.opened_cord?)
    ((beside_opened s h).trans h2).apart ((beside_opened s h).trans h2).clock rfl rfl rfl rfl (.inl rfl) (fun _ hy => nomatch hy) hx.ne_nil
    hx.nodup (fun _ hk => hk) hcause ?_ (fun _ h1 h2 => absurd h1 h2)⟩
  have he : eachLane (h.ret (sizeOf' i)) (fun s k => slide s h.ref k (some (h.after i)) none) (opened s h) (h.active g) =
      .error ⟨true, cause, v, opened s h⟩ := by
    rw [hact, eachLane, hsl]
    rfl
  rw [e, callAct_error [] tgt ho he, parkSpill, h1]
  rfl

include hs in
theorem call_one_goes {t : State} {d : Cord} (hsl : slide (opened s h) h.ref k (some (h.after i)) none = .ok t)
    (ht : t.cord? h.ref = some d) (hrun : (d.lane k).st = .run) (hoth : ∀ j, j ≠ k → d.lane j = h.cord.lane j) :
    ∃ u c, exec i s = .next u ∧ u.cord? h.ref = some c ∧ Apart h.ref t u ∧ Counted h i t.clock [] d c ∧
      c.lane k = { d.lane k with pc := tgt k } := by
  refine oneGoes hx hs ((h.active_sublist g).mem (hact ▸ List.mem_singleton_self k)) ht hrun hoth ?_
  have he : eachLane (h.ret (sizeOf' i)) (fun s k => slide s h.ref k (some (h.after i)) none) (opened s h) (h.active g) = .ok (t, [k], []) := by
    rw [hact, eachLane, hsl]
    rfl
  rw [e, callAct_ok [] tgt ho he]
  rfl

end

end Sys2Proof.Machine

namespace Sys2Proof.Machine

theorem owing_eq_false {c : Cord} (h : ¬(c.inflight ≠ [] ∨ c.gathers ≠ [])) : owing c = false := by
  simp only [not_or, not_not] at h
  rw [owing, h.1, h.2]
  rfl

section
variable {i : Instr} {s : State} {h : Here} (hx : Executes i s h) (hs : sends i = true) {g : Guard} {k : Nat} (hact : h.active g = [k])
  (ho : owing h.cord = false) (hd : (h.cord.lane k).calls < Config.depthLimit) {tgt : Nat → Word}
  (e : exec i s = actOut i h (opened s h) (callAct (h.ret (sizeOf' i)) (opened s h) (h.active g) [] tgt)) {j : Nat} {f : Frame}
include hx hact ho hd e

theorem call_noRoomV (hv : vSpills h.cord (h.cord.lane k) = [(j, f)])
    (hroom : ¬(spillBytes f.vf ≤ spillTop h.block (h.cord.lane k) ∧
      ¬(k = lowLane h.cord ∧ spillTop h.block (h.cord.lane k) - spillBytes f.vf < uspillTop h.cord))) : FaultsFree i s h [k] cRegRange :=
  call_one_parks hx.toIssues hact (by rw [ho, Bool.and_false]) e (by decide) (slide_stopV _ hx.toIssues.opened_cord? hd
    (by rw [hv, foldE_one]; exact spillV_full hx.toIssues.opened_block? hx.toIssues.opened_cord? hroom))

theorem call_noRoomU (hv : vSpills h.cord (h.cord.lane k) = []) (hu : uSpills h.cord (h.cord.lane k) = [(j, f)])
    (hroom : spillTop h.block (h.cord.lane (lowLane h.cord)) < uspillTop h.cord + spillBytes f.sf) : FaultsFree i s h h.set cRegRange :=
  call_one_parksAll hx.toIssues hact (by rw [ho, Bool.and_false]) e (by decide) (slide_stopU _ hx.toIssues.opened_cord? hd
    (by rw [hv]; rfl) (by rw [hu, foldE_one]; exact spillU_full hx.toIssues.opened_block? hx.toIssues.opened_cord? hroom))

include hs in
theorem call_spillsV (hv : vSpills h.cord (h.cord.lane k) = [(j, f)]) (hu : uSpills h.cord (h.cord.lane k) = [])
    (hroom : spillBytes f.vf ≤ spillTop h.block (h.cord.lane k) ∧
      ¬(k = lowLane h.cord ∧ spillTop h.block (h.cord.lane k) - spillBytes f.vf < uspillTop h.cord))
    (hr : rangeFault s h.ref.core false h.block.ctx
      ((h.cord.lane k).locbase + (spillTop h.block (h.cord.lane k) - spillBytes f.vf)) (spillBytes f.vf) true false = none) :
    ∃ t c, exec i s = .next t ∧ t.cord? h.ref = some c ∧ (c.lane k).pc = tgt k ∧ (c.lane k).regs = (h.cord.lane k).regs ∧
      (c.lane k).frames = calleeFrame h (h.after i) none (h.cord.lane k) ::
        ((h.cord.lane k).setFrame j { f with spill := some (spillTop h.block (h.cord.lane k) - spillBytes f.vf) }).frames ∧
      localRead t h.ref.core h.block.ctx ((h.cord.lane k).locbase + (spillTop h.block (h.cord.lane k) - spillBytes f.vf)) (spillBytes f.vf) =
        vSpillBytes h.cord (h.cord.lane k) j f := by
  obtain ⟨t, h1, h2, -, h4⟩ := spillV_room (k := k) (j := j) hx.toIssues.opened_block? hx.toIssues.opened_cord? hx.opened_bad hroom
    ((rangeFault_opened _ _ _ _ _ _ _ _ _).trans hr)
  generalize hl : (h.cord.lane k).setFrame j { f with spill := some (spillTop { h.block with cords := h.block.cords.set h.ref.cord h.cord }
    (h.cord.lane k) - spillBytes f.vf) } = l at h2
  have hsl := slide_eq (h := h) (h.after i) hx.toIssues.opened_cord? hd (by rw [hv, foldE_one]; exact h1) (by rw [hu]; rfl) h2
  obtain ⟨u, c, h5, h6, h7, -, h8⟩ := call_one_goes hx.toIssues hs hact (by rw [ho, Bool.and_false]) e hsl (State.cord?_setCord_same h2 _)
    (by
      rw [Cord.lane_setLane_same, Cord.lane_setLane_same, ← hl]
      exact hx.run ((h.active_sublist g).mem (hact ▸ List.mem_singleton_self k)))
    (fun j hj => by rw [Cord.lane_setLane_ne _ hj, Cord.lane_setLane_ne _ hj])
  rw [Cord.lane_setLane_same, Cord.lane_setLane_same] at h8
  have hf := frameAt_of_vSpills hv
  refine ⟨u, c, h5, h6, by rw [h8], by rw [h8, ← hl]; rfl, ?_, ?_⟩
  · rw [h8, ← hl]
    refine congrArg (· :: _) (calleeFrame_congr _ _ rfl rfl fun p hp => Lane.frame_setFrame hf p ?_)
    simp only [List.mem_cons, List.not_mem_nil, or_false] at hp
    rcases hp with rfl | rfl | rfl | rfl <;> rfl
  · have hheld := HeldFrom.localRead (s := u) (n := h.ref.core) (by rw [h7.lines, core_setCord_blocks]; exact h4)
    rwa [length_vSpillBytes] at hheld

include hs in
theorem call_spillsU (hv : vSpills h.cord (h.cord.lane k) = []) (hu : uSpills h.cord (h.cord.lane k) = [(j, f)])
    (hroom : uspillTop h.cord + spillBytes f.sf ≤ spillTop h.block (h.cord.lane (lowLane h.cord)))
    (hr : rangeFault s h.ref.core false h.block.ctx
      ((h.cord.lane (lowLane h.cord)).locbase + uspillTop h.cord) (spillBytes f.sf) true false = none) :
    ∃ t c, exec i s = .next t ∧ t.cord? h.ref = some c ∧ (c.lane k).pc = tgt k ∧ c.sregs = h.cord.sregs ∧
      (c.lane k).frames = calleeFrame h (h.after i) none (h.cord.lane k) :: (h.cord.lane k).frames ∧
      c.uspill = h.cord.uspill ++ [(j, f.sb, f.sf, uspillTop h.cord)] ∧
      localRead t h.ref.core h.block.ctx ((h.cord.lane (lowLane h.cord)).locbase + uspillTop h.cord) (spillBytes f.sf) =
        uSpillBytes h.cord (h.cord.lane k) j f := by
  obtain ⟨t, h1, h2, -, h4⟩ := spillU_room (k := k) (j := j) hx.toIssues.opened_block? hx.toIssues.opened_cord? hx.opened_bad hroom
    ((rangeFault_opened _ _ _ _ _ _ _ _ _).trans hr)
  have hsl := slide_eq (h := h) (h.after i) hx.toIssues.opened_cord? hd (by rw [hv]; rfl) (by rw [hu, foldE_one]; exact h1) h2
  obtain ⟨u, c, h5, h6, h7, h8, h9⟩ := call_one_goes hx.toIssues hs hact (by rw [ho, Bool.and_false]) e hsl (State.cord?_setCord_same h2 _)
    (by
      rw [Cord.lane_setLane_same]
      exact hx.run ((h.active_sublist g).mem (hact ▸ List.mem_singleton_self k)))
    (fun j hj => by rw [Cord.lane_setLane_ne _ hj]; rfl)
  rw [Cord.lane_setLane_same] at h9
  refine ⟨u, c, h5, h6, by rw [h9], by rw [h8]; rfl, ?_, by rw [h8]; rfl, ?_⟩
  · rw [h9]
    rfl
  · have hheld := HeldFrom.localRead (s := u) (n := h.ref.core) (by rw [h7.lines, core_setCord_blocks]; exact h4)
    rwa [length_uSpillBytes] at hheld

end

end Sys2Proof.Machine

namespace Sys2Proof.Machine

/-! ### Calls beyond the depth limit (R247) -/

theorem call_tooDeep {i : Instr} {s : State} {h : Here} (hx : Issues i s h) {g : Guard} {tgt : Nat → Word} (hne : h.active g ≠ [])
    (hd : ∀ k ∈ h.active g, Config.depthLimit ≤ (h.cord.lane k).calls) (ho : (slideSpills h.cord (h.active g) && owing h.cord) = false)
    (e : exec i s = actOut i h (opened s h) (callAct (h.ret (sizeOf' i)) (opened s h) (h.active g) [] tgt)) :
    FaultsFree i s h (h.active g) cRegRange := by
  obtain ⟨t, bad, h1, h2, h3, h4, h5⟩ := eachLane_parks (h := h.ret (sizeOf' i)) (tv := fun _ => none) (c := h.cord) (h.active g)
    (fun _ k hk hc => slide_deep (h.after i) none hc (hd k hk)) (opened s h) hx.opened_cord?
  obtain ⟨tval, -, hf⟩ := parks_faults hx h4 h5 h2 (h.active_sublist g) hne (fun y hy => (h3 y hy).1) (by decide) (by
    rw [e, callAct_ok [] tgt ho h1]
    rfl)
  exact ⟨tval, hf⟩

/-! ### Calls by register (R85, R142) -/

section
variable {o : OBrx} {s : State} {h : Here} (hx : Executes (.callx o) s h)
include hx

theorem exec_callx : exec (.callx o) s = actOut (.callx o) h (opened s h) (callAct (h.ret 8) (opened s h)
    ((h.active o.gd).filter (fun k => (h.v k o.a).toNat % 4 == 0))
    (((h.active o.gd).filter (fun k => (h.v k o.a).toNat % 4 != 0)).map (fun k => (k, cAlign, h.v k o.a))) (fun k => h.v k o.a)) := by
  have hok : (h.active o.gd).filter (fun k => !((h.active o.gd).filter (fun k => misaligned (h.v k o.a))).contains k) =
      (h.active o.gd).filter (fun k => (h.v k o.a).toNat % 4 == 0) := by
    refine List.filter_congr fun k hk => ?_
    rw [Bool.eq_iff_iff]
    simp [List.mem_filter, hk, misaligned]
  rw [← hok]
  exact issue_eq hx _

theorem exec_callx_aligned (ha : ∀ k ∈ h.active o.gd, (h.v k o.a).toNat % 4 = 0) : exec (.callx o) s =
    actOut (.callx o) h (opened s h) (callAct (h.ret 8) (opened s h) (h.active o.gd) [] (fun k => h.v k o.a)) := by
  have hb : (h.active o.gd).filter (fun k => (h.v k o.a).toNat % 4 != 0) = [] := List.filter_eq_nil_iff.2 (fun k hk => by simp [ha k hk])
  have hg : (h.active o.gd).filter (fun k => (h.v k o.a).toNat % 4 == 0) = h.active o.gd := List.filter_eq_self.2 (fun k hk => by simp [ha k hk])
  rw [exec_callx hx, hb, hg]
  rfl

/-- Lanes whose targets are misaligned park, and the others call. -/
theorem callx_faults (hb : (h.active o.gd).filter (fun k => (h.v k o.a).toNat % 4 != 0) ≠ [])
    (hf : slideSpills h.cord ((h.active o.gd).filter (fun k => (h.v k o.a).toNat % 4 == 0)) = false)
    (hd : ∀ k ∈ (h.active o.gd).filter (fun k => (h.v k o.a).toNat % 4 == 0), (h.cord.lane k).calls < Config.depthLimit) :
    Faults (.callx o) s h ((h.active o.gd).filter (fun k => (h.v k o.a).toNat % 4 != 0))
      (fun k => if (h.cord.lane k).guard o.gd then { calledLane h (h.after (.callx o)) (h.cord.lane k) with pc := h.v k o.a }
        else h.next (.callx o) (h.cord.lane k)) cAlign
      (h.v (((h.active o.gd).filter (fun k => (h.v k o.a).toNat % 4 != 0)).headD 0) o.a) := by
  have e := exec_callx hx
  have hmem (k : Nat) (hk : k ∈ h.set) (hn : k ∉ (h.active o.gd).filter (fun k => (h.v k o.a).toNat % 4 != 0)) :
      k ∈ (h.active o.gd).filter (fun k => (h.v k o.a).toNat % 4 == 0) ↔ (h.cord.lane k).guard o.gd = true := by
    simp only [List.mem_filter, mem_active, hk, true_and, bne_iff_ne, beq_iff_eq, not_and, not_not] at hn ⊢
    exact ⟨fun hh => hh.1, fun hh => ⟨hh, hn hh⟩⟩
  have hdis : ∀ k ∈ (h.active o.gd).filter (fun k => (h.v k o.a).toNat % 4 == 0),
      k ∉ (h.active o.gd).filter (fun k => (h.v k o.a).toNat % 4 != 0) := by
    intro k hk hk'
    simp only [List.mem_filter, bne_iff_ne, beq_iff_eq] at hk hk'
    exact hk'.2 hk.2
  have hbs := (List.filter_sublist (l := h.active o.gd) (p := fun k => (h.v k o.a).toNat % 4 != 0)).trans (h.active_sublist o.gd)
  have hos := (List.filter_sublist (l := h.active o.gd) (p := fun k => (h.v k o.a).toNat % 4 == 0)).trans (h.active_sublist o.gd)
  generalize (h.active o.gd).filter (fun k => (h.v k o.a).toNat % 4 != 0) = bad at *
  generalize (h.active o.gd).filter (fun k => (h.v k o.a).toNat % 4 == 0) = ok at *
  have hn := hx.nodup.sublist hos
  obtain ⟨t, h1, h2, h3⟩ := eachLane_calls 8 hn (h.after (.callx o)) hx.toIssues.opened_cord? hf hd
  have e' : exec (.callx o) s = finish h (.callx o)
      { s := t, park := bad.map (fun k => (k, cAlign, h.v k o.a)), go := ok.map (fun k => (k, h.v k o.a)) } := by
    rw [e, callAct_ok _ _ (by rw [hf, Bool.false_and]) h1, List.append_nil]
    rfl
  obtain ⟨tval, ⟨y, hy, hy1, rfl⟩, hp⟩ := finish_parks (h := h) (i := .callx o) (ks := bad) (cause := cAlign)
    (d := { s := t, park := bad.map (fun k => (k, cAlign, h.v k o.a)), go := ok.map (fun k => (k, h.v k o.a)) })
    (List.map_map.trans (List.map_id _)) (hx.toIssues.ascending.sublist hbs)
    (fun y hy => by obtain ⟨k, -, rfl⟩ := List.mem_map.1 hy; rfl) (by decide) hb
  obtain ⟨k₀, -, rfl⟩ := List.mem_map.1 hy
  rw [← show k₀ = bad.headD 0 from hy1]
  have hlane (k : Nat) := Cord.lane_onLanes h.cord hn k (fun _ l => calledLane h (h.after (.callx o)) l)
  refine (parkBeside_faults hx.toIssues (d := { s := t, park := bad.map (fun k => (k, cAlign, _)), go := ok.map (fun k => (k, h.v k o.a)) }) h2
    (Cord.onLanes_rest _ _ _) ((beside_opened s h).trans h3).apart ((beside_opened s h).trans h3).clock rfl rfl rfl rfl
    (Done.goesOk_map rfl rfl hn (fun _ hk => hos.mem hk)) (fun y hy => ?_) (fun k hk => ?_) (fun k hk => ?_) hb (hx.nodup.sublist hbs)
    (fun _ hk => hbs.mem hk) (by decide) (e'.trans hp)).congr (fun k hk hk' => ?_)
  · obtain ⟨k, hk, rfl⟩ := List.mem_map.1 hy
    exact hdis k hk
  · rw [hlane, if_neg fun hh => hk _ (List.mem_map_of_mem hh) rfl]
  · rw [hlane]
    split <;> exact hx.run hk
  · rw [Done.target_eq rfl, hlane]
    simp only [hmem k hk hk']
    split <;> rfl

end

/-! ### `frame` (R141, R246) -/

section
variable {o : OFrame} {s : State} {h : Here} (hx : Executes (.frame o) s h)
include hx

theorem frame_completes (hv : o.vf.toNat ≤ winSize h.cord.vbud) (hu : o.sf.toNat ≤ winSize h.cord.ubud) :
    Completes (.frame o) s h h.cord (fun k => h.next (.frame o) { h.cord.lane k with
      frames := { (h.cord.lane k).frame with vf := o.vf.toNat, sf := o.sf.toNat } :: (h.cord.lane k).frames.tail }) [] := by
  obtain ⟨F, hF⟩ : ∃ F : Nat → Lane → Lane, F = fun _ l => { l with
    frames := { l.frame with vf := o.vf.toNat, sf := o.sf.toNat } :: l.frames.tail } := ⟨_, rfl⟩
  refine (plain_completes hx.toIssues (x := h.cord.onLanes h.set F) (pre := fun k => F k (h.cord.lane k)) ?_
    (fun k hk => Cord.lane_onLanes_mem _ hx.nodup hk _) (fun k hk => by rw [hF]; exact hx.run hk)
    (fun k hk => Cord.lane_onLanes_not_mem _ hk _) (fun hh => nomatch hh)).sameBut (.onLanes _ _ _) |>.congr (fun k _ => by rw [hF])
  refine (issue_eq hx _).trans ?_
  rw [if_neg (by omega), if_neg (by omega)]
  refine congrArg (fun F => finish h (.frame o) { s := (opened s h).setCord h.ref (h.cord.onLanes h.set F) })
    (funext fun _ => funext fun l => ?_)
  rw [hF]
  obtain ⟨_, _, _, _, _, _, frames, _⟩ := l
  cases frames <;> rfl

theorem frame_vTooLarge (hv : winSize h.cord.vbud < o.vf.toNat) {lane : Nat → Lane} :
    Faults (.frame o) s h h.set lane cRegRange (o.vf.setWidth 32) :=
  parkSet_faults hx.toIssues (by decide) ((issue_eq hx _).trans (by rw [if_pos hv]))

theorem frame_sTooLarge (hv : o.vf.toNat ≤ winSize h.cord.vbud) (hu : winSize h.cord.ubud < o.sf.toNat) {lane : Nat → Lane} :
    Faults (.frame o) s h h.set lane cRegRange (o.sf.setWidth 32) :=
  parkSet_faults hx.toIssues (by decide) ((issue_eq hx _).trans (by rw [if_neg (by omega), if_pos hu]))

end

end Sys2Proof.Machine

namespace Sys2Proof.Machine

/-- Settles O18: each lane's slide changes that lane alone; what a spill writes the path holds. -/
theorem calls : Obligations.Calls := by
  unfold Obligations.Calls
  refine ⟨?_, ?_, ?_⟩
  · intro dest owes link does
    have hlink (l : Lane) (j : Nat) (f : Frame) : link l j f = linkBytes f (if j = 0 then none else l.frameAt (j - 1)) :=
      (linkBytes_caller l j f).symm
    have key (i : Instr) (g : Guard) (tgt : Here → Nat → Word) (good : Here → Prop) (hs : sends i = true)
        (he : ∀ s h, Executes i s h → good h → exec i s = actOut i h (opened s h)
          (callAct (h.ret (sizeOf' i)) (opened s h) (h.active g) [] (tgt h))) : does i g tgt good := by
      refine ⟨fun s h k j f hx hg hk ho hd hv hu _ => ?_, fun s h k j f hx hg hk ho hd hv hu _ => ?_, fun s h hx hg hne hd ho => ?_⟩
      · refine ⟨fun hroom => call_noRoomV hx hk (owing_eq_false ho) hd (he s h hx hg) hv hroom, fun hroom hr => ?_⟩
        rw [hlink]
        exact call_spillsV hx hs hk (owing_eq_false ho) hd (he s h hx hg) hv hu hroom hr
      · refine ⟨fun hroom => call_noRoomU hx hk (owing_eq_false ho) hd (he s h hx hg) hv hu hroom, fun hroom hr => ?_⟩
        rw [hlink]
        exact call_spillsU hx hs hk (owing_eq_false ho) hd (he s h hx hg) hv hu hroom hr
      · refine call_tooDeep hx.toIssues hne hd ?_ (he s h hx hg)
        cases hsp : slideSpills h.cord (h.active g) with
        | false => rfl
        | true => exact owing_eq_false (ho hsp)
    exact ⟨fun o => key _ _ _ _ rfl fun s h hx _ => issue_eq hx _, fun o => key _ _ _ _ rfl fun s h hx _ => issue_eq hx _,
      fun o => key _ _ _ _ rfl fun s h hx ha => exec_callx_aligned hx ha, fun o s h hx => callx_faults hx⟩
  · exact ⟨fun o s h hx hf => call_completes hx.toIssues rfl hf.1 hf.2 (issue_eq hx _),
      fun o s h hx hf => call_completes hx.toIssues rfl hf.1 hf.2 (issue_eq hx _),
      fun o s h hx hf ha => call_completes hx.toIssues rfl hf.1 hf.2 (exec_callx_aligned hx ha)⟩
  · exact fun o s h hx => ⟨frame_completes hx, fun hv => frame_vTooLarge hx hv, fun hv hu => frame_sTooLarge hx hv hu⟩

end Sys2Proof.Machine

namespace Sys2Proof.Machine

/-! ### Windows of caller and callee (R140, R246, R247) -/

theorem place_low {bud base base' r : Nat} (h : r < 16) : place bud base r = place bud base' r := by
  rw [place, place, if_pos h, if_pos h]

theorem winSize_le_ringSize (bud : Nat) : winSize bud ≤ ringSize bud := Nat.min_le_right _ _

theorem ringSize_pos {bud i : Nat} (h : i < winSize bud) : 0 < ringSize bud :=
  Nat.lt_of_le_of_lt (Nat.zero_le i) (Nat.lt_of_lt_of_le h (winSize_le_ringSize bud))

/-- The callee's window begins where the caller's frame ends. -/
theorem place_slide {bud base n i : Nat} (h : n + i < winSize bud) :
    place bud (slideBase (ringSize bud) base n) (16 + i) = place bud base (16 + n + i) := by
  have hr := ringSize_pos h
  rw [place, place, if_neg (by omega), if_neg (by omega), slideBase, if_neg (by omega), show 16 + i - 16 = i by omega,
    show 16 + n + i - 16 = n + i by omega, Nat.mod_add_mod, Nat.add_assoc]

/-- A slot that a window reaches lies at its distance from the window's base. -/
theorem ring_distance {ring a b t : Nat} (ht : t < ring) (h : a % ring = (b + t) % ring) : (a + (ring - b % ring)) % ring = t := by
  have hb : b % ring < ring := Nat.mod_lt _ (by omega)
  calc (a + (ring - b % ring)) % ring
      = (a % ring + (ring - b % ring)) % ring := (Nat.mod_add_mod _ _ _).symm
    _ = (b + t + (ring - b % ring)) % ring := by rw [h, Nat.mod_add_mod]
    _ = (b % ring + (t + (ring - b % ring))) % ring := by rw [Nat.mod_add_mod, Nat.add_assoc]
    _ = (t + ring) % ring := by rw [show b % ring + (t + (ring - b % ring)) = t + ring by omega]
    _ = t := by rw [Nat.add_mod_right, Nat.mod_eq_of_lt ht]

/-- Registers of a window that meets no slot of a frame stand apart from the frame's. -/
theorem place_ne {bud base nb n r q : Nat} (h : ringMeets (ringSize bud) base n nb (winSize bud) = false) (hr : 16 ≤ r)
    (hin : inRange bud r = true) (hq : 16 ≤ q) (hq' : q ≤ 15 + n) : place bud nb r ≠ place bud base q := by
  have hw : r - 16 < winSize bud := by
    rw [inRange, if_neg (by omega), decide_eq_true_eq] at hin
    omega
  intro e
  rw [place, place, if_neg (by omega), if_neg (by omega)] at e
  have hpos := ringSize_pos hw
  have hd := ring_distance (Nat.lt_of_lt_of_le hw (winSize_le_ringSize bud)) (Nat.add_left_cancel e).symm
  rw [ringMeets, show (ringSize bud != 0) = true from bne_iff_ne.2 (by omega), Bool.true_and, List.any_eq_false] at h
  refine h (q - 16) (List.mem_range.2 (by omega)) ?_
  rw [decide_eq_true_eq, hd]
  exact hw

theorem Lane.at_put_same (l : Lane) {a : Nat} (h : a ≠ 0) (x : Word) : (l.put a x).at a = x := by
  rw [Lane.put, if_neg h, Lane.at, if_neg h]
  exact Tab.get_set_same _ _ _ _

theorem Lane.at_put_ne (l : Lane) {a b : Nat} (h : a ≠ b) (x : Word) : (l.put a x).at b = l.at b := by
  unfold Lane.put
  split
  · rfl
  · unfold Lane.at
    split
    · rfl
    · exact Tab.get_set_ne _ (Ne.symm h) _ _

theorem Cord.sat_sput_same (c : Cord) {a : Nat} (h : a ≠ 0) (x : Word) (tok : Bool) : (c.sput a x tok).sat a = x := by
  rw [Cord.sput, if_neg h, Cord.sat, if_neg h]
  exact Tab.get_set_same _ _ _ _

theorem Cord.sat_sput_ne (c : Cord) {a b : Nat} (h : a ≠ b) (x : Word) (tok : Bool) : (c.sput a x tok).sat b = c.sat b := by
  unfold Cord.sput
  split
  · rfl
  · unfold Cord.sat
    split
    · rfl
    · exact Tab.get_set_ne _ (Ne.symm h) _ _

theorem Cord.sput_ubud (c : Cord) (a : Nat) (x : Word) (tok : Bool) : (c.sput a x tok).ubud = c.ubud := by
  unfold Cord.sput
  split <;> rfl

/-- The lane without its current frame. -/
def Lane.popped (l : Lane) : Lane := { l with frames := l.frames.tail }

/-- A write leaves the frames alone. -/
theorem Lane.put_popped (l : Lane) (f : Frame) (a : Nat) (x : Word) : (({ l with frames := f :: l.frames } : Lane).put a x).popped = l.put a x := by
  unfold Lane.put Lane.popped
  split <;> rfl

/-- The frame on top of a chain is one that its slide looks at. -/
theorem top_mem_frames {l : Lane} (h : l.frames ≠ []) : (l.depth, l.frame) ∈ l.frames.reverse.zipIdx.map (fun x => (x.2, x.1)) := by
  obtain ⟨f, r, hl⟩ := List.exists_cons_of_ne_nil h
  refine List.mem_map.2 ⟨(l.frame, l.depth), List.mem_zipIdx_iff_getElem?.2 ?_, rfl⟩
  simp [Lane.frame, Lane.depth, hl]

section
variable {c : Cord} {l : Lane} (hl : l.frames ≠ [])
include hl

theorem vSpills_nil_top (hs : l.frame.spill = none) (h : vSpills c l = []) :
    ringMeets (ringSize c.vbud) l.frame.vb l.frame.vf (slideBase (ringSize c.vbud) l.frame.vb l.frame.vf) (winSize c.vbud) = false := by
  have hn := List.filter_eq_nil_iff.1 h _ (top_mem_frames hl)
  simp only [hs, Option.isNone_none, Bool.true_and, Bool.or_eq_true, not_or, Bool.not_eq_true] at hn
  exact hn.2

theorem uSpills_nil_top (hs : uSpilled c l.depth l.frame = none) (hn : l.frame.sf ≠ 0) (h : uSpills c l = []) :
    ringMeets (ringSize c.ubud) l.frame.sb l.frame.sf (slideBase (ringSize c.ubud) l.frame.sb l.frame.sf) (winSize c.ubud) = false := by
  have hn' := List.filter_eq_nil_iff.1 h _ (top_mem_frames hl)
  simp only [hs, Option.isNone_none, bne_iff_ne.2 hn, Bool.true_and, Bool.not_eq_true] at hn'
  exact hn'

end

section
variable (h : Here) (ret : Word) (hold : Option Nat) (l : Lane)

/-- The lane in the callee's frame. -/
def calleeLane : Lane := { l with frames := calleeFrame h ret hold l :: l.frames }

theorem callee_low {r : Nat} (hr : r < 16) : (calleeLane h ret hold l).v h.cord.vbud r = l.v h.cord.vbud r ∧
    h.cord.s (calleeFrame h ret hold l).sb r = h.cord.s l.frame.sb r ∧
    ∀ x, ((calleeLane h ret hold l).setV h.cord.vbud r x).popped = l.setV h.cord.vbud r x ∧
      h.cord.setS (calleeFrame h ret hold l).sb r x = h.cord.setS l.frame.sb r x := by
  refine ⟨?_, ?_, fun x => ⟨?_, ?_⟩⟩
  · rw [Lane.v, Lane.v, place_low hr]; rfl
  · rw [Cord.s, Cord.s, place_low hr]
  · rw [Lane.setV, Lane.setV, place_low hr]; exact Lane.put_popped _ _ _ _
  · rw [Cord.setS, Cord.setS, place_low hr]

theorem callee_v {i : Nat} (hi : l.frame.vf + i < winSize h.cord.vbud) :
    (calleeLane h ret hold l).v h.cord.vbud (16 + i) = l.v h.cord.vbud (16 + l.frame.vf + i) ∧
    ∀ x, ((calleeLane h ret hold l).setV h.cord.vbud (16 + i) x).popped = l.setV h.cord.vbud (16 + l.frame.vf + i) x := by
  have hp : place h.cord.vbud (calleeLane h ret hold l).frame.vb (16 + i) = place h.cord.vbud l.frame.vb (16 + l.frame.vf + i) := place_slide hi
  refine ⟨?_, fun x => ?_⟩
  · rw [Lane.v, Lane.v, hp]; rfl
  · rw [Lane.setV, Lane.setV, hp]; exact Lane.put_popped _ _ _ _

theorem callee_s {i : Nat} (hi : l.frame.sf + i < winSize h.cord.ubud) :
    h.cord.s (calleeFrame h ret hold l).sb (16 + i) = h.cord.s l.frame.sb (16 + l.frame.sf + i) ∧
    ∀ x, h.cord.setS (calleeFrame h ret hold l).sb (16 + i) x = h.cord.setS l.frame.sb (16 + l.frame.sf + i) x := by
  have hp : place h.cord.ubud (calleeFrame h ret hold l).sb (16 + i) = place h.cord.ubud l.frame.sb (16 + l.frame.sf + i) := place_slide hi
  exact ⟨by rw [Cord.s, Cord.s, hp], fun x => by rw [Cord.setS, Cord.setS, hp]⟩

theorem callee_keeps_v (hl : l.frames ≠ []) (hs : l.frame.spill = none) (hv : vSpills h.cord l = []) {r q : Nat} (x : Word) (hr : 16 ≤ r)
    (hin : inRange h.cord.vbud r = true) (hq : 16 ≤ q) (hq' : q ≤ 15 + l.frame.vf) :
    ((calleeLane h ret hold l).setV h.cord.vbud r x).popped.v h.cord.vbud q = l.v h.cord.vbud q := by
  have hne : place h.cord.vbud (calleeLane h ret hold l).frame.vb r ≠ place h.cord.vbud l.frame.vb q :=
    place_ne (vSpills_nil_top hl hs hv) hr hin hq hq'
  rw [Lane.setV, calleeLane, Lane.put_popped, Lane.v, Lane.put_rest]
  exact Lane.at_put_ne l hne x

theorem callee_keeps_s (hl : l.frames ≠ []) (hs : uSpilled h.cord l.depth l.frame = none) (hu : uSpills h.cord l = []) {r q : Nat} (x : Word)
    (hr : 16 ≤ r) (hin : inRange h.cord.ubud r = true) (hq : 16 ≤ q) (hq' : q ≤ 15 + l.frame.sf) :
    (h.cord.setS (calleeFrame h ret hold l).sb r x).s l.frame.sb q = h.cord.s l.frame.sb q := by
  have hne : place h.cord.ubud (calleeFrame h ret hold l).sb r ≠ place h.cord.ubud l.frame.sb q :=
    place_ne (uSpills_nil_top hl hs (by omega) hu) hr hin hq hq'
  rw [Cord.setS, Cord.s, Cord.sput_ubud]
  exact Cord.sat_sput_ne _ hne x false

end

end Sys2Proof.Machine

namespace Sys2Proof.Machine

/-! ### Returns that fill nothing (R142, R144) -/

/-- The caller's frame of a lane needs no fill. -/
def FillFree (c : Cord) (l : Lane) : Prop := ∀ f, l.frameAt (l.depth - 1) = some f → f.spill = none ∧ uSpilled c (l.depth - 1) f = none

theorem retFills_eq_false {c : Cord} {ks : List Nat} : retFills c ks = false ↔ ∀ k ∈ ks, FillFree c (c.lane k) := by
  unfold retFills FillFree
  rw [List.any_eq_false]
  refine forall₂_congr fun k _ => ?_
  dsimp only
  cases (c.lane k).frameAt ((c.lane k).depth - 1) with
  | none => simp
  | some f => simp

theorem Cord.SameBut.uSpilled {c d : Cord} (h : c.SameBut d) (i : Nat) (f : Frame) : uSpilled d i f = uSpilled c i f := by
  rw [show d = { c with lanes := d.lanes } from h]
  rfl

theorem Cord.SameBut.fillFree {c d : Cord} (h : c.SameBut d) {l : Lane} (hf : FillFree c l) : FillFree d l :=
  fun f hl => by rw [h.uSpilled]; exact hf f hl

section
variable {s : State} {r : CordRef} {c : Cord} {k : Nat} (hc : s.cord? r = some c)
include hc

theorem fillV_none {i : Nat} (h : ∀ f, (c.lane k).frameAt i = some f → f.spill = none) : fillV s r k i = .ok s := by
  obtain ⟨b, hb, -⟩ := State.block?_of_cord? hc
  unfold fillV
  simp only [hb, hc]
  cases hf : (c.lane k).frameAt i with
  | none => rfl
  | some f => simp only [h f hf]

theorem fillU_none {i : Nat} (h : ∀ f, (c.lane k).frameAt i = some f → uSpilled c i f = none) : fillU s r k i = .ok s := by
  obtain ⟨b, hb, -⟩ := State.block?_of_cord? hc
  unfold fillU
  simp only [hb, hc]
  cases hf : (c.lane k).frameAt i with
  | none => rfl
  | some f => simp only [h f hf]

theorem unslide_free (h : FillFree c (c.lane k)) : unslide s r k true = .ok (s.setCord r (c.setLane k (c.lane k).popped)) := by
  unfold unslide
  simp only [hc, if_true, fillV_none hc fun f hf => (h f hf).1, fillU_none hc fun f hf => (h f hf).2]
  rfl

theorem retLane_misaligned (h : misaligned ((c.lane k).frame.ret.getD 0) = true) :
    retLane r s k = .error ⟨false, cAlign, some ((c.lane k).frame.ret.getD 0), s⟩ := by
  obtain ⟨b, hb, -⟩ := State.block?_of_cord? hc
  unfold retLane
  simp only [hb, hc]
  rw [if_pos h]

theorem retLane_eq {b : Block} {t : State} (hb : s.block? r.core r.slot = some b) (h : misaligned ((c.lane k).frame.ret.getD 0) = false)
    (ht : unslide s r k true = .ok t) : retLane r s k = .ok (t.setCore r.core (dropHolds (t.core r.core) b.ctx [(c.lane k).frame])) := by
  unfold retLane
  simp only [hb, hc]
  rw [if_neg (by rw [h]; exact Bool.false_ne_true), ht]

end

theorem dropHolds_none (c : Core) (ctx : Nat) {f : Frame} (h : f.hold = none) : dropHolds c ctx [f] = c := by
  unfold dropHolds
  rw [if_pos (by simp [h])]

theorem onlyCe_setCore_self (s : State) (n : Nat) : OnlyCe s (s.setCore n (s.core n)) := by
  refine ⟨fun m => ?_, rfl⟩
  rw [State.core_setCore]
  split
  · subst_vars; rfl
  · rfl

/-- A return of a frame that holds no overlay. -/
theorem retLane_plain {s : State} {r : CordRef} {c : Cord} {k : Nat} {t : State} (hc : s.cord? r = some c)
    (h : misaligned ((c.lane k).frame.ret.getD 0) = false) (hh : (c.lane k).frame.hold = none) (ht : unslide s r k true = .ok t) :
    ∃ u, retLane r s k = .ok u ∧ OnlyCe t u := by
  obtain ⟨b, hb, -⟩ := State.block?_of_cord? hc
  exact ⟨_, (retLane_eq hc hb h ht).trans (by rw [dropHolds_none _ _ hh]), onlyCe_setCore_self _ _⟩

theorem eachLane_returns {h : Here} {ks : List Nat} (hn : ks.Nodup) {s : State} (hc : s.cord? h.ref = some h.cord)
    (hf : retFills h.cord ks = false) (ha : ∀ k ∈ ks, misaligned ((h.cord.lane k).frame.ret.getD 0) = false ∧ (h.cord.lane k).frame.hold = none) :
    ∃ t, eachLane h (retLane h.ref) s ks = .ok (t, ks, []) ∧
      t.cord? h.ref = some (h.cord.onLanes ks (fun _ l => l.popped)) ∧ Beside h.ref s t := by
  refine eachLane_ok (c₀ := h.cord) ks hn (fun s c k hk hc hs hl => ?_) s h.cord hc (.refl _) (fun _ _ => rfl)
  have hfree : FillFree c (c.lane k) := hl ▸ hs.fillFree (retFills_eq_false.1 hf k hk)
  obtain ⟨u, h1, h2⟩ := retLane_plain hc (by rw [hl]; exact (ha k hk).1) (by rw [hl]; exact (ha k hk).2) (unslide_free hc hfree)
  exact ⟨u, h1, (h2.cord? _).trans (State.cord?_setCord_same hc _), (beside_setCord _ _ _).trans (h2.slack.beside _)⟩

/-! ### `ret` of lanes that have a caller (R144) -/

section
variable {o : OG} {s : State} {h : Here} (hx : Executes (.ret o) s h)
  (hret : ∀ k ∈ h.active o.gd, (h.cord.lane k).frame.ret ≠ none) (ho : (retFills h.cord (h.active o.gd) && owing h.cord) = false)
include hx hret ho

/-- The return of every active lane is tried, and none leaves. -/
theorem exec_ret {t : State} {ok : List Nat} {bad : List (Nat × Byte × Word)}
    (he : eachLane h (retLane h.ref) (opened s h) (h.active o.gd) = .ok (t, ok, bad)) : exec (.ret o) s =
      finish h (.ret o) { s := t, park := bad, go := ok.map (fun k => (k, (h.cord.lane k).frame.ret.getD 0)) } := by
  have hout : (h.active o.gd).filter (fun k => (h.cord.lane k).frame.ret.isNone) = [] :=
    List.filter_eq_nil_iff.2 fun k hk => by simpa using hret k hk
  have hback : (h.active o.gd).filter (fun k => !(h.cord.lane k).frame.ret.isNone) = h.active o.gd :=
    List.filter_eq_self.2 fun k hk => by simpa [Option.isSome_iff_ne_none] using hret k hk
  refine (issue_eq hx _).trans ?_
  simp only [hout, hback, ho, taskWaits, List.isEmpty_nil, Bool.not_true, Bool.and_false, Bool.false_and, Bool.or_self, Bool.false_eq_true,
    if_false, he, if_true]
  rfl

end

end Sys2Proof.Machine

namespace Sys2Proof.Machine

/-! ### The holds that frames drop (R301) -/

theorem dropHolds_blocks (c : Core) (ctx : Nat) (fs : List Frame) : (dropHolds c ctx fs).blocks = c.blocks := by
  unfold dropHolds
  split <;> rfl

/-- The holds that a marked frame drops, where no record waits to be freed. -/
theorem dropHolds_res {c : Core} {ctx ov : Nat} {f : Frame} (hf : f.hold = some ov) (hev : ∀ r ∈ c.res, r.evict = false) :
    (dropHolds c ctx [f]).res = c.res.map (fun r =>
      if r.sharers.any (fun x => x.1 == ctx && x.2.2 == ov) then { r with holds := r.holds - 1 } else r) := by
  unfold dropHolds
  rw [if_neg (by simp [hf])]
  simp only [List.filter_singleton, hf]
  rw [List.filter_eq_self.2]
  · refine List.map_congr_left fun r _ => ?_
    cases r.sharers.any (fun x => x.1 == ctx && x.2.2 == ov) <;> rfl
  · intro r hr
    obtain ⟨x, hx, rfl⟩ := List.mem_map.1 hr
    have hdead : x.evict = false := hev x hx
    simp [hdead]

section
variable {o : OG} {s : State} {h : Here} (hx : Executes (.ret o) s h)
include hx

/-! ### Returns that fill nothing: every lane at once (R85, R144) -/

theorem ret_completes (hf : retFills h.cord (h.active o.gd) = false)
    (ha : ∀ k ∈ h.active o.gd, ∃ a : Word, (h.cord.lane k).frame.ret = some a ∧ a.toNat % 4 = 0 ∧ (h.cord.lane k).frame.hold = none) :
    Completes (.ret o) s h h.cord (fun k => if (h.cord.lane k).guard o.gd then { (h.cord.lane k).popped with
      pc := (h.cord.lane k).frame.ret.getD 0 } else h.next (.ret o) (h.cord.lane k)) [] := by
  have hact := h.active_sublist o.gd
  obtain ⟨t, h1, h2, h3⟩ := eachLane_returns (hx.nodup.sublist hact) hx.toIssues.opened_cord? hf fun k hk => by
    obtain ⟨a, h1, h2, h3⟩ := ha k hk
    exact ⟨by rw [h1]; simpa [misaligned] using h2, h3⟩
  refine (lanesGo_completes hx.toIssues rfl hact (F := fun _ l => l.popped) (fun _ _ => rfl) h2 h3
    (exec_ret hx (fun k hk => ?_) (by rw [hf, Bool.false_and]) h1)).congr (fun k hk => by simp only [mem_active, hk, true_and])
  obtain ⟨a, h1, -⟩ := ha k hk
  rw [h1]
  exact Option.some_ne_none a

theorem ret_misaligned (hf : retFills h.cord (h.active o.gd) = false) (hne : h.active o.gd ≠ [])
    (ha : ∀ k ∈ h.active o.gd, ∃ a : Word, (h.cord.lane k).frame.ret = some a ∧ a.toNat % 4 ≠ 0) :
    Faults (.ret o) s h (h.active o.gd) (fun k => h.next (.ret o) (h.cord.lane k)) cAlign
      ((h.cord.lane ((h.active o.gd).headD 0)).frame.ret.getD 0) := by
  have hmis (k : Nat) (hk : k ∈ h.active o.gd) : misaligned ((h.cord.lane k).frame.ret.getD 0) = true := by
    obtain ⟨a, h1, h2⟩ := ha k hk
    rw [h1]
    exact (misaligned_iff a).2 h2
  have hret (k : Nat) (hk : k ∈ h.active o.gd) : (h.cord.lane k).frame.ret ≠ none := by
    obtain ⟨a, h1, -⟩ := ha k hk
    rw [h1]
    exact Option.some_ne_none a
  obtain ⟨t, bad, h1, h2, h3, h4, h5⟩ := eachLane_parks (h := h) (tv := fun k => some ((h.cord.lane k).frame.ret.getD 0)) (c := h.cord)
    (h.active o.gd) (fun _ k hk hc => retLane_misaligned hc (hmis k hk)) (opened s h) hx.toIssues.opened_cord?
  have e := exec_ret hx hret (by rw [hf, Bool.false_and]) h1
  rw [List.map_nil] at e
  obtain ⟨tval, ⟨y, hy, hy1, hy2⟩, hft⟩ := parks_faults hx.toIssues h4 h5 h2 (h.active_sublist o.gd) hne (fun y hy => (h3 y hy).1) (by decide)
    e
  have htval : tval = (h.cord.lane ((h.active o.gd).headD 0)).frame.ret.getD 0 := by
    rw [← hy2, ← hy1]
    exact (h3 y hy).2 ((h.cord.lane y.1).frame.ret.getD 0) rfl
  rw [← htval]
  exact hft

/-! ### Returns of one lane (R144, R301) -/

/-- A return of one lane that changes that lane alone of the cord's. -/
theorem ret_one {k : Nat} {a : Word} (hk : h.active o.gd = [k]) (ha : (h.cord.lane k).frame.ret = some a)
    (ho : (retFills h.cord [k] && owing h.cord) = false) {t : State} {d : Cord} (hsl : retLane h.ref (opened s h) k = .ok t)
    (ht : t.cord? h.ref = some d) (hrun : (d.lane k).st = .run) (hoth : ∀ j, j ≠ k → d.lane j = h.cord.lane j) :
    ∃ u c, exec (.ret o) s = .next u ∧ u.cord? h.ref = some c ∧ Apart h.ref t u ∧ Counted h (.ret o) t.clock [] d c ∧
      c.lane k = { d.lane k with pc := a } := by
  refine oneGoes hx.toIssues rfl ((h.active_sublist o.gd).mem (hk ▸ List.mem_singleton_self k)) ht hrun hoth ?_
  have e := exec_ret hx (t := t) (ok := [k]) (bad := []) (fun j hj => ?_) (by rw [hk]; exact ho) (by rw [hk, eachLane, hsl]; rfl)
  · rw [e, List.map_singleton, ha]
    rfl
  · rw [hk, List.mem_singleton] at hj
    rw [hj, ha]
    exact Option.some_ne_none a

theorem ret_drops {k ov : Nat} {a : Word} (hk : h.active o.gd = [k]) (hf : retFills h.cord [k] = false)
    (ha : (h.cord.lane k).frame.ret = some a) (hal : a.toNat % 4 = 0) (hh : (h.cord.lane k).frame.hold = some ov)
    (hev : ∀ r ∈ (s.core h.ref.core).res, r.evict = false) :
    ∃ t c, exec (.ret o) s = .next t ∧ t.cord? h.ref = some c ∧ (c.lane k).pc = a ∧
      (c.lane k).frames = (h.cord.lane k).frames.tail ∧ (t.core h.ref.core).res = (s.core h.ref.core).res.map (fun r =>
        if r.sharers.any (fun x => x.1 == h.block.ctx && x.2.2 == ov) then { r with holds := r.holds - 1 } else r) := by
  have hc := hx.toIssues.opened_cord?
  have hun := unslide_free (k := k) hc (retFills_eq_false.1 hf k (List.mem_singleton_self k))
  have hmis : misaligned ((h.cord.lane k).frame.ret.getD 0) = false := by rw [ha]; simpa [misaligned] using hal
  have hsl := retLane_eq hc hx.toIssues.opened_block? hmis hun
  have hstill := still_setCore (dropHolds_blocks (((opened s h).setCord h.ref (h.cord.setLane k (h.cord.lane k).popped)).core h.ref.core)
    h.block.ctx [(h.cord.lane k).frame])
  obtain ⟨u, c, h1, h2, h3, -, h5⟩ := ret_one hx hk ha (by rw [hf, Bool.false_and]) hsl
    ((hstill.cord? _).trans (State.cord?_setCord_same hc _))
    (by rw [Cord.lane_setLane_same]; exact hx.run ((h.active_sublist o.gd).mem (hk ▸ List.mem_singleton_self k)))
    (fun j hj => Cord.lane_setLane_ne _ hj _)
  rw [Cord.lane_setLane_same] at h5
  have hres : (((opened s h).setCord h.ref (h.cord.setLane k (h.cord.lane k).popped)).core h.ref.core).res = (s.core h.ref.core).res := by
    rw [core_setCord_blocks, opened, core_setCord_blocks]
  refine ⟨u, c, h1, h2, by rw [h5], by rw [h5]; rfl, ?_⟩
  rw [h3.res, State.core_setCore_same]
  refine (dropHolds_res hh (by rw [hres]; exact hev)).trans ?_
  rw [hres]

end

end Sys2Proof.Machine

namespace Sys2Proof.Machine

/-! ### The words that a fill reads (R247) -/

/-- Word `j` of a local area from `va` on, as a fill reads it. -/
def pathWord (s : State) (n ctx va j : Nat) : Word := BitVec.ofNat 32 (leNat ((localRead s n ctx va (4 * j + 4)).drop (4 * j)))

theorem getD_wordsOfBytes (m j : Nat) (l : List Byte) (h : j < m) :
    (wordsOfBytes l m).getD j 0 = BitVec.ofNat 32 (leNat ((l.drop (4 * j)).take 4)) := by
  induction m generalizing j l with
  | zero => exact absurd h (Nat.not_lt_zero j)
  | succ m ih =>
    cases j with
    | zero => rfl
    | succ j =>
      rw [wordsOfBytes, List.getD_cons_succ, ih j _ (by omega), List.drop_drop, Nat.mul_succ, Nat.add_comm]

theorem take_drop_localRead (s : State) (n ctx va : Nat) {j z : Nat} (h : 4 * j + 4 ≤ z) :
    ((localRead s n ctx va z).drop (4 * j)).take 4 = (localRead s n ctx va (4 * j + 4)).drop (4 * j) := by
  rw [List.take_drop]
  unfold localRead
  rw [← List.map_take, List.take_range, Nat.min_eq_left (by omega)]

theorem getD_words_localRead (s : State) (n ctx va : Nat) {m j z : Nat} (hj : j < m) (hz : 4 * j + 4 ≤ z) :
    (wordsOfBytes (localRead s n ctx va z) m).getD j 0 = pathWord s n ctx va j := by
  rw [getD_wordsOfBytes m j _ hj, take_drop_localRead s n ctx va hz, pathWord]

theorem pathWord_opened (s : State) (h : Here) (n ctx va j : Nat) : pathWord (opened s h) n ctx va j = pathWord s n ctx va j := by
  rw [pathWord, localRead_opened, pathWord]

/-! ### Registers written from a list of words -/

/-- Registers of a frame of a ring stand apart. -/
theorem ring_injective {ring base i j : Nat} (hi : i < ring) (hj : j < ring) (h : 16 + (base + i) % ring = 16 + (base + j) % ring) : i = j := by
  have h1 := ring_distance (a := base + i) (b := base) hi rfl
  have h2 := ring_distance (a := base + j) (b := base) hj rfl
  rw [← Nat.mod_add_mod, Nat.add_left_cancel h, Nat.mod_add_mod, h2] at h1
  exact h1.symm

/-- Writes the registers `key 0`, `key 1` and so on of a lane. -/
def Lane.puts (l : Lane) (key : Nat → Nat) (val : Nat → Word) (n : Nat) : Lane := (List.range n).foldl (fun l j => l.put (key j) (val j)) l

theorem Lane.puts_succ (l : Lane) (key : Nat → Nat) (val : Nat → Word) (n : Nat) :
    l.puts key val (n + 1) = (l.puts key val n).put (key n) (val n) := by
  rw [Lane.puts, List.range_succ, List.foldl_append]
  rfl

theorem Lane.puts_rest (l : Lane) (key : Nat → Nat) (val : Nat → Word) (n : Nat) : l.puts key val n = { l with regs := (l.puts key val n).regs } := by
  induction n with
  | zero => rfl
  | succ n ih =>
    rw [Lane.puts_succ, Lane.put_rest]
    generalize ((l.puts key val n).put (key n) (val n)).regs = m
    rw [ih]

theorem Lane.at_puts (l : Lane) {key : Nat → Nat} (val : Nat → Word) {n : Nat} (hpos : ∀ j, key j ≠ 0)
    (hinj : ∀ i j, i < n → j < n → key i = key j → i = j) {j : Nat} (hj : j < n) : (l.puts key val n).at (key j) = val j := by
  induction n with
  | zero => exact absurd hj (Nat.not_lt_zero j)
  | succ n ih =>
    rw [Lane.puts_succ]
    by_cases h : j = n
    · rw [h, Lane.at_put_same _ (hpos n)]
    · rw [Lane.at_put_ne _ fun e => h (hinj n j (by omega) hj e).symm]
      exact ih (fun a b ha hb => hinj a b (by omega) (by omega)) (by omega)

/-- The same of uniform registers. -/
def Cord.sputs (c : Cord) (key : Nat → Nat) (val : Nat → Word) (n : Nat) : Cord := (List.range n).foldl (fun c j => c.sput (key j) (val j) false) c

theorem Cord.sputs_succ (c : Cord) (key : Nat → Nat) (val : Nat → Word) (n : Nat) :
    c.sputs key val (n + 1) = (c.sputs key val n).sput (key n) (val n) false := by
  rw [Cord.sputs, List.range_succ, List.foldl_append]
  rfl

theorem Cord.sput_rest (c : Cord) (a : Nat) (x : Word) (tok : Bool) :
    c.sput a x tok = { c with sregs := (c.sput a x tok).sregs, stok := (c.sput a x tok).stok } := by
  unfold Cord.sput
  split <;> rfl

theorem Cord.sputs_rest (c : Cord) (key : Nat → Nat) (val : Nat → Word) (n : Nat) :
    c.sputs key val n = { c with sregs := (c.sputs key val n).sregs, stok := (c.sputs key val n).stok } := by
  induction n with
  | zero => rfl
  | succ n ih =>
    rw [Cord.sputs_succ, Cord.sput_rest]
    generalize ((c.sputs key val n).sput (key n) (val n) false).sregs = m
    generalize ((c.sputs key val n).sput (key n) (val n) false).stok = m'
    rw [ih]

theorem Cord.sputs_lanes (c : Cord) (key : Nat → Nat) (val : Nat → Word) (n : Nat) : (c.sputs key val n).lanes = c.lanes := by
  rw [Cord.sputs_rest]

theorem Cord.sputs_uspill (c : Cord) (key : Nat → Nat) (val : Nat → Word) (n : Nat) : (c.sputs key val n).uspill = c.uspill := by
  rw [Cord.sputs_rest]

theorem Cord.sputs_ubud (c : Cord) (key : Nat → Nat) (val : Nat → Word) (n : Nat) : (c.sputs key val n).ubud = c.ubud := by
  rw [Cord.sputs_rest]

theorem Cord.sat_sputs (c : Cord) {key : Nat → Nat} (val : Nat → Word) {n : Nat} (hpos : ∀ j, key j ≠ 0)
    (hinj : ∀ i j, i < n → j < n → key i = key j → i = j) {j : Nat} (hj : j < n) : (c.sputs key val n).sat (key j) = val j := by
  induction n with
  | zero => exact absurd hj (Nat.not_lt_zero j)
  | succ n ih =>
    rw [Cord.sputs_succ]
    by_cases h : j = n
    · rw [h, Cord.sat_sput_same _ (hpos n)]
    · rw [Cord.sat_sput_ne _ fun e => h (hinj n j (by omega) hj e).symm]
      exact ih (fun a b ha hb => hinj a b (by omega) (by omega)) (by omega)

/-! ### Frames of a chain -/

theorem Lane.frameAt_append {l : Lane} {pre rest : List Frame} {f : Frame} (h : l.frames = pre ++ f :: rest) :
    l.frameAt rest.length = some f := by
  rw [Lane.frameAt, h, List.reverse_append, List.reverse_cons, List.append_assoc, ← List.length_reverse (as := rest),
    List.getElem?_append_right (Nat.le_refl _), Nat.sub_self]
  rfl

theorem Lane.setFrame_append {l : Lane} {pre rest : List Frame} {f : Frame} (h : l.frames = pre ++ f :: rest) (g : Frame) :
    l.setFrame rest.length g = { l with frames := pre ++ g :: rest } := by
  have hs : (l.frames.reverse.set rest.length g).reverse = pre ++ g :: rest := by
    rw [h, List.reverse_append, List.reverse_cons, List.append_assoc, ← List.length_reverse (as := rest), List.set_append_right _ _ (Nat.le_refl _),
      Nat.sub_self]
    simp
  rw [Lane.setFrame, hs]

end Sys2Proof.Machine

namespace Sys2Proof.Machine

/-! ### Fills of one frame (R144, R247) -/

theorem mendFrame_still (s : State) (n : Nat) (a : ErrArray) (x ring base z : Nat) : Still s (mendFrame s n a x ring base z) := by
  unfold mendFrame
  split
  · exact .refl s
  · refine still_setCore ?_
    generalize (List.filter _ _ : List Nat) = l
    have key (c : Core) : (l.foldl (fun c k => mend c a (x + 4 * k) 8) c).blocks = c.blocks := by
      induction l generalizing c with
      | nil => rfl
      | cons k r ih => exact (ih _).trans rfl
    exact key _

theorem Looked.still {s t : State} (h : Looked s t) : Still s t := ⟨fun n => by rw [h.core n], h.clock⟩

theorem readLines_still (s : State) (r : CordRef) (ctx va n : Nat) : Still s (readLines s r ctx va n) :=
  ((touchRange_still _ _ _ _ _ _).trans (bringLines_still _ _ _ _ _)).trans (notePath_looked _ _ _ _ _).still

/-- The frames below a filled frame: the newest takes its sizes from the link slot, and its windows lie that much lower. -/
def filledBelow (c : Cord) (f : Frame) (sizes : Nat) : List Frame → List Frame
  | [] => []
  | x :: r => { x with
      vf := sizes % 64, sf := sizes / 256 % 64, vb := slideBack (ringSize c.vbud) f.vb (sizes % 64)
      sb := slideBack (ringSize c.ubud) f.sb (sizes / 256 % 64) } :: r

theorem filledBelow_cons (c : Cord) (f x : Frame) (w : Nat) (below : List Frame) : filledBelow c f w (x :: below) =
    { x with vf := field w 0 6, sf := field w 8 6, vb := slideBack (ringSize c.vbud) f.vb (field w 0 6)
             sb := slideBack (ringSize c.ubud) f.sb (field w 8 6) } :: below := by
  rw [show field w 0 6 = w % 64 by simp [field], show field w 8 6 = w / 256 % 64 from rfl]
  rfl

/-- Uniform registers written through the cord's own budget, which the writes keep. -/
theorem Cord.foldl_sput_ring (c : Cord) (key : Nat → Nat → Nat) (val : Nat → Word) (n : Nat) :
    (List.range n).foldl (fun d j => d.sput (key d.ubud j) (val j) false) c = c.sputs (key c.ubud) val n := by
  induction n with
  | zero => rfl
  | succ n ih =>
    rw [List.range_succ, List.foldl_append, ih, Cord.sputs_succ]
    change (c.sputs (key c.ubud) val n).sput (key (c.sputs (key c.ubud) val n).ubud n) (val n) false = _
    rw [Cord.sputs_ubud]

section
variable {s : State} {r : CordRef} {k : Nat} {g f : Frame} {rest : List Frame} {b : Block} {c : Cord} {off : Nat}
  (hb : s.block? r.core r.slot = some b) (hc : s.cord? r = some c) (hbad : (s.core r.core).bad = [])
  (hfr : (c.lane k).frames = g :: f :: rest)
include hb hc hbad hfr

theorem fillV_fills (hs : f.spill = some off) (hvf : f.vf ≤ ringSize c.vbud)
    (hr : rangeFault s r.core false b.ctx ((c.lane k).locbase + off) (spillBytes f.vf) false true = none) :
    ∃ t l, fillV s r k rest.length = .ok t ∧ t.cord? r = some (c.setLane k l) ∧ l.st = (c.lane k).st ∧
      l.frames = g :: { f with spill := none, ret := f.ret.map (fun _ => pathWord s r.core b.ctx ((c.lane k).locbase + off) f.vf) } ::
        filledBelow c f (pathWord s r.core b.ctx ((c.lane k).locbase + off) (f.vf + 1)).toNat rest ∧
      ∀ j, j < f.vf → l.at (16 + (f.vb + j) % ringSize c.vbud) = pathWord s r.core b.ctx ((c.lane k).locbase + off) j := by
  have hw (j : Nat) (hj : j < f.vf + 2) := getD_words_localRead s r.core b.ctx ((c.lane k).locbase + off) (z := spillBytes f.vf) hj
    (by unfold spillBytes; omega)
  unfold fillV
  simp only [hb, hc, Lane.frameAt_append (pre := [g]) hfr, hs, spillFault_none hr hbad, hw f.vf (by omega), hw (f.vf + 1) (by omega)]
  generalize hl : List.foldl _ (c.lane k) (List.range f.vf) = l
  have hputs : l = (c.lane k).puts (fun j => 16 + (f.vb + j) % ringSize c.vbud)
    (fun j => (wordsOfBytes (localRead s r.core b.ctx ((c.lane k).locbase + off) (spillBytes f.vf)) (f.vf + 2)).getD j 0) f.vf := hl.symm
  have hst : l.st = (c.lane k).st := by rw [hputs, Lane.puts_rest]
  have hlfr : l.frames = [g] ++ f :: rest := by rw [hputs, Lane.puts_rest]; exact hfr
  have hat (j : Nat) (hj : j < f.vf) : l.at (16 + (f.vb + j) % ringSize c.vbud) = pathWord s r.core b.ctx ((c.lane k).locbase + off) j := by
    rw [hputs, Lane.at_puts (c.lane k) _ (fun j => by omega) (fun i j hi hj => ring_injective (by omega) (by omega)) hj]
    exact hw j (by omega)
  have hcord := (((mendFrame_still s r.core .laneRegs ((c.slotNo * 32 + k) * 1024) (ringSize c.vbud) f.vb f.vf).trans
    (readLines_still _ r b.ctx ((c.lane k).locbase + off) (spillBytes f.vf))).cord? r).trans hc
  refine ⟨_, _, rfl, State.cord?_setCord_same hcord _, ?_⟩
  have hret (x : Word) : (if f.ret.isSome then some x else none) = f.ret.map (fun _ => x) := by cases f.ret <;> rfl
  rw [Lane.setFrame_append hlfr, hret]
  generalize hf' : ({ f with spill := none, ret := f.ret.map (fun _ => pathWord s r.core b.ctx ((c.lane k).locbase + off) f.vf) } : Frame) = f'
  cases rest with
  | nil => exact ⟨hst, rfl, hat⟩
  | cons x below =>
    generalize hm : ({ l with frames := [g] ++ f' :: x :: below } : Lane) = m
    have hmfr : m.frames = [g, f'] ++ x :: below := by rw [← hm]; rfl
    simp only [List.length_cons, Nat.add_eq_zero_iff, Nat.one_ne_zero, and_false, if_false, Nat.add_sub_cancel, Lane.frameAt_append hmfr,
      Lane.setFrame_append hmfr]
    rw [← hm, filledBelow_cons]
    exact ⟨hst, rfl, hat⟩

theorem fillU_fills (hu : uSpilled c rest.length f = some off) (hsf : f.sf ≤ ringSize c.ubud)
    (hr : rangeFault s r.core false b.ctx ((c.lane (lowLane c)).locbase + off) (spillBytes f.sf) false true = none) :
    ∃ t d, fillU s r k rest.length = .ok t ∧ t.cord? r = some d ∧ (∀ j, d.lane j = c.lane j) ∧
      d.uspill = c.uspill.filter (fun e => !(e.1 == rest.length && e.2.1 == f.sb)) ∧
      ∀ j, j < f.sf → d.sat (16 + (f.sb + j) % ringSize c.ubud) = pathWord s r.core b.ctx ((c.lane (lowLane c)).locbase + off) j := by
  unfold fillU
  simp only [hb, hc, Lane.frameAt_append (pre := [g]) hfr, hu, spillFault_none hr hbad]
  generalize hd : List.foldl _ c (List.range f.sf) = d
  have hputs : d = c.sputs (fun j => 16 + (f.sb + j) % ringSize c.ubud)
    (fun j => (wordsOfBytes (localRead s r.core b.ctx ((c.lane (lowLane c)).locbase + off) (spillBytes f.sf)) f.sf).getD j 0) f.sf :=
    hd.symm.trans (Cord.foldl_sput_ring c (fun b j => 16 + (f.sb + j) % ringSize b) _ _)
  have hcord := (((mendFrame_still s r.core .uniformRegs (d.slotNo * 256) (ringSize d.ubud) f.sb f.sf).trans
    (readLines_still _ r b.ctx ((c.lane (lowLane c)).locbase + off) (spillBytes f.sf))).cord? r).trans hc
  have hlanes : d.lanes = c.lanes := by rw [hputs, Cord.sputs_lanes]
  have huspill : d.uspill = c.uspill := by rw [hputs, Cord.sputs_uspill]
  refine ⟨_, { d with uspill := d.uspill.filter (fun e => !(e.1 == rest.length && e.2.1 == f.sb)) }, rfl, State.cord?_setCord_same hcord _,
    fun j => congrArg (fun t : Tab Lane => t.get j Lane.absent) hlanes, ?_, fun j hj => ?_⟩
  · exact congrArg (List.filter _) huspill
  · refine Eq.trans (b := d.sat _) rfl ?_
    rw [hputs, Cord.sat_sputs c _ (fun j => by omega) (fun i j hi hj => ring_injective (by omega) (by omega)) hj]
    exact getD_words_localRead s r.core b.ctx _ hj (by unfold spillBytes; omega)

end

end Sys2Proof.Machine

namespace Sys2Proof.Machine

/-! ### Returns of one lane that fill a frame (R144, R247) -/

theorem length_filledBelow (c : Cord) (f : Frame) (w : Nat) (rest : List Frame) : (filledBelow c f w rest).length = rest.length := by
  cases rest <;> rfl

theorem unslide_eq {s t u : State} {r : CordRef} {k : Nat} {c d : Cord} (hc : s.cord? r = some c)
    (hv : fillV s r k ((c.lane k).depth - 1) = .ok t) (hu : fillU t r k ((c.lane k).depth - 1) = .ok u) (hd : u.cord? r = some d) :
    unslide s r k true = .ok (u.setCord r (d.setLane k (d.lane k).popped)) := by
  unfold unslide
  simp only [hc, if_true, hv, hu, hd]
  rfl

section
variable {o : OG} {s : State} {h : Here} (hx : Executes (.ret o) s h) {k : Nat} {g f : Frame} {rest : List Frame} {a : Word}
  (hk : h.active o.gd = [k]) (ho : owing h.cord = false) (hfr : (h.cord.lane k).frames = g :: f :: rest) (ha : g.ret = some a)
  (hal : a.toNat % 4 = 0) (hh : g.hold = none)
include hx hk ho hfr ha hal hh

/-- The end of a return of one lane, once its fills have been made. -/
theorem ret_filled {u : State} {d : Cord} {t : State} (hv : fillV (opened s h) h.ref k rest.length = .ok t)
    (hu : fillU t h.ref k rest.length = .ok u) (hd : u.cord? h.ref = some d) (hst : (d.lane k).st = (h.cord.lane k).st)
    (hoth : ∀ j, j ≠ k → d.lane j = h.cord.lane j) :
    ∃ v c, exec (.ret o) s = .next v ∧ v.cord? h.ref = some c ∧ c.lane k = { (d.lane k).popped with pc := a } ∧ c.uspill = d.uspill ∧
      c.sregs = d.sregs := by
  have hdepth : (h.cord.lane k).depth - 1 = rest.length := by rw [Lane.depth, hfr]; rfl
  have htop : (h.cord.lane k).frame = g := by rw [Lane.frame, hfr]; rfl
  have hun := unslide_eq (k := k) hx.toIssues.opened_cord? (hdepth.symm ▸ hv) (hdepth.symm ▸ hu) hd
  obtain ⟨w, h1, h2⟩ := retLane_plain hx.toIssues.opened_cord? (by rw [htop, ha]; simpa [misaligned] using hal) (by rw [htop]; exact hh) hun
  obtain ⟨v, c, h3, h4, -, h5, h6⟩ := ret_one hx hk (by rw [htop]; exact ha) (by rw [ho, Bool.and_false]) h1
    ((h2.cord? _).trans (State.cord?_setCord_same hd _))
    (by
      rw [Cord.lane_setLane_same]
      exact hst.trans (hx.run ((h.active_sublist o.gd).mem (hk ▸ List.mem_singleton_self k))))
    (fun j hj => (Cord.lane_setLane_ne _ hj _).trans (hoth j hj))
  rw [Cord.lane_setLane_same] at h6
  exact ⟨v, c, h3, h4, h6, by rw [h5]; rfl, by rw [h5]; rfl⟩

theorem ret_fillsV {off : Nat} (hs : f.spill = some off) (hu : uSpilled h.cord rest.length f = none) (hvf : f.vf ≤ ringSize h.cord.vbud)
    (hr : rangeFault s h.ref.core false h.block.ctx ((h.cord.lane k).locbase + off) (spillBytes f.vf) false true = none) :
    ∃ t c, exec (.ret o) s = .next t ∧ t.cord? h.ref = some c ∧ (c.lane k).pc = a ∧
      (∀ j, j < f.vf → (c.lane k).at (16 + (f.vb + j) % ringSize h.cord.vbud) =
        pathWord s h.ref.core h.block.ctx ((h.cord.lane k).locbase + off) j) ∧
      (c.lane k).frames =
        { f with spill := none, ret := f.ret.map (fun _ => pathWord s h.ref.core h.block.ctx ((h.cord.lane k).locbase + off) f.vf) } ::
          filledBelow h.cord f (pathWord s h.ref.core h.block.ctx ((h.cord.lane k).locbase + off) (f.vf + 1)).toNat rest := by
  obtain ⟨t, l, h1, h2, h3, h4, h5⟩ := fillV_fills hx.toIssues.opened_block? hx.toIssues.opened_cord? hx.opened_bad hfr hs hvf
    ((rangeFault_opened _ _ _ _ _ _ _ _ _).trans hr)
  simp only [pathWord_opened] at h4 h5
  have hat := Lane.frameAt_append (pre := [g]) h4
  rw [length_filledBelow, ← Cord.lane_setLane_same h.cord k l] at hat
  have hno : fillU t h.ref k rest.length = .ok t := fillU_none h2 fun f' hf' => by
    rw [Option.some.inj (hf'.symm.trans hat)]
    exact hu
  obtain ⟨v, c, h6, h7, h8, -⟩ := ret_filled hx hk ho hfr ha hal hh h1 hno h2 (by rw [Cord.lane_setLane_same]; exact h3)
    (fun j hj => Cord.lane_setLane_ne _ hj _)
  rw [Cord.lane_setLane_same] at h8
  refine ⟨v, c, h6, h7, by rw [h8], fun j hj => ?_, ?_⟩
  · rw [h8]
    exact h5 j hj
  · rw [h8]
    exact congrArg List.tail h4

theorem ret_fillsU {off : Nat} (hs : f.spill = none) (hu : uSpilled h.cord rest.length f = some off) (hsf : f.sf ≤ ringSize h.cord.ubud)
    (hr : rangeFault s h.ref.core false h.block.ctx ((h.cord.lane (lowLane h.cord)).locbase + off) (spillBytes f.sf) false true = none) :
    ∃ t c, exec (.ret o) s = .next t ∧ t.cord? h.ref = some c ∧ (c.lane k).pc = a ∧ (c.lane k).frames = f :: rest ∧
      (∀ j, j < f.sf → c.sat (16 + (f.sb + j) % ringSize h.cord.ubud) =
        pathWord s h.ref.core h.block.ctx ((h.cord.lane (lowLane h.cord)).locbase + off) j) ∧
      c.uspill = h.cord.uspill.filter (fun e => !(e.1 == rest.length && e.2.1 == f.sb)) := by
  have hno : fillV (opened s h) h.ref k rest.length = .ok (opened s h) := fillV_none hx.toIssues.opened_cord? fun f' hf' => by
    rw [Option.some.inj (hf'.symm.trans (Lane.frameAt_append (pre := [g]) hfr))]
    exact hs
  obtain ⟨t, d, h1, h2, h3, h4, h5⟩ := fillU_fills hx.toIssues.opened_block? hx.toIssues.opened_cord? hx.opened_bad hfr hu hsf
    ((rangeFault_opened _ _ _ _ _ _ _ _ _).trans hr)
  simp only [pathWord_opened] at h5
  obtain ⟨v, c, h6, h7, h8, h9, h10⟩ := ret_filled hx hk ho hfr ha hal hh hno h1 h2 (by rw [h3]) (fun j _ => h3 j)
  rw [h3] at h8
  refine ⟨v, c, h6, h7, by rw [h8], ?_, fun j hj => ?_, h9.trans h4⟩
  · rw [h8]
    exact congrArg List.tail hfr
  · rw [← h5 j hj, Cord.sat, Cord.sat, h10]

end

end Sys2Proof.Machine

namespace Sys2Proof.Machine

/-- Settles O19: a return changes the lane that makes it, and a fill puts back what the local area holds; what the callee's window reaches
stands apart from the frame below where the call needed no spill. -/
theorem returns : Obligations.Returns := by
  unfold Obligations.Returns
  refine ⟨fun o s h hx hf ha => ret_completes hx hf ha, ?_, ?_, fun o s h hx hf hne ha => ret_misaligned hx hf hne ha, ?_⟩
  · intro o s h k g f rest a hx hk hin hga hfr ha hal hh l n word
    have ho : owing h.cord = false := owing_eq_false (by simp [hin, hga])
    refine ⟨fun off hs hu hvf hr => ?_, fun off hs hu hsf hr => ret_fillsU hx hk ho hfr ha hal hh hs hu hsf hr⟩
    obtain ⟨t, c, h1, h2, h3, h4, h5⟩ := ret_fillsV hx hk ho hfr ha hal hh hs hu hvf hr
    refine ⟨t, c, h1, h2, h3, h4, h5.trans ?_⟩
    cases rest <;> rfl
  · exact fun o s h k a ov hx hk hf ha hal hh hev => ret_drops hx hk hf ha hal hh hev
  · intro h ret hold l
    exact ⟨fun r hr => callee_low h ret hold l hr, fun i hi => callee_v h ret hold l hi, fun i hi => callee_s h ret hold l hi,
      fun hl hs hv r x q hr hin hq hq' => callee_keeps_v h ret hold l hl hs hv x hr hin hq hq',
      fun hl hs hu r x q hr hin hq hq' => callee_keeps_s h ret hold l hl hs hu x hr hin hq hq'⟩

end Sys2Proof.Machine
